-- ==== Sys2Proof/Word.lean ====
section
/-! DEFINITION. Word.lean: the word types of the Brixdun and nothing else: a token value and a register are 64 bits
(spec/03 R73, spec/02 R38), an instruction word and a block header are 32 bits (R62). -/

namespace Sys2Proof

/-- A register, a token value, a memory word: 64 bits. -/
abbrev Word := BitVec 64

/-- An instruction word or a block header: 32 bits (R62, R63). -/
abbrev IWord := BitVec 32

/-- One byte of memory. -/
abbrev Byte := BitVec 8

end Sys2Proof
end

