-- ==== Sys2Proof/Data.lean ====
section
/-! DEFINITION. Data.lean: the plain data that instructions, cells and machine events carry: predicates, targets, formats,
cells (spec/03 R75-R81), who an operation belongs to, and the inputs that come from outside the device. -/

namespace Sys2Proof

/-- PR, bits [23:22] of an instruction word (R66). -/
inductive Pr where
  | always   -- 00: unpredicated
  | onTrue   -- 01: `if.t`
  | onFalse  -- 10: `if.f`
  deriving DecidableEq, Repr, Inhabited

/-- A target field: POS and SLOT (R67). -/
inductive Tgt where
  | none
  | left (slot : BitVec 7)
  | right (slot : BitVec 7)
  | pred (slot : BitVec 7)
  deriving DecidableEq, Repr, Inhabited

/-- PREC of a scalar floating-point form (R92). -/
inductive Prec where
  | s  -- FP32
  | d  -- FP64
  deriving DecidableEq, Repr, Inhabited

/-- A rounding mode (R230). A scalar form takes the first four only (R92). -/
inductive Rnd where
  | rne | rtz | rup | rdn | sr
  deriving DecidableEq, Repr, Inhabited

/-- The width that SEXT and ZEXT extend from (R93). -/
inductive Width where
  | b | h | w
  deriving DecidableEq, Repr, Inhabited

/-- XOP of ATOM (R94). -/
inductive AtomOp where
  | cfaa | cxch | ccas
  deriving DecidableEq, Repr, Inhabited

/-- XOP of RED (R94). -/
inductive RedOp where
  | cadd | cfadd | cmax | cmin | cand | cor | cxor | resc
  deriving DecidableEq, Repr, Inhabited

/-- A kennel kind, in the order of R95. -/
inductive KKind where
  | fftx | sort | infl | spga | trsv | embg | topk | sten
  deriving DecidableEq, Repr, Inhabited

/-- A level of work that CANCEL names (R30). -/
inductive Level where
  | strand | launch | graph | phase | job
  deriving DecidableEq, Repr, Inhabited

/-- CMP of WAITA (R165). -/
inductive Cmp where
  | ge | eq | ne | gt
  deriving DecidableEq, Repr, Inhabited

/-- A token: 64 bits of value, or a null (R73). -/
inductive Token where
  | val (v : Word)
  | null
  deriving DecidableEq, Repr, Inhabited

/-- A cell (R75, R76): its header fields, 128 bytes of payload and 16 bytes of sidecar. -/
structure Cell where
  dcl   : BitVec 6    := 0
  dport : BitVec 5    := 0
  mc    : Bool        := false
  cls   : Bool        := false
  cop   : BitVec 10   := 0
  ctx   : BitVec 6    := 0
  itag  : BitVec 24   := 0
  run   : BitVec 5    := 0
  pos   : BitVec 2    := 0
  col   : BitVec 8    := 0
  cnt   : BitVec 8    := 0
  last  : Bool        := false
  gate  : Bool        := false
  tid   : BitVec 12   := 0
  aux   : BitVec 16   := 0
  side  : BitVec 6    := 0
  chk   : BitVec 16   := 0
  pay   : BitVec 1024 := 0
  car   : BitVec 128  := 0
  deriving DecidableEq, Repr, Inhabited

/-- The units of work an operation counts in (R29, R30, R52), and the core that released it. -/
structure Owner where
  sid    : Nat := 0   -- strand identifier, 11 bits
  launch : Nat := 0
  graph  : Nat := 0
  phase  : Nat := 0
  job    : Nat := 0
  core   : Nat := 0   -- package-wide core number: cluster * 8 + core
  handler : Bool := false   -- a switch handler's strand, in a context that a strand has left (R212)
  deriving DecidableEq, Repr, Inhabited

/-- Where the status of a failing operation is posted and which class it holds (R160, R146). -/
inductive Report where
  | strandCell (tileOp : Bool)      -- SRCK 2; a cell that a strand enqueued
  | strandCopy (tileOp : Bool) (id : Nat)   -- a copy of a multicast cell that a strand enqueued (R245)
  | stream (tk : Nat)               -- SRCK 1; a stream of token tk
  | streamNode (agn : Nat)          -- SRCK 1; a stream node (R153)
  | strandOp (storeClass : Bool)    -- ATOM and RED; false: an arrival of ARV or ARVX
  | again (strandOp : Bool)         -- SRCK 2; a cell of a re-issued activation, which holds no class of the strand (R437)
  | engine                          -- an engine's result: the report strand of the context tag
  | coll (key idx add : Nat)        -- a cell by which a switch box writes a collective's data: graph key, collective, and
                                    -- what it adds to the done word's count (R382, R384)
  | drain (me : Nat) (ctx : Nat)    -- a drain cell of a matrix context; context + 4: an image cell (R256, R259)
  | device                          -- built by the device: posted to no strand
  deriving DecidableEq, Repr, Inhabited

/-- What completes when an engine's result has entered its ingress queue (R183): the timeline and number of the operation,
its completion timestamp, the CMPL token that follows it, and the operand cells whose own operations end with it. -/
structure Prod where
  key  : Nat := 0
  num  : Nat := 0
  cts  : Nat := 0
  cmpl : Option Cell := none
  ends : List (Owner × Report × BitVec 24) := []
  deriving DecidableEq, Repr, Inhabited

/-- A cell in a market, on the mesh or in a stall, with its sideband (R315, R335): stamp, source node, agent. -/
structure MCell where
  cell   : Cell   := {}
  stamp  : Nat    := 0
  snode  : Nat    := 0        -- 0: no other node
  agent  : Nat    := 0        -- the 16-bit agent identifier of R294
  who    : Owner  := {}
  report : Report := .device
  rk     : Nat    := 0        -- RK: 1 a remote combining request, 2 its reply (R427, R430)
  rseq   : Nat    := 0        -- its RSEQ
  age    : Nat    := 0        -- order of arrival
  shared : Bool   := false    -- holds a shared buffer of its market (R195)
  origin : Nat    := 0        -- the ingress port that it entered this market by (R133)
  cmp    : Nat    := 0        -- exit cell of a twin (R439): 1 + 2 × the comparator's cluster + copy; 0 none
  passed : Bool   := false    -- it has passed a comparator (R440)
  stall  : Nat    := 0        -- the stall it holds (R204): 0 none, 1 an unreserved one, 2 + t one reserved for tag t
  prod   : Option Prod := none
  deriving DecidableEq, Repr, Inhabited

/-- A claimant of a launch's range (R22, R151). -/
inductive Claimant where
  | slot (frame slot : Nat)
  | agn (key : Nat)
  deriving DecidableEq, Repr, Inhabited

/-- Where a cell that asks for admission stands (R195). -/
inductive CellSource where
  | core (core : Nat)          -- the head of a core's issue buffer (R149)
  | agn (key : Nat)            -- a cell read by a read-role AGN
  | engine (cl port : Nat)     -- a result waiting at an ingress port
  | mesh (cl : Nat)            -- a cell waiting for ingress 30
  deriving DecidableEq, Repr, Inhabited

/-- One strand set of a graph (R13, R419 kind 6, R381 rank). -/
structure SetDecl where
  entry : Word := 0
  count : Nat := 0
  priv  : Bool := false
  handler : Bool := false
  resume : Word := 0
  rank : Option Nat := none     -- started on this rank only (R381)
  clusters : List Nat := []     -- where its strands may stand (R424); empty: anywhere in the region
  deriving DecidableEq, Repr, Inhabited

/-- One pipe of a pack (R12). -/
structure PipeDecl where
  cluster : Nat := 0
  tile    : Nat := 0
  put     : Nat := 0
  get     : Nat := 0
  words   : Nat := 0
  deriving DecidableEq, Repr, Inhabited

/-- One stream node (R153). -/
structure StreamDecl where
  cluster : Nat := 0
  agn   : Nat := 0
  cdesc : Word := 0
  ctag  : Word := 0
  last  : Bool := false
  deriving DecidableEq, Repr, Inhabited

/-- One tap (R336). -/
structure TapDecl where
  cluster : Nat := 0
  agn   : Nat := 0
  bar   : Nat := 0      -- barrier slot of the graph
  every : Nat := 1
  count : Bool := false
  deriving DecidableEq, Repr, Inhabited

/-- One barrier slot of a graph: the cluster that holds the object and its attributes (R328). -/
structure BarDecl where
  cluster : Nat := 0
  members : List Nat := []   -- strand sets
  remote  : Nat := 0
  drop    : Bool := false
  count   : Nat := 0         -- member entries of a configuration list, whose members it does not name (R419)
  report  : Option Nat := none   -- the list's REPORT; otherwise the graph's report strand
  deriving DecidableEq, Repr, Inhabited

/-- The image of a graph that the loader binds (R46, R50, R87): what the directives of a source file declare and the
mapper places. The choices of mapper and assembler come with it. -/
structure GraphImage where
  clusters : List Nat := []
  pack     : Bool := false
  live     : Nat := 256
  range    : Nat := 0            -- 0: no range server (R8)
  minchk   : Nat := 1
  dyn      : Bool := false
  twin     : Option Nat := none  -- timeout in microseconds (R439)
  copyClusters : List Nat := []  -- the twin's second region, cluster by cluster
  sets     : List SetDecl := []
  agns     : List (Nat × Nat × List Word) := []     -- cluster, number, the six record words (R131)
  froms    : List (Nat × Nat × Nat) := []           -- cluster, agn, predecessor agn (R321)
  tensors  : List (Nat × BitVec 256) := []          -- tid, entry (R140)
  data     : List (Nat × Nat × List Byte) := []     -- cluster, agn, bytes from its BASE (R10)
  structData : List (Nat × Nat × List Word) := []   -- cluster, agn, words of structure memory (R10)
  routes   : List (Nat × Nat × Nat × Word) := []    -- cluster, engine, number, entry (R170)
  seeds    : List (Nat × Nat × Nat) := []           -- cluster, engine, SRSEED
  matrices : List (Nat × Nat × Nat × Word × Word) := []  -- cluster, engine, context, two words (R240)
  demands  : List (Nat × Nat × Nat) := []           -- cluster, engine, stalls per tag (R204)
  tiles    : List (Nat × Nat × Nat) := []           -- cluster, tile, role (R136)
  pipes    : List PipeDecl := []
  streams  : List StreamDecl := []
  taps     : List TapDecl := []
  bars     : List BarDecl := []
  leases   : List (Nat × Nat) := []                 -- kind, priority
  colls    : List Word := []                        -- collective records (R420)
  collAt   : List Nat := []                         -- each collective's cluster, that of its AGNs (R419)
  nodes    : List Nat := []                         -- Tsuax nodes of the ranks (R381)
  majority : Bool := false                          -- a region of class M3 or M5 is declared (R325)
  wbases   : List (Nat × Nat) := []                 -- cluster, core for the core-buffer AGNs of engines
  deriving DecidableEq, Repr, Inhabited

/-- What a hint about an accelerator's physical state says: the failing element a self-check finds (R257, R258). -/
abbrev BadElement := Option (Nat × Nat)

/-- One register value of a parallel register write: scope fields of R456 and the value. -/
structure RegWrite where
  sysnum : Nat := 0
  sel    : Word := 0
  val    : Word := 0
  job    : Nat := 0
  deriving DecidableEq, Repr, Inhabited

/-- A firmware or loader image as offered (R462): what its header states and its body. -/
structure FwImage where
  version : BitVec 32 := 0
  digest  : BitVec 256 := 0
  key     : BitVec 384 := 0
  sig     : List Byte := []
  body    : List Byte := []
  deriving DecidableEq, Repr, Inhabited

/-- A request that arrives on an Ethernet port over RoCEv2 (R407), as its transport header states it. -/
structure RoceReq where
  port : Nat := 0
  qpn  : Nat := 0
  psn  : Nat := 0
  va   : Word := 0
  rkey : BitVec 32 := 0
  len  : Nat := 0
  imm  : BitVec 32 := 0
  data : List Byte := []
  deriving DecidableEq, Repr, Inhabited

end Sys2Proof
end

