-- ==== Sys2Proof/Syntax.lean ====
section
/-! DEFINITION. Syntax.lean: one constructor per row of spec/opcode_table.json. Three groups: the 127 instruction words of
R90; the cell operations of R98 and R99, each with the cluster and port whose engine takes the cell; and the machine's own
events (spec/95), each with the unit that acts and what comes to it from outside. -/

namespace Sys2Proof

/-- An instruction of the opcode table. -/
inductive Instr where
  -- exits and plumbing (R103-R115)
  | bro (p : Pr) (ex : BitVec 3) (off : BitVec 19)
  | bri (p : Pr) (ex : BitVec 3)
  | callo (p : Pr) (ex : BitVec 3) (off : BitVec 19)
  | calli (p : Pr) (ex : BitVec 3)
  | ret (p : Pr) (ex : BitVec 3)
  | scall (p : Pr) (ex : BitVec 3)
  | exit (p : Pr) (ex : BitVec 3)
  | null (p : Pr) (ta tb : Tgt)
  | mov (p : Pr) (ta tb : Tgt)
  | sel (p : Pr) (ta tb : Tgt)
  | getr (p : Pr) (g : BitVec 13) (ta : Tgt)
  | putr (p : Pr) (g : BitVec 13)
  | const (p : Pr) (imm : BitVec 13) (ta : Tgt)
  | consth (p : Pr) (imm : BitVec 13) (ta : Tgt)
  -- integer and address (R116-R118)
  | add (p : Pr) (ta tb : Tgt)
  | sub (p : Pr) (ta tb : Tgt)
  | mul (p : Pr) (ta tb : Tgt)
  | mulh (p : Pr) (ta tb : Tgt)
  | mulhu (p : Pr) (ta tb : Tgt)
  | div (p : Pr) (ta tb : Tgt)
  | divu (p : Pr) (ta tb : Tgt)
  | rem (p : Pr) (ta tb : Tgt)
  | remu (p : Pr) (ta tb : Tgt)
  | and (p : Pr) (ta tb : Tgt)
  | or (p : Pr) (ta tb : Tgt)
  | xor (p : Pr) (ta tb : Tgt)
  | andn (p : Pr) (ta tb : Tgt)
  | shl (p : Pr) (ta tb : Tgt)
  | shr (p : Pr) (ta tb : Tgt)
  | sar (p : Pr) (ta tb : Tgt)
  | rotl (p : Pr) (ta tb : Tgt)
  | min (p : Pr) (ta tb : Tgt)
  | max (p : Pr) (ta tb : Tgt)
  | minu (p : Pr) (ta tb : Tgt)
  | maxu (p : Pr) (ta tb : Tgt)
  | abs (p : Pr) (ta tb : Tgt)
  | neg (p : Pr) (ta tb : Tgt)
  | clz (p : Pr) (ta tb : Tgt)
  | ctz (p : Pr) (ta tb : Tgt)
  | popc (p : Pr) (ta tb : Tgt)
  | bfx (p : Pr) (ta tb : Tgt)
  | bfi (p : Pr) (ta tb : Tgt)
  | sext (p : Pr) (wd : Width) (ta tb : Tgt)
  | zext (p : Pr) (wd : Width) (ta tb : Tgt)
  -- tests (R119)
  | teq (p : Pr) (ta tb : Tgt)
  | tne (p : Pr) (ta tb : Tgt)
  | tlt (p : Pr) (ta tb : Tgt)
  | tle (p : Pr) (ta tb : Tgt)
  | tltu (p : Pr) (ta tb : Tgt)
  | tleu (p : Pr) (ta tb : Tgt)
  | tbit (p : Pr) (ta tb : Tgt)
  -- immediate forms (R120)
  | addi (p : Pr) (imm : BitVec 13) (ta : Tgt)
  | muli (p : Pr) (imm : BitVec 13) (ta : Tgt)
  | andi (p : Pr) (imm : BitVec 13) (ta : Tgt)
  | ori (p : Pr) (imm : BitVec 13) (ta : Tgt)
  | xori (p : Pr) (imm : BitVec 13) (ta : Tgt)
  | shli (p : Pr) (k : BitVec 13) (ta : Tgt)
  | shri (p : Pr) (k : BitVec 13) (ta : Tgt)
  | sari (p : Pr) (k : BitVec 13) (ta : Tgt)
  | teqi (p : Pr) (imm : BitVec 13) (ta : Tgt)
  | tnei (p : Pr) (imm : BitVec 13) (ta : Tgt)
  | tlti (p : Pr) (imm : BitVec 13) (ta : Tgt)
  | tlei (p : Pr) (imm : BitVec 13) (ta : Tgt)
  | tltui (p : Pr) (imm : BitVec 13) (ta : Tgt)
  | tleui (p : Pr) (imm : BitVec 13) (ta : Tgt)
  | bfxi (p : Pr) (imm : BitVec 13) (ta : Tgt)
  -- scalar floating point (R121-R128)
  | fadd (p : Pr) (q : Prec) (r : Rnd) (ta tb : Tgt)
  | fsub (p : Pr) (q : Prec) (r : Rnd) (ta tb : Tgt)
  | fmul (p : Pr) (q : Prec) (r : Rnd) (ta tb : Tgt)
  | fdiv (p : Pr) (q : Prec) (r : Rnd) (ta tb : Tgt)
  | fsqrt (p : Pr) (q : Prec) (r : Rnd) (ta tb : Tgt)
  | fmin (p : Pr) (q : Prec) (ta tb : Tgt)
  | fmax (p : Pr) (q : Prec) (ta tb : Tgt)
  | fcvtFF (p : Pr) (q : Prec) (r : Rnd) (ta tb : Tgt)
  | fcvtFI (p : Pr) (q : Prec) (r : Rnd) (ta tb : Tgt)
  | fcvtIF (p : Pr) (q : Prec) (r : Rnd) (ta tb : Tgt)
  | fteq (p : Pr) (q : Prec) (ta tb : Tgt)
  | ftlt (p : Pr) (q : Prec) (ta tb : Tgt)
  | ftle (p : Pr) (q : Prec) (ta tb : Tgt)
  | fclass (p : Pr) (q : Prec) (ta tb : Tgt)
  -- memory (R142-R145)
  | ld (p : Pr) (lsid ag : BitVec 5) (sz : BitVec 2) (sx : Bool) (ta : Tgt)
  | st (p : Pr) (lsid ag : BitVec 5) (sz : BitVec 2) (na : Bool)
  | pref (p : Pr) (lsid ag : BitVec 5)
  -- cells, streams, pipes (R148-R155)
  | enq (p : Pr) (ag : BitVec 5)
  | enqm (p : Pr) (ag : BitVec 5)
  | strm (p : Pr) (ag : BitVec 5) (tk : BitVec 3) (f : Bool)
  | strms (p : Pr) (ag : BitVec 5) (tk : BitVec 3) (f : Bool)
  | parm (p : Pr) (ag : BitVec 5)
  | rngp (p : Pr) (ta : Tgt)
  | getp (p : Pr) (ag : BitVec 5) (ta : Tgt)
  | putp (p : Pr) (ag : BitVec 5)
  -- copies (R157-R159)
  | cpy (p : Pr) (ag : BitVec 5) (tk : BitVec 3) (f : Bool) (ta : Tgt)
  | cpyg (p : Pr) (ag : BitVec 5) (tk : BitVec 3) (f : Bool) (ta : Tgt)
  | cpys (p : Pr) (ag : BitVec 5) (tk : BitVec 3) (f : Bool) (ta : Tgt)
  | cpyr (p : Pr) (ag : BitVec 5) (tk : BitVec 3) (f : Bool) (ta : Tgt)
  -- waits, barriers, fences (R162-R168, R337-R340)
  | waitn (p : Pr) (ld st : BitVec 6) (cp tl : BitVec 5)
  | waitt (p : Pr) (eng : BitVec 5) (ctx : BitVec 2) (ta : Tgt)
  | waita (p : Pr) (ag : BitVec 5) (cmp : Cmp) (ta : Tgt)
  | waitb (p : Pr) (bs : BitVec 5) (ta : Tgt)
  | tbp (p : Pr) (bs : BitVec 5) (ta : Tgt)
  | arv (p : Pr) (bs : BitVec 5)
  | arvx (p : Pr) (bs : BitVec 5)
  | expt (p : Pr) (bs : BitVec 5)
  | fence (p : Pr) (e s : Bool)
  | yield (p : Pr)
  | tlrd (p : Pr) (eng : BitVec 5) (ctx : BitVec 2) (ta : Tgt)
  -- combining at memory (R346-R348)
  | atom (p : Pr) (op : AtomOp) (ag : BitVec 5) (gd : BitVec 6)
  | red (p : Pr) (op : RedOp) (ag : BitVec 5)
  -- leases (R352, R358, R367, R368)
  | leash (p : Pr) (k : KKind) (slot : BitVec 5) (tk : BitVec 3) (ta : Tgt)
  | lrel (p : Pr) (slot : BitVec 5)
  | lqry (p : Pr) (slot : BitVec 5) (ta : Tgt)
  | lpri (p : Pr) (slot : BitVec 5)
  -- launch, queue, counter, cancel, configuration (R414-R421)
  | launch (p : Pr) (ag : BitVec 5) (tk : BitVec 3)
  | qclaim (p : Pr) (ta : Tgt)
  | qpub (p : Pr)
  | cntr (p : Pr)
  | cancel (p : Pr) (lev : Level)
  | cfgl (p : Pr) (n : BitVec 13)
  | cfgt (p : Pr)
  -- system (R456, R455, R283, R284, R271, R273, R378)
  | srd (p : Pr) (sys : BitVec 13) (ta : Tgt)
  | swr (p : Pr) (sys : BitVec 13)
  | tlbi (p : Pr) (form : BitVec 13) (ta : Tgt)
  | ctxs (p : Pr)
  | ctxr (p : Pr)
  | eret (p : Pr) (skip : Bool)
  | trap (p : Pr) (c : BitVec 8)
  | pwrq (p : Pr) (q : BitVec 13) (ta : Tgt)
  -- cell operations: write ports (R190): cluster and write port 0-15
  | wr (cl port : Nat)
  | wrm (cl port : Nat)
  | wacc (cl port : Nat)
  -- matrix (R243): cluster and engine 0-3; the element a self-check finds failing
  | mldb (cl me : Nat)
  | mma (cl me : Nat) (bad : BadElement)
  | mgth (cl me : Nat) (bad : BadElement)
  | mcsr (cl me : Nat) (bad : BadElement)
  | mbsr (cl me : Nat) (bad : BadElement)
  | mzero (cl me : Nat)
  | mdrn (cl me : Nat)
  | mchk (cl me : Nat) (bad : BadElement)
  | msave (cl me : Nat)
  | mload (cl me : Nat)
  -- vector (R174-R181): cluster and engine 0-3
  | vadd (cl ve : Nat)
  | vsub (cl ve : Nat)
  | vmul (cl ve : Nat)
  | vfadd (cl ve : Nat)
  | vfsub (cl ve : Nat)
  | vfmul (cl ve : Nat)
  | vfma (cl ve : Nat)
  | vmin (cl ve : Nat)
  | vmax (cl ve : Nat)
  | vfmin (cl ve : Nat)
  | vfmax (cl ve : Nat)
  | vabs (cl ve : Nat)
  | vfabs (cl ve : Nat)
  | vcmp (cl ve : Nat)
  | vfcmp (cl ve : Nat)
  | vsel (cl ve : Nat)
  | vcvt (cl ve : Nat)
  | vshl (cl ve : Nat)
  | vshr (cl ve : Nat)
  | vsar (cl ve : Nat)
  | vand (cl ve : Nat)
  | vor (cl ve : Nat)
  | vxor (cl ve : Nat)
  | vrred (cl ve : Nat)
  | vsred (cl ve : Nat)
  | vscan (cl ve : Nat)
  | vgth (cl ve : Nat)
  | vscat (cl ve : Nat)
  | vscatc (cl ve : Nat)
  | vperm (cl ve : Nat)
  | vbcst (cl ve : Nat)
  -- special functions (R387, R390): cluster
  | sexp2 (cl : Nat)
  | slog2 (cl : Nat)
  | srcp (cl : Nat)
  | srsq (cl : Nat)
  | stanh (cl : Nat)
  | ssin (cl : Nat)
  | scos (cl : Nat)
  | sgelu (cl : Nat)
  | rowsm (cl : Nat)
  | lnorm (cl : Nat)
  | rmsn (cl : Nat)
  -- intersection (R185): cluster
  | xint (cl : Nat)
  | xuni (cl : Nat)
  | xdif (cl : Nat)
  | xmrg (cl : Nat)
  | xcnt (cl : Nat)
  -- combining and barriers (R330, R343): cluster
  | cadd (cl : Nat)
  | cfadd (cl : Nat)
  | cmax (cl : Nat)
  | cmin (cl : Nat)
  | cand (cl : Nat)
  | cor (cl : Nat)
  | cxor (cl : Nat)
  | cxch (cl : Nat)
  | ccas (cl : Nat)
  | cfaa (cl : Nat)
  | resc (cl : Nat)
  | barv (cl : Nat)
  | barx (cl : Nat)
  | bexa (cl : Nat)
  | bkil (cl : Nat)
  | bexp (cl : Nat)
  -- transfers (R408, R409): cluster and unit 0-1
  | xrd (cl xf : Nat)
  | xwr (cl xf : Nat)
  | xrrd (cl xf : Nat)
  | xrwr (cl xf : Nat)
  | xprd (cl xf : Nat)
  | xpwr (cl xf : Nat)
  | xnet (cl xf : Nat)
  -- kennel gateway and collectives (R353, R370, R393): cluster
  | kjob (cl : Nat)
  | kqry (cl : Nat)
  | csend (cl : Nat)
  | crecv (cl : Nat)
  | cred (cl : Nat)
  | cbcst (cl : Nat)
  -- control tokens (R99): cluster and egress port
  | cmpl (cl port : Nat)
  | rcll (cl port : Nat)
  | drain (cl port : Nat)
  | abrt (cl port : Nat)
  -- events: the core
  | frameTurn (core : Nat)
  | blockCommit (core frame : Nat)
  | trapTake (sid : Nat)
  | loadReturn (core frame slot : Nat)
  | storeAck (sid : Nat)
  | releaseTakeEffect (sid : Nat)
  | livenessTick (core : Nat)
  | waitConditionMet (core frame slot : Nat)
  | atomReply (sid : Nat)
  | blockFetchReturn (sid : Nat) (addr : Word)
  -- events: launches, graphs, jobs
  | launchPick (q : Nat)
  | launchAged (q queue : Nat)
  | packStart (launch : Nat) (places : List Nat)
  | graphBind (launch : Nat) (img : GraphImage)
  | rangeClaim (c : Claimant)
  | tagAdmit (job graph : Nat)
  | tagRetire (job graph : Nat)
  | jobCreate (job weight : Nat)
  | jobClose (job cctr : Nat)
  | jobWeight (job weight : Nat)
  -- events: the market
  | cellAdmit (src : CellSource)
  | auction (cl : Nat)
  | headAged (cl queue : Nat)
  | cellCross (cl : Nat)
  | egressDrain (cl port : Nat)
  | purge (cl ctx : Nat) (col : Option Nat)
  -- events: write ports, engines
  | agnFlush (key line : Nat)
  | mdrnComplete (cl me ctx : Nat)
  | msaveComplete (cl me ctx : Nat)
  | mloadComplete (cl me ctx : Nat)
  | exptReserve (core frame slot : Nat)
  | transferComplete (cl xf op : Nat)
  | kennelJobComplete (q eng : Nat)
  | collPlace (job graph coll : Nat) (others : Bool)
  -- events: memory
  | homeRead (core frame slot : Nat)
  | homeWrite (sid : Nat)
  | copyProbe (op copy : Nat)
  | copyWrite (op copy : Nat)
  | copyRead (op copy : Nat)
  | copyRepair (op copy : Nat)
  | majAnswer (op copy : Nat)
  | houndVisit (q : Nat)
  | rebase (part : Nat)
  | rebaseWalkerDone (part : Nat)
  | streamCell (key : Nat)
  | copyComplete (cl op : Nat)
  | pageWalkDone (q walk : Nat)
  | fresumeRetry (job tag : Nat)
  | fresumeAbort (job tag : Nat)
  -- events: pre-emption
  | preemptRequest (job : Nat) (clusters : List Nat)
  | handlerStart (sid : Nat)
  | jobRestore (job : Nat)
  -- events: kennels and power
  | leaseServe (q : Nat)
  | leaseWakeDone (q eng : Nat)
  | graceExpire (q eng : Nat)
  | leaseDrainDone (q eng : Nat)
  | warmTimeout (q eng : Nat)
  | lscaleStep (q region : Nat) (up : Bool)
  | vfHop (q island : Nat)
  | vfHopDone (q island : Nat)
  | droop (q island : Nat)
  | droopClear (q island : Nat)
  | retentionEnter (cl : Nat)
  | retentionExit (cl : Nat) (parityOk : Bool) (found : List (Nat × List Nat))
  -- events: links
  | tsuaxCell (port : Nat) (flit : BitVec 2048)
  | tsuaxWrite (port : Nat) (flit : BitVec 2048)
  | tsuaxRead (port : Nat) (flit : BitVec 2048)
  | tsuaxRdata (port : Nat) (flit : BitVec 2048)
  | tsuaxCplt (port : Nat) (flit : BitVec 2048)
  | launchFlit (port : Nat) (flit : BitVec 2048)
  | mgmtLaunch (port : Nat) (flit : BitVec 2048)
  | mgmtCntr (port : Nat) (flit : BitVec 2048)
  | mgmtCancel (port : Nat) (flit : BitVec 2048)
  | mgmtCfgl (port : Nat) (flit : BitVec 2048)
  | mgmtCfgt (port : Nat) (flit : BitVec 2048)
  | mgmtSrd (port : Nat) (flit : BitVec 2048)
  | mgmtSwr (port : Nat) (flit : BitVec 2048)
  | tsuaxCtrl (port : Nat) (flit : BitVec 2048)
  | roceRdmaWrite (r : RoceReq)
  | roceRdmaWriteImm (r : RoceReq)
  | roceRdmaRead (r : RoceReq)
  | roceUnsupported (r : RoceReq)
  | roceResponse (cl xf op : Nat) (data : List Byte) (err : Bool)
  | roceRetryTimeout (cl xf op : Nat)
  | pfcPause (port prio : Nat) (on : Bool)
  | congestionNotification (qpn : Nat)
  | rankLeftFabric (job graph rank : Nat)
  | ucieCell (die modl : Nat) (flit : BitVec 2048)
  | ucieMreq (die modl : Nat) (flit : BitVec 2048)
  | ucieMrsp (die modl : Nat) (flit : BitVec 2048)
  | ucieXlat (die modl : Nat) (flit : BitVec 2048)
  | ucieSys (die modl : Nat) (flit : BitVec 2048)
  | ucieTime (die modl : Nat) (flit : BitVec 2048)
  | ucieCtrl (die modl : Nat) (flit : BitVec 2048)
  | ucieRetrainDone (die modl : Nat) (lo hi : Bool) (repaired : Nat)
  | uccmdRetrain (die modl : Nat)
  -- events: reliability
  | comparatorPair (cl : Nat)
  | twinTimeout (cl : Nat)
  | coldRestart (cl : Nat) (found : List (Nat × List Nat))
  -- events: partitions, registers, bring-up, trust
  | pmQuiesce (qmask : Nat)
  | pmResume (qmask : Nat)
  | pcfgWrite (v : Word)
  | aceWrite (entry : Nat) (v : Word)
  | pnodeWrite (q : Nat) (v : Word)
  | mestatWrite (cl me : Nat) (v : Word)
  | knoutWrite (q : Nat) (v : Word)
  | jpwrWrite (job : Nat) (v : Word)
  | vfislWrite (q island : Nat) (v : Word)
  | registerWrite (w : RegWrite)
  | powerGood
  | firmwareVerified (imgs : List FwImage)
  | stackCalibrated (stack : Nat)
  | quarterInService (q : Nat)
  | deviceReset
  | loaderImageOffer (img : FwImage)
  | attReport
  | attExtend
  | attCert
  deriving DecidableEq, Repr, Inhabited

end Sys2Proof
end

