-- ==== Sys2Proof/Machine/State.lean ====
section
/-! DEFINITION. Machine/State.lean: everything the spec gives the machine, as plain data, and the machine right after
reset. Every table is a sorted list of (key, entry) pairs that lists no entry equal to the table's default (Machine/Table.lean);
a structure's field defaults are the values of reset: the spec's where it states one, otherwise the value that
INVENTORY.md and notes/assumptions name. -/

namespace Sys2Proof.Machine

/-- Why the machine stops with a fault. No step of this model raises one: every fault the spec describes is a trap or a
completion status, and both are next states. The one constructor is kept for an access outside the modelled homes. -/
inductive Fault where
  /-- An access to a home address that the spec lays out nowhere. Raised by no meaning (safe). -/
  | noSuchHome (addr : Nat)
  deriving DecidableEq, Repr

/-- Why an instruction is refused. -/
inductive Refusal where
  /-- The instruction's arm in Dispatch.lean has no meaning yet. Raised by that arm only (safe). -/
  | notModelled (mnemonic : String)
  /-- The word in the focused slot is no instruction. Raised by step when an agenda names such a slot, which no step of
  the machine does: its block would have trapped at decode (safe). -/
  | notAnInstruction (word : Nat)
  deriving DecidableEq, Repr

/-- A sparse table: (key, entry) pairs, keys rising. -/
abbrev Tab (α : Type) := List (Nat × α)

/-- What acts next: the instruction in a slot of a mapped block, or an event of the machine. -/
inductive Pick where
  | slot (core frame slot : Nat)
  | event (i : Instr)
  deriving DecidableEq, Repr, Inhabited

/-- The model's own scheduling data (no state of the spec): the picks to run, the counter applied to the free choice
when there are none, the counter applied to the free values, the order stamp, and the slot in focus. DESIGN CHOICE: notes/assumptions/1, 95. -/
structure Sched where
  agenda : List Pick := []
  picks  : Nat := 0
  frees  : Nat := 0
  tick   : Nat := 0
  focus  : Nat × Nat × Nat := (0, 0, 0)
  deriving DecidableEq, Repr, Inhabited

/-! ## Homes and memory -/

/-- The timestamps of a 64-byte home line (R293), its last writer's identifier (R294), its epoch (R301), its poison mark
(R432). DESIGN CHOICE: notes/assumptions/6. -/
structure Line where
  wts    : Nat  := 0
  rts    : Nat  := 0
  wid    : Nat  := 0
  epoch  : Nat  := 0
  poison : Bool := false
  deriving DecidableEq, Repr, Inhabited

/-- One copy of a majority cell (R289). -/
structure MajCopy where
  img   : BitVec 512 := 0
  wts   : Nat := 0
  wid   : Nat := 0
  rts   : Nat := 0
  epoch : Nat := 0
  poison : Bool := false
  deriving DecidableEq, Repr, Inhabited

/-- Where an access lands: a home byte address, or a majority cell's byte (stack set, stack-local address). -/
inductive Place where
  | home (a : Nat)
  | maj (sset a : Nat)
  deriving DecidableEq, Repr, Inhabited

/-- One leg of a majority access: a copy's request, answer and repair (R290-R292). Stage 0 nothing sent, 1 request in
flight, 2 answer in flight, 3 answered, 4 repair in flight, 5 repair acknowledgement in flight, 6 repaired. -/
structure Leg where
  stage : Nat := 0
  ok    : Bool := false
  wts   : Nat := 0
  wid   : Nat := 0
  rts   : Nat := 0
  img   : BitVec 512 := 0
  deriving DecidableEq, Repr, Inhabited

/-- A strand's majority access in progress (R290, R291). DEDUCED: notes/assumptions/28. -/
structure MajOp where
  used   : Bool := false
  write  : Bool := false
  done   : Bool := false
  sid    : Nat := 0
  frame  : Nat := 0
  slot   : Nat := 0
  job    : Nat := 0
  va     : Nat := 0
  sset   : Nat := 0
  addr   : Nat := 0          -- the cell's stack-local address
  off    : Nat := 0          -- first byte stored
  n      : Nat := 0
  v      : Word := 0
  pts    : Nat := 0
  writing : Bool := false    -- the write has been sent (R290 step 2); a read: its winner is decided
  lost   : Bool := false     -- its copies can no longer give a majority (R326)
  taken  : Bool := false     -- its load or store has taken the result; what is in flight goes on
  ts     : Nat := 0          -- write timestamp; a read: the winner's
  wid    : Nat := 0
  rts    : Nat := 0          -- a read: the lease that a majority has given
  img    : BitVec 512 := 0
  legs   : Tab Leg := []
  deriving DecidableEq, Repr, Inhabited

/-- A version held in a lease cache or a cache bank (R298). -/
structure Version where
  valid : Bool := false
  line  : Nat := 0
  bytes : List Byte := []
  wts   : Nat := 0
  rts   : Nat := 0
  cls   : Nat := 0           -- reuse class (R138)
  left  : Nat := 0           -- hits left for reuse-k
  used  : Nat := 0           -- order of last use
  deriving DecidableEq, Repr, Inhabited

/-- A read of an unwritten structure word that waits for the write (R137). -/
structure Deferred where
  addr : Nat := 0
  core : Nat := 0
  frame : Nat := 0
  slot : Nat := 0
  deriving DecidableEq, Repr, Inhabited

structure Memory where
  bytes  : List Host.Cell := []
  lines  : Tab Line := []
  maj    : Tab MajCopy := []       -- key: stack * 2^52 + cell address
  majOps : Tab MajOp := []
  nextMaj : Nat := 1
  majCells : Tab Nat := []         -- cells of majority pages touched, for the hounds: (root * 16 + set) * 2^52 + address
  swrit  : Tab Bool := []          -- structure words written, by home address
  defer  : List Deferred := []
  roles  : Tab Nat := []           -- tile roles: key cluster * 16 + tile (R136)
  lease  : Tab (List Version) := []   -- key core (R298)
  banks  : Tab (List Version) := []   -- key cluster * 384 + set (R138)
  hwm    : Tab Nat := []           -- key partition root * 2^16 + node (R312)
  deriving DecidableEq, Repr, Inhabited

/-! ## Cores, frames, strands -/

/-- One slot of a mapped block: its word, its tokens, and whether it has fired or otherwise resolved. -/
structure Slot where
  word  : IWord := 0
  left  : Option Token := none
  right : Option Token := none
  pred  : Option Token := none
  fired : Bool := false
  deriving DecidableEq, Repr, Inhabited

/-- A trap held against a block or taken (R266-R268): cause, slot, AGN, argument, fetch mark. DEDUCED: notes/assumptions/34. -/
structure Trap where
  cause : Nat := 0
  slot  : Option Nat := none
  agn   : Option Nat := none
  arg   : Word := 0
  fetch : Bool := false
  deriving DecidableEq, Repr, Inhabited

/-- A copy as released (R157-R159). -/
structure Copy where
  kind : Nat := 0
  na   : Bool := false
  sna  : Bool := false
  src  : Nat := 0
  len  : Nat := 0
  dag  : Nat := 0
  doff : Nat := 0
  fag  : Nat := 0
  flag : Bool := false
  tk   : Nat := 0
  seq  : Word := 0
  col  : Option Nat := none        -- colour of its activation (R436)
  deriving DecidableEq, Repr, Inhabited

/-- A release or another effect that waits for its strand's earlier stores (R159, R305, R416-R419, R457). -/
inductive Release where
  | put (pipe : Nat) (ids : List Nat)
  | cell (age : Nat)                          -- a control-class cell of the issue buffer becomes ready (R305)
  | exitArrive (bars : List Nat)
  | qpub (q : Nat) (claim : Nat)
  | cntr (ctr : Nat) (n : Word)
  | launch (agn off q tk : Nat)
  | swr (sys : Nat) (sel v : Word)
  | tlbi (form : Nat) (va asid n : Nat)
  | copy (c : Copy)
  | cfgl (addr n : Nat)
  | cfgt (left right : Word)
  | resc (agn off : Nat) (left : Word) (col : Nat)
  deriving DecidableEq, Repr, Inhabited

/-- A store released and not yet acknowledged (R144, R299). Sent: performed at its home, acknowledgement in flight. -/
structure StoreRec where
  place : Place := .home 0
  n     : Nat := 0
  v     : Word := 0
  na    : Bool := false
  struct : Bool := false
  bank  : Bool := false         -- goes through a cache window
  off   : Word := 0             -- the offset token
  va    : Nat := 0
  cls   : Nat := 0              -- reuse class and k of its tensor (R138)
  rk    : Nat := 0
  sent  : Bool := false
  ack   : Nat := 0              -- the acknowledgement's timestamp
  op    : Nat := 0              -- majority operation, 0 none
  deriving DecidableEq, Repr, Inhabited

/-- What a strand has released and not yet finished, in order. -/
inductive OutItem where
  | store (s : StoreRec)
  | rel (r : Release)
  deriving DecidableEq, Repr, Inhabited

/-- An effect recorded when a side-effect instruction fires, released at commit (R34). -/
inductive Effect where
  | null
  | store (lsid : Nat) (s : StoreRec)
  | cell (c : MCell) (port : Nat) (tileOp : Bool)
  | stream (agn : Nat) (cdesc ctag : Word) (tk : Nat) (last pers : Bool)
  | parm (agn sel : Nat) (v : Word)
  | put (pipe : Nat) (v : Word)
  | copy (c : Copy)
  | atom (c : MCell) (gd : Nat)
  | red (c : MCell)
  | arrive (c : MCell) (relaxed : Bool)
  | expect (bar : Nat) (n : Nat)
  | leash (slot kind tk gen : Nat)
  | lrel (slot : Nat)
  | lpri (slot prio : Nat)
  | rel (r : Release) (stores copies : Bool)   -- counts in the stores or the copies class
  | cancel (lev : Nat) (id : Nat)
  | ctxs (sid : Nat)
  | ctxr (sid : Nat)
  deriving DecidableEq, Repr, Inhabited

/-- A load of a block, from firing to its check (R142, R143, R299). -/
structure LoadRec where
  slot  : Nat := 0
  lsid  : Nat := 0
  place : Place := .home 0
  n     : Nat := 0
  sx    : Bool := false
  bank  : Bool := false         -- through a cache window: banks too
  struct : Bool := false
  va    : Word := 0
  stage : Nat := 0              -- 0 pending, 1 performed and waiting to return, 2 returned
  v     : Word := 0
  wts   : Nat := 0
  rts   : Nat := 0
  walk  : Bool := false         -- waits for its translation
  fwd   : Bool := false         -- wholly served from the strand's own stores
  home  : Bool := false         -- performed at its home (R299: takes the strand's timestamp)
  ag    : Nat := 0
  ue    : Bool := false         -- what it read is lost (R432)
  majOp : Nat := 0
  deriving DecidableEq, Repr, Inhabited

/-- The payload reads of an ENQ: where they went and the version they stand on (R148, R299). -/
structure CellRead where
  slot   : Nat := 0
  places : List (Place × Nat) := []
  wts    : Nat := 0
  rts    : Nat := 0
  deriving DecidableEq, Repr, Inhabited

/-- A wait that has fired and whose condition is pending (R162). -/
inductive Wait where
  | counts (ld st cp tl : Nat)
  | timeline (eng ctx : Nat) (n : Word)
  | word (place : Place) (cmp : Cmp) (v : Word)
  | barrier (bar : Nat) (p : Nat)
  | fence (e s : Bool)
  deriving DecidableEq, Repr, Inhabited

/-- A block in a frame (R31-R36). -/
structure Frame where
  used  : Bool := false
  sid   : Nat := 0
  addr  : Word := 0
  hdr   : IWord := 0
  seq   : Nat := 0                        -- order among the strand's blocks
  slots : List Slot := []
  exit  : Option (Nat × Option Word) := none   -- slot that fired, next block
  regw  : List (Nat × Nat × Option Word) := []   -- slot, register, value (none: resolved by a null)
  fx    : List (Nat × Effect) := []       -- resolved side effects by slot
  loads : List LoadRec := []
  reads : List CellRead := []             -- payload reads of its ENQs (R148)
  gets  : List (Nat × Nat × Nat) := []    -- slot, pipe, word id reserved (R21)
  rngs  : List (Nat × Nat × Nat) := []    -- slot, first, count reserved (R22)
  claims : List (Nat × Nat × Nat) := []   -- slot, queue, claim (R415)
  asks  : List Nat := []                  -- slots waiting for an answer (GETP, RNGP, EXPT, GETR, RET)
  resv  : List (Nat × Nat × Nat) := []    -- slot, barrier, expectations reserved (R338)
  gens  : List (Nat × Nat) := []          -- slot, lease slot whose generation was raised (R352)
  cseqs : Nat := 0                        -- copy numbers taken (R159)
  waits : List (Nat × Wait) := []
  trap  : Option Trap := none
  deriving DecidableEq, Repr, Inhabited

/-- A block fetched and not yet mapped, or the trap its fetch or decode holds (R31, R64, R89, R275). -/
structure Fetched where
  addr  : Word := 0
  hdr   : IWord := 0
  words : List IWord := []
  trap  : Option Trap := none
  deriving DecidableEq, Repr, Inhabited

/-- A stream of a strand's scoreboard token (R150, R213, R286 words 76-83). -/
structure TokStream where
  tk   : Nat := 0
  agn  : Nat := 0
  pers : Bool := false
  left : Nat := 0
  deriving DecidableEq, Repr, Inhabited

/-- A strand context (R38, R274, R286). -/
structure Strand where
  live  : Bool := false
  who   : Owner := {}
  set   : Nat := 0
  regs  : Tab Word := []
  pc    : Word := 0
  tk    : BitVec 8 := 0
  ldc   : Nat := 0
  stc   : Nat := 0
  cpc   : Nat := 0
  tlc   : Nat := 0
  pts   : Nat := 0
  cseq  : Word := 0
  async : Word := 0
  hmode : Bool := false
  privs : Bool := false
  tcause : Word := 0
  tblk  : Word := 0
  targ  : Word := 0
  tresume : Word := 0
  tbank0 : Word := 0
  tbank1 : Word := 0
  tbank2 : Word := 0
  out   : List OutItem := []
  toks  : List TokStream := []
  fetched : Option Fetched := none
  yields : List Nat := []            -- contexts still owed a frame (R167)
  serves : Option (Nat × Bool) := none   -- handler strand: halted strand, resume handler (R212)
  atoms : List (Nat × Nat) := []     -- pending ATOM replies: register, order (R347)
  replies : List (Nat × Word × Nat × Nat) := []   -- replies that have arrived: register, value, timestamp, order
  seq   : Nat := 0                   -- blocks mapped so far
  fencets : Nat := 0                 -- latest completion timestamp among its completed operations (R166)
  eret  : Option Bool := none        -- an ERET that has committed and waits for the strand's SWRs (R271, R457): skip
  ops   : Nat := 0                   -- streams, copies, cells and engine operations released and not complete (R166)
  deriving DecidableEq, Repr, Inhabited

/-- A cell in a core's issue buffer, with the ingress port it asks for (R149, R192). -/
structure IssueCell where
  cell : MCell := {}
  port : Nat := 0
  held : Bool := false             -- a release that waits for its strand's stores (R305)
  deriving DecidableEq, Repr, Inhabited

/-- A core: who took the last frame (R32), its issue buffer (R149). -/
structure CoreSt where
  lastTurn : Nat := 3
  issue : List IssueCell := []
  deriving DecidableEq, Repr, Inhabited

structure Cores where
  strands : Tab Strand := []       -- key strand identifier (R30)
  frames  : Tab Frame := []        -- key core * 8 + frame
  cores   : Tab CoreSt := []
  holds   : Tab Strand := []       -- hold store, key strand identifier (R280)
  saved   : Tab Strand := []       -- strands out whose record lies in memory: what is kept beside the record
  ghosts  : Tab Strand := []       -- strands gone whose released stores and releases are still to be performed (R39)
  outs    : Tab Nat := []          -- contexts a pre-empted job left: strand identifier to job + 1 (R281)
  switch : Tab Nat := []           -- contexts left, by strand identifier: 1 handler started, 2 resume handler started
  deriving DecidableEq, Repr, Inhabited

/-! ## AGNs, pipes, copies, translation -/

/-- A line held by a write port's coalescing buffer (R319): its first byte's place, and the bytes written, by offset. -/
structure CoLine where
  place : Place := .home 0
  bytes : List (Nat × Byte) := []
  deriving DecidableEq, Repr, Inhabited

/-- A stream in progress on an AGN (R150-R153). -/
structure Stream where
  sid   : Nat := 0
  set   : Nat := 0                 -- strand set of the strand that released it
  who   : Owner := {}
  cdesc : Word := 0
  ctag  : Word := 0
  tk    : Option Nat := none       -- none: a stream node
  last  : Bool := false
  pers  : Bool := false
  sent  : Nat := 0                 -- cells sent
  left  : Option Nat := none       -- cells still to send; none: to the end of the shape
  chunks : List (Nat × Nat × Nat) := []  -- persistent: first index, count and cells per index of each chunk drawn
  asking : Bool := false           -- a range claim is out (R151)
  stamp : Nat := 0
  ended : Bool := false
  stopped : Bool := false          -- its strand is out; the AGN keeps the resume point (R213)
  startPos : Nat := 0
  place : Option Nat := none       -- re-issued (R437): the element it starts at
  again : Bool := false            -- re-issued after it had ended: the AGN's place in its shape is as before
  back  : Nat := 0
  hold  : Bool := false            -- re-issued: its token and its count stay until the activation completes
  hurt  : Bool := false            -- what it read is lost (R432): it waits for the purge of its colour
  deriving DecidableEq, Repr, Inhabited

/-- An AGN (R131, R150, R154, R319-R322). -/
structure Agn where
  words : List Word := []          -- the six record words; [] unbound
  pos   : Nat := 0
  stream : Option Stream := none
  later : List Stream := []        -- further streams of the block that released the one in progress
  parms : List (Nat × Word) := []
  stamp : Nat := 0
  buf   : List CoLine := []
  wait  : Option Nat := none       -- from=: the key of the AGN it follows (R321)
  handed : Bool := false           -- it has handed over (R322)
  cellOut : Option MCell := none   -- a cell read and waiting for admission
  core  : Nat := 0                 -- the core of a core-buffer AGN used by engines
  node  : Bool := false            -- a stream node (R153)
  deriving DecidableEq, Repr, Inhabited

/-- A word of a pipe or circular buffer (R21, R156). -/
structure PipeWord where
  id    : Nat := 0
  v     : Word := 0
  stamp : Nat := 0
  vis   : Bool := false
  taken : Bool := false
  deriving DecidableEq, Repr, Inhabited

structure Pipe where
  words : Nat := 0
  q     : List PipeWord := []
  next  : Nat := 0
  left  : Nat := 0                 -- cells still to come of a message that is being written (R156)
  msg   : List Nat := []           -- its words so far
  deriving DecidableEq, Repr, Inhabited

/-- A copy in a cluster's transfer units (R159). -/
structure CopyOp where
  used  : Bool := false
  c     : Copy := {}
  who   : Owner := {}
  stamp : Nat := 0
  pos   : Nat := 0
  maxw  : Nat := 0
  cts   : Nat := 0
  data  : List Byte := []          -- data received from a peer (CPYR)
  sentTo : Nat := 0
  status : Nat := 0
  hurt  : Bool := false            -- waits for the purge of its colour (R432)
  deriving DecidableEq, Repr, Inhabited

/-- A transfer cell's operation (R409, R410) or an XNET transfer (R408). -/
structure XferOp where
  used  : Bool := false
  cell  : MCell := {}
  num   : Nat := 0
  stage : Nat := 0                 -- 0 not started, 1 waiting for the peer, 2 data in, 3 ready
  data  : List Byte := []
  status : Nat := 0
  cts   : Nat := 0
  maxw  : Nat := 0
  sent  : Nat := 0
  deriving DecidableEq, Repr, Inhabited

/-- A cached translation (R454): job, page base, page size in bits, leaf entry. -/
structure TlbEntry where
  asid : Nat := 0
  base : Nat := 0
  bits : Nat := 16
  leaf : Word := 0
  deriving DecidableEq, Repr, Inhabited

/-- A pending walk of the load or store in a slot (R454). -/
structure Walk where
  asid : Nat := 0
  va   : Nat := 0
  write : Bool := false
  core : Nat := 0
  frame : Nat := 0
  slot : Nat := 0
  agn  : Nat := 0
  deriving DecidableEq, Repr, Inhabited

/-- A fault record not yet resolved (R277, R278). -/
structure FaultRec where
  tag   : Nat := 0
  cause : Nat := 0
  asid  : Nat := 0
  va    : Nat := 0
  deriving DecidableEq, Repr, Inhabited

structure Access where
  agns  : Tab Agn := []            -- key (cluster * 64 + ctx) * 32 + n
  pipes : Tab Pipe := []           -- key (cluster * 16 + tile) * 2^19 + BASE
  copies : Tab CopyOp := []        -- key cluster * 2^16 + number
  nextCopy : Nat := 1
  xfers : Tab XferOp := []         -- key (cluster * 2 + unit) * 2^16 + number
  nextXfer : Nat := 1
  tlb   : Tab (List TlbEntry) := []    -- key quarter
  walks : Tab (List Walk) := []        -- key quarter
  deriving DecidableEq, Repr, Inhabited

/-! ## Jobs, launches, graphs, queues -/

structure Job where
  state  : Nat := 0                -- JOBSTAT (R459)
  weight : Nat := 16
  ctr    : Tab Word := []          -- completion counters (R58)
  jroot  : Word := 0
  jexpb  : Word := 0
  jexpl  : Word := 0
  jcw    : Word := 0
  tvec   : Word := 0
  csave  : Word := 0
  fqbase : Word := 0
  fqcfg  : Word := 0
  fqhead : Word := 0
  fqtail : Nat := 0
  fqtag  : Nat := 0
  faults : List FaultRec := []
  blocked : List (Nat × Nat) := []  -- operations that wait on a fault record (their numbers) and its tag (R277)
  broken : List (Nat × Nat) := []   -- operations that FRESUME has told to end, and their status (R278)
  jpwr   : Word := 0x77
  jpwrlo : Word := 1
  jpwrhi : Word := 0xFF77
  closed : List Nat := []          -- phases closed
  phaseEnded : List Nat := []
  phaseDead : List Nat := []       -- phases cancelled (R55)
  ctxs   : Tab Nat := []           -- cluster to context tag + 1 (R50)
  tensors : Tab (BitVec 256) := [] -- R140
  closeCtr : Option Nat := none    -- job 0's counter that its close names (R51)
  status : Nat := 0
  cts    : Nat := 0
  cancelled : Bool := false
  deriving DecidableEq, Repr, Inhabited

/-- The range server of a launch (R42). -/
structure Range where
  size   : Nat := 0
  next   : Nat := 0
  minchk : Nat := 1
  back   : List (Nat × Nat) := []  -- chunks returned by aborted blocks
  deriving DecidableEq, Repr, Inhabited

structure Launch where
  used   : Bool := false
  job    : Nat := 0
  graph  : Nat := 0
  phase  : Nat := 0
  kind   : Nat := 0                -- 1 job card, 2 pack
  quarter : Nat := 0
  stamp  : Nat := 0                -- timestamp of dispatch (R38)
  packet : List Word := []
  cctr   : Nat := 0
  cwaddr : Word := 0
  bound  : Bool := false
  started : Bool := false
  armed  : Bool := true
  status : Nat := 0
  cts    : Nat := 0
  cancelled : Bool := false
  ended  : Bool := false
  range  : Option Range := none
  setLive : Tab Nat := []          -- strands of a set started and not retired
  left   : Nat := 0                -- strands of a job card not yet started (R40)
  deriving DecidableEq, Repr, Inhabited

/-- A collective of a bound graph, as this device holds it (R381-R400). -/
structure Coll where
  record : Word := 0
  placed : Bool := false
  crossed : Bool := false
  doneW : Bool := false            -- the rank's done word is written
  count : Nat := 0                 -- cells delivered or results written on this rank (R384)
  maxw  : Nat := 0                 -- largest WTS of those writes
  held  : List MCell := []         -- contributions that the switch box's node holds
  top   : List MCell := []         -- group results that the root node holds
  waits : List MCell := []         -- CSEND and CRECV cells that wait (R395)
  slots : List Nat := []           -- switch-box slots granted: clusters
  gates : Nat := 0                 -- gateway nodes granted
  aborted : Bool := false          -- an ABRT has come, or a rank has left the fabric
  stat  : Nat := 0                 -- first failure of a write on this rank
  pend  : Nat := 0                 -- write cells on their way
  got   : Nat := 0                 -- cells or results that have come for this rank
  total : Option Nat := none       -- how many it is to have, once known
  owe   : Option Nat := none       -- status of a done word whose page has faulted
  deriving DecidableEq, Repr, Inhabited

/-- An activation of a dynamic graph, as recorded for re-issue (R436, R437): its strand, the strand's timestamp, its side
effects, its streams that have ended, by AGN. After a re-issue: what the strand still holds for it, cells' operations by
cluster and scoreboard tokens. -/
structure Activation where
  colour : Nat := 0
  who    : Owner := {}
  stamp  : Nat := 0
  fx     : List Effect := []
  ran    : List (Nat × Stream) := []
  purged : Bool := false
  again  : Bool := false
  owed   : List (Nat × MCell) := []
  owedTk : List (Owner × Nat) := []
  deriving DecidableEq, Repr, Inhabited

structure Graph where
  used   : Bool := false
  img    : GraphImage := {}
  config : Bool := false           -- its configuration is complete (R419)
  launch : Nat := 0
  bound  : Bool := false
  lo     : Nat := 0
  adm    : Nat := 0                -- tags admitted: lo to adm - 1 are live
  srcTop : Tab Nat := []           -- source node to one more than the highest tag it has released
  closedAdm : Bool := false
  bars   : Tab Nat := []           -- barrier slot to cluster * 256 + object + 1
  colls  : Tab Coll := []
  acts   : List Activation := []
  mism   : Nat := 0                -- twin mismatches (R440)
  moved : List (Nat × Nat) := []   -- clusters of its first placement and those that stand for them (R444)
  drained : List Nat := []         -- AGN keys whose drain token has been sent
  retired : Bool := false
  lost   : Bool := false
  deriving DecidableEq, Repr, Inhabited

/-- A launch queue (R57, R413). -/
structure Queue where
  base  : Word := 0
  cfg   : Word := 0
  claim : Nat := 0
  head  : Nat := 0
  pub   : Nat := 0
  marks : List Nat := []           -- claims published out of order
  gone  : List Nat := []           -- packets removed by a cancel, still between HEAD and PUB
  owners : List (Nat × Nat) := []  -- claim, strand that holds it
  times : List (Nat × Nat) := []   -- claim, order in which its packet was published
  aged  : Bool := false
  deriving DecidableEq, Repr, Inhabited

structure Work where
  jobs  : Tab Job := []
  launches : Tab Launch := []      -- key launch identifier
  graphs : Tab Graph := []         -- key job * 2^16 + graph
  queues : Tab Queue := []         -- key quarter * 256 + queue
  credit : Tab Nat := []           -- (quarter * 8 + priority) * 4096 + job to credit (R59)
  lastJob : Tab Nat := []          -- quarter * 8 + priority
  launchNo : Tab Nat := []         -- quarter to count (R30)
  counts : Tab Nat := []           -- termination counters (R52)
  claims1 : List Nat := []         -- launches picked and not yet bound, oldest first (R60)
  tagPool : Tab (List Nat) := []   -- cluster to context tags in use
  reports : Tab Nat := []          -- cluster * 64 + ctx to report strand + 1 (R171)
  ctxJob : Tab Nat := []           -- cluster * 64 + ctx to job + 1
  deriving DecidableEq, Repr, Inhabited

/-! ## Markets and matching stores -/

structure Matched where
  slot : Nat := 0                  -- the auction's slot
  cell : MCell := {}
  ingress : Nat := 0
  egress : Nat := 0
  free : Bool := true              -- the cell's last crossing
  crossed : Bool := false         -- it has crossed; kept for the credits of R200
  deriving DecidableEq, Repr, Inhabited

structure Market where
  slot  : Nat := 0
  queues : Tab (List MCell) := []  -- key ingress * 66 + (egress * 2 + class, or 64 + class for multicast)
  since : Tab Nat := []            -- slot at which the head became head, + 1
  heads : Tab (Nat × Nat) := []    -- the head's number and the order in which it became head
  left  : Tab (BitVec 32) := []    -- remaining set of a multicast head (R199)
  opened : List Nat := []
  op    : Tab Nat := []
  ap    : Tab Nat := []
  matched : List Matched := []
  buf0  : Tab (List MCell) := []   -- egress input buffers, class 0 (R200)
  buf1  : Tab (List MCell) := []
  used0 : Tab Nat := []            -- entries taken at the start of the slot
  cfg   : Word := 0x400100
  mcg   : Tab Word := []
  aged  : Word := 0
  short : Word := 0
  stale : Word := 0
  agedQ : List Nat := []           -- queues whose aged head has been counted
  deriving DecidableEq, Repr, Inhabited

/-- A token that waits in a matching store: its cell and the part of its run that is left (R172). -/
structure Stall where
  cell : MCell := {}
  lo   : Nat := 0                  -- first element of the part
  n    : Nat := 1                  -- elements of the part
  age  : Nat := 0
  deriving DecidableEq, Repr, Inhabited

/-- A port's engine side: what waits, what has been delivered and not yet acted on. -/
structure Port where
  stalls : List Stall := []        -- operands and merges
  gates  : List MCell := []        -- gate cells (R202)
  cmpls  : List MCell := []        -- CMPL tokens that wait
  inbox  : List MCell := []        -- delivered cells to be acted on
  shorts : List Nat := []          -- tokens whose want of a stall has been counted, by their age (R204)
  deriving DecidableEq, Repr, Inhabited

/-- A timeline (R164): operations started, which are complete, their completion timestamps, the previous CTS (R316). -/
structure Timeline where
  next : Nat := 1
  done : List (Nat × Nat) := []    -- completed numbers above the counter, with CTS
  tl   : Nat := 0
  cts  : Nat := 0                  -- CTS of operation tl
  prev : Nat := 0
  ctss : List (Nat × Nat) := []    -- CTS of completed operations
  deriving DecidableEq, Repr, Inhabited

/-- An open intersection job (R184-R186). -/
structure IxJob where
  ctx : Nat := 0
  col : Nat := 0
  cop : Nat := 0
  route : Nat := 0
  cells : List MCell := []         -- both sides' cells that wait for their turn
  ends : List (Owner × Report × BitVec 24) := []   -- operations of the cells consumed: they end with the job
  fmt  : Nat := 0                  -- element width in bits
  lseq : Nat := 0                  -- sequence number of each side's next cell
  rseq : Nat := 0
  lq   : List Nat := []            -- elements of the cell at work, not yet used
  rq   : List Nat := []
  lend : Bool := false             -- the side's last cell is at work, or done
  rend : Bool := false
  lord : Nat := 0                  -- ordinals
  rord : Nat := 0
  lprev : Option Nat := none
  rprev : Option Nat := none
  outI : List Nat := []            -- index output not yet sent
  outP : List Nat := []            -- pair output not yet sent
  nout : Nat := 0                  -- cells sent
  pout : Nat := 0
  nmatch : Nat := 0
  itag : Option Nat := none        -- of the left side's cell 0
  gate : Bool := false
  md   : Nat := 0
  who  : Owner := {}
  agent : Nat := 0                 -- of its first cell (R294)
  stamp : Nat := 0
  age  : Nat := 0
  num  : Nat := 0
  deriving DecidableEq, Repr, Inhabited

/-- A row in progress in the row normaliser (R388-R390). -/
structure SfRow where
  ctx : Nat := 0
  col : Nat := 0
  cop : Nat := 0
  itag : Nat := 0
  cells : List MCell := []         -- the delay buffer's cells of the row, in index order
  dead : Bool := false             -- it has failed: the rest of it is discarded
  num  : Nat := 0
  who  : Owner := {}
  deriving DecidableEq, Repr, Inhabited

/-- A member entry of a barrier object (R329). -/
structure Member where
  node : Nat := 0
  id   : Nat := 0
  tap  : Bool := false
  arr  : Bool := false
  xp   : Bool := false
  deriving DecidableEq, Repr, Inhabited

/-- A barrier object (R329). -/
structure Barrier where
  used : Bool := false
  cph  : Nat := 0
  brk  : Bool := false
  drop : Bool := false
  evt  : Bool := false
  pend : Int := 0
  cstamp : Nat := 0
  nmem : Nat := 0
  resv : Nat := 0
  report : Nat := 0
  ostamp : Nat := 0
  members : List Member := []
  remote : Nat := 0                -- reserved remote entries not yet taken
  loc    : Nat := 0                -- reserved entries of local strands not yet taken (a list's barrier, R419)
  held : List MCell := []          -- events that wait for the phase (R330)
  deriving DecidableEq, Repr, Inhabited

/-- A tap's count (R336). -/
structure TapSt where
  lasts : Nat := 0
  stamp : Nat := 0
  covered : Nat := 0
  exited : Bool := false
  deriving DecidableEq, Repr, Inhabited

structure Engines where
  markets : Tab Market := []
  ports  : Tab Port := []          -- key cluster * 32 + egress port
  outs   : Tab (List MCell) := []  -- key cluster * 32 + ingress port: results that ask for admission
  routes : Tab Word := []          -- key ((cluster * 32 + ENG) * 64 + ctx) * 16 + number
  seeds  : Tab Nat := []           -- key (cluster * 32 + ENG) * 64 + ctx
  times  : Tab Timeline := []      -- key (cluster * 32 + ENG) * 64 + ctx (matrix: context)
  ixjobs : Tab (List IxJob) := []  -- key cluster
  rows   : Tab (List SfRow) := []  -- key cluster
  bars   : Tab Barrier := []       -- key cluster * 256 + object
  taps   : Tab TapSt := []         -- key (job * 2^16 + graph) * 64 + tap
  mcasts : Tab Nat := []           -- copies of a strand's multicast cell not yet done, by the cell's number (R245)
  comps  : Tab (List MCell) := []  -- comparator: waiting exit cells, key cluster (R440)
  hurt   : Tab (List MCell) := []  -- cells whose operation met lost data, until the purge of their colour (R432), key cluster
  deriving DecidableEq, Repr, Inhabited

/-! ## Matrix engines -/

/-- The open operation of a matrix context (R239). -/
structure OpenOp where
  cop  : Nat := 0
  col  : Nat := 0
  tag  : Nat := 0
  num  : Nat := 0
  stat : Nat := 0
  prog : Nat := 0
  scx  : Bool := false
  dead : Bool := false             -- rolled back: the rest is discarded (R246)
  chk  : Bool := false             -- a periodic check covers it (R257)
  last : Nat := 0                  -- tag of the cell that it has taken last
  stamp : Nat := 0
  who  : Owner := {}
  gidx : Nat := 0                  -- MGTH: indices applied of the cell at work
  ends : List (Owner × Report × BitVec 24) := []   -- operations of its cells: they end with it
  deriving DecidableEq, Repr, Inhabited

structure MatCtx where
  acc  : Tab (List Word) := []     -- key row: its 256 elements; a row not listed is +0.0 (R239)
  accUndef : Bool := false         -- after ME_CHKFAIL (R257)
  fp64 : Bool := false
  aclean : Bool := true
  latch : Tab (BitVec 1024) := []  -- key latch cell (R238)
  hc   : Tab Nat := []
  scl  : Tab (BitVec 16) := []     -- key column * 8 + header
  lfmt : Nat := 0x13
  lscl : Bool := false
  opn  : Option OpenOp := none
  jrn  : List (Nat × List Word) := []   -- journalled rows
  parked : Bool := false
  frozen : Bool := false           -- its job is pre-empted: no further row is applied (R214)
  saving : Option MCell := none    -- MSAVE at work
  loading : Option MCell := none   -- MLOAD at work
  cfg0 : Word := 0
  cfg1 : Word := 0
  queue : List MCell := []         -- cells that have arrived, in order
  pend : List MCell := []          -- MCSR and MBSR cells without a partner
  drains : Nat := 0                -- drain cells not yet acknowledged, the first failure and the latest timestamp
  dstat : Nat := 0
  dcts : Nat := 0
  saves : Nat := 0                 -- image cells, likewise
  sstat : Nat := 0
  scts : Nat := 0
  drainOp : Option (Nat × MCell) := none   -- MDRN waiting for its acknowledgements
  deriving DecidableEq, Repr, Inhabited

structure MatEng where
  last : Nat := 3
  mchkn : Nat := 64
  quar : Bool := false
  qcol : Nat := 0
  qrow : Nat := 0
  scx  : Word := 0
  chkc : Nat := 1
  nops : Nat := 0
  deriving DecidableEq, Repr, Inhabited

structure Matrix where
  ctxs : Tab MatCtx := []          -- key (cluster * 4 + engine) * 4 + context
  engs : Tab MatEng := []          -- key cluster * 4 + engine
  deriving DecidableEq, Repr, Inhabited

/-! ## Kennels and power -/

/-- A lease slot of a launch in a quarter (R363). -/
structure LeaseSlot where
  used : Bool := false
  kind : Nat := 0
  prio : Nat := 0
  gen  : Nat := 0
  state : Nat := 0                 -- STATE of R367
  stat : Nat := 0
  eng  : Nat := 0
  tkWho : Owner := {}              -- the strand whose token tk is
  tk   : Option Nat := none
  lgen : Nat := 0                  -- generation of the request or lease
  who  : Owner := {}
  deriving DecidableEq, Repr, Inhabited

structure LeaseReq where
  slot : Nat := 0                  -- key of its lease slot
  prio : Nat := 0
  age  : Nat := 0
  bound : Option Nat := none       -- engine recalled for it
  deriving DecidableEq, Repr, Inhabited

/-- A kennel job that its gateway has accepted, or one that has ended there and still owes its done word (R353, R369): its
cell, its number on the gateway's timeline, the gateway's cluster; the status it must end with (0: it runs); whether it
was the one running when it was told to end; and, once its results are written, its status, the P of its done word and
its timestamp. -/
structure KJob where
  cell : MCell := {}
  num  : Nat := 0
  cl   : Nat := 0
  stat : Nat := 0
  live : Bool := false
  fin  : Option (Nat × Nat × Nat) := none
  deriving DecidableEq, Repr, Inhabited

/-- A kennel engine (R363). State 0 ASLEEP, 1 WARM, 2 WAKING, 3 HELD, 4 RECALLING, 5 DRAINING. -/
structure KEngine where
  state : Nat := 0
  slot  : Nat := 0                 -- lease slot key + 1; 0 none
  age   : Nat := 0                 -- order of becoming WARM or of the grant
  jobs  : List KJob := []          -- in order of arrival, at most 16 (R369)
  rel   : Bool := false            -- its lease ended while it was waking
  out   : Bool := false            -- out of service after KFAULT
  deriving DecidableEq, Repr, Inhabited

structure Island where
  cur  : Nat := 7
  ret  : Bool := false
  str  : Bool := false
  floor : Nat := 0
  hop  : Option Nat := none        -- level that a hop in progress goes to
  retry : Option Nat := none       -- level of a hop abandoned for a droop
  wake : Bool := false             -- something has reached it in retention (R377)
  deriving DecidableEq, Repr, Inhabited

structure Kennels where
  slots : Tab LeaseSlot := []      -- key (launch * 4 + quarter) * 8 + slot
  engines : Tab KEngine := []      -- key quarter * 32 + kind * 4 + engine
  queues : Tab (List LeaseReq) := []   -- key quarter * 8 + kind
  ended : Tab (List KJob) := []    -- jobs ended at a gateway whose done word has faulted, key cluster
  cfg   : Tab Word := []           -- KNCFG per quarter
  rcl   : Tab Word := []
  evc   : Tab Word := []
  full  : Tab Word := []
  pwcfg : Tab Word := []
  islands : Tab Island := []       -- key quarter * 16 + island
  rgn   : Tab Word := []           -- VFRGN
  lscale : Tab Nat := []           -- key quarter * 16 + region
  drops : Tab Nat := []            -- levels that a region has been lowered by (R375), same key
  hopabort : Tab Word := []
  clampsat : Tab Word := []
  deriving DecidableEq, Repr, Inhabited

/-! ## Links -/

/-- A Tsuax port's link end (R404). -/
structure TsPort where
  credit : Tab Nat := []           -- lane to credits held; 32 where none is listed
  lastAck : Nat := 4095            -- ACK last received
  txSeq : Nat := 0
  rxSeq : Nat := 4095              -- last good SEQ received
  replay : List (BitVec 2048) := []
  out   : List (BitVec 2048) := [] -- flits waiting for credit
  sent  : List (BitVec 2048) := [] -- flits sent, newest first, kept for observation of replays
  owed  : Tab Nat := []            -- credits to return per lane
  deriving DecidableEq, Repr, Inhabited

/-- A UCIe module's end in a die (R427-R429, R447, R448). -/
structure UcMod where
  state : Nat := 0                 -- UCSTAT [63:62]
  half  : Nat := 0
  wide  : Bool := true             -- it last came up at ×64
  try64 : Bool := true             -- the training in progress may bring it back to ×64 (R447)
  repaired : Nat := 0
  txSeq : Nat := 0
  rxLast : Option Nat := none      -- last SEQ delivered
  replay : List (BitVec 2048) := []
  out   : List (BitVec 2048) := []
  cells : List MCell := []         -- the cells of the CELL flits sent from here and not yet delivered, in order
  nakked : Bool := false           -- a NAK of this end is on its way
  retries : Nat := 0               -- retries within the window
  lim   : Nat := 4
  win   : Nat := 10
  retry : Word := 0
  rtrn  : Word := 0
  drop  : Word := 0
  deriving DecidableEq, Repr, Inhabited

/-- A window of RSEQs (R430): key (RK, PCL, DCL) or a pair of dies. -/
structure Window where
  h    : Nat := 0xFFFF
  bits : BitVec 64 := BitVec.allOnes 64
  deriving DecidableEq, Repr, Inhabited

/-- An access from outside that a peer has been sent, or a request tag in use (R403). -/
structure PeerReq where
  tag  : Nat := 0
  copy : Option Nat := none        -- copy operation
  xfer : Option Nat := none
  off  : Nat := 0
  len  : Nat := 0
  deriving DecidableEq, Repr, Inhabited

/-- A queue pair (R407). No operation of the spec makes one: the host does so by means the spec does not give. UNVERIFIED: notes/assumptions/81. -/
structure Qp where
  valid : Bool := false
  job  : Nat := 0
  part : Nat := 0                  -- the partition that it reaches, by its lowest quarter
  rate : Nat := 0                  -- rate reductions by congestion notification (R407)
  deriving DecidableEq, Repr, Inhabited

/-- A message that leaves over a queue pair (R407, R408). Kind 0 WRITE, 1 WRITE with immediate, 2 READ, 3 acknowledgement,
4 NAK, 5 READ response. DESIGN CHOICE: notes/assumptions/96. -/
structure EthMsg where
  qpn  : Nat := 0
  kind : Nat := 0
  addr : Nat := 0
  rkey : Nat := 0
  imm  : Nat := 0
  len  : Nat := 0
  data : List Byte := []
  deriving DecidableEq, Repr, Inhabited

structure Links where
  ts    : Tab TsPort := []
  ucs   : Tab UcMod := []          -- key die * 64 + module
  wins  : Tab Window := []         -- key ((die * 4 + RK) * 64 + PCL) * 64 + DCL; RK 0: PCL a die, a pair's tags
  rseq  : Tab Nat := []            -- key source * 64 + destination
  mesh  : Tab (List MCell) := []   -- cells on their way to ingress 30, key cluster
  reqs  : List PeerReq := []
  nextReq : Nat := 0
  ace   : Tab Word := []           -- R411
  refused : Word := 0
  badflit : Word := 0
  qps   : Tab Qp := []
  ethOut : List EthMsg := []       -- messages sent over Ethernet, oldest first
  pfc   : Tab Bool := []           -- port * 8 + priority paused
  gates : Tab Nat := []            -- gateway reduction nodes in use: key I/O die
  slots : Tab Nat := []            -- switch-box slots in use: key cluster
  deriving DecidableEq, Repr, Inhabited

/-! ## Reliability, partitions, bring-up, trust -/

structure Reliability where
  base : Word := 0
  cfg  : Word := 0
  head : Word := 0
  tail : Nat := 0
  ce   : Word := 0
  ue   : Word := 0
  crc  : Word := 0
  sdc  : Word := 0
  lost : Word := 0
  seqn : Nat := 0
  deriving DecidableEq, Repr, Inhabited

/-- What a partition holds, under the number of its lowest quarter (R302, R327, R435, R450, R459). -/
structure Partition where
  mmcfg : Word := 1024
  epoch : Word := 0
  walker : Bool := false           -- a rebase's walker has not finished (R301)
  majfail : Word := 0
  rel   : Reliability := {}
  pnode : Word := 0
  qage  : Word := 2000
  hil   : Tab Word := []
  sset  : Tab Word := []
  deriving DecidableEq, Repr, Inhabited

structure Hound where
  cfg  : Word := 0x80001000
  rep  : Word := 0
  rdrep : Word := 0
  pass : Word := 0
  pos  : Nat := 0
  deriving DecidableEq, Repr, Inhabited

structure System where
  parts : Tab Partition := []      -- key lowest quarter
  hounds : Tab Hound := []
  pcfg  : Word := 0
  pmstat : Nat := 0
  pmask : Nat := 0
  pcfgOld : Word := 0              -- PCFG as it was when the quarters of PMSTAT were quiesced (R451)
  mbnd  : Tab Word := []
  xlstat : Tab Word := []
  bustate : Nat := 0
  caldone : BitVec 12 := 0
  qup   : BitVec 4 := 0
  qver  : BitVec 4 := 0            -- quarters whose firmware is verified and that are ready
  failc : BitVec 8 := 0
  fwver : BitVec 32 := 0
  nonce : Word := 0
  attreq : Option (Nat × Nat) := none      -- OP, address
  attwait : List (Nat × Nat) := []
  meas  : Tab (BitVec 256) := []
  ways  : Tab Word := []           -- CWMASK: key cluster * 2 + register; absent: all ones (stored complemented)
  loaderVer : BitVec 32 := 0
  loaderDig : BitVec 256 := 0
  deriving DecidableEq, Repr, Inhabited

/-- The whole device. -/
structure State where
  sched : Sched := {}
  mem   : Memory := {}
  core  : Cores := {}
  acc   : Access := {}
  work  : Work := {}
  eng   : Engines := {}
  mat   : Matrix := {}
  ken   : Kennels := {}
  lnk   : Links := {}
  sys   : System := {}
  deriving DecidableEq, Repr, Inhabited

/-- The machine right after reset. Job 0 is the host's own and exists from bring-up, live (R51); the arming count of its
package counter (R52) is the one entry of the termination counters. DESIGN CHOICE: notes/assumptions/7. -/
def State.reset : State :=
  { work := { jobs := [(0, { state := 1 })], counts := [((4 * 2 ^ 46 * 4 + 3) * 512, 1)] } }

end Sys2Proof.Machine
end

