-- ==== Sys2Proof/Config.lean ====
section
/-! DEFINITION. Config.lean: what the spec leaves free or to the implementation, as constants without a body: no proof can
see a value of one of them, so whatever is proved holds for every value (notes/assumptions name each). -/

namespace Sys2Proof.Config

open Sys2Proof.Machine

/-- What acts next when the agenda is empty: the order in which the device's agents act is free. DESIGN CHOICE: notes/assumptions/1. -/
opaque pick : Nat → Pick

/-- A value the spec leaves open, applied to the counter of free values. DESIGN CHOICE: notes/assumptions/3. -/
opaque freeValue : Nat → Word

/-- Which cache set and bank a line of HBM falls in (spec/06 R138 names no hash). DESIGN CHOICE: notes/assumptions/4, 27. -/
opaque cacheSlot : Nat → Nat

/-- Whether an SLH-DSA-SHA2-192s signature over a message verifies under a key (FIPS 205, spec/23 R462). DESIGN CHOICE: notes/assumptions/4. -/
opaque slhVerify : BitVec 384 → List Byte → List Byte → Bool

/-- The device's own SLH-DSA-SHA2-192s signature over a report (spec/23 R464). DESIGN CHOICE: notes/assumptions/4. -/
opaque slhSign : List Byte → List Byte

/-- The device's certificate (spec/23 R464). DESIGN CHOICE: notes/assumptions/4. -/
opaque certificate : List Byte

/-- The device serial number (spec/23 R464). DESIGN CHOICE: notes/assumptions/4. -/
opaque serial : Word

/-- The fused digest of the signing key and the fused minimum version (spec/23 R462). DESIGN CHOICE: notes/assumptions/4. -/
opaque fusedKey : BitVec 256
/-- DESIGN CHOICE: notes/assumptions/4. -/
opaque fusedMin : BitVec 32

/-- The boot ROM stage's bytes, which MEAS0 measures (spec/23 R463). DESIGN CHOICE: notes/assumptions/4. -/
opaque bootRom : List Byte

/-- Which of the 18 Tsuax ports leads to a node (spec/20 R401 names no routes). DESIGN CHOICE: notes/assumptions/4. -/
opaque tsuaxPort : Nat → Nat

/-- Whether a queue pair accepts a remote key (spec/20 R407 gives no keys). DESIGN CHOICE: notes/assumptions/4; UNVERIFIED: notes/assumptions/81. -/
opaque rkeyOk : Nat → BitVec 32 → Bool

/-- The host's Tsuax node, which entry 0 of the access-control table names at bring-up (spec/20 R411). DESIGN CHOICE: notes/assumptions/4. -/
opaque hostNode : BitVec 16

end Sys2Proof.Config
end

