-- ==== Sys2Proof/Machine/Float.lean ====
section
/-! DEFINITION. Machine/Float.lean: floating-point formats and exact arithmetic with one rounding (spec/11 R215-R236,
spec/05 R121-R127). A value is kept exactly as a signed fraction times a power of two until the one rounding. -/

namespace Sys2Proof.Machine

/-- Whether a format has infinities, only NaNs, or neither (R218, R220, R222). -/
inductive FKind where
  | ieee | e4m3 | plain
  deriving DecidableEq, Repr

/-- Sign, exponent and fraction widths of a format and its bias (R218, R220, R222). -/
structure FFmt where
  ebits : Nat
  mbits : Nat
  bias  : Nat
  kind  : FKind
  deriving DecidableEq, Repr

def fp64 : FFmt := ⟨11, 52, 1023, .ieee⟩
def fp32 : FFmt := ⟨8, 23, 127, .ieee⟩
def fp16 : FFmt := ⟨5, 10, 15, .ieee⟩
def bf16 : FFmt := ⟨8, 7, 127, .ieee⟩
def e4m3 : FFmt := ⟨4, 3, 7, .e4m3⟩
def e5m2 : FFmt := ⟨5, 2, 15, .ieee⟩
def e2m1 : FFmt := ⟨2, 1, 1, .plain⟩

def FFmt.width (f : FFmt) : Nat := 1 + f.ebits + f.mbits

/-- An exact value: NaN, an infinity (true: negative), or ±(n / d) · 2^e. A zero keeps its sign. -/
inductive FV where
  | nan
  | inf (s : Bool)
  | fin (s : Bool) (n d : Nat) (e : Int)
  deriving DecidableEq, Repr

/-- The value a bit pattern encodes. -/
def fdec (f : FFmt) (b : Nat) : FV :=
  let s := (b >>> (f.ebits + f.mbits)) % 2 == 1
  let ex := (b >>> f.mbits) % 2 ^ f.ebits
  let fr := b % 2 ^ f.mbits
  if f.kind = .ieee ∧ ex = 2 ^ f.ebits - 1 then (if fr = 0 then .inf s else .nan)
  else if f.kind = .e4m3 ∧ ex = 15 ∧ fr = 7 then .nan
  else if ex = 0 then .fin s fr 1 (1 - (f.bias : Int) - f.mbits)
  else .fin s (2 ^ f.mbits + fr) 1 ((ex : Int) - f.bias - f.mbits)

def signBit (f : FFmt) (s : Bool) : Nat := if s then 2 ^ (f.ebits + f.mbits) else 0

/-- The code of the largest finite magnitude. -/
def maxCode (f : FFmt) : Nat :=
  match f.kind with
  | .ieee => (2 ^ f.ebits - 1) * 2 ^ f.mbits - 1
  | .e4m3 => 0x7E
  | .plain => 2 ^ (f.ebits + f.mbits) - 1

/-- The canonical NaN (R218, R220). E2M1 has none. DEDUCED: notes/assumptions/56. -/
def canonNan (f : FFmt) : Nat :=
  match f.kind with
  | .ieee => (2 ^ f.ebits - 1) * 2 ^ f.mbits + 2 ^ (f.mbits - 1)
  | .e4m3 => 0x7F
  | .plain => 0

/-- ±∞ in the format, with SAT for the 8-bit floats (R221); a format of 16 bits or more has its own infinity. -/
def infCode (f : FFmt) (s sat : Bool) : Nat :=
  match f.kind with
  | .ieee =>
    if sat && f.width == 8 then signBit f s + maxCode f
    else signBit f s + (2 ^ f.ebits - 1) * 2 ^ f.mbits
  | .e4m3 => if sat then signBit f s + maxCode f else 0x7F
  | .plain => signBit f s + maxCode f

/-- Whether the mode takes the neighbour away from zero, given the remainder r of a division by d (r < d), the parity of
the truncated value and the draw u of R231 (R230). -/
def takesUp (m : Rnd) (s : Bool) (odd : Bool) (r d u : Nat) : Bool :=
  if r = 0 then false
  else match m with
    | .rne => decide (2 * r > d) || (decide (2 * r = d) && odd)
    | .rtz => false
    | .rup => !s
    | .rdn => s
    | .sr => decide (u < r * 2 ^ 32 / d)

/-- floor(log2 (n / d)) for n, d > 0. -/
def ratLog2 (n d : Nat) : Int :=
  let k : Int := (n.log2 : Int) - d.log2
  -- 2^k ≤ n / d or it lies one below
  if k ≥ 0 then (if d * 2 ^ k.toNat ≤ n then k else k - 1)
  else (if d ≤ n * 2 ^ (-k).toNat then k else k - 1)

/-- n / d · 2^e as a fraction of naturals. -/
def scale (n d : Nat) (e : Int) : Nat × Nat :=
  if e ≥ 0 then (n * 2 ^ e.toNat, d) else (n, d * 2 ^ (-e).toNat)

/-- Round an exact value once to the format (R123, R221, R230, R231). u is the draw of stochastic rounding. DEDUCED: notes/assumptions/55. -/
def fround (f : FFmt) (m : Rnd) (sat : Bool) (u : Nat) : FV → Nat
  | .nan => canonNan f
  | .inf s => infCode f s sat
  | .fin s n d e =>
    if n = 0 then signBit f s
    else
      let umin : Int := 1 - (f.bias : Int) - f.mbits
      let ulp : Int := max (ratLog2 n d + e - f.mbits) umin
      let (a, b) := scale n d (e - ulp)
      let q := a / b
      let r := a % b
      let q' := if takesUp m s (q % 2 == 1) r b u then q + 1 else q
      let code := (ulp - umin).toNat * 2 ^ f.mbits + q'
      if code > maxCode f then
        match m with
        | .rtz => signBit f s + maxCode f
        | .rup => if s then signBit f s + maxCode f else infCode f s sat
        | .rdn => if s then infCode f s sat else signBit f s + maxCode f
        | .rne => infCode f s sat
        | .sr => infCode f s sat
      else signBit f s + code

def FV.neg : FV → FV
  | .nan => .nan
  | .inf s => .inf (!s)
  | .fin s n d e => .fin (!s) n d e

def FV.isNan : FV → Bool
  | .nan => true
  | _ => false

def FV.isZero : FV → Bool
  | .fin _ 0 _ _ => true
  | _ => false

/-- The sign bit of a value, false for NaN. -/
def FV.sgn : FV → Bool
  | .nan => false
  | .inf s => s
  | .fin s _ _ _ => s

/-- Exact sum, with the sign of an exact zero decided by the mode (R123). -/
def fvAdd (m : Rnd) : FV → FV → FV
  | .nan, _ => .nan
  | _, .nan => .nan
  | .inf s, .inf t => if s = t then .inf s else .nan
  | .inf s, _ => .inf s
  | _, .inf t => .inf t
  | .fin s n d e, .fin t k c g =>
    if n = 0 ∧ k = 0 then .fin (if s = t then s else decide (m = .rdn)) 0 1 0
    else
      let b := min e g
      let x : Int := (n * c * 2 ^ (e - b).toNat : Nat)
      let y : Int := (k * d * 2 ^ (g - b).toNat : Nat)
      let z : Int := (if s then -x else x) + (if t then -y else y)
      if z = 0 then .fin (decide (m = .rdn)) 0 1 0
      else .fin (decide (z < 0)) z.natAbs (d * c) b

/-- Exact product; 0 × ∞ is NaN (R123). -/
def fvMul : FV → FV → FV
  | .nan, _ => .nan
  | _, .nan => .nan
  | .inf s, .inf t => .inf (s != t)
  | .inf s, .fin t n _ _ => if n = 0 then .nan else .inf (s != t)
  | .fin s n _ _, .inf t => if n = 0 then .nan else .inf (s != t)
  | .fin s n d e, .fin t k c g => .fin (s != t) (n * k) (d * c) (e + g)

/-- Exact quotient (R123). -/
def fvDiv : FV → FV → FV
  | .nan, _ => .nan
  | _, .nan => .nan
  | .inf _, .inf _ => .nan
  | .inf s, .fin t _ _ _ => .inf (s != t)
  | .fin s _ _ _, .inf t => .fin (s != t) 0 1 0
  | .fin s n d e, .fin t k c g =>
    if k = 0 then (if n = 0 then .nan else .inf (s != t))
    else .fin (s != t) (n * c) (d * k) (e - g)

/-- Integer square root: the largest r with r² ≤ n, found bit by bit from 2^k down. -/
def isqrtGo : Nat → Nat → Nat → Nat
  | 0, n, r => if (r + 1) * (r + 1) ≤ n then r + 1 else r
  | k + 1, n, r =>
    let t := r + 2 ^ (k + 1)
    isqrtGo k n (if t * t ≤ n then t else r)

def isqrt (n : Nat) : Nat := isqrtGo (n.log2 / 2 + 1) n 0

/-- A value that rounds as √(n / d · 2^e) does in every mode: at least `bits` significant bits and one sticky bit. -/
def sqrtSticky (bits n d : Nat) (e : Int) : Nat × Int :=
  -- n / d scaled by 2^(2 k) so that its root has the wanted bits
  let k : Nat := bits + d.log2
  let odd := e % 2 ≠ 0
  let n1 := if odd then 2 * n else n
  let e1 := if odd then e - 1 else e
  let m := n1 * 2 ^ (2 * k)
  let q := m / d
  let r := isqrt q
  let exact := decide (r * r = q ∧ m % d = 0)
  (2 * r + (if exact then 0 else 1), e1 / 2 - k - 1)

/-- Square root as an exact value for rounding (R123): √(−0) = −0, a negative operand gives NaN. -/
def fvSqrt : FV → FV
  | .nan => .nan
  | .inf s => if s then .nan else .inf false
  | .fin s n d e =>
    if n = 0 then .fin s 0 1 0
    else if s then .nan
    else
      let (r, g) := sqrtSticky 160 n d e
      .fin false r 1 g

/-- Numeric order of two values; none when either is NaN. ±0 are equal (R125). -/
def fvCmp : FV → FV → Option Ordering
  | .nan, _ => none
  | _, .nan => none
  | .inf s, .inf t => some (if s = t then .eq else if s then .lt else .gt)
  | .inf s, _ => some (if s then .lt else .gt)
  | _, .inf t => some (if t then .gt else .lt)
  | .fin s n d e, .fin t k c g =>
    let b := min e g
    let x : Int := (n * c * 2 ^ (e - b).toNat : Nat)
    let y : Int := (k * d * 2 ^ (g - b).toNat : Nat)
    some (compare (if s then -x else x) (if t then -y else y))

/-- Order with −0 below +0 (R124); NaN does not occur. -/
def fvLt (a b : FV) : Bool :=
  match fvCmp a b with
  | some .lt => true
  | some .eq => a.sgn && !b.sgn
  | _ => false

/-- FMIN and FMAX on bit patterns (R124). -/
def fminBits (f : FFmt) (isMax : Bool) (x y : Nat) : Nat :=
  let a := fdec f x
  let b := fdec f y
  if a.isNan && b.isNan then canonNan f
  else if a.isNan then y
  else if b.isNan then x
  else if isMax then (if fvLt a b then y else x)
  else (if fvLt b a then y else x)

/-- Round to an integer in the mode (R127); none for NaN and the infinities. -/
def fvToInt (m : Rnd) (u : Nat) : FV → Option Int
  | .fin s n d e =>
    let (a, b) := scale n d e
    let q := a / b
    let q' := if takesUp m s (q % 2 == 1) (a % b) b u then q + 1 else q
    some (if s then -(q' : Int) else q')
  | _ => none

/-- Float to an integer of w bits, signed or unsigned, saturating; NaN gives 0 (R127, R175). DEDUCED: notes/assumptions/56. -/
def fvToIntSat (w : Nat) (signed : Bool) (m : Rnd) (u : Nat) (x : FV) : Int :=
  let lo : Int := if signed then -(2 ^ (w - 1) : Nat) else 0
  let hi : Int := if signed then (2 ^ (w - 1) - 1 : Nat) else (2 ^ w - 1 : Nat)
  match x with
  | .nan => 0
  | .inf s => if s then lo else hi
  | _ => match fvToInt m u x with
    | some i => if i < lo then lo else if i > hi then hi else i
    | none => 0

/-- An integer as an exact value; zero is +0. -/
def intFV (i : Int) : FV := .fin (decide (i < 0)) i.natAbs 1 0

/-- The class bit of FCLASS (R126). -/
def fclassBit (f : FFmt) (b : Nat) : Nat :=
  let s := (b >>> (f.ebits + f.mbits)) % 2 == 1
  let ex := (b >>> f.mbits) % 2 ^ f.ebits
  let fr := b % 2 ^ f.mbits
  if ex = 2 ^ f.ebits - 1 then
    if fr = 0 then (if s then 0 else 7)
    else if fr ≥ 2 ^ (f.mbits - 1) then 9 else 8
  else if ex = 0 then
    if fr = 0 then (if s then 3 else 4) else (if s then 2 else 5)
  else (if s then 1 else 6)

/-- The 32-bit draw of stochastic rounding (R231). -/
def srDraw (seed t i : Nat) : Nat :=
  let x := Nat.xor (Nat.xor (seed % 2 ^ 32) (t * 0x9E3779B1 % 2 ^ 32)) (i * 0x85EBCA77 % 2 ^ 32)
  let x := Nat.xor x (x / 2 ^ 16) * 0x7FEB352D % 2 ^ 32
  let x := Nat.xor x (x / 2 ^ 15) * 0x846CA68B % 2 ^ 32
  Nat.xor x (x / 2 ^ 16)

/-- Exact sum of a group of products with the special cases of R234; the accumulator is added afterwards. DEDUCED: notes/assumptions/55. -/
def groupSum (ps : List FV) : FV :=
  if ps.any FV.isNan then .nan
  else
    let pos := ps.any (fun p => decide (p = .inf false))
    let neg := ps.any (fun p => decide (p = .inf true))
    if pos && neg then .nan
    else if pos then .inf false
    else if neg then .inf true
    else
      let s := ps.foldl (fun a p => fvAdd .rne a p) (.fin true 0 1 0)
      match s with
      | .fin _ 0 _ _ =>
        -- −0 only when every product is −0
        .fin (ps.all (fun p => p.isZero && p.sgn)) 0 1 0
      | v => v

/-! ## Formats by code (R215) -/

/-- A decoded FMT code: an integer format, a float format, or Q4X. -/
inductive EFmt where
  | int (w : Nat) (signed : Bool)
  | flt (f : FFmt)
  | q4x
  deriving DecidableEq, Repr

def efmt (code : Nat) : Option EFmt :=
  match code with
  | 0x01 => some (.int 8 true)
  | 0x02 => some (.int 16 true)
  | 0x03 => some (.int 32 true)
  | 0x04 => some (.int 64 true)
  | 0x05 => some (.int 8 false)
  | 0x06 => some (.int 16 false)
  | 0x07 => some (.int 32 false)
  | 0x08 => some (.int 64 false)
  | 0x10 => some (.flt fp64)
  | 0x11 => some (.flt fp32)
  | 0x12 => some (.flt fp16)
  | 0x13 => some (.flt bf16)
  | 0x14 => some (.flt e4m3)
  | 0x15 => some (.flt e5m2)
  | 0x16 => some (.flt e2m1)
  | 0x17 => some .q4x
  | _ => none

/-- Element width in bits. -/
def EFmt.bits : EFmt → Nat
  | .int w _ => w
  | .flt f => f.width
  | .q4x => 4

/-- Whether FMT and BLK may stand together (R215, R216). -/
def fmtBlkOk (code blk : Nat) : Bool :=
  if code = 0x16 || code = 0x17 then blk == 32
  else if code = 0x14 || code = 0x15 then blk == 0 || blk == 32
  else (efmt code).isSome && blk == 0

/-! ## Scaled blocks (R223-R226) -/

/-- The exact value times 2^k. -/
def FV.shl (k : Int) : FV → FV
  | .fin s n d e => .fin s n d (e + k)
  | v => v

/-- The value of element `code` under an E8M0 header; none: a reserved header bit (SCALE_FORM, R223). -/
def e8m0Elem (f : FFmt) (hdr code : Nat) : Option FV :=
  if hdr / 256 ≠ 0 then none
  else if hdr = 0xFF then some .nan
  else some ((fdec f code).shl ((hdr : Int) - 127))

/-- The 32 values of a Q4X block from its slots (nibbles) and header; `valid` slots are elements, the rest padding
(R224-R226, R229). none: Q4X_FORM. DEDUCED: notes/assumptions/55. -/
def q4xBlock (hdr : Nat) (nib : List Nat) (valid : Nat) : Option (List FV) :=
  if hdr / 2 ^ 13 ≠ 0 then none
  else
    let onib := hdr / 2 ^ 9 % 16
    let e := hdr % 512
    let escs := (List.range valid).filter (fun j => nib.getD j 0 == 8)
    -- an outlier in even slot 2i takes slot 2i + 1 as its high nibble, so a code there is no escape of its own
    let evens := escs.filter (fun j => j % 2 == 0)
    let odds := escs.filter (fun j => j % 2 == 1)
    if evens.length > 1 || odds.length > 0 then none
    else
      let zero : FV := .fin false 0 1 0
      let val (j : Nat) : FV :=
        if e = 0 then zero
        else if e = 511 then .nan
        else
          let k : Int := (e : Int) - 255
          match evens with
          | [x] =>
            if j = x then (fdec e4m3 (nib.getD (x + 1) 0 * 16 + onib)).shl k
            else if j = x + 1 then zero
            else
              let c := nib.getD j 0
              .fin (decide (c ≥ 8 ∧ c % 8 ≠ 0)) (c % 8) 1 k
          | _ =>
            let c := nib.getD j 0
            .fin (decide (c ≥ 8 ∧ c % 8 ≠ 0)) (c % 8) 1 k
      some ((List.range valid).map val)

/-- Header and codes of an encoded block (R233). vs are the values of its elements, padding left out. DEDUCED: notes/assumptions/55. -/
def encodeBlock (code : Nat) (m : Rnd) (us : List Nat) (vs : List FV) : Nat × List Nat :=
  let bad := vs.any (fun v => match v with | .fin _ _ _ _ => false | _ => true)
  let mag (v : FV) : FV := match v with | .fin _ n d e => .fin false n d e | v => v
  let mx := vs.foldl (fun a v => if fvLt a (mag v) then mag v else a) (.fin false 0 1 0)
  let idx := List.range vs.length
  if code = 0x17 then
    if bad then (0x01FF, idx.map (fun _ => 0))
    else if mx.isZero then (0, idx.map (fun _ => 0))
    else
      -- the least E from 1 to 510 with 7 · 2^(E − 255) ≥ m, or 510
      let e := match mx with
        | .fin _ n d x => (max 1 (min 510 (ratLog2 n d + x - 3 + 255))).toNat
        | _ => 510
      let fits (k : Nat) : Bool := !fvLt (.fin false 7 1 ((k : Int) - 255)) mx
      let e := if fits e then e else if e + 1 ≤ 510 ∧ fits (e + 1) then e + 1 else min (e + 2) 510
      let one (i : Nat) : Nat :=
        match vs.getD i (.fin false 0 1 0) with
        | .fin s n d x =>
          let (a, b) := scale n d (x - ((e : Int) - 255))
          let q := a / b
          let q := min 7 (if takesUp m s (q % 2 == 1) (a % b) b (us.getD i 0) then q + 1 else q)
          if q = 0 then 0 else if s then 8 + q else q
        | _ => 0
      (e, idx.map one)
  else
    let f := if code = 0x16 then e2m1 else if code = 0x14 then e4m3 else e5m2
    let emax : Int := if code = 0x16 then 2 else if code = 0x14 then 8 else 15
    if bad then (0xFF, idx.map (fun _ => canonNan f))
    else if mx.isZero then (0, vs.map (fun v => signBit f v.sgn))
    else
      let lg : Int := match mx with | .fin _ n d x => ratLog2 n d + x | _ => 0
      let x := (max 0 (min 254 (lg - emax + 127))).toNat
      let one (i : Nat) : Nat :=
        let v := (vs.getD i (.fin false 0 1 0)).shl (127 - (x : Int))
        let c := fround f m true (us.getD i 0) v
        c
      (x, idx.map one)

end Sys2Proof.Machine
end

