-- ==== Sys2Proof/Machine/Flags.lean ====
section
/-! DEFINITION. Machine/Flags.lean: the tests (spec/05 R119, R120, R125, R126). The core has no flag register: a test sends
1 or 0 as a token, and the scalar unit keeps no exception flags (R122). -/

namespace Sys2Proof.Machine

/-- The token a relation sends (R119). -/
def flagWord (b : Bool) : Word := if b then 1 else 0

def testEq (l r : Word) : Word := flagWord (l == r)
def testNe (l r : Word) : Word := flagWord (l != r)
def testLt (l r : Word) : Word := flagWord (l.slt r)
def testLe (l r : Word) : Word := flagWord (l.sle r)
def testLtu (l r : Word) : Word := flagWord (l.ult r)
def testLeu (l r : Word) : Word := flagWord (l.ule r)
/-- Bit (Rt AND 63) of L. -/
def testBit (l r : Word) : Word := flagWord (l.getLsbD (r.toNat % 64))

/-- The precision's format (R121). -/
def precFmt : Prec → FFmt
  | .s => fp32
  | .d => fp64

/-- The bits of an operand that a form of the precision reads (R121). -/
def precBits (q : Prec) (x : Word) : Nat := x.toNat % 2 ^ (precFmt q).width

def ftestEq (q : Prec) (l r : Word) : Word :=
  flagWord (fvCmp (fdec (precFmt q) (precBits q l)) (fdec (precFmt q) (precBits q r)) == some .eq)
def ftestLt (q : Prec) (l r : Word) : Word :=
  flagWord (fvCmp (fdec (precFmt q) (precBits q l)) (fdec (precFmt q) (precBits q r)) == some .lt)
def ftestLe (q : Prec) (l r : Word) : Word :=
  let c := fvCmp (fdec (precFmt q) (precBits q l)) (fdec (precFmt q) (precBits q r))
  flagWord (c == some .lt || c == some .eq)

/-- FCLASS (R126). -/
def fclassWord (q : Prec) (l : Word) : Word := BitVec.ofNat 64 (2 ^ fclassBit (precFmt q) (precBits q l))

end Sys2Proof.Machine
end

