-- ==== Sys2Proof/Machine/Alu.lean ====
section
/-! DEFINITION. Machine/Alu.lean: the results of the integer and address forms, the immediate forms and the scalar
floating-point forms, as functions of their tokens (spec/05 R115 to R127). -/

namespace Sys2Proof.Machine

def aluAdd (l r : Word) : Word := l + r
def aluSub (l r : Word) : Word := l - r
def aluMul (l r : Word) : Word := l * r
/-- Bits [127:64] of the signed product (R116). -/
def aluMulh (l r : Word) : Word := BitVec.ofInt 64 (l.toInt * r.toInt / 2 ^ 64)
/-- Bits [127:64] of the unsigned product. -/
def aluMulhu (l r : Word) : Word := BitVec.ofNat 64 (l.toNat * r.toNat / 2 ^ 64)
/-- Quotient truncated toward zero; −2^63 / −1 wraps to −2^63 (R117). A zero divisor traps before this is read. -/
def aluDiv (l r : Word) : Word := BitVec.ofInt 64 (l.toInt.tdiv r.toInt)
/-- s(L) − s(Rt) · div(L, Rt); its sign follows L. -/
def aluRem (l r : Word) : Word := BitVec.ofInt 64 (l.toInt.tmod r.toInt)
def aluDivu (l r : Word) : Word := BitVec.ofNat 64 (l.toNat / r.toNat)
def aluRemu (l r : Word) : Word := BitVec.ofNat 64 (l.toNat % r.toNat)
def aluAnd (l r : Word) : Word := l &&& r
def aluOr (l r : Word) : Word := l ||| r
def aluXor (l r : Word) : Word := l ^^^ r
def aluAndn (l r : Word) : Word := l &&& ~~~r
/-- The shift amount Rt AND 63. -/
def shamt (r : Word) : Nat := r.toNat % 64
def aluShl (l r : Word) : Word := l <<< shamt r
def aluShr (l r : Word) : Word := l >>> shamt r
def aluSar (l r : Word) : Word := l.sshiftRight (shamt r)
def aluRotl (l r : Word) : Word := (l <<< shamt r) ||| (l >>> ((64 - shamt r) % 64))
def aluMin (l r : Word) : Word := if r.slt l then r else l
def aluMax (l r : Word) : Word := if l.slt r then r else l
def aluMinu (l r : Word) : Word := if r.ult l then r else l
def aluMaxu (l r : Word) : Word := if l.ult r then r else l
def aluAbs (l _r : Word) : Word := if l.slt 0 then 0 - l else l
def aluNeg (l _r : Word) : Word := 0 - l

/-- The lowest i from `i` on, of `n` candidates, with bit i of v set; `i + n` where there is none. -/
def firstSet (v : Nat) : Nat → Nat → Nat
  | 0, i => i
  | n + 1, i => if bitAt v i then i else firstSet v n (i + 1)
where
  bitAt (v i : Nat) : Bool := v / 2 ^ i % 2 == 1

def popCount (v : Nat) : Nat → Nat
  | 0 => 0
  | n + 1 => (v / 2 ^ n % 2) + popCount v n

/-- Leading zero bits: 63 less the highest set bit, 64 for zero. -/
def aluClz (l _r : Word) : Word := if l = 0 then 64 else BitVec.ofNat 64 (63 - l.toNat.log2)
def aluCtz (l _r : Word) : Word := BitVec.ofNat 64 (firstSet l.toNat 64 0)
def aluPopc (l _r : Word) : Word := BitVec.ofNat 64 (popCount l.toNat 64)

/-- The mask of a field of w bits, 1 to 64 (R118). -/
def fieldMask (w : Nat) : Word := BitVec.ofNat 64 (2 ^ w - 1)
/-- The field of l at p, w bits wide, bits above 63 reading as 0. -/
def extractField (l : Word) (p w : Nat) : Word := (l >>> p) &&& fieldMask w
def aluBfx (l r : Word) : Word := extractField l (r.toNat / 2 ^ 58) (r.toNat / 2 ^ 52 % 64 + 1)
def aluBfi (l r : Word) : Word :=
  let p := r.toNat / 2 ^ 58
  let m := fieldMask (r.toNat / 2 ^ 52 % 64 + 1)
  let f := BitVec.ofNat 64 (r.toNat % 2 ^ 52) &&& m
  (l &&& ~~~(m <<< p)) ||| (f <<< p)

/-- Width of a Width suffix in bits (R93). -/
def widthBits : Width → Nat
  | .b => 8
  | .h => 16
  | .w => 32
def aluSext (w : Width) (l _r : Word) : Word :=
  match w with
  | .b => (l.extractLsb' 0 8).signExtend 64
  | .h => (l.extractLsb' 0 16).signExtend 64
  | .w => (l.extractLsb' 0 32).signExtend 64
def aluZext (w : Width) (l _r : Word) : Word := BitVec.ofNat 64 (l.toNat % 2 ^ widthBits w)

/-- CONSTH: (L << 13) | v (R115). -/
def aluConsth (imm : BitVec 13) (l _r : Word) : Word := (l <<< 13) ||| imm.setWidth 64
/-- BFXI: POS in [11:6], w − 1 in [5:0] (R120). -/
def aluBfxi (imm : BitVec 13) (l _r : Word) : Word := extractField l (imm.toNat / 64 % 64) (imm.toNat % 64 + 1)

/-! ## Scalar floating point -/

/-- One rounding to the precision, the result in the low bits of the token (R121, R123). -/
def fresult (q : Prec) (m : Rnd) (v : FV) : Word := BitVec.ofNat 64 (fround (precFmt q) m false 0 v)
def fop (q : Prec) (x : Word) : FV := fdec (precFmt q) (precBits q x)

def aluFadd (q : Prec) (m : Rnd) (l r : Word) : Word := fresult q m (fvAdd m (fop q l) (fop q r))
def aluFsub (q : Prec) (m : Rnd) (l r : Word) : Word := fresult q m (fvAdd m (fop q l) (fop q r).neg)
def aluFmul (q : Prec) (m : Rnd) (l r : Word) : Word := fresult q m (fvMul (fop q l) (fop q r))
def aluFdiv (q : Prec) (m : Rnd) (l r : Word) : Word := fresult q m (fvDiv (fop q l) (fop q r))
def aluFsqrt (q : Prec) (m : Rnd) (l _r : Word) : Word := fresult q m (fvSqrt (fop q l))
def aluFmin (q : Prec) (l r : Word) : Word :=
  BitVec.ofNat 64 (fminBits (precFmt q) false (precBits q l) (precBits q r))
def aluFmax (q : Prec) (l r : Word) : Word :=
  BitVec.ofNat 64 (fminBits (precFmt q) true (precBits q l) (precBits q r))

/-- The other precision. -/
def otherPrec : Prec → Prec
  | .s => .d
  | .d => .s
/-- FCVT between the floats: PREC names the result (R92). DEDUCED: notes/assumptions/56. -/
def aluFcvtFF (q : Prec) (m : Rnd) (l _r : Word) : Word := fresult q m (fop (otherPrec q) l)
/-- FCVT to int64: PREC names the source; saturating, NaN gives 0 (R127). DEDUCED: notes/assumptions/56. -/
def aluFcvtFI (q : Prec) (m : Rnd) (l _r : Word) : Word := BitVec.ofInt 64 (fvToIntSat 64 true m 0 (fop q l))
/-- FCVT from int64: PREC names the result. DEDUCED: notes/assumptions/56. -/
def aluFcvtIF (q : Prec) (m : Rnd) (l _r : Word) : Word := fresult q m (intFV l.toInt)

end Sys2Proof.Machine
end

