-- ==== Sys2Proof/Decode.lean ====
section
/-! DEFINITION. Decode.lean: from bits to an instruction or a named reason why the word is none (spec/03 R66-R72, R89;
spec/04 R90-R97), and after it the encoder written from the same tables. -/

namespace Sys2Proof

/-- Why a word is no instruction; each is ILLEGAL at its slot (R89). -/
inductive Reject where
  | zeroOp          -- OP 0x00, the all-zero word among them
  | unassignedOp    -- an OP that R90 leaves unassigned
  | reservedOp      -- OP 0xF0 to 0xFF
  | badPr           -- PR = 11
  | reservedXop     -- an XOP the OP does not assign
  | reservedField   -- a nonzero field the format or the instruction reserves, or a value R96, R97, R120, R167 forbids
  | badTarget       -- POS 00 with SLOT not zero
  | noWord          -- the bytes end before the word does
  deriving DecidableEq, Repr

/-- Bits [lo + n - 1 : lo] of a word. -/
def fld (w : IWord) (lo n : Nat) : BitVec n := w.extractLsb' lo n

/-- Sign extension of the 13-bit immediate to 64 bits (R70). -/
def sextImm (i : BitVec 13) : Word := i.signExtend 64

def decPr (w : IWord) : Except Reject Pr :=
  match (fld w 22 2).toNat with
  | 0 => .ok .always
  | 1 => .ok .onTrue
  | 2 => .ok .onFalse
  | _ => .error .badPr

/-- A target field (R67); POS 00 with a slot is no target (R16). -/
def decTgt (f : BitVec 9) : Except Reject Tgt :=
  match (f.extractLsb' 7 2).toNat with
  | 0 => if f.extractLsb' 0 7 = 0#7 then .ok .none else .error .badTarget
  | 1 => .ok (.left (f.extractLsb' 0 7))
  | 2 => .ok (.right (f.extractLsb' 0 7))
  | _ => .ok (.pred (f.extractLsb' 0 7))

def need (b : Bool) (r : Reject) (x : Except Reject Instr) : Except Reject Instr :=
  if b then x else .error r

/-- Predicate and targets of a G word, whatever its XOP. -/
def decGAny (w : IWord) (mk : Pr → Tgt → Tgt → Instr) : Except Reject Instr := do
  let p ← decPr w
  let ta ← decTgt (fld w 0 9)
  let tb ← decTgt (fld w 9 9)
  return mk p ta tb

/-- A G word whose XOP must be zero (R90). -/
def decG (w : IWord) (mk : Pr → Tgt → Tgt → Instr) : Except Reject Instr :=
  need (fld w 18 4 == 0#4) .reservedXop (decGAny w mk)

/-- A scalar floating-point form that rounds (R92). -/
def decF (w : IWord) (mk : Pr → Prec → Rnd → Tgt → Tgt → Instr) : Except Reject Instr :=
  let q := if fld w 21 1 = 1#1 then Prec.d else Prec.s
  match (fld w 18 3).toNat with
  | 0 => decGAny w (fun p ta tb => mk p q .rne ta tb)
  | 1 => decGAny w (fun p ta tb => mk p q .rtz ta tb)
  | 2 => decGAny w (fun p ta tb => mk p q .rup ta tb)
  | 3 => decGAny w (fun p ta tb => mk p q .rdn ta tb)
  | _ => .error .reservedXop

/-- A scalar floating-point form that does not round (R92). -/
def decFN (w : IWord) (mk : Pr → Prec → Tgt → Tgt → Instr) : Except Reject Instr :=
  let q := if fld w 21 1 = 1#1 then Prec.d else Prec.s
  need (fld w 18 3 == 0#3) .reservedXop (decGAny w (fun p ta tb => mk p q ta tb))

/-- SEXT and ZEXT (R93). -/
def decExt (w : IWord) (mk : Pr → Width → Tgt → Tgt → Instr) : Except Reject Instr :=
  match (fld w 18 4).toNat with
  | 0 => decGAny w (fun p ta tb => mk p .b ta tb)
  | 1 => decGAny w (fun p ta tb => mk p .h ta tb)
  | 2 => decGAny w (fun p ta tb => mk p .w ta tb)
  | _ => .error .reservedXop

/-- An I word with a target. -/
def decI (w : IWord) (mk : Pr → BitVec 13 → Tgt → Instr) : Except Reject Instr := do
  let p ← decPr w
  let ta ← decTgt (fld w 0 9)
  return mk p (fld w 9 13) ta

/-- An I word whose immediate runs from 0 to 63 (R97). -/
def decI63 (w : IWord) (mk : Pr → BitVec 13 → Tgt → Instr) : Except Reject Instr :=
  need (fld w 15 7 == 0#7) .reservedField (decI w mk)

/-- An X word: EXIT and OFF19. -/
def decX (w : IWord) (mk : Pr → BitVec 3 → BitVec 19 → Instr) : Except Reject Instr := do
  let p ← decPr w
  return mk p (fld w 19 3) (fld w 0 19)

/-- An X word whose OFF19 must be zero (R71). -/
def decX0 (w : IWord) (mk : Pr → BitVec 3 → Instr) : Except Reject Instr :=
  need (fld w 0 19 == 0#19) .reservedField (decX w (fun p e _ => mk p e))

/-- A Q word; the fields the instruction does not define must be zero (R71). `okX`, `okA`, `okK`, `okF`, `okT` say which
fields the instruction defines. -/
def decQ (w : IWord) (okX okA okK okF okT : Bool)
    (mk : Pr → BitVec 4 → BitVec 5 → BitVec 3 → Bool → Tgt → Except Reject Instr) : Except Reject Instr :=
  if !(okX || fld w 18 4 == 0#4) then .error .reservedXop
  else if !((okA || fld w 13 5 == 0#5) && (okK || fld w 10 3 == 0#3) && (okF || fld w 9 1 == 0#1)
      && (okT || fld w 0 9 == 0#9)) then .error .reservedField
  else do
    let p ← decPr w
    let ta ← decTgt (fld w 0 9)
    mk p (fld w 18 4) (fld w 13 5) (fld w 10 3) (fld w 9 1 == 1#1) ta

/-- A copy: AG must be zero without the flag (R158). -/
def decCpy (w : IWord) (mk : Pr → BitVec 5 → BitVec 3 → Bool → Tgt → Instr) : Except Reject Instr :=
  decQ w false true true true true (fun p _ a k f t =>
    need (f || a == 0#5) .reservedField (.ok (mk p a k f t)))

/-- A K word: SYSNUM13 and target. -/
def decK (w : IWord) (okS okT : Bool) (mk : Pr → BitVec 13 → Tgt → Instr) : Except Reject Instr :=
  need ((okS || fld w 9 13 == 0#13) && (okT || fld w 0 9 == 0#9)) .reservedField (decI w mk)

def decPlumb (w : IWord) : Except Reject Instr :=
  match (fld w 24 4).toNat with
  | 0 => .error .zeroOp
  | 1 => decX w (fun p e o => .bro p e o)
  | 2 => decX0 w (fun p e => .bri p e)
  | 3 => decX w (fun p e o => .callo p e o)
  | 4 => decX0 w (fun p e => .calli p e)
  | 5 => decX0 w (fun p e => .ret p e)
  | 6 => decX0 w (fun p e => .scall p e)
  | 7 => decX0 w (fun p e => .exit p e)
  | 8 => decG w (fun p ta tb => .null p ta tb)
  | 9 => decG w (fun p ta tb => .mov p ta tb)
  | 10 => decG w (fun p ta tb => .sel p ta tb)
  | 11 => decI63 w (fun p i ta => .getr p i ta)
  | 12 => need (fld w 0 9 == 0#9) .reservedField (decI63 w (fun p i _ => .putr p i))
  | 13 => decI w (fun p i ta => .const p i ta)
  | 14 => decI w (fun p i ta => .consth p i ta)
  | _ => .error .unassignedOp

def decInt1 (w : IWord) : Except Reject Instr :=
  match (fld w 24 4).toNat with
  | 0 => decG w (fun p ta tb => .add p ta tb)
  | 1 => decG w (fun p ta tb => .sub p ta tb)
  | 2 => decG w (fun p ta tb => .mul p ta tb)
  | 3 => decG w (fun p ta tb => .mulh p ta tb)
  | 4 => decG w (fun p ta tb => .mulhu p ta tb)
  | 5 => decG w (fun p ta tb => .div p ta tb)
  | 6 => decG w (fun p ta tb => .divu p ta tb)
  | 7 => decG w (fun p ta tb => .rem p ta tb)
  | 8 => decG w (fun p ta tb => .remu p ta tb)
  | 9 => decG w (fun p ta tb => .and p ta tb)
  | 10 => decG w (fun p ta tb => .or p ta tb)
  | 11 => decG w (fun p ta tb => .xor p ta tb)
  | 12 => decG w (fun p ta tb => .andn p ta tb)
  | 13 => decG w (fun p ta tb => .shl p ta tb)
  | 14 => decG w (fun p ta tb => .shr p ta tb)
  | _ => decG w (fun p ta tb => .sar p ta tb)

def decInt2 (w : IWord) : Except Reject Instr :=
  match (fld w 24 4).toNat with
  | 0 => decG w (fun p ta tb => .rotl p ta tb)
  | 1 => decG w (fun p ta tb => .min p ta tb)
  | 2 => decG w (fun p ta tb => .max p ta tb)
  | 3 => decG w (fun p ta tb => .minu p ta tb)
  | 4 => decG w (fun p ta tb => .maxu p ta tb)
  | 5 => decG w (fun p ta tb => .abs p ta tb)
  | 6 => decG w (fun p ta tb => .neg p ta tb)
  | 7 => decG w (fun p ta tb => .clz p ta tb)
  | 8 => decG w (fun p ta tb => .ctz p ta tb)
  | 9 => decG w (fun p ta tb => .popc p ta tb)
  | 10 => decG w (fun p ta tb => .bfx p ta tb)
  | 11 => decG w (fun p ta tb => .bfi p ta tb)
  | 12 => decExt w (fun p x ta tb => .sext p x ta tb)
  | 13 => decExt w (fun p x ta tb => .zext p x ta tb)
  | _ => .error .unassignedOp

def decTest (w : IWord) : Except Reject Instr :=
  match (fld w 24 4).toNat with
  | 0 => decG w (fun p ta tb => .teq p ta tb)
  | 1 => decG w (fun p ta tb => .tne p ta tb)
  | 2 => decG w (fun p ta tb => .tlt p ta tb)
  | 3 => decG w (fun p ta tb => .tle p ta tb)
  | 4 => decG w (fun p ta tb => .tltu p ta tb)
  | 5 => decG w (fun p ta tb => .tleu p ta tb)
  | 6 => decG w (fun p ta tb => .tbit p ta tb)
  | _ => .error .unassignedOp

def decImm (w : IWord) : Except Reject Instr :=
  match (fld w 24 4).toNat with
  | 0 => decI w (fun p i ta => .addi p i ta)
  | 1 => decI w (fun p i ta => .muli p i ta)
  | 2 => decI w (fun p i ta => .andi p i ta)
  | 3 => decI w (fun p i ta => .ori p i ta)
  | 4 => decI w (fun p i ta => .xori p i ta)
  | 5 => decI63 w (fun p i ta => .shli p i ta)
  | 6 => decI63 w (fun p i ta => .shri p i ta)
  | 7 => decI63 w (fun p i ta => .sari p i ta)
  | 8 => decI w (fun p i ta => .teqi p i ta)
  | 9 => decI w (fun p i ta => .tnei p i ta)
  | 10 => decI w (fun p i ta => .tlti p i ta)
  | 11 => decI w (fun p i ta => .tlei p i ta)
  | 12 => decI w (fun p i ta => .tltui p i ta)
  | 13 => decI w (fun p i ta => .tleui p i ta)
  | 14 => need (fld w 21 1 == 0#1) .reservedField (decI w (fun p i ta => .bfxi p i ta))
  | _ => .error .unassignedOp

def decFp (w : IWord) : Except Reject Instr :=
  match (fld w 24 4).toNat with
  | 0 => decF w (fun p q r ta tb => .fadd p q r ta tb)
  | 1 => decF w (fun p q r ta tb => .fsub p q r ta tb)
  | 2 => decF w (fun p q r ta tb => .fmul p q r ta tb)
  | 3 => decF w (fun p q r ta tb => .fdiv p q r ta tb)
  | 4 => decF w (fun p q r ta tb => .fsqrt p q r ta tb)
  | 5 => decFN w (fun p q ta tb => .fmin p q ta tb)
  | 6 => decFN w (fun p q ta tb => .fmax p q ta tb)
  | 7 => decF w (fun p q r ta tb => .fcvtFF p q r ta tb)
  | 8 => decF w (fun p q r ta tb => .fcvtFI p q r ta tb)
  | 9 => decF w (fun p q r ta tb => .fcvtIF p q r ta tb)
  | 10 => decFN w (fun p q ta tb => .fteq p q ta tb)
  | 11 => decFN w (fun p q ta tb => .ftlt p q ta tb)
  | 12 => decFN w (fun p q ta tb => .ftle p q ta tb)
  | 13 => decFN w (fun p q ta tb => .fclass p q ta tb)
  | _ => .error .unassignedOp

def decMem (w : IWord) : Except Reject Instr :=
  match (fld w 24 4).toNat with
  | 0 => do
    let p ← decPr w
    let ta ← decTgt (fld w 0 9)
    return .ld p (fld w 17 5) (fld w 12 5) (fld w 10 2) (fld w 9 1 == 1#1) ta
  | 1 => need (fld w 0 9 == 0#9) .reservedField (do
    let p ← decPr w
    return .st p (fld w 17 5) (fld w 12 5) (fld w 10 2) (fld w 9 1 == 1#1))
  | 2 => need (fld w 0 12 == 0#12) .reservedField (do
    let p ← decPr w
    return .pref p (fld w 17 5) (fld w 12 5))
  | _ => .error .unassignedOp

def decCells (w : IWord) : Except Reject Instr :=
  match (fld w 24 4).toNat with
  | 0 => decQ w false true false false false (fun p _ a _ _ _ => .ok (.enq p a))
  | 1 => decQ w false true false false false (fun p _ a _ _ _ => .ok (.enqm p a))
  | 2 => decQ w false true true true false (fun p _ a k f _ => .ok (.strm p a k f))
  | 3 => decQ w false true true true false (fun p _ a k f _ => .ok (.strms p a k f))
  | 4 => decQ w false true false false false (fun p _ a _ _ _ => .ok (.parm p a))
  | 5 => decQ w false false false false true (fun p _ _ _ _ t => .ok (.rngp p t))
  | 6 => decQ w false true false false true (fun p _ a _ _ t => .ok (.getp p a t))
  | 7 => decQ w false true false false false (fun p _ a _ _ _ => .ok (.putp p a))
  | _ => .error .unassignedOp

def decCopy (w : IWord) : Except Reject Instr :=
  match (fld w 24 4).toNat with
  | 0 => decCpy w (fun p a k f t => .cpy p a k f t)
  | 1 => decCpy w (fun p a k f t => .cpyg p a k f t)
  | 2 => decCpy w (fun p a k f t => .cpys p a k f t)
  | 3 => decCpy w (fun p a k f t => .cpyr p a k f t)
  | _ => .error .unassignedOp

/-- ENG and CTX of WAITT and TLRD (R164, R167): reserved engines and a context of another engine are ILLEGAL. -/
def engOk (eng : BitVec 5) (ctx : BitVec 2) (async : Bool) : Bool :=
  (eng.toNat ≤ 14 && (ctx == 0#2 || eng.toNat ≤ 3)) || (async && eng == 31#5 && ctx == 0#2)

def decWait (w : IWord) : Except Reject Instr :=
  match (fld w 24 4).toNat with
  | 0 => do
    let p ← decPr w
    return .waitn p (fld w 16 6) (fld w 10 6) (fld w 5 5) (fld w 0 5)
  | 1 => need (fld w 9 6 == 0#6 && engOk (fld w 17 5) (fld w 15 2) false) .reservedField (do
    let p ← decPr w
    let ta ← decTgt (fld w 0 9)
    return .waitt p (fld w 17 5) (fld w 15 2) ta)
  | 2 => need (fld w 9 5 == 0#5) .reservedField (do
    let p ← decPr w
    let ta ← decTgt (fld w 0 9)
    match (fld w 14 3).toNat with
    | 0 => .ok (.waita p (fld w 17 5) .ge ta)
    | 1 => .ok (.waita p (fld w 17 5) .eq ta)
    | 2 => .ok (.waita p (fld w 17 5) .ne ta)
    | 3 => .ok (.waita p (fld w 17 5) .gt ta)
    | _ => .error .reservedField)
  | 3 => need (fld w 9 8 == 0#8) .reservedField (do
    let p ← decPr w
    let ta ← decTgt (fld w 0 9)
    return .waitb p (fld w 17 5) ta)
  | 4 => need (fld w 9 8 == 0#8) .reservedField (do
    let p ← decPr w
    let ta ← decTgt (fld w 0 9)
    return .tbp p (fld w 17 5) ta)
  | 5 => decQ w false true false false false (fun p _ a _ _ _ => .ok (.arv p a))
  | 6 => decQ w false true false false false (fun p _ a _ _ _ => .ok (.arvx p a))
  | 7 => decQ w false true false false false (fun p _ a _ _ _ => .ok (.expt p a))
  | 8 => need (fld w 2 20 == 0#20) .reservedField (do
    let p ← decPr w
    match (fld w 0 2).toNat with
    | 1 => .ok (.fence p false true)
    | 2 => .ok (.fence p true false)
    | 3 => .ok (.fence p true true)
    | _ => .error .reservedField)
  | 9 => need (fld w 0 22 == 0#22) .reservedField (do
    let p ← decPr w
    return .yield p)
  | 10 => need (fld w 9 6 == 0#6 && engOk (fld w 17 5) (fld w 15 2) true) .reservedField (do
    let p ← decPr w
    let ta ← decTgt (fld w 0 9)
    return .tlrd p (fld w 17 5) (fld w 15 2) ta)
  | _ => .error .unassignedOp

/-- ATOM: bits [8:6] are zero and [5:0] name a register (R346). -/
def decAtom (w : IWord) (op : AtomOp) : Except Reject Instr :=
  need (fld w 6 7 == 0#7) .reservedField (do
    let p ← decPr w
    return .atom p op (fld w 13 5) (fld w 0 6))

def decRed (w : IWord) (op : RedOp) : Except Reject Instr :=
  decQ w true true false false false (fun p _ a _ _ _ => .ok (.red p op a))

def decCombine (w : IWord) : Except Reject Instr :=
  match (fld w 24 4).toNat with
  | 0 => match (fld w 18 4).toNat with
    | 0 => decAtom w .cfaa
    | 1 => decAtom w .cxch
    | 2 => decAtom w .ccas
    | _ => .error .reservedXop
  | 1 => match (fld w 18 4).toNat with
    | 0 => decRed w .cadd
    | 1 => decRed w .cfadd
    | 2 => decRed w .cmax
    | 3 => decRed w .cmin
    | 4 => decRed w .cand
    | 5 => decRed w .cor
    | 6 => decRed w .cxor
    | 7 => decRed w .resc
    | _ => .error .reservedXop
  | _ => .error .unassignedOp

def decLeash (w : IWord) (k : KKind) : Except Reject Instr :=
  decQ w true true true false true (fun p _ a tk _ t => .ok (.leash p k a tk t))

def decLease (w : IWord) : Except Reject Instr :=
  match (fld w 24 4).toNat with
  | 0 => match (fld w 18 4).toNat with
    | 0 => decLeash w .fftx
    | 1 => decLeash w .sort
    | 2 => decLeash w .infl
    | 3 => decLeash w .spga
    | 4 => decLeash w .trsv
    | 5 => decLeash w .embg
    | 6 => decLeash w .topk
    | 7 => decLeash w .sten
    | _ => .error .reservedXop
  | 1 => decQ w false true false false false (fun p _ a _ _ _ => .ok (.lrel p a))
  | 2 => decQ w false true false false true (fun p _ a _ _ t => .ok (.lqry p a t))
  | 3 => decQ w false true false false false (fun p _ a _ _ _ => .ok (.lpri p a))
  | _ => .error .unassignedOp

def decCancel (w : IWord) (l : Level) : Except Reject Instr :=
  decQ w true false false false false (fun p _ _ _ _ _ => .ok (.cancel p l))

def decLaunch (w : IWord) : Except Reject Instr :=
  match (fld w 24 4).toNat with
  | 0 => decQ w false true true false false (fun p _ a k _ _ => .ok (.launch p a k))
  | 1 => decQ w false false false false true (fun p _ _ _ _ t => .ok (.qclaim p t))
  | 2 => decQ w false false false false false (fun p _ _ _ _ _ => .ok (.qpub p))
  | 3 => decQ w false false false false false (fun p _ _ _ _ _ => .ok (.cntr p))
  | 4 => match (fld w 18 4).toNat with
    | 0 => decCancel w .strand
    | 1 => decCancel w .launch
    | 2 => decCancel w .graph
    | 3 => decCancel w .phase
    | 4 => decCancel w .job
    | _ => .error .reservedXop
  | 5 => decK w true false (fun p n _ => .cfgl p n)
  | 6 => decK w false false (fun p _ _ => .cfgt p)
  | _ => .error .unassignedOp

def decSystem (w : IWord) : Except Reject Instr :=
  match (fld w 24 4).toNat with
  | 0 => decK w true true (fun p n t => .srd p n t)
  | 1 => decK w true false (fun p n _ => .swr p n)
  | 2 => decK w true true (fun p n t => .tlbi p n t)
  | 3 => decK w false false (fun p _ _ => .ctxs p)
  | 4 => decK w false false (fun p _ _ => .ctxr p)
  | 5 => need (fld w 20 2 == 0#2 && fld w 0 19 == 0#19) .reservedField (do
    let p ← decPr w
    return .eret p (fld w 19 1 == 1#1))
  | 6 => need (fld w 8 14 == 0#14) .reservedField (do
    let p ← decPr w
    return .trap p (fld w 0 8))
  | 7 => decK w true true (fun p n t => .pwrq p n t)
  | _ => .error .unassignedOp

/-- The instruction a 32-bit word is, or why it is none (R89, R90). DEDUCED: notes/assumptions/12. -/
def decode (w : IWord) : Except Reject Instr :=
  match (fld w 28 4).toNat with
  | 0 => decPlumb w
  | 1 => decInt1 w
  | 2 => decInt2 w
  | 3 => decTest w
  | 4 => decImm w
  | 5 => .error .unassignedOp
  | 6 => decFp w
  | 7 => decMem w
  | 8 => decCells w
  | 9 => decCopy w
  | 10 => decWait w
  | 11 => decCombine w
  | 12 => decLease w
  | 13 => decLaunch w
  | 14 => decSystem w
  | _ => .error .reservedOp

/-- A word stored little-endian (R62). -/
def wordBytes (w : IWord) : List Byte :=
  [w.extractLsb' 0 8, w.extractLsb' 8 8, w.extractLsb' 16 8, w.extractLsb' 24 8]

def bytesWord (b0 b1 b2 b3 : Byte) : IWord := b3 ++ b2 ++ b1 ++ b0

/-- Decoding bytes: the instruction and the bytes behind it. Total on any bytes. -/
def decodeBytes : List Byte → Except Reject (Instr × List Byte)
  | b0 :: b1 :: b2 :: b3 :: rest => (decode (bytesWord b0 b1 b2 b3)).map (fun i => (i, rest))
  | _ => .error .noWord

/-- The instruction of a table row's word; the machine's events have no word. -/
def decodeTableWord (nbits w : Nat) : Option Instr :=
  if nbits = 32 then
    match decodeBytes (wordBytes (BitVec.ofNat 32 w)) with
    | .ok (i, _) => some i
    | .error _ => none
  else none

/-! ## The encoder -/

def encPr : Pr → BitVec 2
  | .always => 0#2
  | .onTrue => 1#2
  | .onFalse => 2#2

def encTgt : Tgt → BitVec 9
  | .none => 0#9
  | .left s => 1#2 ++ s
  | .right s => 2#2 ++ s
  | .pred s => 3#2 ++ s

def encPrec : Prec → BitVec 1
  | .s => 0#1
  | .d => 1#1

def encRnd : Rnd → BitVec 3
  | .rne => 0#3
  | .rtz => 1#3
  | .rup => 2#3
  | .rdn => 3#3
  | .sr => 4#3

def encWidth : Width → BitVec 4
  | .b => 0#4
  | .h => 1#4
  | .w => 2#4

def encBit (b : Bool) : BitVec 1 := if b then 1#1 else 0#1

def encAtom : AtomOp → BitVec 4
  | .cfaa => 0#4
  | .cxch => 1#4
  | .ccas => 2#4

def encRed : RedOp → BitVec 4
  | .cadd => 0#4
  | .cfadd => 1#4
  | .cmax => 2#4
  | .cmin => 3#4
  | .cand => 4#4
  | .cor => 5#4
  | .cxor => 6#4
  | .resc => 7#4

def encKind : KKind → BitVec 4
  | .fftx => 0#4
  | .sort => 1#4
  | .infl => 2#4
  | .spga => 3#4
  | .trsv => 4#4
  | .embg => 5#4
  | .topk => 6#4
  | .sten => 7#4

def encLevel : Level → BitVec 4
  | .strand => 0#4
  | .launch => 1#4
  | .graph => 2#4
  | .phase => 3#4
  | .job => 4#4

def encCmp : Cmp → BitVec 3
  | .ge => 0#3
  | .eq => 1#3
  | .ne => 2#3
  | .gt => 3#3

/-- OP, PR and the 22 bits of the format. -/
def encWord (op : BitVec 8) (p : Pr) (low : BitVec 22) : IWord := op ++ encPr p ++ low

def encG (op : BitVec 8) (p : Pr) (xop : BitVec 4) (ta tb : Tgt) : IWord :=
  encWord op p (xop ++ encTgt tb ++ encTgt ta)

def encI (op : BitVec 8) (p : Pr) (imm : BitVec 13) (ta : Tgt) : IWord :=
  encWord op p (imm ++ encTgt ta)

def encX (op : BitVec 8) (p : Pr) (ex : BitVec 3) (off : BitVec 19) : IWord :=
  encWord op p (ex ++ off)

def encQ (op : BitVec 8) (p : Pr) (xop : BitVec 4) (ag : BitVec 5) (tk : BitVec 3) (f : Bool) (ta : Tgt) : IWord :=
  encWord op p (xop ++ ag ++ tk ++ encBit f ++ encTgt ta)

def encF (op : BitVec 8) (p : Pr) (q : Prec) (r : Rnd) (ta tb : Tgt) : IWord :=
  encG op p (encPrec q ++ encRnd r) ta tb

/-- The word of an instruction (R69, R90); an event of the machine has none. DEDUCED: notes/assumptions/12. -/
def encode : Instr → Option IWord
  | .bro p e o => some (encX 0x01#8 p e o)
  | .bri p e => some (encX 0x02#8 p e 0)
  | .callo p e o => some (encX 0x03#8 p e o)
  | .calli p e => some (encX 0x04#8 p e 0)
  | .ret p e => some (encX 0x05#8 p e 0)
  | .scall p e => some (encX 0x06#8 p e 0)
  | .exit p e => some (encX 0x07#8 p e 0)
  | .null p ta tb => some (encG 0x08#8 p 0 ta tb)
  | .mov p ta tb => some (encG 0x09#8 p 0 ta tb)
  | .sel p ta tb => some (encG 0x0A#8 p 0 ta tb)
  | .getr p g ta => some (encI 0x0B#8 p g ta)
  | .putr p g => some (encI 0x0C#8 p g .none)
  | .const p i ta => some (encI 0x0D#8 p i ta)
  | .consth p i ta => some (encI 0x0E#8 p i ta)
  | .add p ta tb => some (encG 0x10#8 p 0 ta tb)
  | .sub p ta tb => some (encG 0x11#8 p 0 ta tb)
  | .mul p ta tb => some (encG 0x12#8 p 0 ta tb)
  | .mulh p ta tb => some (encG 0x13#8 p 0 ta tb)
  | .mulhu p ta tb => some (encG 0x14#8 p 0 ta tb)
  | .div p ta tb => some (encG 0x15#8 p 0 ta tb)
  | .divu p ta tb => some (encG 0x16#8 p 0 ta tb)
  | .rem p ta tb => some (encG 0x17#8 p 0 ta tb)
  | .remu p ta tb => some (encG 0x18#8 p 0 ta tb)
  | .and p ta tb => some (encG 0x19#8 p 0 ta tb)
  | .or p ta tb => some (encG 0x1A#8 p 0 ta tb)
  | .xor p ta tb => some (encG 0x1B#8 p 0 ta tb)
  | .andn p ta tb => some (encG 0x1C#8 p 0 ta tb)
  | .shl p ta tb => some (encG 0x1D#8 p 0 ta tb)
  | .shr p ta tb => some (encG 0x1E#8 p 0 ta tb)
  | .sar p ta tb => some (encG 0x1F#8 p 0 ta tb)
  | .rotl p ta tb => some (encG 0x20#8 p 0 ta tb)
  | .min p ta tb => some (encG 0x21#8 p 0 ta tb)
  | .max p ta tb => some (encG 0x22#8 p 0 ta tb)
  | .minu p ta tb => some (encG 0x23#8 p 0 ta tb)
  | .maxu p ta tb => some (encG 0x24#8 p 0 ta tb)
  | .abs p ta tb => some (encG 0x25#8 p 0 ta tb)
  | .neg p ta tb => some (encG 0x26#8 p 0 ta tb)
  | .clz p ta tb => some (encG 0x27#8 p 0 ta tb)
  | .ctz p ta tb => some (encG 0x28#8 p 0 ta tb)
  | .popc p ta tb => some (encG 0x29#8 p 0 ta tb)
  | .bfx p ta tb => some (encG 0x2A#8 p 0 ta tb)
  | .bfi p ta tb => some (encG 0x2B#8 p 0 ta tb)
  | .sext p x ta tb => some (encG 0x2C#8 p (encWidth x) ta tb)
  | .zext p x ta tb => some (encG 0x2D#8 p (encWidth x) ta tb)
  | .teq p ta tb => some (encG 0x30#8 p 0 ta tb)
  | .tne p ta tb => some (encG 0x31#8 p 0 ta tb)
  | .tlt p ta tb => some (encG 0x32#8 p 0 ta tb)
  | .tle p ta tb => some (encG 0x33#8 p 0 ta tb)
  | .tltu p ta tb => some (encG 0x34#8 p 0 ta tb)
  | .tleu p ta tb => some (encG 0x35#8 p 0 ta tb)
  | .tbit p ta tb => some (encG 0x36#8 p 0 ta tb)
  | .addi p i ta => some (encI 0x40#8 p i ta)
  | .muli p i ta => some (encI 0x41#8 p i ta)
  | .andi p i ta => some (encI 0x42#8 p i ta)
  | .ori p i ta => some (encI 0x43#8 p i ta)
  | .xori p i ta => some (encI 0x44#8 p i ta)
  | .shli p i ta => some (encI 0x45#8 p i ta)
  | .shri p i ta => some (encI 0x46#8 p i ta)
  | .sari p i ta => some (encI 0x47#8 p i ta)
  | .teqi p i ta => some (encI 0x48#8 p i ta)
  | .tnei p i ta => some (encI 0x49#8 p i ta)
  | .tlti p i ta => some (encI 0x4A#8 p i ta)
  | .tlei p i ta => some (encI 0x4B#8 p i ta)
  | .tltui p i ta => some (encI 0x4C#8 p i ta)
  | .tleui p i ta => some (encI 0x4D#8 p i ta)
  | .bfxi p i ta => some (encI 0x4E#8 p i ta)
  | .fadd p q r ta tb => some (encF 0x60#8 p q r ta tb)
  | .fsub p q r ta tb => some (encF 0x61#8 p q r ta tb)
  | .fmul p q r ta tb => some (encF 0x62#8 p q r ta tb)
  | .fdiv p q r ta tb => some (encF 0x63#8 p q r ta tb)
  | .fsqrt p q r ta tb => some (encF 0x64#8 p q r ta tb)
  | .fmin p q ta tb => some (encF 0x65#8 p q .rne ta tb)
  | .fmax p q ta tb => some (encF 0x66#8 p q .rne ta tb)
  | .fcvtFF p q r ta tb => some (encF 0x67#8 p q r ta tb)
  | .fcvtFI p q r ta tb => some (encF 0x68#8 p q r ta tb)
  | .fcvtIF p q r ta tb => some (encF 0x69#8 p q r ta tb)
  | .fteq p q ta tb => some (encF 0x6A#8 p q .rne ta tb)
  | .ftlt p q ta tb => some (encF 0x6B#8 p q .rne ta tb)
  | .ftle p q ta tb => some (encF 0x6C#8 p q .rne ta tb)
  | .fclass p q ta tb => some (encF 0x6D#8 p q .rne ta tb)
  | .ld p l a z x ta => some (encWord 0x70#8 p (l ++ a ++ z ++ encBit x ++ encTgt ta))
  | .st p l a z n => some (encWord 0x71#8 p (l ++ a ++ z ++ encBit n ++ 0#9))
  | .pref p l a => some (encWord 0x72#8 p (l ++ a ++ 0#12))
  | .enq p a => some (encQ 0x80#8 p 0 a 0 false .none)
  | .enqm p a => some (encQ 0x81#8 p 0 a 0 false .none)
  | .strm p a k f => some (encQ 0x82#8 p 0 a k f .none)
  | .strms p a k f => some (encQ 0x83#8 p 0 a k f .none)
  | .parm p a => some (encQ 0x84#8 p 0 a 0 false .none)
  | .rngp p ta => some (encQ 0x85#8 p 0 0 0 false ta)
  | .getp p a ta => some (encQ 0x86#8 p 0 a 0 false ta)
  | .putp p a => some (encQ 0x87#8 p 0 a 0 false .none)
  | .cpy p a k f ta => some (encQ 0x90#8 p 0 a k f ta)
  | .cpyg p a k f ta => some (encQ 0x91#8 p 0 a k f ta)
  | .cpys p a k f ta => some (encQ 0x92#8 p 0 a k f ta)
  | .cpyr p a k f ta => some (encQ 0x93#8 p 0 a k f ta)
  | .waitn p l s c t => some (encWord 0xA0#8 p (l ++ s ++ c ++ t))
  | .waitt p e c ta => some (encWord 0xA1#8 p (e ++ c ++ 0#6 ++ encTgt ta))
  | .waita p a c ta => some (encWord 0xA2#8 p (a ++ encCmp c ++ 0#5 ++ encTgt ta))
  | .waitb p b ta => some (encWord 0xA3#8 p (b ++ 0#8 ++ encTgt ta))
  | .tbp p b ta => some (encWord 0xA4#8 p (b ++ 0#8 ++ encTgt ta))
  | .arv p b => some (encQ 0xA5#8 p 0 b 0 false .none)
  | .arvx p b => some (encQ 0xA6#8 p 0 b 0 false .none)
  | .expt p b => some (encQ 0xA7#8 p 0 b 0 false .none)
  | .fence p e s => some (encWord 0xA8#8 p (0#20 ++ encBit e ++ encBit s))
  | .yield p => some (encWord 0xA9#8 p 0)
  | .tlrd p e c ta => some (encWord 0xAA#8 p (e ++ c ++ 0#6 ++ encTgt ta))
  | .atom p o a g => some (encWord 0xB0#8 p (encAtom o ++ a ++ 0#7 ++ g))
  | .red p o a => some (encQ 0xB1#8 p (encRed o) a 0 false .none)
  | .leash p k a tk ta => some (encQ 0xC0#8 p (encKind k) a tk false ta)
  | .lrel p a => some (encQ 0xC1#8 p 0 a 0 false .none)
  | .lqry p a ta => some (encQ 0xC2#8 p 0 a 0 false ta)
  | .lpri p a => some (encQ 0xC3#8 p 0 a 0 false .none)
  | .launch p a k => some (encQ 0xD0#8 p 0 a k false .none)
  | .qclaim p ta => some (encQ 0xD1#8 p 0 0 0 false ta)
  | .qpub p => some (encQ 0xD2#8 p 0 0 0 false .none)
  | .cntr p => some (encQ 0xD3#8 p 0 0 0 false .none)
  | .cancel p l => some (encQ 0xD4#8 p (encLevel l) 0 0 false .none)
  | .cfgl p n => some (encI 0xD5#8 p n .none)
  | .cfgt p => some (encI 0xD6#8 p 0 .none)
  | .srd p n ta => some (encI 0xE0#8 p n ta)
  | .swr p n => some (encI 0xE1#8 p n .none)
  | .tlbi p n ta => some (encI 0xE2#8 p n ta)
  | .ctxs p => some (encI 0xE3#8 p 0 .none)
  | .ctxr p => some (encI 0xE4#8 p 0 .none)
  | .eret p s => some (encX 0xE5#8 p (0#2 ++ encBit s) 0)
  | .trap p c => some (encX 0xE6#8 p 0 (0#11 ++ c))
  | .pwrq p n ta => some (encI 0xE7#8 p n ta)
  | _ => none

end Sys2Proof
end

