-- ==== Sys2Proof/Machine/Table.lean ====
section
/-! DEFINITION. Machine/Table.lean: reading and writing the sparse tables of the state and the bytes of memory. A table is
a list of (key, entry) pairs; an unlisted key reads as the entry type's reset value. Memory is the canonical list of
(address, byte) pairs: addresses rising, no byte equal to what an unlisted address reads as. -/

namespace Sys2Proof.Machine

/-- Entry k of a table; `d` where none is listed. -/
def tgetD {α : Type} (d : α) : Tab α → Nat → α
  | [], _ => d
  | (j, v) :: t, k => if k = j then v else tgetD d t k

/-- Entry k, or the type's reset value. -/
def tget {α : Type} [Inhabited α] (t : Tab α) (k : Nat) : α := tgetD default t k

/-- Whether a key is listed. -/
def thas {α : Type} (t : Tab α) (k : Nat) : Bool := t.any (fun e => e.1 == k)

/-- Set entry k, keeping the keys in rising order. -/
def tset {α : Type} : Tab α → Nat → α → Tab α
  | [], k, v => [(k, v)]
  | (j, w) :: t, k, v =>
    if k = j then (k, v) :: t
    else if k < j then (k, v) :: (j, w) :: t
    else (j, w) :: tset t k v

/-- Take entry k out of the table. -/
def tdel {α : Type} (t : Tab α) (k : Nat) : Tab α := t.filter (fun e => e.1 != k)

/-- Change entry k. -/
def tmod {α : Type} [Inhabited α] (t : Tab α) (k : Nat) (f : α → α) : Tab α := tset t k (f (tget t k))

/-- What a byte of memory that nothing has written reads as (spec/22 R443 for the buffers; for HBM the model's choice). DESIGN CHOICE: notes/assumptions/6. -/
def emptyByte : Byte := 0#8

/-- The byte at an address. DESIGN CHOICE: notes/assumptions/5, 6. -/
def mget : List Host.Cell → Nat → Byte
  | [], _ => emptyByte
  | (k, v) :: m, a => if a = k then v else mget m a

/-- Write one byte, keeping the canonical form. DESIGN CHOICE: notes/assumptions/5. -/
def mset : List Host.Cell → Nat → Byte → List Host.Cell
  | [], a, b => if b = emptyByte then [] else [(a, b)]
  | (k, v) :: m, a, b =>
    if a = k then (if b = emptyByte then m else (a, b) :: m)
    else if a < k then (if b = emptyByte then (k, v) :: m else (a, b) :: (k, v) :: m)
    else (k, v) :: mset m a b

/-- All addresses of the list lie above a, they rise, and no byte is the empty one. -/
def canonAbove : Nat → List Host.Cell → Bool
  | _, [] => true
  | lo, (k, v) :: m => decide (lo ≤ k) && (v != emptyByte) && canonAbove (k + 1) m

/-- Memory is in its canonical form. -/
def Memory.wf (m : Memory) : Bool := canonAbove 0 m.bytes

/-- Little-endian number of a list of bytes (spec/11 R217). -/
def leNat : List Byte → Nat
  | [] => 0
  | b :: bs => b.toNat + 256 * leNat bs

/-- The n little-endian bytes of a number. -/
def leBytes : Nat → Nat → List Byte
  | 0, _ => []
  | n + 1, v => BitVec.ofNat 8 v :: leBytes n (v / 256)

/-- Bits [lo + n - 1 : lo] of a number. -/
def bits (v lo n : Nat) : Nat := v / 2 ^ lo % 2 ^ n

/-- Bits [lo + n - 1 : lo] of a token's value. -/
def wbits (v : Word) (lo n : Nat) : Nat := bits v.toNat lo n

/-- Bit i of a number. -/
def bitOf (v i : Nat) : Bool := v / 2 ^ i % 2 == 1

/-- A number's n low bits read as two's complement. -/
def toSigned (n v : Nat) : Int := if bitOf v (n - 1) then (v % 2 ^ n : Int) - 2 ^ n else (v % 2 ^ n : Int)

/-- An integer's n-bit two's-complement pattern. -/
def ofSigned (n : Nat) (i : Int) : Nat := (i % (2 ^ n : Int)).toNat

end Sys2Proof.Machine
end

