-- ==== Sys2Proof/Machine/Operands.lean ====
section
/-! DEFINITION. Machine/Operands.lean: which operand positions, targets and standing each word has (spec/05 R100, spec/03
R65, R70, spec/04 R91), when a slot may fire (spec/01 R15, R17, R24; spec/03 R74), and the decode checks of a block
(spec/03 R64, R68, R89; spec/05 R105; spec/16 R347). -/

namespace Sys2Proof.Machine

/-- Operand positions a word uses: none, left, or left and right. -/
inductive Uses where
  | none | l | lr
  deriving DecidableEq, Repr

/-- The positions each instruction uses, the predicate apart (R100 and the chapters that describe the rest). -/
def usesOf : Instr → Uses
  | .bri .. | .calli .. | .scall .. => .l
  | .mov .. => .l
  | .sel .. => .lr
  | .putr .. | .consth .. => .l
  | .add .. | .sub .. | .mul .. | .mulh .. | .mulhu .. | .div .. | .divu .. | .rem .. | .remu .. => .lr
  | .and .. | .or .. | .xor .. | .andn .. | .shl .. | .shr .. | .sar .. | .rotl .. => .lr
  | .min .. | .max .. | .minu .. | .maxu .. | .bfx .. | .bfi .. => .lr
  | .abs .. | .neg .. | .clz .. | .ctz .. | .popc .. | .sext .. | .zext .. => .l
  | .teq .. | .tne .. | .tlt .. | .tle .. | .tltu .. | .tleu .. | .tbit .. => .lr
  | .addi .. | .muli .. | .andi .. | .ori .. | .xori .. | .shli .. | .shri .. | .sari .. => .l
  | .teqi .. | .tnei .. | .tlti .. | .tlei .. | .tltui .. | .tleui .. | .bfxi .. => .l
  | .fadd .. | .fsub .. | .fmul .. | .fdiv .. | .fmin .. | .fmax .. | .fteq .. | .ftlt .. | .ftle .. => .lr
  | .fsqrt .. | .fcvtFF .. | .fcvtFI .. | .fcvtIF .. | .fclass .. => .l
  | .ld .. | .pref .. => .l
  | .st .. => .lr
  | .enq .. | .enqm .. | .strm .. | .strms .. => .lr
  | .parm .. | .putp .. => .l
  | .cpy .. | .cpyg .. | .cpys .. | .cpyr .. => .lr
  | .waitt .. | .waitb .. | .tbp .. => .l
  | .waita .. => .lr
  | .expt .. => .l
  | .atom .. | .red .. => .lr
  | .lpri .. => .l
  | .launch .. => .lr
  | .qclaim .. => .l
  | .qpub .. | .cntr .. => .lr
  | .cancel .. => .l
  | .cfgl .. | .cfgt .. => .lr
  | .srd .. => .l
  | .swr .. | .tlbi .. => .lr
  | .ctxs .. | .ctxr .. => .l
  | _ => .none

/-- PR of an instruction word; the cell operations and events have none. -/
def predOf : Instr → Pr
  | .bro p .. | .bri p .. | .callo p .. | .calli p .. | .ret p .. | .scall p .. | .exit p .. | .null p .. | .mov p ..
  | .sel p .. | .getr p .. | .putr p .. | .const p .. | .consth p .. | .add p .. | .sub p .. | .mul p .. | .mulh p ..
  | .mulhu p .. | .div p .. | .divu p .. | .rem p .. | .remu p .. | .and p .. | .or p .. | .xor p .. | .andn p ..
  | .shl p .. | .shr p .. | .sar p .. | .rotl p .. | .min p .. | .max p .. | .minu p .. | .maxu p .. | .abs p ..
  | .neg p .. | .clz p .. | .ctz p .. | .popc p .. | .bfx p .. | .bfi p .. | .sext p .. | .zext p .. | .teq p ..
  | .tne p .. | .tlt p .. | .tle p .. | .tltu p .. | .tleu p .. | .tbit p .. | .addi p .. | .muli p .. | .andi p ..
  | .ori p .. | .xori p .. | .shli p .. | .shri p .. | .sari p .. | .teqi p .. | .tnei p .. | .tlti p .. | .tlei p ..
  | .tltui p .. | .tleui p .. | .bfxi p .. | .fadd p .. | .fsub p .. | .fmul p .. | .fdiv p .. | .fsqrt p ..
  | .fmin p .. | .fmax p .. | .fcvtFF p .. | .fcvtFI p .. | .fcvtIF p .. | .fteq p .. | .ftlt p .. | .ftle p ..
  | .fclass p .. | .ld p .. | .st p .. | .pref p .. | .enq p .. | .enqm p .. | .strm p .. | .strms p .. | .parm p ..
  | .rngp p .. | .getp p .. | .putp p .. | .cpy p .. | .cpyg p .. | .cpys p .. | .cpyr p .. | .waitn p .. | .waitt p ..
  | .waita p .. | .waitb p .. | .tbp p .. | .arv p .. | .arvx p .. | .expt p .. | .fence p .. | .yield p | .tlrd p ..
  | .atom p .. | .red p .. | .leash p .. | .lrel p .. | .lqry p .. | .lpri p .. | .launch p .. | .qclaim p ..
  | .qpub p | .cntr p | .cancel p .. | .cfgl p .. | .cfgt p | .srd p .. | .swr p .. | .tlbi p .. | .ctxs p
  | .ctxr p | .eret p .. | .trap p .. | .pwrq p .. => p
  | _ => .always

/-- The targets a word names (R67); one that has two fields and names one has the other empty. -/
def targetsOf : Instr → List Tgt
  | .null _ a b | .mov _ a b | .sel _ a b => [a, b]
  | .getr _ _ a | .const _ _ a | .consth _ _ a => [a]
  | .add _ a b | .sub _ a b | .mul _ a b | .mulh _ a b | .mulhu _ a b | .div _ a b | .divu _ a b | .rem _ a b
  | .remu _ a b | .and _ a b | .or _ a b | .xor _ a b | .andn _ a b | .shl _ a b | .shr _ a b | .sar _ a b
  | .rotl _ a b | .min _ a b | .max _ a b | .minu _ a b | .maxu _ a b | .abs _ a b | .neg _ a b | .clz _ a b
  | .ctz _ a b | .popc _ a b | .bfx _ a b | .bfi _ a b | .sext _ _ a b | .zext _ _ a b => [a, b]
  | .teq _ a b | .tne _ a b | .tlt _ a b | .tle _ a b | .tltu _ a b | .tleu _ a b | .tbit _ a b => [a, b]
  | .addi _ _ a | .muli _ _ a | .andi _ _ a | .ori _ _ a | .xori _ _ a | .shli _ _ a | .shri _ _ a | .sari _ _ a
  | .teqi _ _ a | .tnei _ _ a | .tlti _ _ a | .tlei _ _ a | .tltui _ _ a | .tleui _ _ a | .bfxi _ _ a => [a]
  | .fadd _ _ _ a b | .fsub _ _ _ a b | .fmul _ _ _ a b | .fdiv _ _ _ a b | .fsqrt _ _ _ a b | .fmin _ _ a b
  | .fmax _ _ a b | .fcvtFF _ _ _ a b | .fcvtFI _ _ _ a b | .fcvtIF _ _ _ a b | .fteq _ _ a b | .ftlt _ _ a b
  | .ftle _ _ a b | .fclass _ _ a b => [a, b]
  | .ld _ _ _ _ _ a => [a]
  | .rngp _ a | .getp _ _ a => [a]
  | .cpy _ _ _ _ a | .cpyg _ _ _ _ a | .cpys _ _ _ _ a | .cpyr _ _ _ _ a => [a]
  | .waitt _ _ _ a | .waita _ _ _ a | .waitb _ _ a | .tbp _ _ a | .tlrd _ _ _ a => [a]
  | .leash _ _ _ _ a | .lqry _ _ a => [a]
  | .qclaim _ a => [a]
  | .srd _ _ a | .tlbi _ _ a | .pwrq _ _ a => [a]
  | _ => []

/-- LSID of a memory word (R70). -/
def lsidOf : Instr → Option Nat
  | .ld _ l .. | .st _ l .. | .pref _ l .. => some l.toNat
  | _ => none

/-- The side-effect words by OP (R65, R90). -/
def sideOp (op : Nat) : Bool :=
  op ∈ [0x71, 0x80, 0x81, 0x82, 0x83, 0x84, 0x87, 0x90, 0x91, 0x92, 0x93, 0xA5, 0xA6, 0xA7, 0xB0, 0xB1, 0xC0, 0xC1,
    0xC3, 0xD0, 0xD2, 0xD3, 0xD4, 0xD5, 0xD6, 0xE1, 0xE2, 0xE3, 0xE4]

/-- The exits by OP (R103, R271). -/
def exitOp (op : Nat) : Bool := decide (1 ≤ op ∧ op ≤ 7) || op == 0xE5

/-- The privileged words by OP (R90, R91). -/
def privOp (op : Nat) : Bool := op ∈ [0xD5, 0xD6, 0xE0, 0xE1, 0xE2, 0xE3, 0xE4, 0xE5]

def opOf (w : IWord) : Nat := (fld w 24 8).toNat

/-! ## When a slot may fire -/

/-- What the tokens of a slot allow: it must wait, its predicate does not match, it holds a null, or it fires. -/
inductive Ready where
  | wait | skip | null | go
  deriving DecidableEq, Repr

/-- The predicate of a slot (R17, R74). -/
def predReady (p : Pr) (t : Option Token) : Ready :=
  match p with
  | .always => .go
  | .onTrue => match t with
    | none => .wait
    | some .null => .null
    | some (.val v) => if v = 0 then .skip else .go
  | .onFalse => match t with
    | none => .wait
    | some .null => .null
    | some (.val v) => if v = 0 then .go else .skip

def tokReady (used : Bool) (t : Option Token) : Ready :=
  if used then match t with
    | none => .wait
    | some .null => .null
    | some (.val _) => .go
  else .go

/-- Readiness of a word that is neither a side effect nor a PUTR: every position it uses must be filled (R15, R74). -/
def readyPlain (p : Pr) (u : Uses) (sl : Slot) : Ready :=
  let l := tokReady (u != .none) sl.left
  let r := tokReady (u == .lr) sl.right
  if sl.fired then .wait
  else match predReady p sl.pred with
    | .wait => .wait
    | .skip => .skip
    | q =>
      if l = .wait || r = .wait then .wait
      else if q = .null || l = .null || r = .null then .null
      else .go

/-- Readiness of a side effect or PUTR: a null on any position resolves it at once (R24, R74). DEDUCED: notes/assumptions/15. -/
def readySide (p : Pr) (u : Uses) (sl : Slot) : Ready :=
  let l := tokReady (u != .none) sl.left
  let r := tokReady (u == .lr) sl.right
  let q := predReady p sl.pred
  if sl.fired then .wait
  else if q = .null || l = .null || r = .null then .null
  else if q = .skip then .skip
  else if q = .wait || l = .wait || r = .wait then .wait
  else .go

/-- The value of a token that is there; a null and a missing token have none and read as zero where no rule reads them. -/
def tokVal (t : Option Token) : Word :=
  match t with
  | some (.val v) => v
  | _ => 0

/-! ## Decode checks of a block -/

/-- A target as the position (1 left, 2 right, 3 predicate) and slot it names. -/
def tgtKey : Tgt → Option (Nat × Nat)
  | .none => none
  | .left s => some (1, s.toNat)
  | .right s => some (2, s.toNat)
  | .pred s => some (3, s.toNat)

/-- Whether an instruction uses a position (R68). -/
def posUsed (i : Instr) (pos : Nat) : Bool :=
  if pos = 3 then predOf i != .always
  else if pos = 1 then usesOf i != .none
  else usesOf i == .lr

/-- Cause of a slot's decode fault: 0 none, 1 ILLEGAL, 3 PRIVBLOCK (R89, R267). DEDUCED: notes/assumptions/13. -/
def slotCheck (hdr : IWord) (words : List IWord) (all : List (Nat × Nat)) (s : Nat) : Nat :=
  let w := words.getD s 0
  let len := words.length - 1
  let last := fld hdr 8 1 == 1#1
  match decode w with
  | .error _ => 1
  | .ok i =>
    let keys := (targetsOf i).filterMap tgtKey
    let badTgt := keys.any (fun k =>
      decide (k.2 > len) || k.2 == s || decide (all.count k > 1) ||
      (match decode (words.getD k.2 0) with
       | .ok j => !posUsed j k.1
       | .error _ => false))
    let badLsid := match lsidOf i with
      | none => false
      | some l => decide ((words.filter (fun x => match decode x with
          | .ok j => lsidOf j == some l
          | .error _ => false)).length > 1)
    let badExit := exitOp (opOf w) && (last != (opOf w == 7))
    -- ATOM beside a PUTR or call exit that names its register (R347)
    let writes (x : IWord) (g : Nat) : Bool := match decode x with
      | .ok (.putr _ n) => n.toNat == g
      | .ok (.callo ..) => g == 63
      | .ok (.calli ..) => g == 63
      | _ => false
    let atomOf (x : IWord) : Option Nat := match decode x with
      | .ok (.atom _ _ _ gd) => some gd.toNat
      | _ => none
    let badAtom := match atomOf w with
      | some g => words.any (fun x => writes x g)
      | none => words.any (fun x => match atomOf x with
          | some g => writes w g
          | none => false)
    if badTgt || badLsid || badExit || badAtom then 1
    else if privOp (opOf w) && fld hdr 9 1 == 0#1 then 3
    else 0

/-- NOUT and NFX agree with the words (R64). DEDUCED: notes/assumptions/14. -/
def countsOk (hdr : IWord) (words : List IWord) : Bool :=
  (fld hdr 16 4).toNat == (words.filter (fun w => opOf w == 0x0C)).length &&
  (fld hdr 11 5).toNat == (words.filter (fun w => sideOp (opOf w))).length

/-- The first decode fault of a block whose words are all there, but for the header faults that need no word (R89, R268). DEDUCED: notes/assumptions/13, 14. -/
def blockCheck (hdr : IWord) (words : List IWord) : Option Trap :=
  if !countsOk hdr words then some { cause := 2 }
  else
    let all := (words.map (fun w => match decode w with
      | .ok i => (targetsOf i).filterMap tgtKey
      | .error _ => [])).flatten
    (List.range words.length).findSome? (fun s =>
      match slotCheck hdr words all s with
      | 0 => none
      | c => some { cause := c, slot := some s })

/-- MAGIC other than 0xB, or bit 7 set (R64). DEDUCED: notes/assumptions/14. -/
def headerBad (hdr : IWord) : Bool := fld hdr 28 4 != 0xB#4 || fld hdr 7 1 == 1#1

def hdrLen (hdr : IWord) : Nat := (fld hdr 0 7).toNat
def hdrWmask (hdr : IWord) : BitVec 8 := fld hdr 20 8
def hdrNout (hdr : IWord) : Nat := (fld hdr 16 4).toNat
def hdrNfx (hdr : IWord) : Nat := (fld hdr 11 5).toNat
def hdrSerial (hdr : IWord) : Bool := fld hdr 10 1 == 1#1
def hdrPriv (hdr : IWord) : Bool := fld hdr 9 1 == 1#1
def hdrLast (hdr : IWord) : Bool := fld hdr 8 1 == 1#1

end Sys2Proof.Machine
end

