-- ==== Sys2Proof/Machine/Access.lean ====
section
/-! DEFINITION. Machine/Access.lean: reading and changing one entry of the state. Every meaning goes through these. -/

namespace Sys2Proof.Machine

def State.onSched (s : State) (f : Sched → Sched) : State := { s with sched := f s.sched }
def State.onMem (s : State) (f : Memory → Memory) : State := { s with mem := f s.mem }
def State.onCores (s : State) (f : Cores → Cores) : State := { s with core := f s.core }
def State.onAcc (s : State) (f : Access → Access) : State := { s with acc := f s.acc }
def State.onWork (s : State) (f : Work → Work) : State := { s with work := f s.work }
def State.onEng (s : State) (f : Engines → Engines) : State := { s with eng := f s.eng }
def State.onMat (s : State) (f : Matrix → Matrix) : State := { s with mat := f s.mat }
def State.onKen (s : State) (f : Kennels → Kennels) : State := { s with ken := f s.ken }
def State.onLnk (s : State) (f : Links → Links) : State := { s with lnk := f s.lnk }
def State.onSys (s : State) (f : System → System) : State := { s with sys := f s.sys }

/-- The next order stamp. -/
def State.tickNo (s : State) : Nat := s.sched.tick
/-- DESIGN CHOICE: notes/assumptions/95. -/
def State.tickUp (s : State) : State := s.onSched (fun c => { c with tick := c.tick + 1 })

/-! ## Geometry (spec/02 R30, spec/20 R424) -/

/-- Cluster, package-wide core number and context of a strand identifier. -/
def sidCluster (sid : Nat) : Nat := sid / 512 * 12 + sid / 32 % 16
def sidCore (sid : Nat) : Nat := sidCluster sid * 8 + sid / 4 % 8
def sidCtx (sid : Nat) : Nat := sid % 4
/-- The strand identifier of context `ctx` of package-wide core `core`. -/
def mkSid (core ctx : Nat) : Nat := core / 96 * 512 + (core / 8 % 12) * 32 + (core % 8) * 4 + ctx
def coreCluster (core : Nat) : Nat := core / 8
def clusterQuarter (cl : Nat) : Nat := cl / 12
/-- The agent identifier of a strand (R294, R289): its identifier in [15:5], kind 0. -/
def sidAgent (sid : Nat) : Nat := sid * 32
def loaderAgent : Nat := 1
def outsideAgent : Nat := 2

/-! ## Entries -/

def State.strand (s : State) (sid : Nat) : Strand := tget s.core.strands sid
def State.setStrand (s : State) (sid : Nat) (x : Strand) : State :=
  s.onCores (fun c => { c with strands := tset c.strands sid x })
def State.modStrand (s : State) (sid : Nat) (f : Strand → Strand) : State := s.setStrand sid (f (s.strand sid))

def State.frame (s : State) (core f : Nat) : Frame := tget s.core.frames (core * 8 + f)
def State.setFrame (s : State) (core f : Nat) (x : Frame) : State :=
  s.onCores (fun c => { c with frames := tset c.frames (core * 8 + f) x })
def State.modFrame (s : State) (core f : Nat) (g : Frame → Frame) : State := s.setFrame core f (g (s.frame core f))

def State.coreSt (s : State) (core : Nat) : CoreSt := tget s.core.cores core
def State.modCoreSt (s : State) (core : Nat) (f : CoreSt → CoreSt) : State :=
  s.onCores (fun c => { c with cores := tmod c.cores core f })

def State.job (s : State) (j : Nat) : Job := tget s.work.jobs j
def State.modJob (s : State) (j : Nat) (f : Job → Job) : State := s.onWork (fun w => { w with jobs := tmod w.jobs j f })

def State.launch (s : State) (l : Nat) : Launch := tget s.work.launches l
def State.modLaunch (s : State) (l : Nat) (f : Launch → Launch) : State :=
  s.onWork (fun w => { w with launches := tmod w.launches l f })

def graphKey (job g : Nat) : Nat := job * 65536 + g
def State.graph (s : State) (job g : Nat) : Graph := tget s.work.graphs (graphKey job g)
def State.modGraph (s : State) (job g : Nat) (f : Graph → Graph) : State :=
  s.onWork (fun w => { w with graphs := tmod w.graphs (graphKey job g) f })

def State.queue (s : State) (q : Nat) : Queue := tget s.work.queues q
def State.modQueue (s : State) (q : Nat) (f : Queue → Queue) : State :=
  s.onWork (fun w => { w with queues := tmod w.queues q f })

/-- Context tag of a job in a cluster (R50). -/
def State.ctxTag (s : State) (job cl : Nat) : Option Nat :=
  match tgetD 0 (s.job job).ctxs cl with
  | 0 => none
  | n + 1 => some n

/-- The job a context tag of a cluster is mapped from. -/
def State.tagJob (s : State) (cl ctx : Nat) : Option Nat :=
  match tgetD 0 s.work.ctxJob (cl * 64 + ctx) with
  | 0 => none
  | n + 1 => some n

def agnKey (cl ctx n : Nat) : Nat := (cl * 64 + ctx) * 32 + n
def agnCl (key : Nat) : Nat := key / 32 / 64
def agnCtx (key : Nat) : Nat := key / 32 % 64
def agnNo (key : Nat) : Nat := key % 32
def State.agn (s : State) (key : Nat) : Agn := tget s.acc.agns key
def State.modAgn (s : State) (key : Nat) (f : Agn → Agn) : State := s.onAcc (fun a => { a with agns := tmod a.agns key f })

/-- The key of AGN n under a job's context tag in a cluster; an unmapped job reaches an entry that no configuration
writes. -/
def State.jobAgn (s : State) (job cl n : Nat) : Nat :=
  match s.ctxTag job cl with
  | some c => agnKey cl c n
  | none => agnKey 4096 0 n

/-- The cluster that stands for another in the graph of an owner: a graph re-placed after a cold restart has its nodes
elsewhere than its strands (R444). DESIGN CHOICE: notes/assumptions/5. -/
def State.placeOf (s : State) (who : Owner) (cl : Nat) : Nat :=
  match (s.graph who.job who.graph).moved.find? (fun m => m.1 == cl) with
  | some m => m.2
  | none => cl

/-- The cluster of a graph's collective: that of its AGNs. DEDUCED: notes/assumptions/78. -/
def State.collCluster (s : State) (job g i : Nat) : Nat :=
  let img := (s.graph job g).img
  s.placeOf { job := job, graph := g } (img.collAt.getD i (img.clusters.headD 0))

def State.coll (s : State) (job g i : Nat) : Coll := tget (s.graph job g).colls i
def State.modColl (s : State) (job g i : Nat) (f : Coll → Coll) : State :=
  s.modGraph job g (fun x => { x with colls := tmod x.colls i f })

/-- The key of AGN n of a strand's graph. -/
def State.strandAgn (s : State) (sid n : Nat) : Nat :=
  let who := (s.strand sid).who
  s.jobAgn who.job (s.placeOf who (sidCluster sid)) n

def State.pipe (s : State) (k : Nat) : Pipe := tget s.acc.pipes k
def State.modPipe (s : State) (k : Nat) (f : Pipe → Pipe) : State := s.onAcc (fun a => { a with pipes := tmod a.pipes k f })

def State.market (s : State) (cl : Nat) : Market := tget s.eng.markets cl
def State.modMarket (s : State) (cl : Nat) (f : Market → Market) : State :=
  s.onEng (fun e => { e with markets := tmod e.markets cl f })

def State.port (s : State) (cl p : Nat) : Port := tget s.eng.ports (cl * 32 + p)
def State.modPort (s : State) (cl p : Nat) (f : Port → Port) : State :=
  s.onEng (fun e => { e with ports := tmod e.ports (cl * 32 + p) f })

def State.barrier (s : State) (k : Nat) : Barrier := tget s.eng.bars k
def State.modBarrier (s : State) (k : Nat) (f : Barrier → Barrier) : State :=
  s.onEng (fun e => { e with bars := tmod e.bars k f })

/-- Lowest quarter of the partition that holds quarter q (R449). -/
def State.partOf (s : State) (q : Nat) : Nat := wbits s.sys.pcfg (2 * q) 2
def State.part (s : State) (root : Nat) : Partition := tget s.sys.parts root
def State.modPart (s : State) (root : Nat) (f : Partition → Partition) : State :=
  s.onSys (fun y => { y with parts := tmod y.parts root f })
def State.partOfCluster (s : State) (cl : Nat) : Nat := s.partOf (clusterQuarter cl)

/-- Whether a quarter is being quiesced, quiesced or resumed (R451): no claims, no dispatch, no job comes back. -/
def State.pmHolds (s : State) (q : Nat) : Bool :=
  decide (1 ≤ s.sys.pmstat ∧ s.sys.pmstat ≤ 3) && bitOf s.sys.pmask q

/-- The frames a strand holds, oldest block first. -/
def insertBySeq (fs : Nat → Frame) (x : Nat) : List Nat → List Nat
  | [] => [x]
  | y :: ys => if (fs x).seq ≤ (fs y).seq then x :: y :: ys else y :: insertBySeq fs x ys

def State.framesOf (s : State) (sid : Nat) : List Nat :=
  let core := sidCore sid
  let mine := (List.range 8).filter (fun f => (s.frame core f).used && (s.frame core f).sid == sid)
  mine.foldr (insertBySeq (s.frame core)) []

/-- Whether a frame holds its strand's oldest block. -/
def State.isOldest (s : State) (core f : Nat) : Bool :=
  match s.framesOf (s.frame core f).sid with
  | g :: _ => g == f
  | [] => false

/-- Change the element at position i of a list. -/
def listSet {α : Type} : List α → Nat → α → List α
  | [], _, _ => []
  | _ :: xs, 0, v => v :: xs
  | x :: xs, n + 1, v => x :: listSet xs n v

def listMod {α : Type} : List α → Nat → (α → α) → List α
  | [], _, _ => []
  | x :: xs, 0, f => f x :: xs
  | x :: xs, n + 1, f => x :: listMod xs n f

def Frame.slot (f : Frame) (i : Nat) : Slot := f.slots.getD i {}
def Frame.modSlot (f : Frame) (i : Nat) (g : Slot → Slot) : Frame := { f with slots := listMod f.slots i g }

end Sys2Proof.Machine
end

