-- ==== Sys2Proof/Machine/MemOps.lean ====
section
/-! DEFINITION. Machine/MemOps.lean: homes, timestamps, majority copies, caches, translation and address generators
(spec/06 R130 to R140, spec/14 R289 to R292, spec/15 R293 to R301, spec/16 R324 to R326, spec/22 R432, spec/23 R452 to
R459). -/

namespace Sys2Proof.Machine

/-- The next free value: one that the spec leaves open. DESIGN CHOICE: notes/assumptions/3, 85. -/
def State.freshFree (s : State) : Word × State :=
  (Config.freeValue s.sched.frees, s.onSched (fun c => { c with frees := c.frees + 1 }))

/-- A number of n free 64-bit words. DESIGN CHOICE: notes/assumptions/3. -/
def State.freeNumber (s : State) : Nat → Nat × State
  | 0 => (0, s)
  | n + 1 =>
    let (v, s1) := s.freshFree
    let (w, s2) := s1.freeNumber n
    (v.toNat + 2 ^ 64 * w, s2)

/-! ## Where things lie -/

/-- First home address of a core's W (0), A (1) or C (2) buffer (R130, R134). -/
def bufBase (core port : Nat) : Nat := 2 ^ 60 + core * 2 ^ 20 + port * 0x40000
def bufSize (port : Nat) : Nat := if port = 2 then 0x20000 else 0x40000
/-- First home address of shared tile t of a cluster (R136). -/
def tileBase (cl t : Nat) : Nat := 2 ^ 61 + (cl * 16 + t) * 2 ^ 19
def tileSize : Nat := 0x60000
/-- An HBM home: stack and position within it. -/
def stackHome (stack pos : Nat) : Nat := stack * 2 ^ 48 + pos

/-- The quarter whose partition a home belongs to: stacks hs0-hs2 are q0's, and so on (spec/00 R2). -/
def homeQuarter (a : Nat) : Nat :=
  if a ≥ 2 ^ 61 then (a - 2 ^ 61) / 2 ^ 19 / 16 / 12
  else if a ≥ 2 ^ 60 then (a - 2 ^ 60) / 2 ^ 20 / 96
  else if a ≥ 2 ^ 58 then (a - 2 ^ 58) / 2 ^ 52
  else a / 2 ^ 48 / 3

/-- Granule size of an interleave range (R459). -/
def hilGran (h : Word) : Nat :=
  match wbits h 61 2 with
  | 0 => 256
  | 1 => 4096
  | _ => 65536

/-- The numbers of the set bits of a mask, low first. -/
def setBits (v n : Nat) : List Nat := (List.range n).filter (fun i => bitOf v i)

/-- The home of a physical address of a partition (R459). An address in no valid range has a home of its own that no
range reaches (notes/assumptions). DESIGN CHOICE: notes/assumptions/5. -/
def State.physHome (s : State) (root pa : Nat) : Nat :=
  let p := s.part root
  let hit := (List.range 4).find? (fun n =>
    let h := tget p.hil n
    let b := wbits h 27 22 * 2 ^ 30
    bitOf h.toNat 63 && decide (b ≤ pa) && decide (pa < b + wbits h 5 22 * 2 ^ 30))
  match hit with
  | some n =>
    let h := tget p.hil n
    let g := hilGran h
    let off := pa - wbits h 27 22 * 2 ^ 30
    let st := setBits (wbits h 49 12) 12
    let k := off / g
    if st.length = 0 then 2 ^ 58 + root * 2 ^ 52 + pa
    else stackHome (st.getD (k % st.length) 0) (k / st.length * g + off % g)
  | none => 2 ^ 58 + root * 2 ^ 52 + pa

/-! ## Bytes -/

def State.byteAt (s : State) (a : Nat) : Byte := mget s.mem.bytes a
def State.setByte (s : State) (a : Nat) (b : Byte) : State := s.onMem (fun m => { m with bytes := mset m.bytes a b })
/-- The n bytes from a home address, as a little-endian number (R62). -/
def State.readLE (s : State) (a : Nat) : Nat → Nat
  | 0 => 0
  | n + 1 => (s.byteAt a).toNat + 256 * s.readLE (a + 1) n
def State.writeBytes (s : State) (a : Nat) : List Byte → State
  | [] => s
  | b :: bs => (s.setByte a b).writeBytes (a + 1) bs
def State.writeLE (s : State) (a n v : Nat) : State := s.writeBytes a (leBytes n v)
def State.bytesFrom (s : State) (a n : Nat) : List Byte := (List.range n).map (fun i => s.byteAt (a + i))

/-! ## Lines and timestamps (R293 to R296, R301) -/

/-- Half of the timestamp range that a rebase takes off (R301). -/
def rebaseB : Nat := 2 ^ 45

def State.epochBit (s : State) (root : Nat) : Nat := (s.part root).epoch.toNat % 2

/-- A line whose epoch differs from the partition's is converted when it is touched (R301 step 5). DEDUCED: notes/assumptions/93. -/
def convLine (bit : Nat) (l : Line) : Line :=
  if l.epoch = bit then l
  else { l with wts := max l.wts rebaseB - rebaseB, rts := max l.rts rebaseB - rebaseB, epoch := bit }

def State.line (s : State) (a : Nat) : Line :=
  convLine (s.epochBit (s.partOf (homeQuarter a))) (tget s.mem.lines (a / 64))
def State.setLine (s : State) (a : Nat) (l : Line) : State :=
  s.onMem (fun m => { m with lines := tset m.lines (a / 64) l })

/-- The lease every read takes (R295). -/
def leaseTicks : Nat := 64

/-- A load performed at its home by an agent at timestamp p: the access's timestamp and the line's new lease (R295). -/
def State.homeRead (s : State) (a p : Nat) : Nat × State :=
  let l := s.line a
  let t := max p l.wts
  (t, s.setLine a { l with rts := max l.rts (t + leaseTicks) })

/-- A store performed at its home: t = max(P, RTS + 1) (R296). A write of a whole line clears its poison mark (R432). -/
def State.homeWrite (s : State) (a : Nat) (bs : List Byte) (p wid : Nat) : Nat × State :=
  let l := s.line a
  let t := max p (l.rts + 1)
  let s1 := s.writeBytes a bs
  (t, s1.setLine a { l with wts := t, rts := t, wid := wid,
                            poison := l.poison && !(decide (bs.length ≥ 64)) })

/-! ## Majority copies, whole accesses (R289 to R292, R326) -/

/-- The stacks of a stack set (R459). -/
def State.ssetStacks (s : State) (root ss : Nat) : List Nat :=
  let w := tget (s.part root).sset ss
  (List.range (if bitOf w.toNat 62 then 5 else 3)).map (fun i => wbits w (4 * i) 4)

def majKey (stack a : Nat) : Nat := stack * 2 ^ 52 + a
/-- First byte of the cell that holds a stack-local byte address. -/
def cellAddr (a : Nat) : Nat := a / 64 * 64

/-- DEDUCED: notes/assumptions/93. -/
def convCopy (bit : Nat) (c : MajCopy) : MajCopy :=
  if c.epoch = bit then c
  else { c with wts := max c.wts rebaseB - rebaseB, rts := max c.rts rebaseB - rebaseB, epoch := bit }

/-- DESIGN CHOICE: notes/assumptions/5. -/
def State.majCopy (s : State) (root stack a : Nat) : MajCopy :=
  convCopy (s.epochBit root) (tget s.mem.maj (majKey stack a))
def State.setCopy (s : State) (stack a : Nat) (c : MajCopy) : State :=
  s.onMem (fun m => { m with maj := tset m.maj (majKey stack a) c })

/-- Tags compare by write timestamp, then writer (R289). -/
def tagNum (wts wid : Nat) : Nat := wts * 65536 + wid

def MajCopy.tag (c : MajCopy) : Nat := tagNum c.wts c.wid

/-- Whether a stack is in service (R326). -/
def State.stackUp (s : State) (root stack : Nat) : Bool := !(wbits (s.part root).majfail stack 1 == 1)

/-- Whether a stack answers: not marked failed, and its copy not poisoned (R326, R432). -/
def State.copyAnswers (s : State) (root stack a : Nat) : Bool :=
  s.stackUp root stack && !(s.majCopy root stack a).poison

def majorityOf (n : Nat) : Nat := n / 2 + 1

/-- A copy takes a write (R290 step 3): whether it accepts, and what it holds afterwards. -/
def copyTakesWrite (c : MajCopy) (ts wid : Nat) (img : BitVec 512) : Bool × MajCopy :=
  if c.rts > ts || (c.rts == ts && decide (c.rts > c.wts)) then (false, c)
  else if tagNum ts wid > c.tag then
    (true, { c with img := img, wts := ts, wid := wid, rts := max c.rts ts, poison := false })
  else (true, c)

/-- A copy takes a repair (R292). DEDUCED: notes/assumptions/29. -/
def copyTakesRepair (c : MajCopy) (wts wid : Nat) (img : BitVec 512) : MajCopy :=
  if tagNum wts wid > c.tag then
    { c with img := img, wts := wts, wid := wid, rts := max c.rts wts, poison := false }
  else c

/-- A copy takes a read at timestamp p (R291). -/
def copyTakesRead (c : MajCopy) (p : Nat) : MajCopy := { c with rts := max c.rts (max c.wts p + leaseTicks) }

/-- Bytes off .. off + n - 1 of a cell image. -/
def imgBytes (img : BitVec 512) (off n : Nat) : Nat := bits img.toNat (8 * off) (8 * n)
/-- The image with n bytes at off replaced. -/
def imgPut (img : BitVec 512) (off n v : Nat) : BitVec 512 :=
  let m : BitVec 512 := BitVec.ofNat 512 (2 ^ (8 * n) - 1) <<< (8 * off)
  (img &&& ~~~m) ||| (BitVec.ofNat 512 (v % 2 ^ (8 * n)) <<< (8 * off))

/-- The newest of the answering copies. -/
def State.majNewest (s : State) (root a : Nat) (st : List Nat) : MajCopy :=
  st.foldl (fun b k => let c := s.majCopy root k a; if c.tag > b.tag then c else b) {}

/-- A cell of a majority page has been touched: the hounds visit it (R327). -/
def State.majNote (s : State) (root ss a : Nat) : State :=
  s.onMem (fun m => { m with majCells := tset m.majCells ((root * 16 + ss) * 2 ^ 52 + a) 1 })

/-- A whole majority read by an engine (R291): none where the page has lost its majority. Every answering copy takes the
lease, and every copy that lags is repaired. DEDUCED: notes/assumptions/28. -/
def State.majRead (s : State) (root ss a p : Nat) : Option (BitVec 512 × Nat × State) :=
  let all := s.ssetStacks root ss
  let ok := all.filter (fun k => s.copyAnswers root k a)
  if ok.length < majorityOf all.length then none
  else
    let win := s.majNewest root a ok
    let s' := ok.foldl (fun st k =>
      st.setCopy k a (copyTakesRepair (copyTakesRead (st.majCopy root k a) p) win.wts win.wid win.img))
      (s.majNote root ss a)
    some (win.img, max p win.wts, s')

/-- A whole majority write by an engine (R290): the bytes over the newest image, at a timestamp every answering copy
accepts. DEDUCED: notes/assumptions/28. -/
def State.majWrite (s : State) (root ss a off n v p wid : Nat) : Option (Nat × State) :=
  let all := s.ssetStacks root ss
  let ok := all.filter (fun k => s.copyAnswers root k a)
  if ok.length < majorityOf all.length then none
  else
    let rts := ok.foldl (fun m k => max m (s.majCopy root k a).rts) 0
    let t := max p (rts + 1)
    let img := imgPut (s.majNewest root a ok).img off n v
    let s' := (all.filter (s.stackUp root)).foldl (fun st k =>
      st.setCopy k a (copyTakesWrite (st.majCopy root k a) t wid img).2) (s.majNote root ss a)
    some (t, s')

/-! ## Translation (R452 to R454) -/

/-- Whether a table entry keeps the rules of R453, as a leaf of 2^b bytes. -/
def State.leafOk (s : State) (root : Nat) (e : Word) (b : Nat) : Bool :=
  bitOf e.toNat 63 && bitOf e.toNat 62 && wbits e 0 8 == 0 && wbits e 60 2 != 3 &&
  wbits e 8 (b - 8) == 0 &&
  (wbits e 60 2 == 0 || bitOf (tget (s.part root).sset (wbits e 52 4)).toNat 63)

/-- Table entry `idx` of the table at a physical address. -/
def State.tableEntry (s : State) (root tbl idx : Nat) : Word :=
  BitVec.ofNat 64 (s.readLE (s.physHome root (tbl + 8 * idx)) 8)

/-- The walk from a level's table: the leaf and its page size in bits; none is XLATE_MISS (R453). -/
def State.walkFrom (s : State) (root va : Nat) : Nat → Nat → Option (Nat × Word)
  | 0, tbl =>
    let e := s.tableEntry root tbl (va / 2 ^ 16 % 32)
    if s.leafOk root e 16 then some (16, e) else none
  | l + 1, tbl =>
    let b := 21 + 9 * l
    let e := s.tableEntry root tbl (va / 2 ^ b % 512)
    if !bitOf e.toNat 63 then none
    else if bitOf e.toNat 62 then
      (if l ≤ 1 && s.leafOk root e b then some (b, e) else none)
    else if wbits e 0 8 != 0 || wbits e 60 2 == 3 then none
    else s.walkFrom root va l (wbits e 8 44 * 256)

/-- Walk a job's tables (R452). -/
def State.walk (s : State) (root job va : Nat) : Option (Nat × Word) :=
  s.walkFrom root va 4 (wbits (s.job job).jroot 12 40 * 4096)

/-- Where a leaf maps an address (R453). DESIGN CHOICE: notes/assumptions/5. -/
def State.leafPlace (s : State) (root b va : Nat) (leaf : Word) : Place :=
  let pa := wbits leaf 8 44 * 256 + va % 2 ^ b
  if wbits leaf 60 2 = 0 then .home (s.physHome root pa) else .maj (wbits leaf 52 4) pa

/-- XLATE_MISS and XLATE_PERM as trap causes (R267). -/
def causeMiss : Nat := 0x18
def causePerm : Nat := 0x19

/-- Rights of a leaf for an access (R453): the place, or the cause. -/
def State.leafAccess (s : State) (root b va : Nat) (leaf : Word) (write exec : Bool) : Except Nat Place :=
  if (write && !bitOf leaf.toNat 59) || (exec && !bitOf leaf.toNat 58) then .error causePerm
  else .ok (s.leafPlace root b va leaf)

def State.tlbFind (s : State) (q asid va : Nat) : Option TlbEntry :=
  (tget s.acc.tlb q).find? (fun e => e.asid == asid && e.base == va / 2 ^ e.bits)

/-- Cached translation of an address; none: a walk is needed. An address of more than 57 bits maps nowhere. DEDUCED: notes/assumptions/30. -/
def State.xlateCached (s : State) (q job va : Nat) (write exec : Bool) : Option (Except Nat Place) :=
  if va ≥ 2 ^ 57 then some (.error causeMiss)
  else match s.tlbFind q job va with
    | some e => some (s.leafAccess (s.partOf q) e.bits va e.leaf write exec)
    | none => none

/-- Translation with the walk made in the same step, as an engine's access takes it (R454). -/
def State.xlate (s : State) (q job va : Nat) (write exec : Bool) : Except Nat Place :=
  match s.xlateCached q job va write exec with
  | some r => r
  | none =>
    let root := s.partOf q
    match s.walk root job va with
    | none => .error causeMiss
    | some (b, leaf) => s.leafAccess root b va leaf write exec

/-! ## Address generators (R131, R132) -/

/-- A decoded AGN record. -/
structure AgnRec where
  role : Nat
  port : Nat
  tile : Nat
  trole : Nat
  pers : Bool
  esz : Nat
  tid : Nat
  base : Nat
  ext : List Nat
  str : List Int
  deriving DecidableEq, Repr

def agnRec (ws : List Word) : AgnRec :=
  let w0 := ws.getD 0 0
  let dim (d : Nat) : Word := ws.getD (2 + d) 0
  { role := wbits w0 62 2, port := wbits w0 59 3, tile := wbits w0 55 4, trole := wbits w0 53 2,
    pers := bitOf w0.toNat 52, esz := wbits w0 47 3, tid := wbits w0 35 12, base := wbits (ws.getD 1 0) 0 57,
    ext := [0, 1, 2, 3].map (fun d => wbits (dim d) 36 28),
    str := [0, 1, 2, 3].map (fun d => toSigned 36 (wbits (dim d) 0 36)) }

def AgnRec.bound (r : AgnRec) : Bool := r.role != 0
/-- Element size in bits (R131). -/
def AgnRec.ebits (r : AgnRec) : Nat := 4 * 2 ^ r.esz
/-- Elements in a 128-byte payload (R80). -/
def AgnRec.perCell (r : AgnRec) : Nat := 1024 / r.ebits
/-- Number of elements of the shape. -/
def AgnRec.count (r : AgnRec) : Nat := r.ext.foldl (· * ·) 1
def AgnRec.isWindow (r : AgnRec) : Bool := r.port == 4 || r.port == 5

/-- Byte address of element n: none is AGN_BOUND (R132). A 4-bit element lies in byte i3 / 2 of its row (R131). -/
def AgnRec.addr (r : AgnRec) (n : Nat) : Option Int :=
  if n ≥ r.count then none
  else
    let e (d : Nat) := r.ext.getD d 1
    let i3 := n % e 3
    let n2 := n / e 3
    let i2 := n2 % e 2
    let n1 := n2 / e 2
    let i1 := n1 % e 1
    let i0 := n1 / e 1
    let t (d i : Nat) : Int := (i : Int) * r.str.getD d 0
    some ((r.base : Int) + t 0 i0 + t 1 i1 + t 2 i2 + t 3 i3 + (if r.esz = 0 then ((i3 / 2 : Nat) : Int) else 0))

/-- Trap causes of an AGN use (R267). -/
def causeBound : Nat := 0x10
def causeRole : Nat := 0x11
def causePort : Nat := 0x12
def causeUnbound : Nat := 0x13
def causeMode : Nat := 0x14
/-- The completion status that names the same fault (R161). -/
def agnStatus (cause : Nat) : Nat :=
  if cause = causeMiss then 0xA2 else if cause = causePerm then 0xA3
  else if cause = 0x1A then 0x80 else if cause = 0x15 then 0xA4
  else if cause = causeUnbound then 0x97 else if cause = causeMode then 0x96 else 0x93 + (cause - 0x10)

/-- The uses of R133. -/
inductive AgnUse where
  | load | store | cells | wport | pipeGet | pipePut | parm | copyRead | copyWrite
  deriving DecidableEq, Repr

/-- Current role of a tile: 0 none, 1 addressed, 2 FIFO, 3 cache bank, 4 structure memory (R136, R421). -/
def State.tileRole (s : State) (cl t : Nat) : Nat := tgetD 0 s.mem.roles (cl * 16 + t)

/-- The tile role that TROLE expects (R131). -/
def troleWants (t : Nat) : Nat := if t = 0 then 1 else if t = 1 then 2 else if t = 2 then 4 else 7

/-- Role and port check of a use (R133): 0, or the cause. DEDUCED: notes/assumptions/33. -/
def State.agnCheck (s : State) (cl : Nat) (r : AgnRec) (u : AgnUse) : Nat :=
  let rd := r.role == 1 || r.role == 3
  let wr := r.role == 2 || r.role == 3
  let roleOk := match u with
    | .load | .cells | .pipeGet | .copyRead => rd
    | .store | .wport | .pipePut | .copyWrite => wr
    | .parm => true
  let tr := s.tileRole cl r.tile
  let tileOk (allowed : List Nat) := tr == troleWants r.trole && allowed.contains tr
  let portOk := match u with
    | .load | .store =>
      (r.port != 2 && r.port != 3 && decide (r.port ≤ 5) && r.esz != 0) || (r.port == 3 && tileOk [1, 4] && r.esz != 0)
    | .parm => (r.port != 3 && decide (r.port ≤ 5)) || (r.port == 3 && tileOk [1, 2, 4])
    | .cells | .wport =>
      (r.port != 3 && decide (r.port ≤ 5)) || (r.port == 3 && tileOk [1, 2, 4] && (tr != 4 || r.esz == 4))
    | .pipeGet | .pipePut => r.port == 3 && tileOk [2]
    | .copyRead | .copyWrite => (r.port != 2 && r.port != 3 && decide (r.port ≤ 5)) || (r.port == 3 && tileOk [1])
  if !r.bound then causeUnbound
  else if !roleOk then causeRole
  else if !portOk then causePort
  else 0

/-- First home address and size of the space behind a buffer or tile port. -/
def portSpace (cl core : Nat) (r : AgnRec) : Nat × Nat :=
  if r.port = 3 then (tileBase cl r.tile, tileSize) else (bufBase core r.port, bufSize r.port)

/-- Where a byte address of an AGN lies, for an access of n bytes: a buffer or tile home, or a virtual address (R132). -/
inductive Where where
  | fault (cause : Nat)
  | home (a : Nat)
  | virt (va : Nat)
  deriving DecidableEq, Repr

def agnWhere (cl core : Nat) (r : AgnRec) (addr : Int) (n : Nat) : Where :=
  if r.isWindow then
    (if addr < 0 || addr ≥ 2 ^ 57 then .fault causeMiss else .virt addr.toNat)
  else
    let (b, sz) := portSpace cl core r
    if addr < 0 || addr + n > sz then .fault causeBound else .home (b + addr.toNat)

/-- The place of an access through an AGN, translated at once (engine accesses). -/
def State.agnPlace (s : State) (cl core job : Nat) (r : AgnRec) (addr : Int) (n : Nat) (write : Bool) :
    Except Nat Place :=
  match agnWhere cl core r addr n with
  | .fault c => .error c
  | .home a => .ok (.home a)
  | .virt va => s.xlate (clusterQuarter cl) job va write false

/-! ## Caches (R138, R139, R298) -/

def maxVersions : Nat := 512
/-- The line that a place lies in. -/
def placeLine : Place → Nat
  | .home a => a / 64
  | .maj ss a => 2 ^ 60 + ss * 2 ^ 46 + a / 64
def placeOff : Place → Nat
  | .home a => a % 64
  | .maj _ a => a % 64

/-- A version answers an access at timestamp p when max(p, WTS) ≤ RTS (R298). -/
def Version.hits (v : Version) (line p : Nat) : Bool := v.valid && v.line == line && decide (max p v.wts ≤ v.rts)

def leNatFrom (bs : List Byte) (off n : Nat) : Nat := leNat ((bs.drop off).take n)

/-- The lease cache takes a version; the version least recently used makes room (the spec names no victim). -/
def State.leasePut (s : State) (core : Nat) (v : Version) : State :=
  let old := (tget s.mem.lease core).filter (fun x => x.line != v.line)
  let kept := if old.length < maxVersions then old
    else
      let lru := old.foldl (fun m x => min m x.used) (old.headD {}).used
      old.filter (fun x => x.used != lru)
  s.onMem (fun m => { m with lease := tset m.lease core ({ v with valid := true, used := s.tickNo } :: kept) })

def State.leaseFind (s : State) (core line p : Nat) : Option Version :=
  (tget s.mem.lease core).find? (fun v => v.hits line p)

/-- The tiles of a cluster in the cache-bank role. -/
def State.bankTiles (s : State) (cl : Nat) : List Nat := (List.range 16).filter (fun t => s.tileRole cl t == 3)

/-- Key of the set that a line falls in; none without a cache bank. -/
def State.bankKey (s : State) (cl line : Nat) : Option Nat :=
  match s.bankTiles cl with
  | [] => none
  | ts =>
    let h := Config.cacheSlot line
    some ((cl * 16 + ts.getD (h % ts.length) 0) * 384 + h / ts.length % 384)

def State.bankFind (s : State) (cl line p : Nat) : Option Version :=
  match s.bankKey cl line with
  | none => none
  | some k => (tget s.mem.banks k).find? (fun v => v.hits line p)

/-- A hit counts down a reuse-k line and marks it used (R138). -/
def State.bankTouch (s : State) (cl line : Nat) : State :=
  match s.bankKey cl line with
  | none => s
  | some k => s.onMem (fun m => { m with banks := tmod m.banks k (fun vs => vs.map (fun v =>
      if v.valid && v.line == line then { v with used := s.tickNo, left := v.left - 1 } else v)) })

/-- Ways a class may allocate (R138). -/
def classWays (cls : Nat) : List Nat :=
  if cls = 0 then [0, 1] else if cls = 2 then [8, 9, 10, 11, 12, 13, 14, 15] else List.range 16

/-- Standing of a held line as a victim: smaller goes first; pinned lines never go (R138). -/
def victimRank (v : Version) : Option Nat :=
  if !v.valid then some 0
  else if v.cls = 2 then none
  else if v.cls = 0 || v.left = 0 then some 1
  else some 2

/-- Allocate a version in a set (R138, R139): the allowed way that ranks lowest, the least recently used first. -/
def allocWay (set16 : List Version) (ways : List Nat) (v : Version) : List Version :=
  let rank (w : Nat) : Option (Nat × Nat) :=
    match victimRank (set16.getD w {}) with
    | some r => some (r, (set16.getD w {}).used)
    | none => none
  let better (a b : Nat × Nat) : Bool := decide (a.1 < b.1 ∨ (a.1 = b.1 ∧ a.2 < b.2))
  let best := ways.foldl (fun (o : Option (Nat × (Nat × Nat))) w =>
    match rank w, o with
    | none, o => o
    | some r, none => some (w, r)
    | some r, some (w0, r0) => if better r r0 then some (w, r) else some (w0, r0)) none
  match best with
  | none => set16
  | some (w, _) => listSet set16 w v

/-- A cluster's bank takes a version of a line. A held line is updated in place; otherwise the class and the mask decide
(R138, R139, R298). `alloc` false: no allocation. -/
def State.bankPut (s : State) (cl cls k mask : Nat) (alloc : Bool) (v : Version) : State :=
  match s.bankKey cl v.line with
  | none => s
  | some key =>
    let cur := tget s.mem.banks key
    let set16 := if cur.length = 16 then cur else List.replicate 16 {}
    let v := { v with valid := true, used := s.tickNo, cls := cls, left := k }
    let held := set16.any (fun x => x.valid && x.line == v.line)
    let set' :=
      if held then set16.map (fun x => if x.valid && x.line == v.line
        then { v with cls := x.cls, left := x.left } else x)
      else if !alloc then set16
      else
        let pinnedFull := cls == 2 && decide ((set16.filter (fun x => x.valid && x.cls == 2)).length ≥ 8)
        let v := if pinnedFull then { v with cls := 1, left := 15 } else v
        allocWay set16 ((classWays v.cls).filter (fun w => bitOf mask w)) v
    s.onMem (fun m => { m with banks := tset m.banks key set' })

/-- Way mask of an engine class of a cluster (R139, R458); kept complemented so that reset is all ones. -/
def State.wayMask (s : State) (cl cls : Nat) : Nat :=
  0xFFFF - wbits (tget s.sys.ways (cl * 2 + cls / 4)) (16 * (cls % 4)) 16

/-! ## Tensor entries (R140) -/

def State.tensor (s : State) (job tid : Nat) : BitVec 256 := if tid = 0 then 0 else tgetD 0 (s.job job).tensors tid
def tfmt (e : BitVec 256) : Nat := bits e.toNat 250 6
def tblk (e : BitVec 256) : Nat := bits e.toNat 240 8
def treuse (e : BitVec 256) : Nat := bits e.toNat 238 2
def trk (e : BitVec 256) : Nat := bits e.toNat 234 4
def tbase (e : BitVec 256) : Nat := bits e.toNat 175 57
def tsbase (e : BitVec 256) : Nat := bits e.toNat 118 57
def text (e : BitVec 256) (d : Nat) : Nat := bits e.toNat (90 - 28 * d) 28

/-! ## Reads and writes by engines (R316): performed at the home at timestamp p -/

/-- The current image of the line a place lies in. -/
def State.lineImage (s : State) (root : Nat) (pl : Place) : List Byte :=
  match pl with
  | .home a => s.bytesFrom (a / 64 * 64) 64
  | .maj ss a => leBytes 64 (s.majNewest root (cellAddr a)
      ((s.ssetStacks root ss).filter (fun k => s.copyAnswers root k (cellAddr a)))).img.toNat

/-- Read n bytes (within one line): value, timestamp and the state after; the error is UE (R432, R326). -/
def State.engRead (s : State) (root : Nat) (pl : Place) (n p : Nat) : Except Nat (Nat × Nat × State) :=
  match pl with
  | .home a =>
    if (s.line a).poison then .error 0x1A
    else
      let (t, s') := s.homeRead a p
      .ok (s.readLE a n, t, s')
  | .maj ss a =>
    match s.majRead root ss (cellAddr a) p with
    | none => .error 0x1A
    | some (img, t, s') => .ok (imgBytes img (a % 64) n, t, s')

/-- Write n bytes (within one line) as agent wid. -/
def State.engWrite (s : State) (root : Nat) (pl : Place) (n v p wid : Nat) : Except Nat (Nat × State) :=
  match pl with
  | .home a => .ok (s.homeWrite a (leBytes n v) p wid)
  | .maj ss a =>
    match s.majWrite root ss (cellAddr a) (a % 64) n v p wid with
    | none => .error 0x1A
    | some r => .ok r

/-! ## Structure memory (R137) -/

/-- Whether a home address lies in a tile that has the structure role. -/
def State.isStruct (s : State) (a : Nat) : Bool :=
  if a ≥ 2 ^ 61 then tgetD 0 s.mem.roles ((a - 2 ^ 61) / 2 ^ 19) == 4 else false
/-- DEDUCED: notes/assumptions/32. -/
def State.structWritten (s : State) (a : Nat) : Bool := tgetD false s.mem.swrit (a / 8)
def State.structMark (s : State) (a : Nat) : State := s.onMem (fun m => { m with swrit := tset m.swrit (a / 8) true })

end Sys2Proof.Machine
end

