-- ==== Sys2Proof/Machine/CellOps.lean ====
section
/-! DEFINITION. Machine/CellOps.lean: cells: layout, check value, header check, elements, descriptors, the port map and the
market queues they join (spec/03 R75 to R81, spec/04 R98, R99, spec/06 R147, spec/07 R170, spec/09 R191 to R195). -/

namespace Sys2Proof.Machine

/-! ## Opcodes (R98, R99) -/

def isControlCop (c : Nat) : Bool := c == 0x3F0 || c == 0x3F1 || c == 0x3F2 || c == 0x3F3
def isBarrierCop (c : Nat) : Bool := decide (0x290 ≤ c ∧ c ≤ 0x294)

/-- Whether a COP is assigned. -/
def copAssigned (c : Nat) : Bool :=
  decide (c ≤ 0x002) || decide (0x080 ≤ c ∧ c ≤ 0x089) || decide (0x100 ≤ c ∧ c ≤ 0x11E) ||
  decide (0x180 ≤ c ∧ c ≤ 0x18A) || decide (0x200 ≤ c ∧ c ≤ 0x204) || decide (0x280 ≤ c ∧ c ≤ 0x28A) ||
  isBarrierCop c || decide (0x300 ≤ c ∧ c ≤ 0x306) || c == 0x380 || c == 0x381 ||
  decide (0x390 ≤ c ∧ c ≤ 0x393) || isControlCop c

/-- The operations that take runs: write-port, vector and element-wise special-function cells, and CMPL (R169, R190, R203,
R386); every other operation's rule says RUN 0. -/
def takesRuns (c : Nat) : Bool :=
  decide (c ≤ 0x002) || decide (0x100 ≤ c ∧ c ≤ 0x11E) || decide (0x180 ≤ c ∧ c ≤ 0x187) || c == 0x3F0

/-- Engine class behind an egress port; none: every class (R191). -/
def egressClass (p : Nat) : Option Nat :=
  if p ≤ 3 then some 1 else if p ≤ 7 then some 2 else if p = 8 then some 3 else if p = 9 then some 4
  else if p = 10 then some 5 else if p ≤ 12 then some 6 else if p ≤ 14 then some 7 else if p = 15 then none
  else some 0

/-! ## Layout (R75, R76) -/

/-- A field placed at bit lo. -/
def at' (lo v : Nat) : Nat := v * 2 ^ lo

end Sys2Proof.Machine

namespace Sys2Proof

open Sys2Proof.Machine

/-- The 128-bit header. -/
def Cell.header (c : Cell) : Nat :=
  at' 122 c.dcl.toNat + at' 117 c.dport.toNat + at' 116 c.mc.toNat + at' 115 c.cls.toNat + at' 105 c.cop.toNat +
  at' 99 c.ctx.toNat + at' 75 c.itag.toNat + at' 70 c.run.toNat + at' 68 c.pos.toNat + at' 60 c.col.toNat +
  at' 52 c.cnt.toNat + at' 51 c.last.toNat + at' 50 c.gate.toNat + at' 38 c.tid.toNat + at' 22 c.aux.toNat +
  at' 16 c.side.toNat + c.chk.toNat

/-- The cell as one 1280-bit little-endian number: header, payload, sidecar. -/
def Cell.number (c : Cell) : Nat := c.header + at' 128 c.pay.toNat + at' 1152 c.car.toNat


end Sys2Proof

namespace Sys2Proof.Machine

def cellOfNumber (v : Nat) : Cell :=
  { dcl := BitVec.ofNat 6 (bits v 122 6), dport := BitVec.ofNat 5 (bits v 117 5), mc := bitOf v 116,
    cls := bitOf v 115, cop := BitVec.ofNat 10 (bits v 105 10), ctx := BitVec.ofNat 6 (bits v 99 6),
    itag := BitVec.ofNat 24 (bits v 75 24), run := BitVec.ofNat 5 (bits v 70 5), pos := BitVec.ofNat 2 (bits v 68 2),
    col := BitVec.ofNat 8 (bits v 60 8), cnt := BitVec.ofNat 8 (bits v 52 8), last := bitOf v 51, gate := bitOf v 50,
    tid := BitVec.ofNat 12 (bits v 38 12), aux := BitVec.ofNat 16 (bits v 22 16), side := BitVec.ofNat 6 (bits v 16 6),
    chk := BitVec.ofNat 16 (bits v 0 16), pay := BitVec.ofNat 1024 (bits v 128 1024),
    car := BitVec.ofNat 128 (bits v 1152 128) }

/-- One bit step of CRC-16, polynomial 0x1021 (R79). -/
def crcBit (c : Nat) : Nat := if bitOf c 15 then Nat.xor (c * 2 % 65536) 0x1021 else c * 2 % 65536
def crcByte (c b : Nat) : Nat :=
  crcBit (crcBit (crcBit (crcBit (crcBit (crcBit (crcBit (crcBit (Nat.xor c (b * 256)))))))))
/-- CRC-16 over bytes i .. i + n - 1 of a little-endian number, from an initial value. -/
def crc16 (v : Nat) : Nat → Nat → Nat → Nat
  | 0, _, c => c
  | n + 1, i, c => crc16 v n (i + 1) (crcByte c (bits v (8 * i) 8))

end Sys2Proof.Machine

namespace Sys2Proof

open Sys2Proof.Machine

/-- CHK of a cell: CRC-16 of bytes 2 to 159, initial value 0xFFFF (R79). -/
def Cell.crc (c : Cell) : BitVec 16 := BitVec.ofNat 16 (crc16 c.number 158 2 0xFFFF)
/-- The hardware writes CHK from the finished cell (R77). -/
def Cell.seal (c : Cell) : Cell := { c with chk := c.crc }


end Sys2Proof

namespace Sys2Proof.Machine

/-! ## Elements, sidecar (R80, R81) -/

end Sys2Proof.Machine

namespace Sys2Proof

open Sys2Proof.Machine

/-- Element j of b bits of the payload. -/
def Cell.elem (c : Cell) (b j : Nat) : Nat := bits c.pay.toNat (b * j) b
def Cell.word (c : Cell) (i : Nat) : Word := BitVec.ofNat 64 (c.elem 64 i)

end Sys2Proof

namespace Sys2Proof.Machine

/-- A payload from its elements of b bits. -/
def packElems (b : Nat) (vs : List Nat) : BitVec 1024 :=
  BitVec.ofNat 1024 (vs.foldr (fun v acc => v % 2 ^ b + acc * 2 ^ b) 0)
end Sys2Proof.Machine

namespace Sys2Proof

open Sys2Proof.Machine

/-- Whether element j is present (R81). -/
def Cell.present (c : Cell) (j : Nat) : Bool := if c.side = 63 then c.car.getLsbD j else true
/-- Block header h of the sidecar. -/
def Cell.hdr (c : Cell) (h : Nat) : Nat := bits c.car.toNat (16 * h) 16

end Sys2Proof

namespace Sys2Proof.Machine

/-- An element mask as a sidecar. -/
def maskCar (ms : List Bool) : BitVec 128 :=
  BitVec.ofNat 128 (ms.foldr (fun b acc => b.toNat + 2 * acc) 0)

/-! ## Header check (R78) -/

end Sys2Proof.Machine

namespace Sys2Proof

open Sys2Proof.Machine

/-- Whether a header passes R78. `mcOk`: the multicast group named is configured. `packed`: the format packs more than 128
elements in a payload. DEDUCED: notes/assumptions/49. -/
def Cell.headerOk (c : Cell) (mcOk packed : Bool) : Bool :=
  let cop := c.cop.toNat
  let side := c.side.toNat
  !(decide (48 ≤ c.dcl.toNat ∧ c.dcl.toNat ≤ 62)) && copAssigned cop &&
  ((isControlCop cop || isBarrierCop cop) == c.cls) &&
  (if c.mc then mcOk
   else isControlCop cop || (match egressClass c.dport.toNat with
     | none => true
     | some k => k == cop / 128)) &&
  !(decide (9 ≤ side ∧ side ≤ 62)) && !(side == 63 && packed) && (c.run == 0 || takesRuns cop)

/-- The cluster a cell is for, as seen from the one it is in (R76). -/
def Cell.target (c : Cell) (cl : Nat) : Nat := if c.dcl.toNat = 63 then cl else c.dcl.toNat


end Sys2Proof

namespace Sys2Proof.Machine

/-- Multicast mask of a group (R206): group n of a cluster. -/
def State.mcGroup (s : State) (cl g : Nat) : Word := tget (s.market cl).mcg g

/-- Header check in the state: the group is looked up in the destination cluster, the format in the job's tensor table. DEDUCED: notes/assumptions/35. -/
def State.cellOk (s : State) (cl job : Nat) (c : Cell) : Bool :=
  let e := tfmt (s.tensor job c.tid.toNat)
  c.headerOk (s.mcGroup (c.target cl) c.dport.toNat != 0)
    (match efmt e with
     | some f => decide (f.bits < 8)
     | none => false)

/-! ## Descriptors (R147) and route entries (R170) -/

/-- Header fields from CDESC and CTAG; TID is the AGN's. -/
def cellOfDesc (cdesc ctag : Word) (tid : Nat) : Cell :=
  { dcl := cdesc.extractLsb' 58 6, dport := cdesc.extractLsb' 53 5, mc := cdesc.getLsbD 52, cls := cdesc.getLsbD 51,
    cop := cdesc.extractLsb' 41 10, pos := cdesc.extractLsb' 39 2, col := cdesc.extractLsb' 31 8,
    cnt := cdesc.extractLsb' 23 8, last := cdesc.getLsbD 22, gate := cdesc.getLsbD 21, run := cdesc.extractLsb' 16 5,
    aux := cdesc.extractLsb' 0 16, itag := ctag.extractLsb' 40 24, side := ctag.extractLsb' 34 6,
    tid := BitVec.ofNat 12 tid }

def ctagOff (ctag : Word) : Nat := wbits ctag 0 34

/-- A decoded route entry. -/
structure Route where
  dcl : Nat
  dport : Nat
  mc : Bool
  cop : Nat
  pos : Nat
  tid : Nat
  dagn : Nat
  rnd : Nat
  sat : Bool
  fwd : Bool
  cn : Bool
  cnport : Nat
  v : Bool
  deriving DecidableEq, Repr

def routeOf (w : Word) : Route :=
  { dcl := wbits w 58 6, dport := wbits w 53 5, mc := bitOf w.toNat 52, cop := wbits w 42 10, pos := wbits w 40 2,
    tid := wbits w 28 12, dagn := wbits w 23 5, rnd := wbits w 20 3, sat := bitOf w.toNat 19, fwd := bitOf w.toNat 18,
    cn := bitOf w.toNat 17, cnport := wbits w 12 5, v := bitOf w.toNat 0 }

/-- Key of a context tag's place in an engine of a cluster (ENG of R167). -/
def engCtx (cl eng ctx : Nat) : Nat := (cl * 32 + eng) * 64 + ctx
def State.route (s : State) (cl eng ctx n : Nat) : Route := routeOf (tget s.eng.routes (engCtx cl eng ctx * 16 + n))

/-- The rounding mode of an RND field (R230). -/
def rndOf (n : Nat) : Option Rnd :=
  match n with
  | 0 => some .rne
  | 1 => some .rtz
  | 2 => some .rup
  | 3 => some .rdn
  | 4 => some .sr
  | _ => none

/-! ## Market queues (R193 to R195) -/

end Sys2Proof.Machine

namespace Sys2Proof

open Sys2Proof.Machine

/-- The egress a cell bids for in a cluster: 14 when it is for another cluster (R193). -/
def Cell.egress (c : Cell) (cl : Nat) : Nat := if c.target cl = cl then c.dport.toNat else 14
def Cell.isMc (c : Cell) (cl : Nat) : Bool := c.mc && c.target cl == cl


end Sys2Proof

namespace Sys2Proof.Machine

end Sys2Proof.Machine

namespace Sys2Proof

/-- The cluster whose comparator an exit cell of a twin goes to (R439). -/
def MCell.cmpCluster (m : MCell) : Nat := (m.cmp - 1) / 2

/-- The cluster that a cell goes to, as seen from the one it is in. -/
def MCell.target (m : MCell) (cl : Nat) : Nat := if m.cmp = 0 then m.cell.target cl else m.cmpCluster

end Sys2Proof

namespace Sys2Proof.Machine

/-- The queue of an ingress port that a cell joins (R194). An exit cell of a twin goes to a comparator whatever its header
says (R439). -/
def queueOf (cl ingress : Nat) (m : MCell) : Nat :=
  let c := m.cell
  ingress * 66 +
    (if m.cmp != 0 then (if m.cmpCluster = cl then 15 else 14) * 2 + c.cls.toNat
     else if c.isMc cl then 64 + c.cls.toNat else c.egress cl * 2 + c.cls.toNat)

/-- Class of a queue. -/
def queueClass (q : Nat) : Nat := q % 66 % 2
def queueIngress (q : Nat) : Nat := q / 66
def queueIsMc (q : Nat) : Bool := decide (q % 66 ≥ 64)
def queueEgress (q : Nat) : Nat := q % 66 / 2

/-- Cells a queue holds. -/
def Market.queue (m : Market) (q : Nat) : List MCell := tget m.queues q

/-- Cells that hold a shared buffer (R195): those in queues, and those matched whose last crossing is still to come. -/
def Market.sharedUsed (m : Market) : Nat :=
  m.queues.foldl (fun n e => n + (e.2.filter (fun c => c.shared)).length) 0 +
  (m.matched.filter (fun x => x.free && !x.crossed && x.cell.shared)).length

/-- Whether the guaranteed buffer of queue q of cluster cl is taken: its first cell holds it until its last crossing ends. -/
def Market.ownTaken (m : Market) (cl q : Nat) : Bool :=
  (m.queue q).any (fun c => !c.shared) ||
  m.matched.any (fun x => x.free && !x.crossed && !x.cell.shared && queueOf cl x.ingress x.cell == q)

/-- Free shared buffers: 2,048 less those kept for open queues and those taken. -/
def Market.sharedFree (m : Market) : Nat := 2048 - m.opened.length - m.sharedUsed

def Market.c1floor (m : Market) : Nat := wbits m.cfg 16 8
def Market.agelim (m : Market) : Nat := wbits m.cfg 0 12

/-- Whether queue q has its guaranteed buffer to give (R195 rule 1). -/
def Market.ownFree (m : Market) (cl q : Nat) : Bool := m.opened.contains q && !m.ownTaken cl q

/-- Whether a cell of class k may join queue q (R195). -/
def Market.admits (m : Market) (cl q k : Nat) : Bool :=
  m.ownFree cl q || (if k = 1 then decide (m.sharedFree > 0) else decide (m.sharedFree > m.c1floor))

end Sys2Proof.Machine
end

