-- ==== Sys2Proof/Machine/WorkOps.lean ====
section
/-! DEFINITION. Machine/WorkOps.lean: termination counters and what happens when one returns to zero, completion words and
counters, posted statuses, fault and error records, and the ends of a strand (spec/02 R38, R39, R52 to R54, spec/06 R160,
spec/13 R277, R286, spec/16 R330, R335, spec/22 R434). -/

namespace Sys2Proof.Machine

/-! ## Writes the device makes on its own account -/

/-- Write words at consecutive 8-byte virtual addresses of a job, as agent `wid` at timestamp p. A word whose page cannot
be written is left out. The largest timestamp taken comes back. -/
def State.sysWrite (s : State) (q job va p wid : Nat) : List Nat → Nat × State
  | [] => (p, s)
  | w :: ws =>
    let (t, s1) := match s.xlate q job va true false with
      | .error _ => (p, s)
      | .ok pl => match s.engWrite (s.partOf q) pl 8 w p wid with
        | .error _ => (p, s)
        | .ok r => r
    let (u, s2) := s1.sysWrite q job (va + 8) p wid ws
    (max t u, s2)

/-- Read a word at a virtual address from its home's current image; none where the page cannot be read. -/
def State.sysRead (s : State) (q job va : Nat) : Option Nat :=
  match s.xlate q job va false false with
  | .error _ => none
  | .ok (.home a) => some (s.readLE a 8)
  | .ok (.maj ss a) => some (leNatFrom (s.lineImage (s.partOf q) (.maj ss a)) (a % 64) 8)

/-- Read n words. -/
def State.sysReadWords (s : State) (q job va : Nat) : Nat → List Word
  | 0 => []
  | n + 1 => BitVec.ofNat 64 ((s.sysRead q job va).getD 0) :: s.sysReadWords q job (va + 8) n

/-! ## Completion counters (R58, R417) -/

def satAdd64 (a : Word) (n : Nat) : Word := BitVec.ofNat 64 (min (2 ^ 64 - 1) (a.toNat + n))

/-- counter = min(2^64 − 1, counter + n). -/
def State.counterAdd (s : State) (job c n : Nat) : State :=
  s.modJob job (fun j => { j with ctr := tset j.ctr c (satAdd64 (tget j.ctr c) n) })

/-! ## Largest timestamp of a partition (R301, R434) -/

def State.maxStamp (s : State) (root : Nat) : Nat :=
  let bit := s.epochBit root
  let m1 := s.mem.lines.foldl (fun m e =>
    if s.partOf (homeQuarter (e.1 * 64)) = root then max m (convLine bit e.2).rts else m) 0
  let m2 := s.mem.maj.foldl (fun m e =>
    if s.partOf (e.1 / 2 ^ 52 / 3) = root then max m (convCopy bit e.2).rts else m) m1
  s.core.strands.foldl (fun m e => if s.partOfCluster (sidCluster e.1) = root then max m e.2.pts else m) m2

/-! ## Error records (R434, R435) -/

/-- Append a record to a partition's error ring and advance job 0's counter. DESIGN CHOICE: notes/assumptions/31. -/
def State.errRecord (s : State) (root kind unit cl idx loc det : Nat) : State :=
  let r := (s.part root).rel
  let nrec := wbits r.cfg 0 16
  if nrec = 0 then s
  else if r.tail - r.head.toNat ≥ nrec then
    s.modPart root (fun p => { p with rel := { p.rel with lost := p.rel.lost + 1 } })
  else
    let w0 := kind * 2 ^ 56 + unit * 2 ^ 48 + cl % 64 * 2 ^ 42 + idx % 1024 * 2 ^ 32 + r.seqn % 2 ^ 32
    let at0 := r.base.toNat % 2 ^ 57 + 32 * (r.tail % nrec)
    let (_, s1) := s.sysWrite root 0 at0 0 loaderAgent [w0, loc % 2 ^ 64, det % 2 ^ 64, s.maxStamp root % 2 ^ 48]
    let s2 := s1.modPart root (fun p => { p with rel := { p.rel with tail := p.rel.tail + 1, seqn := p.rel.seqn + 1 } })
    s2.counterAdd 0 (wbits r.cfg 48 10) 1

def State.bumpUe (s : State) (root : Nat) : State :=
  s.modPart root (fun p => { p with rel := { p.rel with ue := p.rel.ue + 1 } })
def State.bumpCrc (s : State) (root : Nat) : State :=
  s.modPart root (fun p => { p with rel := { p.rel with crc := p.rel.crc + 1 } })
def State.bumpSdc (s : State) (root : Nat) : State :=
  s.modPart root (fun p => { p with rel := { p.rel with sdc := p.rel.sdc + 1 } })

/-! ## Contexts, wherever they lie (R286) -/

/-- Where a strand's context lies. -/
inductive Holder where
  | ctx | hold | saved
  | ghost (n : Nat)
  deriving DecidableEq, Repr

def State.heldBy (s : State) (sid : Nat) : Holder → Strand
  | .ctx => s.strand sid
  | .hold => tget s.core.holds sid
  | .saved => tget s.core.saved sid
  | .ghost n => tget s.core.ghosts n

def State.setHeld (s : State) (sid : Nat) (h : Holder) (x : Strand) : State :=
  match h with
  | .ctx => s.setStrand sid x
  | .hold => s.onCores (fun c => { c with holds := tset c.holds sid x })
  | .saved => s.onCores (fun c => { c with saved := tset c.saved sid x })
  | .ghost n => s.onCores (fun c => { c with ghosts := tset c.ghosts n x })

/-- Everything that still holds released work under a strand identifier, oldest first. -/
def State.holders (s : State) (sid : Nat) : List Holder :=
  (s.core.ghosts.filter (fun e => e.2.who.sid == sid)).map (fun e => Holder.ghost e.1) ++
  (if thas s.core.saved sid then [.saved] else []) ++
  (if thas s.core.holds sid then [.hold] else []) ++
  (if (s.strand sid).live then [.ctx] else [])

/-- The record of R286 as 85 words. DEDUCED: notes/assumptions/71. -/
def recordWords (x : Strand) : List Nat :=
  (List.range 64).map (fun g => (tget x.regs g).toNat) ++
  [ x.hmode.toNat * 2 ^ 63 + x.privs.toNat * 2 ^ 62 + x.pc.toNat % 2 ^ 57,
    x.pts % 2 ^ 48,
    x.tk.toNat * 2 ^ 56 + x.stc % 64 * 2 ^ 48 + x.cpc % 32 * 2 ^ 40 + x.tlc % 32 * 2 ^ 32,
    x.cseq.toNat, x.async.toNat, x.tbank0.toNat, x.tbank1.toNat, x.tbank2.toNat,
    x.tcause.toNat, x.tblk.toNat, x.targ.toNat, x.tresume.toNat ] ++
  (List.range 8).map (fun k => match x.toks.find? (fun t => t.tk == k) with
    | some t => 2 ^ 63 + t.agn % 32 * 2 ^ 58 + t.pers.toNat * 2 ^ 57 + t.left % 2 ^ 34
    | none => 0) ++
  [ 0x5354 * 2 ^ 48 + 1 * 2 ^ 40 + x.who.job % 4096 * 2 ^ 28 + x.who.sid % 2048 ]

/-- A context loaded from its record; what the record does not hold comes from `x`. DEDUCED: notes/assumptions/71; DESIGN CHOICE: notes/assumptions/72. -/
def recordLoad (x : Strand) (ws : List Word) : Strand :=
  let w (i : Nat) : Word := ws.getD i 0
  { x with
    regs := (List.range 64).map (fun g => (g, w g))
    hmode := bitOf (w 64).toNat 63, privs := bitOf (w 64).toNat 62, pc := BitVec.ofNat 64 (wbits (w 64) 0 57)
    pts := wbits (w 65) 0 48
    tk := BitVec.ofNat 8 (wbits (w 66) 56 8), stc := wbits (w 66) 48 6, cpc := wbits (w 66) 40 5, tlc := wbits (w 66) 32 5
    cseq := w 67, async := w 68, tbank0 := w 69, tbank1 := w 70, tbank2 := w 71
    tcause := w 72, tblk := w 73, targ := w 74, tresume := w 75
    toks := (List.range 8).filterMap (fun k =>
      if bitOf (w (76 + k)).toNat 63
      then some { tk := k, agn := wbits (w (76 + k)) 58 5, pers := bitOf (w (76 + k)).toNat 57,
                  left := wbits (w (76 + k)) 0 34 }
      else none) }

/-- Address of strand s's record (R283). -/
def State.recordAddr (s : State) (job sid : Nat) : Nat := (s.job job).csave.toNat % 2 ^ 57 + 1024 * sid

/-- Change a strand's context wherever it lies: live, in the hold store, or in its record (R286, R303). -/
def State.onContext (s : State) (who : Owner) (f : Strand → Strand) : State :=
  let is (x : Strand) : Bool := x.who.sid == who.sid && x.who.launch == who.launch && x.who.handler == who.handler
  if (s.strand who.sid).live && is (s.strand who.sid) then s.modStrand who.sid f
  else if thas s.core.holds who.sid && is (tget s.core.holds who.sid) then
    s.setHeld who.sid .hold (f (tget s.core.holds who.sid))
  else if thas s.core.saved who.sid && is (tget s.core.saved who.sid) then
    let q := clusterQuarter (sidCluster who.sid)
    let a := s.recordAddr who.job who.sid
    let x := recordLoad (tget s.core.saved who.sid) (s.sysReadWords q who.job a 85)
    let y := f x
    let s1 := s.setHeld who.sid .saved y
    (s1.sysWrite q who.job a y.pts loaderAgent (recordWords y)).2
  else s

/-- Post a status to a strand's asynchronous status word; a word still unreported keeps the first (R160). -/
def Strand.post (x : Strand) (status srck id : Nat) : Strand :=
  if wbits x.async 56 8 = 0
  then { x with async := BitVec.ofNat 64 (status * 2 ^ 56 + srck * 2 ^ 54 + id % 2 ^ 48) }
  else x

def State.post (s : State) (who : Owner) (status srck id : Nat) : State := s.onContext who (·.post status srck id)

/-- Post to whatever strand stands in a context (a report strand, R171, R329). -/
def State.postSid (s : State) (sid status srck id : Nat) : State :=
  if (s.strand sid).live then s.modStrand sid (·.post status srck id)
  else if thas s.core.holds sid then s.setHeld sid .hold ((tget s.core.holds sid).post status srck id)
  else if thas s.core.saved sid then s.onContext (tget s.core.saved sid).who (·.post status srck id)
  else s

/-! ## Termination counters (R52) -/

/-- Key of a counter: level code of R30, unit, tier (0 core, 1 cluster, 2 quarter, 3 package) and place. -/
def countKey (level unit tier place : Nat) : Nat := ((level * 2 ^ 46 + unit) * 4 + tier) * 512 + place

def State.count (s : State) (level unit tier place : Nat) : Nat := tgetD 0 s.work.counts (countKey level unit tier place)
def State.setCount (s : State) (level unit tier place n : Nat) : State :=
  s.onWork (fun w => { w with counts := tset w.counts (countKey level unit tier place) n })

/-- The place of the next tier. -/
def upPlace (tier place : Nat) : Nat := if tier = 0 then place / 8 else if tier = 1 then place / 12 else 0

/-- Add one at tier 3 − n and, from zero to nonzero, at the tiers above. DEDUCED: notes/assumptions/70. -/
def State.countUpFrom (s : State) (level unit place : Nat) : Nat → State
  | 0 => s.setCount level unit 3 0 (s.count level unit 3 0 + 1)
  | n + 1 =>
    let tier := 2 - n
    let c := s.count level unit tier place
    let s1 := s.setCount level unit tier place (c + 1)
    if c = 0 then s1.countUpFrom level unit (upPlace tier place) n else s1

/-- Take one off at tier 3 − n and, from nonzero to zero, at the tiers above. DEDUCED: notes/assumptions/70. -/
def State.countDownFrom (s : State) (level unit place : Nat) : Nat → State
  | 0 => s.setCount level unit 3 0 (s.count level unit 3 0 - 1)
  | n + 1 =>
    let tier := 2 - n
    let c := s.count level unit tier place
    let s1 := s.setCount level unit tier place (c - 1)
    if c = 1 then s1.countDownFrom level unit (upPlace tier place) n else s1

def phaseUnit (job phase : Nat) : Nat := job * 2 ^ 32 + phase

/-- The units an owner counts in: level and unit. -/
def Owner.units (w : Owner) : List (Nat × Nat) :=
  [(0, w.sid), (1, w.launch), (2, graphKey w.job w.graph), (3, phaseUnit w.job w.phase), (4, w.job)]

def unitLive (s : State) (level unit : Nat) : Bool := s.count level unit 3 0 != 0

/-- An operation of an owner starts to count, at its core's tier. DEDUCED: notes/assumptions/70. -/
def State.countUp (s : State) (w : Owner) : State :=
  (Owner.units w).foldl (fun st u => st.countUpFrom u.1 u.2 w.core 3) s

/-- The completion word of a unit (R53). -/
def completionWord (status level cts : Nat) : Nat := status * 2 ^ 56 + level * 2 ^ 53 + cts % 2 ^ 48

/-- The completion status of a launch or job: the highest code it met (R54). -/
def endStatus (status : Nat) (cancelled : Bool) : Nat := max status (if cancelled then 1 else 0)

/-- A job terminates (R50, R51): its completion word and job 0's counter, its queues invalid, its context tags back. -/
def State.endJob (s : State) (j : Nat) : State :=
  let b := s.job j
  let cw := completionWord (endStatus b.status b.cancelled) 4 b.cts
  let s1 := if b.jcw = 0 then s else (s.sysWrite 0 j (wbits b.jcw 0 57) b.cts loaderAgent [cw]).2
  let s2 := match b.closeCtr with
    | some c => s1.counterAdd 0 c 1
    | none => s1
  let s3 := s2.onWork (fun w => { w with
    queues := w.queues.map (fun e => if wbits e.2.cfg 52 12 = j && bitOf e.2.cfg.toNat 15
      then (e.1, { e.2 with cfg := e.2.cfg &&& ~~~(0x8000 : Word) }) else e)
    tagPool := w.tagPool.map (fun e =>
      (e.1, e.2.filter (fun c => tgetD 0 w.ctxJob (e.1 * 64 + c) != j + 1)))
    ctxJob := w.ctxJob.map (fun e => if e.2 == j + 1 then (e.1, 0) else e) })
  -- lines of pinned tensors become reuse-k (R138)
  s3.modJob j (fun x => { x with state := 0, ctxs := [], status := 0, cancelled := false })

/-- A phase terminates when it is closed and its counter has returned to zero (R49). -/
def State.endPhase (s : State) (j p : Nat) : State :=
  if (s.job j).closed.contains p then s.modJob j (fun x => { x with phaseEnded := p :: x.phaseEnded }) else s

/-- The counts a launch itself holds in its graph, phase and job from dispatch to termination, at its quarter's tier. -/
def launchUnits (l : Launch) : List (Nat × Nat) :=
  [(2, graphKey l.job l.graph), (3, phaseUnit l.job l.phase), (4, l.job)]

/-- What terminates when a unit's package counter has returned to zero. A launch's termination takes its own counts off
its phase and job, whose termination `endUpper` then sees. DEDUCED: notes/assumptions/70. -/
def State.endUpper (s : State) (level unit : Nat) : State :=
  if unitLive s level unit then s
  else if level = 3 then s.endPhase (unit / 2 ^ 32) (unit % 2 ^ 32)
  else if level = 4 then (if (s.job unit).state = 2 then s.endJob unit else s)
  else s

/-- A launch terminates (R53): completion word, then counter; its lease slots go with it (R358). DEDUCED: notes/assumptions/69. -/
def State.endLaunch (s : State) (l : Nat) : State :=
  let x := s.launch l
  if !x.used || x.ended then s
  else
    let cw := completionWord (endStatus x.status x.cancelled) 1 x.cts
    let s1 := if x.cwaddr = 0 then s else (s.sysWrite x.quarter x.job x.cwaddr.toNat x.cts loaderAgent [cw]).2
    let s2 := s1.counterAdd x.job x.cctr 1
    let s3 := s2.modLaunch l (fun y => { y with ended := true })
    let s4 := (launchUnits x).foldl (fun st u => st.countDownFrom u.1 u.2 x.quarter 1) s3
    (launchUnits x).foldl (fun st u => st.endUpper u.1 u.2) s4

/-- Record the largest completion timestamp and the status of a unit's operation. DEDUCED: notes/assumptions/70. -/
def State.noteEnd (s : State) (w : Owner) (status cts : Nat) : State :=
  let s1 := s.modLaunch w.launch (fun l => if l.used then { l with cts := max l.cts cts, status := max l.status status } else l)
  s1.modJob w.job (fun j => { j with cts := max j.cts cts, status := max j.status status })

/-- An operation of an owner is complete (R52, R53). DEDUCED: notes/assumptions/70. -/
def State.countDown (s : State) (w : Owner) (cts : Nat) : State :=
  let s1 := s.noteEnd w 0 cts
  let s2 := (Owner.units w).foldl (fun st u => st.countDownFrom u.1 u.2 w.core 3) s1
  let s3 := if unitLive s2 1 w.launch then s2 else s2.endLaunch w.launch
  (s3.endUpper 3 (phaseUnit w.job w.phase)).endUpper 4 w.job

/-- An operation that FENCE.E waits for starts (R166): a stream, copy, enqueued cell or engine operation. -/
def State.opStart (s : State) (w : Owner) : State := (s.countUp w).onContext w (fun x => { x with ops := x.ops + 1 })
/-- It completes, with its completion timestamp. -/
def State.opEnd (s : State) (w : Owner) (cts : Nat) : State :=
  (s.onContext w (fun x => { x with ops := x.ops - 1, fencets := max x.fencets cts })).countDown w cts

/-! ## Fault records of engine accesses (R277) -/

/-- Append a fault record, or join the one pending for the same page (R277). None while the queue has no room; otherwise
the tag that the operation waits on, and the state after. -/
def State.faultRecord (s : State) (q job cause srck sid agn cl va id : Nat) : Option (Nat × State) :=
  let j := s.job job
  match j.faults.find? (fun f => f.va / 65536 == va / 65536) with
  | some f => some (f.tag, s)
  | none =>
    let nrec := wbits j.fqcfg 0 16
    let rec0 : FaultRec := { tag := j.fqtag, cause := cause, asid := job, va := va }
    let note (st : State) : State := st.modJob job (fun x =>
      { x with fqtag := (x.fqtag + 1) % 2 ^ 32, faults := rec0 :: x.faults })
    if nrec = 0 then some (j.fqtag, note s)
    else if j.fqtail - j.fqhead.toNat ≥ nrec then none
    else
      let w0 := cause * 2 ^ 56 + srck * 2 ^ 54 + sid % 2048 * 2 ^ 43 + agn % 32 * 2 ^ 38 + cl % 64 * 2 ^ 32 + j.fqtag
      let a := j.fqbase.toNat % 2 ^ 57 + 32 * (j.fqtail % nrec)
      let (_, s1) := s.sysWrite q job a 0 loaderAgent [w0, va % 2 ^ 57, id % 2 ^ 64, 0]
      let s2 := (note s1).modJob job (fun x => { x with fqtail := x.fqtail + 1 })
      some (j.fqtag, s2.counterAdd job (wbits j.fqcfg 54 10) 1)

/-! Numbers of the operations that can wait on a record: a cell by its order of arrival, a stream or write port by its
AGN's key, a copy and a transfer by theirs. -/

def waiterCell (m : MCell) : Nat := m.age
def waiterStream (key : Nat) : Nat := 2 ^ 60 + key
def waiterPort (key : Nat) : Nat := 2 ^ 61 + key
def waiterCopy (key : Nat) : Nat := 2 ^ 62 + key
def waiterXfer (key : Nat) : Nat := 2 ^ 63 + key

/-- Whether an operation may go on. -/
inductive Gate where
  | go | wait
  | ends (status : Nat)
  deriving DecidableEq, Repr

/-- DESIGN CHOICE: notes/assumptions/40; DEDUCED: notes/assumptions/41. -/
def State.gate (s : State) (job w : Nat) : Gate :=
  let j := s.job job
  if j.blocked.any (fun x => x.1 == w) then .wait
  else match j.broken.find? (fun x => x.1 == w) with
    | some x => .ends x.2
    | none => .go

/-- An operation that FRESUME has ended is no longer remembered. DEDUCED: notes/assumptions/41. -/
def State.ungate (s : State) (job w : Nat) : State :=
  s.modJob job (fun j => { j with broken := j.broken.filter (fun x => x.1 != w) })

/-- An engine access faults: its operation waits on the page's record; while the queue has no room it stays as it is and
faults again (R277). DEDUCED: notes/assumptions/41. -/
def State.faultWait (s : State) (q job cause srck sid agn cl va id w : Nat) : State :=
  match s.faultRecord q job cause srck sid agn cl va id with
  | none => s
  | some (tag, s1) => s1.modJob job (fun j => { j with blocked := j.blocked ++ [(w, tag)] })

/-- FRESUME (R278): what waits on a record goes on, or ends with the status of the record's cause. A tag that is not
pending changes nothing here. -/
def State.fresume (s : State) (job tag : Nat) (abort : Bool) : State :=
  let j := s.job job
  match j.faults.find? (fun f => f.tag == tag) with
  | none => s
  | some f =>
    let st := if f.cause = 0x18 then 0xA2 else if f.cause = 0x19 then 0xA3 else 0x80
    let mine := (j.blocked.filter (fun x => x.2 == tag)).map (fun x => (x.1, st))
    s.modJob job (fun x => { x with
      faults := x.faults.filter (fun g => g.tag != tag),
      blocked := x.blocked.filter (fun y => y.2 != tag),
      broken := if abort then x.broken ++ mine else x.broken })

/-! ## Barrier cells that the device and strands send (R330, R335) -/

def barrierCluster (b : Nat) : Nat := b / 256
def barrierObject (b : Nat) : Nat := b % 256

/-- A barrier cell for object b from a strand (or tap) with identifier id. -/
def State.barrierCell (s : State) (job b cop cnt id n : Nat) : Cell :=
  let cl := barrierCluster b
  ({ dcl := BitVec.ofNat 6 cl, dport := 10, cls := true, cop := BitVec.ofNat 10 cop,
     ctx := BitVec.ofNat 6 ((s.ctxTag job cl).getD 0), itag := BitVec.ofNat 24 id,
     cnt := BitVec.ofNat 8 cnt, aux := BitVec.ofNat 16 (barrierObject b), pay := BitVec.ofNat 1024 n } : Cell).seal

/-- Put a cell at the end of a core's issue buffer, for an ingress port (R149, R192). DEDUCED: notes/assumptions/48. -/
def State.issue (s : State) (core port : Nat) (c : MCell) : State :=
  (s.modCoreSt core (fun k => { k with issue := k.issue ++ [{ cell := { c with age := s.tickNo }, port := port }] })).tickUp

/-- The barriers of a graph whose objects count the strand as a member. -/
def State.memberOf (s : State) (who : Owner) : List Nat :=
  if who.handler then [] else ((s.graph who.job who.graph).bars.filter (fun e =>
    e.2 != 0 && (s.barrier (e.2 - 1)).members.any (fun m => m.node == 0 && !m.tap && m.id == who.sid))).map
    (fun e => e.2 - 1)

/-- The ingress port that a strand's arrivals use: its core's number in the cluster, so that they share one queue
(R334; the port itself is the model's choice). -/
def arrivePort (core : Nat) : Nat := core % 8

/-- Send a barrier cell of a strand through its core. -/
def State.sendBarrier (s : State) (who : Owner) (b cop n stamp : Nat) : State :=
  let c := s.barrierCell who.job b cop 0 who.sid n
  (s.countUp who).issue who.core (arrivePort who.core)
    { cell := c, stamp := stamp, agent := sidAgent who.sid, who := who, report := .device }

/-- A dynamic graph (R436): declared so, or twinned (R439). -/
def Graph.dynamic (g : Graph) : Bool := g.img.dyn || g.img.twin.isSome

/-! ## Sources and drain tokens (R48, R204) -/

/-- Put a cell that an engine sends at the end of an ingress port's waiting results. It counts until its operation ends. -/
def State.sendOut (s : State) (cl port : Nat) (m : MCell) : State :=
  let add (l : List MCell) : List MCell := l ++ [{ m with age := s.tickNo }]
  ((s.onEng (fun e => { e with outs := tmod e.outs (cl * 32 + port) add })).countUp m.who).tickUp

/-- The unfinished streams of an AGN: the one in progress, and those that wait for it. -/
def Agn.streams (a : Agn) : List Stream := a.stream.toList ++ a.later

/-- The unfinished streams of a graph: the AGN's key and the stream. -/
def State.graphStreams (s : State) (job g : Nat) : List (Nat × Stream) :=
  (s.acc.agns.map (fun e => (e.2.streams.filter (fun st => st.who.job == job && st.who.graph == g)).map
    (fun st => (e.1, st)))).flatten

/-- Number of a graph's source node: a strand set has its index, a stream node comes after every set. -/
def nodeSource (key : Nat) : Nat := 65536 + key

/-- The source numbers of a graph. -/
def State.sources (s : State) (job g : Nat) : List Nat :=
  let x := s.graph job g
  List.range x.img.sets.length ++ x.img.streams.map (fun d => nodeSource (s.jobAgn job d.cluster d.agn))

/-- Every strand of a strand set has retired. -/
def State.setGone (s : State) (job g src : Nat) : Bool :=
  let l := s.launch (s.graph job g).launch
  (l.started || l.cancelled) && tgetD 0 l.setLive src == 0

/-- A source has sent its drain token: a strand set once its strands are gone and their streams have sent their last
cells, a stream node once its stream has ended (R48). -/
def State.sourceDone (s : State) (job g src : Nat) : Bool :=
  let l := s.launch (s.graph job g).launch
  if src < 65536 then
    s.setGone job g src && !(s.graphStreams job g).any (fun e => !(s.agn e.1).node && e.2.set == src)
  else (l.started || l.cancelled) && (s.agn (src - 65536)).stream.isNone

/-- The write-role AGNs of a graph that a drain token must reach: those behind windows and those that a tap watches. -/
def State.drainAgns (s : State) (job g : Nat) : List (Nat × Nat) :=
  let x := s.graph job g
  (x.img.agns.map (fun a => (a.1, a.2.1))).filter (fun a =>
    let r := agnRec (s.agn (s.jobAgn job a.1 a.2)).words
    decide (r.role ≥ 2) && (r.isWindow || x.img.taps.any (fun t => t.cluster == a.1 && t.agn == a.2)))

/-- Once every source of a graph has sent its drain token, no further tag is admitted and the token goes on to the write
ports (R48, R204). -/
def State.drainCheck (s : State) (job g : Nat) : State :=
  let x := s.graph job g
  if !x.used || !x.bound || x.closedAdm || !(s.sources job g).all (s.sourceDone job g) then s
  else
    let s1 := s.modGraph job g (fun y => { y with closedAdm := true })
    (s1.drainAgns job g).foldl (fun st a =>
      let c : Cell := ({ dcl := 63, dport := BitVec.ofNat 5 (16 + a.2 / 2), cls := true, cop := 0x3F2,
                         ctx := BitVec.ofNat 6 ((st.ctxTag job a.1).getD 0), aux := BitVec.ofNat 16 a.2 } : Cell).seal
      st.sendOut a.1 30 { cell := c, who := { launch := x.launch, graph := g, job := job, core := a.1 * 8 } }) s1

/-! ## A strand's end (R38, R39) -/

/-- What a strand leaves behind when its context becomes free: its released stores and releases go on. The
free context keeps its registers and its timestamp until the loader starts a strand there (R7, R38). -/
def State.leave (s : State) (sid : Nat) (more : List OutItem) : State :=
  let x := s.strand sid
  let out := x.out ++ more
  let s1 := if out.isEmpty then s
    else (s.onCores (fun c => { c with ghosts := tset c.ghosts s.tickNo { x with live := false, out := out } })).tickUp
  s1.setStrand sid { regs := x.regs, pts := x.pts }

/-- One strand of a set less (R42, R48). -/
def State.setLess (s : State) (who : Owner) (set : Nat) : State :=
  s.modLaunch who.launch (fun l => { l with setLive := tset l.setLive set (tgetD 0 l.setLive set - 1) })

/-- Retirement: an exit-arrival at every barrier it belongs to, once its stores are acknowledged (R38, R39, R305). -/
def State.retire (s : State) (sid : Nat) : State :=
  let x := s.strand sid
  let bars := s.memberOf x.who
  let s1 := bars.foldl (fun st _ => st.countUp x.who) s
  let s2 := s1.leave sid (if bars.isEmpty then [] else [.rel (.exitArrive bars)])
  ((s2.setLess x.who x.set).drainCheck x.who.job x.who.graph).countDown x.who x.pts

/-- Kill: the context becomes free and its barriers are sent BKIL; its launch reports the status (R39, R54). Its frames
have been aborted. -/
def State.killed (s : State) (sid status : Nat) : State :=
  let x := s.strand sid
  let s1 := (s.memberOf x.who).foldl (fun st b => st.sendBarrier x.who b 0x293 0 x.pts) s
  let s2 := s1.noteEnd x.who status x.pts
  let s3 := s2.leave sid []
  ((s3.setLess x.who x.set).drainCheck x.who.job x.who.graph).countDown x.who x.pts

end Sys2Proof.Machine
end

