-- ==== Sys2Proof/Machine/EngineOps.lean ====
section
/-! DEFINITION. Machine/EngineOps.lean: what every engine shares: timelines and completion timestamps (spec/06 R164, spec/15
R316), report strands (spec/07 R171), the end of a cell's operation (spec/06 R146, R160), results on their way to an ingress
port, the cells that a port holds, and removing cells (spec/09 R205). -/

namespace Sys2Proof.Machine

/-! ## Timelines -/

def State.timeline (s : State) (k : Nat) : Timeline := tget s.eng.times k
def State.modTimeline (s : State) (k : Nat) (f : Timeline → Timeline) : State :=
  s.onEng (fun e => { e with times := tmod e.times k f })

/-- An operation starts: its number and the state in which it is counted (R164). -/
def State.timeStart (s : State) (k : Nat) : Nat × State :=
  let n := (s.timeline k).next
  (n, s.modTimeline k (fun t => { t with next := n + 1 }))

/-- The counter moves over every operation that has completed (R164). -/
def advanceTl (done : List Nat) : Nat → Nat → Nat
  | 0, t => t
  | n + 1, t => if done.contains (t + 1) then advanceTl done n (t + 1) else t

/-- Operation n completes with a completion timestamp (R164, R316). -/
def Timeline.finish (t : Timeline) (n cts : Nat) : Timeline :=
  let done := n :: t.done.map Prod.fst
  let tl := advanceTl done done.length t.tl
  { t with
    tl := tl, done := ((n, cts) :: t.done).filter (fun e => decide (e.1 > tl)), prev := max t.prev cts,
    ctss := (n, cts) :: t.ctss }

def State.timeEnd (s : State) (k n cts : Nat) : State := s.modTimeline k (fun t => t.finish n cts)

/-- Completion timestamp of operation n: R316 has it rise with the operation number. -/
def Timeline.ctsOf (t : Timeline) (n : Nat) : Nat :=
  t.ctss.foldl (fun m e => if e.1 ≤ n then max m e.2 else m) 0

/-- Start stamp of an operation (R316). -/
def State.startStamp (s : State) (k stamp : Nat) : Nat := max stamp (s.timeline k).prev

/-! ## Statuses and the end of a cell's operation -/

/-- The report strand of a context tag (R171); none where the configuration has named none. -/
def State.reportSid (s : State) (cl ctx : Nat) : Option Nat :=
  match tgetD 0 s.work.reports (cl * 64 + ctx) with
  | 0 => none
  | n + 1 => some n

/-- Post a failing engine operation's status to the report strand (R171). -/
def State.postReport (s : State) (cl ctx status srck id : Nat) : State :=
  match s.reportSid cl ctx with
  | none => s
  | some sid => if status = 0 then s else s.postSid sid status srck id

def matKey (cl me ctx : Nat) : Nat := (cl * 4 + me) * 4 + ctx
def State.matCtx (s : State) (k : Nat) : MatCtx := tget s.mat.ctxs k
def State.modMat (s : State) (k : Nat) (f : MatCtx → MatCtx) : State :=
  s.onMat (fun m => { m with ctxs := tmod m.ctxs k f })
def State.matEng (s : State) (k : Nat) : MatEng := tget s.mat.engs k
def State.modMatEng (s : State) (k : Nat) (f : MatEng → MatEng) : State :=
  s.onMat (fun m => { m with engs := tmod m.engs k f })

/-! ## Activations of dynamic graphs (R432, R436, R437) -/

/-- The cells that bear a colour: all but barrier cells, the tokens of no operation and a switch box's writes. -/
def bearsColour (m : MCell) : Bool :=
  let cop := m.cell.cop.toNat
  !isBarrierCop cop && (match m.report with
    | .coll _ _ _ => false
    | _ => true) && (!isControlCop cop || cop == 0x3F0)

/-- Whether an operation belongs to an activation that can be purged and issued again. -/
def State.inActivation (s : State) (who : Owner) (col : Nat) : Bool :=
  let g := s.graph who.job who.graph
  g.dynamic && g.acts.any (fun a => !a.purged && a.colour == col)

/-- A cell of an activation that has been issued again: what a combining or accumulating write of it leaves is no defined
value (R438). DEDUCED: notes/assumptions/86. -/
def State.undefinedAgain (s : State) (m : MCell) : Bool :=
  let g := s.graph m.who.job m.who.graph
  g.dynamic && g.acts.any (fun a => a.again && !a.purged && a.colour == m.cell.col.toNat)

/-- An operation of an activation has met lost data: its cell stays until its colour is purged (R432). DEDUCED: notes/assumptions/86. -/
def State.hurtCell (s : State) (cl : Nat) (m : MCell) : State :=
  s.onEng (fun e => { e with hurt := tmod e.hurt cl (fun (l : List MCell) => l ++ [{ m with stall := 0, prod := none }]) })

/-- The same for an operation whose cells have ended: a mark of its colour stays in their place. -/
def State.hurtMark (s : State) (cl : Nat) (who : Owner) (col : Nat) : State :=
  (s.countUp who).hurtCell cl { cell := { col := BitVec.ofNat 8 col }, who := who, report := .device }

/-- A failing engine operation posts its status to the report strand; lost data in an activation mark its colour. -/
def State.failOp (s : State) (cl ctx : Nat) (who : Owner) (col status id : Nat) : State :=
  if status = 0x80 && s.inActivation who col then s.hurtMark cl who col else s.postReport cl ctx status 2 id

/-- The operation of a cell ends in cluster `cl` with a status and a completion timestamp: the status is posted where
R160 says, the class it held drops, and it leaves the termination counters. Lost data in an activation end nothing: they
mark its colour for a purge (R432). -/
def State.cellEnd (s : State) (cl : Nat) (m : MCell) (status cts : Nat) : State :=
  if status = 0x80 && bearsColour m && m.report != .device && s.inActivation m.who m.cell.col.toNat then s.hurtCell cl m else
  let id := m.cell.itag.toNat
  match m.report with
  | .strandCell tileOp =>
    let s1 := if status = 0 then s else s.post m.who status 2 id
    let s2 := if tileOp then s1.onContext m.who (fun x => { x with tlc := x.tlc - 1 }) else s1
    s2.opEnd m.who cts
  | .strandCopy tileOp k =>
    let s1 := if status = 0 then s else s.post m.who status 2 id
    let n := tgetD 0 s1.eng.mcasts k
    if n ≤ 1 then
      let s2 := s1.onEng (fun e => { e with mcasts := tdel e.mcasts k })
      let s3 := if tileOp then s2.onContext m.who (fun x => { x with tlc := x.tlc - 1 }) else s2
      s3.opEnd m.who cts
    else s1.onEng (fun e => { e with mcasts := tset e.mcasts k (n - 1) })
  | .strandOp storeClass =>
    let s1 := if status = 0 then s else s.post m.who status 2 id
    if storeClass then (s1.onContext m.who (fun x => { x with stc := x.stc - 1 })).opEnd m.who cts
    else s1.countDown m.who cts
  | .again _ => (if status = 0 then s else s.post m.who status 2 id).countDown m.who cts
  | .stream tk => (if status = 0 then s else s.post m.who status 1 tk).opEnd m.who cts
  | .streamNode agn => (s.postReport (agnCl agn) (agnCtx agn) status 1 (agnNo agn)).countDown m.who cts
  | .engine => (s.postReport cl m.cell.ctx.toNat status 2 id).countDown m.who cts
  | .coll key idx add =>
    (s.onWork (fun w => { w with graphs := tmod w.graphs key (fun (g : Graph) => { g with
      colls := tmod g.colls idx (fun (c : Coll) => { c with
        pend := c.pend - 1, count := if status = 0 then c.count + add else c.count,
        stat := if c.stat = 0 then status else c.stat, maxw := max c.maxw cts }) }) })).countDown m.who cts
  | .drain me ctx =>
    (s.modMat (me * 4 + ctx % 4) (fun x =>
      if ctx < 4 then { x with
        drains := x.drains - 1, dstat := if x.dstat = 0 then status else x.dstat, dcts := max x.dcts cts }
      else { x with
        saves := x.saves - 1, sstat := if x.sstat = 0 then status else x.sstat, scts := max x.scts cts })).countDown
      m.who cts
  | .device => s.countDown m.who cts

/-- An operation whose result has entered its ingress queue completes, with the operand cells that fired (R183). -/
def State.prodEnd (s : State) (cl : Nat) (m : MCell) : State :=
  match m.prod with
  | none => s
  | some p =>
    let s1 := s.timeEnd p.key p.num p.cts
    p.ends.foldl (fun st e =>
      st.cellEnd cl { who := e.1, report := e.2.1, cell := { itag := e.2.2 } } 0 p.cts) s1

/-! ## Heads of the market queues (R197, R199) -/

/-- The remaining set of a multicast head: its group's mask when it becomes head. -/
def Market.mask (m : Market) (c : MCell) : BitVec 32 := (tget m.mcg c.cell.dport.toNat).setWidth 32

/-- A strand's multicast cell counts once until every copy of it is done (R148): from becoming head it is counted by its
number, and so are its copies. -/
def multicastReport (m : MCell) : Report :=
  match m.report with
  | .strandCell t => .strandCopy t m.age
  | r => r

/-- Heads of a queue that have changed: a new head starts to wait; a multicast cell that becomes head with an empty
remaining set is discarded with BADCELL. -/
def State.settleQueue (s : State) (cl q : Nat) : Nat → State
  | 0 => s
  | n + 1 =>
    let mk := s.market cl
    match mk.queue q with
    | [] => s.modMarket cl (fun m => { m with since := tdel m.since q, heads := tdel m.heads q, left := tdel m.left q })
    | m :: rest =>
      if (tget mk.heads q).1 = m.age + 1 then s
      else if queueIsMc q && mk.mask m == 0 then
        ((s.modMarket cl (fun x => { x with queues := tset x.queues q rest })).cellEnd cl m 0x90 m.stamp).settleQueue cl q n
      else
        let m1 := if queueIsMc q then { m with report := multicastReport m } else m
        let s1 := if queueIsMc q && m1.report != m.report
          then s.onEng (fun e => { e with mcasts := tset e.mcasts m.age 1 }) else s
        (s1.modMarket cl (fun x => { x with
          queues := tset x.queues q (m1 :: rest), since := tset x.since q (x.slot + 1)
          heads := tset x.heads q (m.age + 1, s.tickNo), left := tset x.left q (mk.mask m)
          agedQ := x.agedQ.filter (· != q) })).tickUp

def State.settleHeads (s : State) (cl : Nat) : State :=
  ((s.market cl).queues.map (fun e => e.1)).foldl (fun st q =>
    st.settleQueue cl q (((st.market cl).queue q).length + 1)) s

/-! ## What a port holds -/

/-- The first item of the list that answers a test, and the rest. -/
def takeFirst {α : Type} (p : α → Bool) : List α → Option (α × List α)
  | [] => none
  | x :: xs => if p x then some (x, xs) else match takeFirst p xs with
    | none => none
    | some (y, ys) => some (y, x :: ys)

/-- Take the oldest delivered cell of an operation code at a port. DESIGN CHOICE: notes/assumptions/10. -/
def State.takeInbox (s : State) (cl port cop : Nat) : Option (MCell × State) :=
  match takeFirst (fun c => c.cell.cop.toNat == cop) (s.port cl port).inbox with
  | none => none
  | some (c, rest) => some (c, s.modPort cl port (fun p => { p with inbox := rest }))

/-! ## Removing cells (R205) -/

def keepCells (p : MCell → Bool) (l : List MCell) : List MCell := l.filter (fun c => !p c)

/-- The cells of a market that have not left an egress input buffer. -/
def Market.cells (m : Market) : List MCell :=
  (m.queues.map (fun q => q.2)).flatten ++ (m.matched.filter (fun x => !x.crossed)).map (·.cell) ++
  (m.buf0.map (fun q => q.2)).flatten ++ (m.buf1.map (fun q => q.2)).flatten

/-- Take cells out of a market. A matched cell leaves its crossing empty. -/
def Market.drop (m : Market) (p : MCell → Bool) : Market :=
  { m with
    queues := m.queues.map (fun q => (q.1, keepCells p q.2)),
    matched := m.matched.map (fun x => if p x.cell then { x with crossed := true } else x),
    buf0 := m.buf0.map (fun q => (q.1, keepCells p q.2)),
    buf1 := m.buf1.map (fun q => (q.1, keepCells p q.2)) }

/-- Every queued cell, matched cell and stall of the device, with its cluster. -/
def State.allCells (s : State) : List (Nat × MCell) :=
  let tag (cl : Nat) (l : List MCell) : List (Nat × MCell) := l.map (fun c => (cl, c))
  (s.eng.markets.map (fun e => tag e.1 e.2.cells)).flatten ++
  (s.eng.ports.map (fun e => tag (e.1 / 32)
    ((e.2.stalls.map (fun t => { t.cell with stall := 0 })).eraseDups ++ e.2.gates ++ e.2.cmpls ++ e.2.inbox))).flatten ++
  (s.eng.outs.map (fun e => tag (e.1 / 32) e.2)).flatten ++
  (s.core.cores.map (fun e => tag (e.1 / 8) (e.2.issue.map (·.cell)))).flatten ++
  (s.mat.ctxs.map (fun e => tag (e.1 / 16) (e.2.queue ++ e.2.pend))).flatten ++
  (s.eng.ixjobs.map (fun e => tag e.1 ((e.2.map (·.cells)).flatten))).flatten ++
  (s.eng.rows.map (fun e => tag e.1 ((e.2.map (·.cells)).flatten))).flatten ++
  (s.eng.comps.map (fun e => tag e.1 e.2)).flatten ++
  (s.eng.hurt.map (fun e => tag e.1 e.2)).flatten ++
  (s.eng.bars.map (fun e => tag (e.1 / 256) e.2.held)).flatten ++
  (s.lnk.mesh.map (fun e => tag e.1 e.2)).flatten ++
  (s.lnk.ucs.map (fun e => tag (e.1 / 64 % 4 * 12) e.2.cells)).flatten

/-- Take every cell that a test names out of wherever it lies. Buffers and credits come free with the cell. -/
def State.dropCells (s : State) (p : Nat → MCell → Bool) : State :=
  let s1 := s.onEng (fun e => { e with
    markets := e.markets.map (fun x => (x.1, x.2.drop (p x.1))),
    ports := e.ports.map (fun x => (x.1, { x.2 with
      stalls := x.2.stalls.filter (fun t => !p (x.1 / 32) t.cell),
      gates := keepCells (p (x.1 / 32)) x.2.gates, cmpls := keepCells (p (x.1 / 32)) x.2.cmpls,
      inbox := keepCells (p (x.1 / 32)) x.2.inbox })),
    outs := e.outs.map (fun x => (x.1, keepCells (p (x.1 / 32)) x.2)),
    ixjobs := e.ixjobs.map (fun x => (x.1, x.2.map (fun j => { j with cells := keepCells (p x.1) j.cells }))),
    rows := e.rows.map (fun x => (x.1, x.2.map (fun j => { j with cells := keepCells (p x.1) j.cells }))),
    comps := e.comps.map (fun x => (x.1, keepCells (p x.1) x.2)),
    hurt := e.hurt.map (fun x => (x.1, keepCells (p x.1) x.2)),
    bars := e.bars.map (fun x => (x.1, { x.2 with held := keepCells (p (x.1 / 256)) x.2.held })) })
  let s2 := s1.onCores (fun c => { c with cores := c.cores.map (fun x =>
    (x.1, { x.2 with issue := x.2.issue.filter (fun i => !p (x.1 / 8) i.cell) })) })
  let s4 := s2.onMat (fun m => { m with ctxs := m.ctxs.map (fun x => (x.1, { x.2 with
    queue := keepCells (p (x.1 / 16)) x.2.queue, pend := keepCells (p (x.1 / 16)) x.2.pend })) })
  s4.onLnk (fun l => { l with mesh := l.mesh.map (fun x => (x.1, keepCells (p x.1) x.2)) })

/-- Take the cells of a unit that are on their way between dies: their flits then deliver nothing. -/
def State.dropFlits (s : State) (p : Nat → MCell → Bool) : State :=
  s.onLnk (fun l => { l with ucs := l.ucs.map (fun x =>
    (x.1, { x.2 with cells := keepCells (p (x.1 / 64 % 4 * 12)) x.2.cells })) })

/-- PURGE (R205): the cells go, and each one's operation ends. -/
def State.purgeCells (s : State) (p : Nat → MCell → Bool) : State :=
  let gone := s.allCells.filter (fun x => p x.1 x.2)
  let s1 := gone.foldl (fun st x => (st.prodEnd x.1 x.2).cellEnd x.1 x.2 0 x.2.stamp) ((s.dropCells p).dropFlits p)
  (s1.eng.markets.map (fun e => e.1)).foldl (fun st cl => st.settleHeads cl) s1

/-! ## Scoreboard tokens -/

/-- tk k of a strand clears. -/
def State.clearTk (s : State) (who : Owner) (k : Nat) : State :=
  s.onContext who (fun x => { x with tk := x.tk &&& ~~~(1#8 <<< k) })
/-- tk k of a live strand is set. -/
def State.setTk (s : State) (sid k : Nat) : State := s.modStrand sid (fun x => { x with tk := x.tk ||| (1#8 <<< k) })

end Sys2Proof.Machine
end

