-- ==== Sys2Proof/Machine/LeaseOps.lean ====
section
/-! DEFINITION. Machine/LeaseOps.lean: lease slots and kennel engines: requests, serving, recalls, drains (spec/17 R351 to
R358, spec/18 R363 to R368). Engine states: 0 ASLEEP, 1 WARM, 2 WAKING, 3 HELD, 4 RECALLING, 5 DRAINING; slot states: 0
NONE, 1 QUEUED, 2 to 5 as the engine. -/

namespace Sys2Proof.Machine

def slotKey (launch q n : Nat) : Nat := (launch * 4 + q) * 8 + n
def slotQuarter (k : Nat) : Nat := k / 8 % 4
def slotLaunch (k : Nat) : Nat := k / 32
def slotNumber (k : Nat) : Nat := k % 8

def State.lease (s : State) (k : Nat) : LeaseSlot := tget s.ken.slots k
def State.modLease (s : State) (k : Nat) (f : LeaseSlot → LeaseSlot) : State :=
  s.onKen (fun n => { n with slots := tmod n.slots k f })
def State.kEngine (s : State) (q i : Nat) : KEngine := tget s.ken.engines (q * 32 + i)
def State.modKEngine (s : State) (q i : Nat) (f : KEngine → KEngine) : State :=
  s.onKen (fun n => { n with engines := tmod n.engines (q * 32 + i) f })
def State.kQueue (s : State) (q k : Nat) : List LeaseReq := tget s.ken.queues (q * 8 + k)
def State.setKQueue (s : State) (q k : Nat) (l : List LeaseReq) : State :=
  s.onKen (fun n => { n with queues := tset n.queues (q * 8 + k) l })

/-- KNCFG at reset: EVGRACE 20, WARMTO 1,000, KWARM 8, KBUDGET 8 (R379). -/
def kncfgReset : Word := BitVec.ofNat 64 (20 * 2 ^ 32 + 1000 * 2 ^ 20 + 8 * 2 ^ 8 + 8)
def State.kncfg (s : State) (q : Nat) : Word := tgetD kncfgReset s.ken.cfg q
def State.kBudget (s : State) (q : Nat) : Nat := wbits (s.kncfg q) 0 6
def State.kWarm (s : State) (q : Nat) : Nat := wbits (s.kncfg q) 8 5

/-- Awake: WAKING, HELD, RECALLING or DRAINING (R363). -/
def KEngine.awake (e : KEngine) : Bool := decide (e.state ≥ 2)
def State.awakeCount (s : State) (q : Nat) : Nat := ((List.range 32).filter (fun i => (s.kEngine q i).awake)).length
def State.warmCount (s : State) (q : Nat) : Nat :=
  ((List.range 32).filter (fun i => (s.kEngine q i).state == 1)).length

/-- Highest priority that a job's power word allows (R366, R376). -/
def State.lpMax (s : State) (job : Nat) : Nat := wbits (s.job job).jpwr 4 3

/-- Order of service: priority, then age (R61, R365). -/
def reqBefore (a b : LeaseReq) : Bool := decide (a.prio > b.prio ∨ (a.prio = b.prio ∧ a.age < b.age))
def reqBest : List LeaseReq → Option LeaseReq
  | [] => none
  | r :: rs => match reqBest rs with
    | none => some r
    | some b => if reqBefore b r then some b else some r

/-- A slot leaves NONE or returns to it: its launch's counters follow (R364). -/
def State.slotState (s : State) (k st : Nat) : State :=
  let x := s.lease k
  let s1 := s.modLease k (fun y => { y with state := st })
  if x.state = 0 && st != 0 then s1.countUp x.who
  else if x.state != 0 && st = 0 then s1.countDown x.who 0
  else s1

/-- The token of a slot's LEASH clears (R352). -/
def State.slotReady (s : State) (k : Nat) : State :=
  match (s.lease k).tk with
  | none => s
  | some t => (s.clearTk (s.lease k).tkWho t).modLease k (fun y => { y with tk := none })

/-! ## Jobs of an engine -/

/-- The jobs of an engine are told to end with a status (R357, R364): the first is the one that runs. -/
def KEngine.tell (e : KEngine) (status : Nat) : KEngine :=
  { e with jobs := match e.jobs with
      | [] => []
      | j :: js => { j with stat := status, live := true } :: js.map (fun x => { x with stat := status }) }

/-- An engine starts to drain (R357, R358): with `evict`, its jobs end EVICTED. -/
def State.kDrain (s : State) (q i : Nat) (evict : Bool) : State :=
  let e := s.kEngine q i
  let s1 := s.modKEngine q i (fun x => { x with state := 5, rel := false })
  let s2 := if e.slot = 0 then s1
    else (s1.modLease (e.slot - 1) (fun y => { y with stat := if evict then 0x60 else y.stat })).slotState (e.slot - 1) 5
  if evict then s2.modKEngine q i (fun x => x.tell 0x60) else s2

/-! ## Requests -/

/-- LREL, CANCEL or a new LEASH (`again`) on a slot (R358, R364, R368). DEDUCED: notes/assumptions/73. -/
def State.leaseEnd (s : State) (k : Nat) (again : Bool) : State :=
  let x := s.lease k
  let q := slotQuarter k
  let i := x.kind * 4 + x.eng
  let detach (st : State) : State := if again then st.modKEngine q i (fun e => { e with slot := 0 }) else st
  match x.state with
  | 1 =>
    let s1 := s.setKQueue q x.kind ((s.kQueue q x.kind).filter (fun r => r.slot != k))
    let s2 := (s1.slotReady k).modLease k (fun y => { y with stat := 0x62 })
    if again then s2 else s2.slotState k 0
  | 2 => detach ((s.slotReady k).modKEngine q i (fun e => { e with rel := true }))
  | 3 => detach (s.modLease k (fun y => { y with stat := 0 }) |>.kDrain q i false)
  | 4 => detach (s.kDrain q i true)
  | 5 => detach s
  | _ => s

/-- LEASH at commit (R352, R364, R368): the old request or lease ends, tk is set, and the request joins its kind's queue,
or is refused with LEASE_FULL when the queue holds 64. -/
def State.leaseAsk (s : State) (k : Nat) (who : Owner) (tk gen : Nat) : State :=
  let s1 := if (s.lease k).state = 0 then s else s.leaseEnd k true
  let s2 := s1.setTk who.sid tk
  let x := s2.lease k
  let q := slotQuarter k
  let p := min x.prio (s2.lpMax who.job)
  let s3 := s2.modLease k (fun y => { y with
    used := true, prio := p, lgen := gen, tk := some tk, tkWho := who,
    who := if x.state = 0 then who else y.who })
  let mine := s3.kQueue q x.kind
  if mine.length ≥ 64 then
    let s4 := (s3.slotReady k).modLease k (fun y => { y with stat := 0x61 })
    let s5 := s4.onKen (fun n => { n with full := tmod n.full q (fun c => c + 1) })
    s5.slotState k 0
  else
    let s4 := s3.setKQueue q x.kind (mine ++ [{ slot := k, prio := p, age := s3.tickNo }])
    (s4.slotState k 1).tickUp

/-- LPRI at commit (R368). -/
def State.leasePrio (s : State) (k prio : Nat) (job : Nat) : State :=
  let p := min prio (s.lpMax job)
  let x := s.lease k
  let q := slotQuarter k
  let s1 := s.modLease k (fun y => { y with prio := p })
  s1.setKQueue q x.kind ((s1.kQueue q x.kind).map (fun r => if r.slot == k then { r with prio := p } else r))

/-! ## Serving (R357, R365) -/

/-- An engine of a kind that can be woken: WARM first, then ASLEEP, in service. -/
def State.kFree (s : State) (q kind : Nat) : Option Nat :=
  let es := (List.range 4).map (fun e => kind * 4 + e)
  match es.find? (fun i => (s.kEngine q i).state == 1 && !(s.kEngine q i).out) with
  | some i => some i
  | none => es.find? (fun i => (s.kEngine q i).state == 0 && !(s.kEngine q i).out)

/-- The engine to recall: held at the lowest priority below p, the one granted latest among equals (R357). -/
def State.kVictim (s : State) (q p : Nat) (es : List Nat) : Option Nat :=
  let prio (i : Nat) : Nat := (s.lease ((s.kEngine q i).slot - 1)).prio
  (es.filter (fun i => (s.kEngine q i).state == 3 && (s.kEngine q i).slot != 0 && decide (prio i < p))).foldl
    (fun (b : Option Nat) i => match b with
      | none => some i
      | some j => if prio i < prio j || (prio i == prio j && decide ((s.kEngine q i).age > (s.kEngine q j).age))
        then some i else some j) none

/-- Wake engine i for a request. -/
def State.kWake (s : State) (q i : Nat) (r : LeaseReq) : State :=
  let s1 := s.setKQueue q (i / 4) ((s.kQueue q (i / 4)).filter (fun x => x.slot != r.slot))
  let s2 := s1.modKEngine q i (fun e => { e with state := 2, slot := r.slot + 1, rel := false })
  (s2.modLease r.slot (fun y => { y with eng := i % 4 })).slotState r.slot 2

/-- Recall the lease of engine i for request r: RCLL to the gateway of its holder's cluster, grace starts (R357). DEDUCED: notes/assumptions/73. -/
def State.kRecall (s : State) (q i : Nat) (r : LeaseReq) : State :=
  let k := (s.kEngine q i).slot - 1
  let x := s.lease k
  let s1 := (s.modKEngine q i (fun e => { e with state := 4 })).slotState k 4
  let s2 := s1.setKQueue q (s.lease r.slot).kind ((s1.kQueue q (s.lease r.slot).kind).map (fun y =>
    if y.slot == r.slot then { y with bound := some i } else y))
  let s3 := s2.onKen (fun n => { n with rcl := tmod n.rcl q (fun c => c + 1) })
  let cl := sidCluster x.who.sid
  let c : Cell := ({ dcl := 63, dport := 13, cls := true, cop := 0x3F1,
                     ctx := BitVec.ofNat 6 ((s.ctxTag x.who.job cl).getD 0),
                     aux := BitVec.ofNat 16 (slotNumber k * 4096 + x.lgen) } : Cell).seal
  s3.sendOut cl 29 { cell := c, stamp := 0, who := x.who, report := .device }

/-- Serve one head (R365): the first step that applies to it; none where it waits. DEDUCED: notes/assumptions/73. -/
def State.kServeHead (s : State) (q : Nat) (r : LeaseReq) : Option State :=
  let kind := (s.lease r.slot).kind
  let own := ((List.range 4).map (fun e => kind * 4 + e)).filter (fun i => !(s.kEngine q i).out)
  let room := decide (s.awakeCount q < s.kBudget q)
  if r.bound.isSome then none
  else match (if room then s.kFree q kind else none) with
    | some i => some (s.kWake q i r)
    | none =>
      let victim :=
        if own.all (fun i => (s.kEngine q i).awake) then s.kVictim q r.prio own
        else if !room then s.kVictim q r.prio (List.range 32)
        else none
      match victim with
      | none => none
      | some i => some (s.kRecall q i r)

/-- The heads of the eight kind queues, in order of service. -/
def insertReq (r : LeaseReq) : List LeaseReq → List LeaseReq
  | [] => [r]
  | x :: xs => if reqBefore r x then r :: x :: xs else x :: insertReq r xs
/-- DEDUCED: notes/assumptions/73. -/
def State.kHeads (s : State) (q : Nat) : List LeaseReq :=
  ((List.range 8).filterMap (fun k => reqBest (s.kQueue q k))).foldr insertReq []

/-- Serve the first head that can be served. -/
def State.kServe (s : State) (q : Nat) : State :=
  match (s.kHeads q).findSome? (fun r => s.kServeHead q r) with
  | none => s
  | some s' => s'

/-- The oldest WARM engine sleeps while more than KWARM are WARM (R364). -/
def State.kTrim (s : State) (q : Nat) : State :=
  if s.warmCount q ≤ s.kWarm q then s
  else
    let ws := (List.range 32).filter (fun i => (s.kEngine q i).state == 1)
    let old := ws.foldl (fun (b : Option Nat) i => match b with
      | none => some i
      | some j => if (s.kEngine q i).age < (s.kEngine q j).age then some i else some j) none
    match old with
    | none => s
    | some i => s.modKEngine q i (fun e => { e with state := 0 })

/-- A drained engine goes WARM: its slot is NONE, its generation dead, and the unit it frees goes to the request that
recalled it (R357, R364, R365). An engine that a fault took out of service sleeps. -/
def State.kWarmed (s : State) (q i : Nat) : State :=
  let e := s.kEngine q i
  let s1 := (s.modKEngine q i (fun x => { x with
    state := if x.out then 0 else 1, slot := 0, age := s.tickNo })).tickUp
  let s2 := if e.slot = 0 then s1 else s1.slotState (e.slot - 1) 0
  let bound := ((List.range 8).map (fun k => s2.kQueue q k)).flatten.find? (fun r => r.bound == some i)
  let s3 := match bound with
    | none => s2
    | some r =>
      let kind := (s2.lease r.slot).kind
      let free := s2.setKQueue q kind ((s2.kQueue q kind).map (fun (y : LeaseReq) =>
        if y.slot == r.slot then { y with bound := none } else y))
      let target := if kind = i / 4 && !(free.kEngine q i).out then some i else free.kFree q kind
      match target with
      | none => free
      | some j => if free.awakeCount q < free.kBudget q then free.kWake q j { r with bound := none } else free
  s3.kTrim q

/-- The lease slots of a launch end as at LREL (R364): at a cancel, in every quarter; when the launch's last strand of a
quarter has gone, there. -/
def State.leasesEnd (s : State) (launch : Nat) (quarters : List Nat) : State :=
  let ks := (s.ken.slots.filter (fun e => slotLaunch e.1 == launch && quarters.contains (slotQuarter e.1) &&
    e.2.state != 0)).map (fun e => e.1)
  ks.foldl (fun st k => st.leaseEnd k false) s

/-- Whether a launch still has a strand in a quarter, resident or out. -/
def State.strandsIn (s : State) (launch q : Nat) : Bool :=
  let here (t : Tab Strand) : Bool := t.any (fun e =>
    e.2.who.launch == launch && clusterQuarter (sidCluster e.1) == q)
  s.core.strands.any (fun e => e.2.live && e.2.who.launch == launch && clusterQuarter (sidCluster e.1) == q) ||
  here s.core.holds || here s.core.saved

/-- A strand has gone: if it was its launch's last in the quarter, the launch's lease slots there end (R364). -/
def State.leaseSweep (s : State) (who : Owner) : State :=
  let q := clusterQuarter (sidCluster who.sid)
  if s.strandsIn who.launch q then s else s.leasesEnd who.launch [q]

end Sys2Proof.Machine
end

