-- ==== Sys2Proof/Machine/Ops.lean ====
section
/-! DEFINITION. Machine/Ops.lean: what the instruction words share: the slot in focus, firing and sending tokens, holding a
fault, reading a register, aborting blocks, taking a trap and returning from it (spec/01 R15 to R24, spec/02 R31 to R39,
spec/03 R73, R74, spec/05 R102 to R112, spec/13 R266 to R274). -/

namespace Sys2Proof.Machine

/-- The three outcomes of a step for this machine. -/
abbrev Res := Host.Outcome State Fault Refusal

/-! ## The slot in focus -/

def State.fCore (s : State) : Nat := s.sched.focus.1
def State.fFrame (s : State) : Nat := s.sched.focus.2.1
def State.fSlot (s : State) : Nat := s.sched.focus.2.2
/-- The block that holds the slot in focus. -/
def State.cur (s : State) : Frame := s.frame s.fCore s.fFrame
/-- The slot in focus. -/
def State.curSlot (s : State) : Slot := s.cur.slot s.fSlot
def State.modCur (s : State) (g : Frame → Frame) : State := s.modFrame s.fCore s.fFrame g
/-- The strand the block in focus belongs to. -/
def State.curSid (s : State) : Nat := s.cur.sid
def State.curStrand (s : State) : Strand := s.strand s.curSid
/-- The cluster whose nodes the block in focus names. -/
def State.curCluster (s : State) : Nat := s.placeOf s.curStrand.who (coreCluster s.fCore)
def State.curJob (s : State) : Nat := s.curStrand.who.job

/-! ## Tokens (R16, R73, R101, R111) -/

def slotNo (t : Trap) : Nat := t.slot.getD 0

/-- Hold a fault against a block: the lowest slot's, and at one slot the first found (R266, R268). DEDUCED: notes/assumptions/16. -/
def Frame.hold (f : Frame) (t : Trap) : Frame :=
  match f.trap with
  | none => { f with trap := some t }
  | some u => if slotNo t < slotNo u then { f with trap := some t } else f

def causeIllegal : Nat := 1
def isSelWord (w : IWord) : Bool := opOf w == 0x0A
def isNull (t : Option Token) : Bool := t == some .null

/-- A token arrives at a position of a slot. A position that already holds one traps ILLEGAL (R16); a second token at a
SEL that has fired is absorbed when both are null and traps otherwise (R111). -/
def Frame.put (f : Frame) (pos i : Nat) (k : Token) : Frame :=
  let sl := f.slot i
  let ill (g : Frame) : Frame := g.hold { cause := causeIllegal, slot := some i }
  let late (other : Option Token) : Bool :=
    isSelWord sl.word && sl.fired && other.isSome && !(k == .null && isNull other)
  if pos = 1 then
    if sl.left.isSome then ill f
    else
      let g := f.modSlot i (fun x => { x with left := some k })
      if late sl.right then ill g else g
  else if pos = 2 then
    if sl.right.isSome then ill f
    else
      let g := f.modSlot i (fun x => { x with right := some k })
      if late sl.left then ill g else g
  else
    if sl.pred.isSome then ill f else f.modSlot i (fun x => { x with pred := some k })

/-- Deliver a token to a target field. -/
def Frame.deliver (f : Frame) (k : Token) (t : Tgt) : Frame :=
  match tgtKey t with
  | none => f
  | some (pos, i) => f.put pos i k

/-- Deliver a token to every target (R101). -/
def Frame.send (f : Frame) (k : Token) (ts : List Tgt) : Frame := ts.foldl (fun g t => g.deliver k t) f

def Frame.fire (f : Frame) (i : Nat) : Frame := f.modSlot i (fun x => { x with fired := true })

/-- The slot in focus fires and sends a token to its targets. -/
def State.finish (s : State) (k : Token) (ts : List Tgt) : State :=
  s.modCur (fun f => (f.fire s.fSlot).send k ts)

/-- The slot in focus fires and holds a fault against its block (R266). DEDUCED: notes/assumptions/34. -/
def State.stopAt (s : State) (cause : Nat) (arg : Word := 0) (agn : Option Nat := none) : State :=
  s.modCur (fun f => (f.fire s.fSlot).hold { cause := cause, slot := some s.fSlot, agn := agn, arg := arg })

/-- The slot in focus resolves with a side effect, a null one among them (R24, R34). -/
def State.resolve (s : State) (e : Effect) : State :=
  s.modCur (fun f => { (f.fire s.fSlot) with fx := f.fx ++ [(s.fSlot, e)] })

/-- The operand values of the slot in focus. -/
def State.opL (s : State) : Word := tokVal s.curSlot.left
def State.opR (s : State) : Word := tokVal s.curSlot.right

/-! ## Firing -/

/-- Whether the block in focus is mapped and the word may act. -/
def State.plainReady (s : State) (p : Pr) (u : Uses) : Ready := readyPlain p u s.curSlot
def State.sideReady (s : State) (p : Pr) (u : Uses) : Ready := readySide p u s.curSlot

/-- A word that computes one token from its operands: it waits, sends a null onward, or sends the result (R15, R74,
R101). -/
def fireWith (p : Pr) (u : Uses) (ts : List Tgt) (f : Word → Word → Word) (s : State) : Res :=
  match s.plainReady p u with
  | .wait => .next s
  | .skip => .next s
  | .null => .next (s.finish .null ts)
  | .go => .next (s.finish (.val (f s.opL s.opR)) ts)

/-- As fireWith, for a word that may trap on its operands: `bad` names the cause. -/
def fireTrap (p : Pr) (u : Uses) (ts : List Tgt) (bad : Word → Word → Nat) (f : Word → Word → Word) (s : State) : Res :=
  match s.plainReady p u with
  | .wait => .next s
  | .skip => .next s
  | .null => .next (s.finish .null ts)
  | .go =>
    if bad s.opL s.opR = 0 then .next (s.finish (.val (f s.opL s.opR)) ts)
    else .next (s.stopAt (bad s.opL s.opR))

/-- A word that acts on the state when it fires; `act` may leave the state as it is while it must wait. -/
def fireAct (p : Pr) (u : Uses) (ts : List Tgt) (act : State → State) (s : State) : Res :=
  match s.plainReady p u with
  | .wait => .next s
  | .skip => .next s
  | .null => .next (s.finish .null ts)
  | .go => .next (act s)

/-- A side effect or PUTR: a null on any position resolves it without effect (R24). DEDUCED: notes/assumptions/15. -/
def fireSide (p : Pr) (u : Uses) (act : State → State) (s : State) : Res :=
  match s.sideReady p u with
  | .wait => .next s
  | .skip => .next s
  | .null => .next (s.resolve .null)
  | .go => .next (act s)

/-! ## Registers (R18, R112, R347) -/

/-- The register that a PUTR, ATOM or call exit of a word writes. -/
def writesReg (i : Instr) : Option Nat :=
  match i with
  | .putr _ n => some n.toNat
  | .atom _ _ _ gd => some gd.toNat
  | .callo .. => some 63
  | .calli .. => some 63
  | _ => none

def slotInstr (sl : Slot) : Option Instr :=
  match decode sl.word with
  | .ok i => some i
  | .error _ => none

/-- H + 4 · (LEN + 2): the address after a block's last slot (R103). -/
def Frame.link (f : Frame) : Word := f.addr + BitVec.ofNat 64 (4 * (hdrLen f.hdr + 2))

/-- What a mapped block leaves in register g: wait, no write, or a value. -/
inductive RegView where
  | wait | none
  | val (v : Word)
  deriving DecidableEq, Repr

/-- What slot i of a block says of register g. -/
def Frame.regAt (f : Frame) (g i : Nat) : RegView :=
  match slotInstr (f.slot i) with
  | none => .none
  | some w =>
    if writesReg w = some g then
      match w with
      | .putr .. =>
        match f.regw.find? (fun x => x.1 == i) with
        | none => .wait
        | some (_, _, v) => match v with
          | none => .none
          | some x => .val x
      | .atom .. => if f.fx.any (fun x => x.1 == i && x.2 == Effect.null) then .none else .wait
      | _ => match f.exit with
        | none => .wait
        | some (j, _) => if j = i then .val f.link else .none
    else .none

def Frame.regView (f : Frame) (g : Nat) : RegView :=
  (List.range f.slots.length).foldl (fun (acc : RegView) i =>
    match acc, f.regAt g i with
    | .wait, _ => .wait
    | _, .wait => .wait
    | .none, r => r
    | a, _ => a) .none

/-- Register g as the blocks in `fs` (youngest first) and then the context leave it; none: it must wait. -/
def State.regThrough (s : State) (core sid g : Nat) : List Nat → Option Word
  | [] => if (s.strand sid).atoms.any (fun a => a.1 == g) then none else some (tget (s.strand sid).regs g)
  | f :: fs => match (s.frame core f).regView g with
    | .wait => none
    | .val v => some v
    | .none => s.regThrough core sid g fs

/-- Frames of a strand older than a given one, youngest first. -/
def State.olderFrames (s : State) (core f : Nat) : List Nat :=
  ((s.framesOf (s.frame core f).sid).filter (fun g => decide ((s.frame core g).seq < (s.frame core f).seq))).reverse

/-- A slot has not fired and its predicate does not keep it from firing. -/
def slotMayFire (sl : Slot) : Bool :=
  !sl.fired && (match predReady (match slotInstr sl with
    | some i => predOf i
    | none => .always) sl.pred with
    | .skip => false
    | _ => true)

/-- A slot of an older block of the strand that the test picks may still fire. -/
def State.olderOpen (s : State) (core f : Nat) (pick : Slot → Bool) : Bool :=
  (s.olderFrames core f).any (fun g => (s.frame core g).slots.any (fun sl => pick sl && slotMayFire sl))

/-- The value of gN for an instruction of a block (R112); none: it waits. -/
def State.readReg (s : State) (core f g : Nat) : Option Word :=
  s.regThrough core (s.frame core f).sid g (s.olderFrames core f)

/-! ## Launch queues (R413) -/

def Queue.size (q : Queue) : Nat := 2 ^ wbits q.cfg 0 4
def Queue.job (q : Queue) : Nat := wbits q.cfg 52 12
def Queue.valid (q : Queue) : Bool := bitOf q.cfg.toNat 15
def Queue.prio (q : Queue) : Nat := wbits q.cfg 8 3
/-- Virtual address of a claim's slot. -/
def Queue.slotAddr (q : Queue) (c : Nat) : Nat := wbits q.base 0 57 + 256 * (c % q.size)

/-- PUB advances over every run of consecutive published slots. -/
def advancePub (marks : List Nat) : Nat → Nat → Nat
  | 0, p => p
  | n + 1, p => if marks.contains p then advancePub marks n (p + 1) else p

/-- Publish a claim: its slot is marked and PUB advances; each packet published counts for its job until dispatch. -/
def State.queuePublish (s : State) (qk c : Nat) : State :=
  let q := s.queue qk
  let marks := c :: q.marks
  let pub := advancePub marks marks.length q.pub
  let s1 := s.modQueue qk (fun x => { x with
    marks := marks.filter (fun m => decide (m ≥ pub)), pub := pub, times := x.times ++ [(c, s.tickNo)],
    owners := x.owners.filter (fun o => o.1 != c) })
  (s1.countUpFrom 4 q.job (qk / 256) 1).tickUp

/-- The words of a KIND 0 packet, which starts nothing (R412). -/
def emptyPacket (job : Nat) : List Nat := (0xC * 2 ^ 60 + job * 2 ^ 32) :: List.replicate 23 0

/-- The controller fills an abandoned claim with an empty packet and publishes it. DEDUCED: notes/assumptions/66. -/
def State.fillClaim (s : State) (qk c : Nat) : State :=
  let q := s.queue qk
  let (_, s1) := s.sysWrite (qk / 256) q.job (q.slotAddr c) 0 loaderAgent (emptyPacket q.job)
  s1.queuePublish qk c

/-- A claim returned by an abort (R415): taken back where no later claim has been granted, filled otherwise. DEDUCED: notes/assumptions/66. -/
def State.unclaim (s : State) (qk c : Nat) : State :=
  let q := s.queue qk
  if q.claim = c + 1 then
    s.modQueue qk (fun x => { x with claim := c, owners := x.owners.filter (fun o => o.1 != c) })
  else s.fillClaim qk c

/-- A killed strand's unpublished claims are filled (R413). -/
def State.fillClaimsOf (s : State) (sid : Nat) : State :=
  let mine := (s.work.queues.map (fun e => (e.2.owners.filter (fun o => o.2 == sid)).map (fun o => (e.1, o.1)))).flatten
  mine.foldl (fun st x => st.fillClaim x.1 x.2) s

/-! ## Aborts (R22, R35) -/

/-- Take back every reservation of a block and free its frame. -/
def State.abortFrame (s : State) (core f : Nat) : State :=
  let fr := s.frame core f
  let who := (s.strand fr.sid).who
  let s1 := fr.gets.foldl (fun st (g : Nat × Nat × Nat) => st.modPipe g.2.1 (fun p =>
    { p with q := p.q.map (fun w => if w.id == g.2.2 then { w with taken := false } else w) })) s
  let s2 := fr.rngs.foldl (fun st (g : Nat × Nat × Nat) =>
    if g.2.2 = 0 then st
    else st.modLaunch who.launch (fun l => { l with range := l.range.map (fun r =>
      { r with back := r.back ++ [(g.2.1, g.2.2)] }) })) s1
  let s3 := fr.claims.foldr (fun (g : Nat × Nat × Nat) st => st.unclaim g.2.1 g.2.2) s2
  let s4 := fr.resv.foldl (fun st (g : Nat × Nat × Nat) =>
    st.modBarrier g.2.1 (fun b => { b with resv := b.resv - g.2.2 })) s3
  let s5 := fr.gens.foldr (fun (g : Nat × Nat) st => st.onKen (fun k =>
    { k with slots := tmod k.slots g.2 (fun x => { x with gen := if x.gen ≤ 1 then 4095 else x.gen - 1 }) })) s4
  let unret := (fr.loads.filter (fun l => decide (l.stage < 2))).length
  let s6 := s5.modStrand fr.sid (fun x => { x with ldc := x.ldc - unret, cseq := x.cseq - BitVec.ofNat 64 fr.cseqs })
  let s7 := s6.onMem (fun m => { m with
    defer := m.defer.filter (fun d => !(d.core == core && d.frame == f))
    majOps := m.majOps.filter (fun e => e.2.write || !(e.2.sid == fr.sid && e.2.frame == f && sidCore e.2.sid == core)) })
  let s8 := s7.onAcc (fun a => { a with walks := a.walks.map (fun e =>
    (e.1, e.2.filter (fun w => !(w.core == core && w.frame == f)))) })
  s8.setFrame core f {}

/-- Abort a block and every younger block of its strand, youngest first. -/
def State.abortFrom (s : State) (core f : Nat) : State :=
  let fr := s.frame core f
  let victims := (s.framesOf fr.sid).filter (fun g => decide (fr.seq ≤ (s.frame core g).seq))
  (victims.reverse.foldl (fun st g => st.abortFrame core g) s).modStrand fr.sid (fun x => { x with fetched := none })

/-- Abort every block of a strand. -/
def State.abortAll (s : State) (sid : Nat) : State :=
  (((s.framesOf sid).reverse.foldl (fun st g => st.abortFrame (sidCore sid) g) s).modStrand sid
    (fun x => { x with fetched := none }))

/-- Abort the blocks younger than a given one (a wrong prediction, R35). DEDUCED: notes/assumptions/18. -/
def State.abortYounger (s : State) (core f : Nat) : State :=
  let fr := s.frame core f
  let victims := (s.framesOf fr.sid).filter (fun g => decide (fr.seq < (s.frame core g).seq))
  (victims.reverse.foldl (fun st g => st.abortFrame core g) s).modStrand fr.sid (fun x => { x with fetched := none })

/-- Kill a strand with a status: its blocks abort, its claims are filled, its context becomes free (R39, R413). DEDUCED: notes/assumptions/69. -/
def State.killStrand (s : State) (sid status : Nat) : State :=
  (((s.abortAll sid).fillClaimsOf sid).killed sid status).leaseSweep (s.strand sid).who

/-! ## Taking a trap, and returning from one (R266, R270, R271, R274) -/

def statusFaulted : Nat := 2
def statusCancelled : Nat := 1

/-- TCAUSE of a trap (R274). DEDUCED: notes/assumptions/33, 34. -/
def tcauseWord (t : Trap) : Word :=
  BitVec.ofNat 64 (t.cause * 2 ^ 56 + t.fetch.toNat * 2 ^ 55 + t.slot.isSome.toNat * 2 ^ 54 + t.slot.getD 0 * 2 ^ 47 +
    t.agn.isSome.toNat * 2 ^ 46 + t.agn.getD 0 * 2 ^ 41)

def causeScall : Nat := 0x07
def causeAsync : Nat := 0x09

/-- The address `eret.skip` resumes at (R274). -/
def resumeAddr (t : Trap) (blk : Word) (len : Nat) : Word :=
  if t.cause = causeScall then blk
  else if t.fetch then blk + 4
  else blk + BitVec.ofNat 64 (4 * (len + 2))

/-- A strand enters its handler (R266): trap registers filled, g60 to g62 banked and loaded, HMODE set, PC at TVEC. DEDUCED: notes/assumptions/34. -/
def Strand.enter (x : Strand) (t : Trap) (blk : Word) (len : Nat) (tvec : Word) : Strand :=
  let tc := tcauseWord t
  { x with
    tcause := tc, tblk := blk, targ := t.arg, tresume := resumeAddr t blk len,
    tbank0 := tget x.regs 60, tbank1 := tget x.regs 61, tbank2 := tget x.regs 62,
    regs := tset (tset (tset x.regs 60 tc) 61 blk) 62 t.arg,
    hmode := true, pc := tvec, fetched := none }

/-- TAKE A TRAP: every block of the strand aborts; without a handler, or in handler mode already, the strand is killed
FAULTED; otherwise it enters its handler. `blk` and `len` are the trapped block's address and LEN; taking ASYNCERR clears
the asynchronous status word (R160, R266, R270). -/
def State.takeTrap (s : State) (sid : Nat) (t : Trap) (blk : Word) (len : Nat) : State :=
  let s1 := s.abortAll sid
  let s2 := if t.cause = causeAsync then s1.modStrand sid (fun x => { x with async := 0 }) else s1
  let x := s2.strand sid
  let tvec := (s2.job x.who.job).tvec
  if x.hmode || tvec == 0 then s2.killStrand sid statusFaulted
  else s2.setStrand sid (x.enter t blk len tvec)

/-- Return from a trap (R271): the bank goes back into g60 to g62, HMODE clears, and the strand goes on at TBLK or
TRESUME with its own privilege. DEDUCED: notes/assumptions/19. -/
def Strand.leaveTrap (x : Strand) (skip : Bool) : Strand :=
  { x with
    regs := tset (tset (tset x.regs 60 x.tbank0) 61 x.tbank1) 62 x.tbank2,
    hmode := false, pc := if skip then x.tresume else x.tblk }

/-- Whether a strand runs privileged (R266, R271, R274). -/
def Strand.privileged (x : Strand) : Bool := x.privs || x.hmode

end Sys2Proof.Machine
end

