-- ==== Sys2Proof/Machine/Cancel.lean ====
section
/-! DEFINITION. Machine/Cancel.lean: CANCEL of a unit (spec/02 R55, R56) and the cancels that the device makes itself
(spec/16 R326, spec/13 R285). -/

namespace Sys2Proof.Machine

/-- Whether an owner's work lies in a unit (R30). -/
def inUnit (w : Owner) (level unit : Nat) : Bool :=
  match level with
  | 0 => w.sid == unit
  | 1 => w.launch == unit
  | 2 => graphKey w.job w.graph == unit
  | 3 => phaseUnit w.job w.phase == unit
  | _ => w.job == unit

def Launch.owner (l : Launch) (id : Nat) : Owner := { launch := id, graph := l.graph, phase := l.phase, job := l.job }

/-- The unit that a level code and an identifier name within a job (R30). -/
def unitOf (level id job : Nat) : Nat :=
  match level with
  | 2 => graphKey job id
  | 3 => phaseUnit job id
  | _ => id

/-- The loader removes a launch's arming count (R52); the launch terminates if nothing else is counted. -/
def State.disarm (s : State) (l : Nat) : State :=
  if !(s.launch l).used || !(s.launch l).armed then s
  else
    let s1 := (s.modLaunch l (fun x => { x with armed := false })).countDownFrom 1 l 0 0
    if unitLive s1 1 l then s1 else s1.endLaunch l

/-- A strand is killed where it lies (R39): in its context, in the hold store or in its save record. -/
def State.killAway (s : State) (sid : Nat) (h : Holder) : State :=
  let x := s.heldBy sid h
  let s1 := (s.memberOf x.who).foldl (fun st b => st.sendBarrier x.who b 0x293 0 x.pts) s
  let s2 := s1.onCores (fun c => { c with
    holds := if h = .hold then tdel c.holds sid else c.holds,
    saved := if h = .saved then tdel c.saved sid else c.saved,
    outs := tdel c.outs sid, switch := tdel c.switch sid })
  let s3 := if x.out.isEmpty then s2
    else (s2.onCores (fun c => { c with ghosts := tset c.ghosts s2.tickNo { x with live := false } })).tickUp
  (((s3.setLess x.who x.set).drainCheck x.who.job x.who.graph).countDown x.who x.pts).leaseSweep x.who

/-- Kill every strand of a unit (R55, R56): each at the boundary after its last committed block. DEDUCED: notes/assumptions/69. -/
def State.killUnit (s : State) (level unit : Nat) : State :=
  let ctx := (s.core.strands.filter (fun e => e.2.live && inUnit e.2.who level unit)).map (fun e => e.1)
  let held := (s.core.holds.filter (fun e => inUnit e.2.who level unit)).map (fun e => e.1)
  let saved := (s.core.saved.filter (fun e => inUnit e.2.who level unit)).map (fun e => e.1)
  let s1 := ctx.foldl (fun st sid => st.killStrand sid 0) s
  let s2 := held.foldl (fun st sid => st.killAway sid .hold) s1
  saved.foldl (fun st sid => st.killAway sid .saved) s2

/-- Header fields of a packet (R412). -/
def pktGraph (w : List Word) : Nat := wbits (w.getD 0 0) 16 16
def pktPhase (w : List Word) : Nat := wbits (w.getD 1 0) 32 32
def pktCctr (w : List Word) : Nat := wbits (w.getD 1 0) 22 10
def pktCw (w : List Word) : Nat := wbits (w.getD 2 0) 0 57

/-- HEAD moves over packets that a cancel has removed. -/
def skipGone (gone : List Nat) : Nat → Nat → Nat
  | 0, h => h
  | n + 1, h => if gone.contains h then skipGone gone n (h + 1) else h

/-- A packet that runs nothing writes its completion word and advances its counter (R53, R54). -/
def State.packetEnd (s : State) (q job : Nat) (w : List Word) (status : Nat) : State :=
  let s1 := if pktCw w = 0 then s else (s.sysWrite q job (pktCw w) 0 loaderAgent [completionWord status 1 0]).2
  s1.counterAdd job (pktCctr w) 1

/-- The claims of a queue whose published packets have not been dispatched. -/
def Queue.waiting (x : Queue) : List Nat :=
  ((List.range (x.pub - x.head)).map (fun i => x.head + i)).filter (fun c => !x.gone.contains c)

/-- The first words of the packet in a claim of a queue. -/
def State.claimWords (s : State) (qk c : Nat) : List Word :=
  s.sysReadWords (qk / 256) (s.queue qk).job ((s.queue qk).slotAddr c) 3

/-- Whether a packet that waits in a queue belongs to a graph, phase or job (R52, R55). -/
def pktInUnit (job : Nat) (w : List Word) (level unit : Nat) : Bool :=
  decide (level ≥ 2) && inUnit { graph := pktGraph w, phase := pktPhase w, job := job } level unit

/-- The published packets of a unit that have not been dispatched are removed, each completing CANCELLED (R55). DEDUCED: notes/assumptions/69. -/
def State.cancelQueue (s : State) (qk level unit : Nat) : State :=
  let x := s.queue qk
  let s1 := x.waiting.foldl (fun st c =>
    let w := st.claimWords qk c
    if pktInUnit x.job w level unit then
      let st1 := st.packetEnd (qk / 256) x.job w statusCancelled
      let st2 := st1.modQueue qk (fun y => { y with gone := c :: y.gone })
      (st2.countDownFrom 4 x.job (qk / 256) 1).endUpper 4 x.job
    else st) s
  s1.modQueue qk (fun y =>
    let h := skipGone y.gone y.gone.length y.head
    { y with head := h, gone := y.gone.filter (fun c => decide (c ≥ h)) })

/-- Open engine operations of a unit end with their cells (R205). -/
def State.dropOpen (s : State) (level unit : Nat) : State :=
  let ixs := (s.eng.ixjobs.map (fun e => (e.2.filter (fun j => inUnit j.who level unit)).map (fun j => (e.1, j)))).flatten
  let s1 := ixs.foldl (fun st x => st.prodEnd x.1 { prod := some {
    key := engCtx x.1 9 x.2.ctx, num := x.2.num, cts := x.2.stamp
    ends := (x.2.who, Report.device, 0#24) :: x.2.ends } }) s
  let rows := (s1.eng.rows.map (fun e => (e.2.filter (fun r => inUnit r.who level unit)).map (fun r => (e.1, r)))).flatten
  let s1a := rows.foldl (fun st x => if x.2.dead then st
    else (st.timeEnd (engCtx x.1 8 x.2.ctx) x.2.num 0).countDown x.2.who 0) s1
  let s2 := s1a.onEng (fun e => { e with
    ixjobs := e.ixjobs.map (fun x => (x.1, x.2.filter (fun j => !inUnit j.who level unit))),
    rows := e.rows.map (fun x => (x.1, x.2.filter (fun r => !inUnit r.who level unit))) })
  let mats := s2.mat.ctxs.filterMap (fun e => match e.2.opn with
    | some o => if inUnit o.who level unit then some (e.1, o) else none
    | none => none)
  mats.foldl (fun st x =>
    let k := x.1
    let st1 := (st.modMat k (fun c => { c with opn := none, jrn := [], drainOp := none })).timeEnd
      (engCtx (k / 16) (k / 4 % 4) (k % 4)) x.2.num x.2.stamp
    let st2 := st1.countDown x.2.who x.2.stamp
    x.2.ends.foldl (fun a e => a.cellEnd (k / 16) { who := e.1, report := e.2.1 } 0 x.2.stamp) st2) s2

/-- An ABRT token for every collective of a graph (R400): it reaches the rank's switch box; the ranks of other devices
hear of it from there. DEDUCED: notes/assumptions/69. -/
def State.abortColls (s : State) (job g : Nat) : State :=
  let x := s.graph job g
  (List.range x.img.colls.length).foldl (fun st i =>
    let cl := st.collCluster job g i
    let c : Cell := ({ dcl := 63, dport := 14, cls := true, cop := 0x3F3,
                       ctx := BitVec.ofNat 6 ((st.ctxTag job cl).getD 0), aux := BitVec.ofNat 16 i } : Cell).seal
    st.sendOut cl 30 { cell := c, who := { launch := x.launch, graph := g, job := job } }) s

/-- CANCEL of a unit (R55). The caller has seen that it is live. DEDUCED: notes/assumptions/38, 69. -/
def State.cancelUnit (s : State) (level unit : Nat) : State :=
  if level = 0 then
    let s1 := if (s.strand unit).live then s.killStrand unit 0 else s
    let s2 := if thas s1.core.holds unit then s1.killAway unit .hold else s1
    if thas s2.core.saved unit then s2.killAway unit .saved else s2
  else
    let ls := (s.work.launches.filter (fun e => e.2.used && !e.2.ended && inUnit (e.2.owner e.1) level unit)).map
      (fun e => e.1)
    let gs := s.work.graphs.filter (fun e => e.2.used && e.2.bound && ls.contains e.2.launch)
    let s1 := ls.foldl (fun st l => st.modLaunch l (fun x => { x with cancelled := true })) s
    let s2 := if level = 4 then s1.modJob unit (fun j => { j with cancelled := true, state := 2 })
      else if level = 3 then s1.modJob (unit / 2 ^ 32) (fun j => { j with phaseDead := unit % 2 ^ 32 :: j.phaseDead }) else s1
    let s3 := (s2.work.queues.map (fun e => e.1)).foldl (fun st k => st.cancelQueue k level unit) s2
    let s4 := s3.onWork (fun w => { w with claims1 := w.claims1.filter (fun l => !ls.contains l) })
    let s5 := (s4.purgeCells (fun _ m => inUnit m.who level unit)).dropOpen level unit
    let s6 := s5.killUnit level unit
    let s7 := ls.foldl (fun st l => st.leasesEnd l [0, 1, 2, 3]) s6
    let s8 := gs.foldl (fun st e => (st.drainCheck (e.1 / 65536) (e.1 % 65536)).abortColls
      (e.1 / 65536) (e.1 % 65536)) s7
    let s9 := ls.foldl (fun st l => st.disarm l) s8
    if level = 4 && (s.job unit).state = 1 then (s9.countDownFrom 4 unit 0 0).endUpper 4 unit else s9

/-- Whether a unit can be cancelled (R55): it is live, or a packet of it waits in a queue. -/
def State.cancelable (s : State) (level unit : Nat) : Bool :=
  if level = 0 then (s.strand unit).live || thas s.core.holds unit || thas s.core.saved unit
  else unitLive s level unit ||
    s.work.queues.any (fun e => e.2.waiting.any (fun c => pktInUnit e.2.job (s.claimWords e.1 c) level unit))

/-- An access whose page has lost its majority, or a save area that faults: a fault record, and the job is cancelled
(R285, R326). -/
def State.cancelJobFor (s : State) (q job cause srck sid agn cl va id : Nat) : State :=
  let s1 := match s.faultRecord q job cause srck sid agn cl va id with
    | none => s
    | some (_, s') => s'
  if s1.cancelable 4 job then s1.cancelUnit 4 job else s1

/-- An engine's write that met a page without a majority has ended its cell with UE, and cancels its job (R326). -/
def State.writeLost (s : State) (cl : Nat) (m : MCell) (agn va status : Nat) : State :=
  if status = 0x80 then
    s.cancelJobFor (clusterQuarter cl) m.who.job 0x1A 2 (m.agent / 32) agn cl va m.cell.itag.toNat
  else s

end Sys2Proof.Machine
end

