-- ==== Sys2Proof/Machine/MajorityOps.lean ====
section
/-! DEFINITION. Machine/MajorityOps.lean: a strand's majority access, message by message (spec/14 R289 to R292, spec/16 R326):
probes, writes, reads and repairs at the copies, and what each answer decides. -/

namespace Sys2Proof.Machine

def State.majOp (s : State) (k : Nat) : MajOp := tget s.mem.majOps k
def State.setMajOp (s : State) (k : Nat) (o : MajOp) : State := s.onMem (fun m => { m with majOps := tset m.majOps k o })
def MajOp.root (s : State) (o : MajOp) : Nat := s.partOfCluster (sidCluster o.sid)
/-- The stacks of the operation's copies, in the order of the stack set (R288). -/
def MajOp.stacks (s : State) (o : MajOp) : List Nat := s.ssetStacks (o.root s) o.sset
def MajOp.copies (s : State) (o : MajOp) : Nat := (o.stacks s).length
def MajOp.leg (o : MajOp) (i : Nat) : Leg := tget o.legs i
def MajOp.modLeg (o : MajOp) (i : Nat) (f : Leg → Leg) : MajOp := { o with legs := tmod o.legs i f }

/-- A request to every copy in service. -/
def MajOp.sendAll (s : State) (o : MajOp) : MajOp :=
  { o with legs := (List.range (o.copies s)).map (fun i =>
      (i, { stage := if s.stackUp (o.root s) ((o.stacks s).getD i 0) then 1 else 0 })) }

def MajOp.legsWhere (s : State) (o : MajOp) (p : Leg → Bool) : List Leg :=
  ((List.range (o.copies s)).map o.leg).filter p
def MajOp.countWhere (s : State) (o : MajOp) (p : Leg → Bool) : Nat := (o.legsWhere s p).length

/-- The newest of some answers. -/
def newestLeg (ls : List Leg) : Leg :=
  ls.foldl (fun b l => if tagNum l.wts l.wid > tagNum b.wts b.wid then l else b) (ls.headD {})

/-- A new operation, its requests sent. -/
def State.majStart (s : State) (o : MajOp) : Nat × State :=
  let k := s.mem.nextMaj
  let s1 := s.setMajOp k ((({ o with used := true } : MajOp)).sendAll s)
  (k, (s1.onMem (fun m => { m with nextMaj := k + 1 })).majNote (o.root s) o.sset o.addr)

/-- An operation whose result is taken goes once nothing of it is in flight. -/
def State.majTidy (s : State) (k : Nat) : State :=
  let o := s.majOp k
  if o.taken && (o.countWhere s (fun l => l.stage == 1 || l.stage == 2 || l.stage == 4 || l.stage == 5)) == 0
  then s.onMem (fun m => { m with majOps := tdel m.majOps k }) else s

/-- A load's answers so far (R291): the first majority decides the winner; every copy that lags is sent a repair; the load
is done once a majority is known to hold the winner's tag or a newer one. DEDUCED: notes/assumptions/28. -/
def MajOp.decideRead (s : State) (o : MajOp) : MajOp :=
  let maj := majorityOf (o.copies s)
  let got := o.legsWhere s (fun l => decide (l.stage ≥ 3))
  let o1 : MajOp :=
    if o.writing || got.length < maj then o
    else
      let win := newestLeg got
      { o with writing := true, ts := win.wts, wid := win.wid, img := win.img,
               rts := got.foldl (fun m l => min m l.rts) win.rts }
  if !o1.writing then o1
  else
    let lag (l : Leg) : Bool := l.stage == 3 && decide (tagNum l.wts l.wid < tagNum o1.ts o1.wid)
    let o2 : MajOp := { o1 with legs := o1.legs.map (fun e => if lag e.2 then (e.1, { e.2 with stage := 4 }) else e) }
    { o2 with done := o2.done || decide (o2.countWhere s (fun l => l.stage == 3 || l.stage == 6) ≥ maj) }

/-- A store's probe answers so far (R290 steps 1 and 2): the first majority fixes the timestamp and the image, and the write
goes to every copy. DEDUCED: notes/assumptions/28. -/
def MajOp.decideProbe (s : State) (o : MajOp) : MajOp :=
  let got := o.legsWhere s (fun l => l.stage == 3)
  if got.length < majorityOf (o.copies s) then o
  else
    let ts := max o.pts (got.foldl (fun m l => max m l.rts) 0 + 1)
    (({ o with writing := true, ts := ts, img := imgPut (newestLeg got).img o.off o.n o.v.toNat } : MajOp)).sendAll s

/-- A store's write answers so far (R290 steps 4 and 5): done when a majority has accepted; it starts again when a majority
no longer can, and what its first round still has in flight goes on under another number. DEDUCED: notes/assumptions/28. -/
def State.decideWrite (s : State) (k : Nat) : State :=
  let o := s.majOp k
  let maj := majorityOf (o.copies s)
  let yes := o.countWhere s (fun l => l.stage == 3 && l.ok)
  let open' := o.countWhere s (fun l => l.stage == 1 || l.stage == 2)
  if o.done then s
  else if yes ≥ maj then s.setMajOp k { o with done := true }
  else if yes + open' < maj then
    let n := s.mem.nextMaj
    let s1 := (s.setMajOp n { o with done := true, taken := true }).onMem (fun m => { m with nextMaj := n + 1 })
    (s1.setMajOp k ((({ o with writing := false } : MajOp)).sendAll s)).majTidy n
  else s

/-- A page that has lost its majority (R326): the access ends; a store cancels its job with a fault record of cause UE. -/
def State.majLost (s : State) (k : Nat) : State :=
  let o := s.majOp k
  if !o.used || o.done || decide (o.countWhere s (fun l => l.stage != 0) ≥ majorityOf (o.copies s)) then s
  else
    let s1 := s.setMajOp k { o with lost := true, done := true, ts := o.pts }
    if o.write then
      let cl := sidCluster o.sid
      s1.cancelJobFor (clusterQuarter cl) o.job 0x1A 2 o.sid 0 cl o.va 0
    else s1

/-- A probe reaches a copy (R290 step 1): the copy answers with its tag, lease and image, and does not change. -/
def State.copyProbe (s : State) (k i : Nat) : State :=
  let o := s.majOp k
  if !(o.used && o.write && !o.writing && (o.leg i).stage == 1) then s
  else
    let st := (o.stacks s).getD i 0
    if s.copyAnswers (o.root s) st o.addr then
      let c := s.majCopy (o.root s) st o.addr
      s.setMajOp k (o.modLeg i (fun l => { l with stage := 2, wts := c.wts, wid := c.wid, rts := c.rts, img := c.img }))
    else (s.setMajOp k (o.modLeg i (fun l => { l with stage := 0 }))).majLost k

/-- A write reaches a copy (R290 step 3). -/
def State.copyWrite (s : State) (k i : Nat) : State :=
  let o := s.majOp k
  if !(o.used && o.write && o.writing && (o.leg i).stage == 1) then s
  else
    let st := (o.stacks s).getD i 0
    if s.stackUp (o.root s) st then
      let (ok, c) := copyTakesWrite (s.majCopy (o.root s) st o.addr) o.ts (sidAgent o.sid) o.img
      (s.setCopy st o.addr c).setMajOp k (o.modLeg i (fun l => { l with stage := 2, ok := ok, rts := c.rts }))
    else ((s.setMajOp k (o.modLeg i (fun l => { l with stage := 0 }))).majLost k).decideWrite k

/-- A read reaches a copy (R291): it takes the lease and answers. -/
def State.copyRead (s : State) (k i : Nat) : State :=
  let o := s.majOp k
  if !(o.used && !o.write && (o.leg i).stage == 1) then s
  else
    let st := (o.stacks s).getD i 0
    if s.copyAnswers (o.root s) st o.addr then
      let c := copyTakesRead (s.majCopy (o.root s) st o.addr) o.pts
      (s.setCopy st o.addr c).setMajOp k (o.modLeg i (fun l =>
        { l with stage := 2, wts := c.wts, wid := c.wid, rts := c.rts, img := c.img }))
    else (s.setMajOp k (o.modLeg i (fun l => { l with stage := 0 }))).majLost k

/-- A repair reaches a copy (R292); a copy that installs one counts in its stack's quarter (R327 RDREP). DEDUCED: notes/assumptions/29. -/
def State.copyRepair (s : State) (k i : Nat) : State :=
  let o := s.majOp k
  if !(o.used && !o.write && (o.leg i).stage == 4) then s
  else
    let st := (o.stacks s).getD i 0
    if s.stackUp (o.root s) st then
      let c := s.majCopy (o.root s) st o.addr
      let c' := copyTakesRepair c o.ts o.wid o.img
      let s1 := (s.setCopy st o.addr c').setMajOp k (o.modLeg i (fun l => { l with stage := 5 }))
      if c'.tag = c.tag then s1
      else s1.onSys (fun y => { y with hounds := tmod y.hounds (st / 3) (fun h => { h with rdrep := h.rdrep + 1 }) })
    else s.setMajOp k (o.modLeg i (fun l => { l with stage := 0 }))

/-- An answer comes back: it counts, and the access goes as far as it now can. -/
def State.majAnswer (s : State) (k i : Nat) : State :=
  let o := s.majOp k
  if !o.used then s
  else if (o.leg i).stage == 2 then
    let o1 := o.modLeg i (fun l => { l with stage := 3 })
    if o1.taken && o1.write then (s.setMajOp k o1).majTidy k
    else if !o1.write then (s.setMajOp k (o1.decideRead s)).majTidy k
    else if !o1.writing then s.setMajOp k (o1.decideProbe s)
    else ((s.setMajOp k o1).decideWrite k).majTidy k
  else if (o.leg i).stage == 5 then
    let o1 := o.modLeg i (fun l => { l with stage := 6 })
    (s.setMajOp k (o1.decideRead s)).majTidy k
  else s

/-- The result of an operation is taken. DEDUCED: notes/assumptions/28. -/
def State.majTake (s : State) (k : Nat) : State := (s.setMajOp k { s.majOp k with taken := true }).majTidy k

end Sys2Proof.Machine
end

