-- ==== Sys2Proof/Machine/Memory.lean ====
section
/-! DEFINITION. Machine/Memory.lean: loads, stores and prefetch, what happens to them at their homes and on the way back, the
copies' messages, and page walks (spec/06 R142 to R146, spec/14 R290 to R292, spec/15 R295 to R299, spec/23 R452 to R454). -/

namespace Sys2Proof.Machine

def causeMisalign : Nat := 0x15
def causeRewrite : Nat := 0x16
def causeUe : Nat := 0x1A
def sizeBytes (sz : BitVec 2) : Nat := 2 ^ sz.toNat

/-! ## Where an access goes -/

/-- A faulting access, a home in a buffer or tile, or a virtual address. -/
inductive Reach where
  | fault (cause : Nat) (arg : Word)
  | home (a : Nat)
  | virt (va : Nat)
  deriving DecidableEq, Repr

/-- The checks of a z-byte access through an AGN at an offset, in order, and where it goes (R132, R133, R137, R142). DESIGN CHOICE: notes/assumptions/5; DEDUCED: notes/assumptions/33. -/
def State.reach (s : State) (cl core : Nat) (r : AgnRec) (u : AgnUse) (off : Word) (z : Nat) : Reach :=
  let c := s.agnCheck cl r u
  if c != 0 then .fault c off
  else if r.port == 3 && s.tileRole cl r.tile == 4 && z != 8 then .fault causePort off
  else match r.addr off.toNat with
    | none => .fault causeBound off
    | some a =>
      let odd := decide (z * 8 > r.ebits) || a % (z : Int) != 0
      match agnWhere cl core r a z with
      | .fault d => if d = causeBound then .fault causeBound off
        else if odd then .fault causeMisalign (BitVec.ofInt 64 a) else .fault d (BitVec.ofInt 64 a)
      | .home h => if odd then .fault causeMisalign (BitVec.ofInt 64 a) else .home h
      | .virt v => if odd then .fault causeMisalign (BitVec.ofInt 64 a) else .virt v

/-- Ask for a walk (R454): one for the same slot is not asked for twice. DEDUCED: notes/assumptions/30. -/
def State.askWalk (s : State) (q : Nat) (w : Walk) : State :=
  if (tget s.acc.walks q).contains w then s
  else s.onAcc (fun a => { a with walks := tset a.walks q (tget a.walks q ++ [w]) })

/-! ## A strand's own stores (R143) -/

def Place.shift (p : Place) (i : Nat) : Place :=
  match p with
  | .home a => .home (a + i)
  | .maj s a => .maj s (a + i)

/-- The byte that a store leaves at a place. -/
def StoreRec.byteAt (r : StoreRec) (p : Place) : Option Byte :=
  let pick (b a : Nat) : Option Byte :=
    if b ≤ a && decide (a < b + r.n) then some (BitVec.ofNat 8 (wbits r.v (8 * (a - b)) 8)) else none
  match r.place, p with
  | .home b, .home a => pick b a
  | .maj x b, .maj y a => if x = y then pick b a else none
  | _, _ => none

/-- The byte that the latest of some stores leaves at a place. -/
def ownByte (rs : List StoreRec) (p : Place) : Option Byte :=
  rs.foldl (fun acc r => match r.byteAt p with
    | some b => some b
    | none => acc) none

/-- n bytes at a place, the strand's own stores laid over what was read. DEDUCED: notes/assumptions/25. -/
def overlay (rs : List StoreRec) (p : Place) (n v : Nat) : Nat :=
  leNat ((List.range n).map (fun i => (ownByte rs (p.shift i)).getD (BitVec.ofNat 8 (bits v (8 * i) 8))))
/-- DEDUCED: notes/assumptions/25. -/
def ownAll (rs : List StoreRec) (p : Place) (n : Nat) : Bool :=
  (List.range n).all (fun i => (ownByte rs (p.shift i)).isSome)
def overlaps (r : StoreRec) (p : Place) (n : Nat) : Bool := (List.range n).any (fun i => (r.byteAt (p.shift i)).isSome)

def insertLsid (x : Nat × StoreRec) : List (Nat × StoreRec) → List (Nat × StoreRec)
  | [] => [x]
  | y :: ys => if x.1 ≤ y.1 then x :: y :: ys else y :: insertLsid x ys

/-- The stores of a block that have fired, in LSID order. -/
def Frame.stores (f : Frame) : List (Nat × StoreRec) :=
  (f.fx.filterMap (fun e => match e.2 with
    | .store l r => some (l, r)
    | _ => none)).foldr insertLsid []

def outStores (out : List OutItem) : List StoreRec :=
  out.filterMap (fun e => match e with
    | .store r => some r
    | .rel _ => none)

/-- The strand's stores before LSID l of a block that are not yet at their homes, oldest first (R143). DEDUCED: notes/assumptions/25. -/
def State.storesBefore (s : State) (core f l : Nat) : List StoreRec :=
  let fr := s.frame core f
  (outStores (s.strand fr.sid).out).filter (fun r => !r.sent) ++
  (((s.olderFrames core f).reverse.map (fun g => (s.frame core g).stores.map (fun e => e.2))).flatten) ++
  ((fr.stores.filter (fun e => decide (e.1 < l))).map (fun e => e.2))

/-! ## Firing -/

/-- A load fires: it counts in the loads class, and waits for its home or a cache (R142). -/
def State.startLoad (s : State) (r : LoadRec) : State :=
  let s1 := s.modCur (fun f => { (f.fire s.fSlot) with loads := f.loads ++ [r] })
  s1.modStrand s.curSid (fun x => { x with ldc := x.ldc + 1 })

def State.fireLd (s : State) (lsid ag : BitVec 5) (z : Nat) (sx : Bool) : State :=
  let cl := s.curCluster
  let r := agnRec (s.agn (s.strandAgn s.curSid ag.toNat)).words
  let base : LoadRec := { slot := s.fSlot, lsid := lsid.toNat, n := z, sx := sx, bank := r.port == 4, ag := ag.toNat }
  match s.reach cl s.fCore r .load s.opL z with
  | .fault c a => s.stopAt c a (some ag.toNat)
  | .home a =>
    if s.curStrand.ldc ≥ 63 then s else s.startLoad { base with place := .home a, struct := s.isStruct a }
  | .virt va =>
    if s.curStrand.ldc ≥ 63 then s
    else match s.xlateCached (clusterQuarter cl) s.curJob va false false with
      | some (.error c) => s.stopAt c (BitVec.ofNat 64 va) (some ag.toNat)
      | some (.ok pl) => s.startLoad { base with place := pl, va := BitVec.ofNat 64 va }
      | none => (s.startLoad { base with walk := true, va := BitVec.ofNat 64 va }).askWalk (clusterQuarter cl)
          { asid := s.curJob, va := va, core := s.fCore, frame := s.fFrame, slot := s.fSlot, agn := ag.toNat }

/-- LD (R142). -/
def execLd (p : Pr) (lsid ag : BitVec 5) (sz : BitVec 2) (sx : Bool) (ta : Tgt) (s : State) : Res :=
  fireAct p .l [ta] (fun s => s.fireLd lsid ag (sizeBytes sz) sx) s

/-- A store that fires after a later load of its strand has read the same bytes: that load's block re-executes (R143). DEDUCED: notes/assumptions/25. -/
def State.orderCheck (s : State) (core f lsid : Nat) (r : StoreRec) : State :=
  let fr := s.frame core f
  let late (g : Nat) : Bool := (s.frame core g).loads.any (fun l =>
    decide (l.stage ≥ 1) && overlaps r l.place l.n && (g != f || decide (l.lsid > lsid))) ||
    (g != f && (s.frame core g).reads.any (fun x => x.places.any (fun p => overlaps r p.1 p.2)))
  let mine := (s.framesOf fr.sid).filter (fun g => decide (fr.seq ≤ (s.frame core g).seq))
  match mine.find? late with
  | some g => s.abortFrom core g
  | none => s

def State.storeAs (s : State) (lsid : Nat) (r : StoreRec) : State :=
  (s.resolve (.store lsid r)).orderCheck s.fCore s.fFrame lsid r

def State.fireSt (s : State) (lsid ag : BitVec 5) (z : Nat) (na : Bool) : State :=
  let cl := s.curCluster
  let r := agnRec (s.agn (s.strandAgn s.curSid ag.toNat)).words
  let e := s.tensor s.curJob r.tid
  let base : StoreRec := { n := z, v := s.opR, na := na || r.port != 4, bank := r.isWindow, off := s.opL,
                           cls := treuse e, rk := trk e }
  match s.reach cl s.fCore r .store s.opL z with
  | .fault c a => s.stopAt c a (some ag.toNat)
  | .home a =>
    if s.isStruct a && s.structWritten a then s.stopAt causeRewrite s.opL (some ag.toNat)
    else s.storeAs lsid.toNat { base with place := .home a, struct := s.isStruct a }
  | .virt va => match s.xlateCached (clusterQuarter cl) s.curJob va true false with
    | some (.error c) => s.stopAt c (BitVec.ofNat 64 va) (some ag.toNat)
    | some (.ok pl) => s.storeAs lsid.toNat { base with place := pl, va := va }
    | none => s.askWalk (clusterQuarter cl)
        { asid := s.curJob, va := va, write := true, core := s.fCore, frame := s.fFrame, slot := s.fSlot, agn := ag.toNat }

/-- ST (R144). -/
def execSt (p : Pr) (lsid ag : BitVec 5) (sz : BitVec 2) (na : Bool) (s : State) : Res :=
  fireSide p .lr (fun s => s.fireSt lsid ag (sizeBytes sz) na) s

/-! ## Caches on the way (R298) -/

/-- The version of a line as its home has it now. -/
def State.versionOf (s : State) (root : Nat) (pl : Place) (wts rts : Nat) : Version :=
  { valid := true, line := placeLine pl, bytes := s.lineImage root pl, wts := wts, rts := rts }

def placeIsHbm (pl : Place) : Bool :=
  match pl with
  | .home a => decide (a < 2 ^ 60)
  | .maj _ _ => true

/-- A core and, through a cache window, its cluster's bank take a version of a line. DEDUCED: notes/assumptions/26; DESIGN CHOICE: notes/assumptions/27. -/
def State.fillLine (s : State) (core : Nat) (pl : Place) (wts rts : Nat) (bank alloc : Bool) (cls k : Nat) : State :=
  if !placeIsHbm pl then s
  else
    let cl := coreCluster core
    let v := s.versionOf (s.partOfCluster cl) pl wts rts
    let s1 := (s.leasePut core v).tickUp
    if bank then s1.bankPut cl cls k 0xFFFF alloc v else s1

/-- PREF (R145): the line is brought into the caches where nothing stands against it; no fault, no other effect. -/
def State.prefetch (s : State) (ag : BitVec 5) : State :=
  let cl := s.curCluster
  let r := agnRec (s.agn (s.strandAgn s.curSid ag.toNat)).words
  let e := s.tensor s.curJob r.tid
  match s.reach cl s.fCore r .load s.opL 1 with
  | .virt va => match s.xlateCached (clusterQuarter cl) s.curJob va false false with
    | some (.ok (.home a)) =>
      if (s.line a).poison then s
      else
        let (_, s1) := s.homeRead a s.curStrand.pts
        s1.fillLine s.fCore (.home a) (s1.line a).wts (s1.line a).rts (r.port == 4) true (treuse e) (trk e)
    | _ => s
  | _ => s

/-- PREF (R145). -/
def execPref (p : Pr) (_lsid ag : BitVec 5) (s : State) : Res :=
  fireAct p .l [] (fun s => (s.prefetch ag).modCur (fun f => f.fire s.fSlot)) s

/-! ## Loads at their homes and back -/

/-- The load of a slot. -/
def Frame.loadAt (f : Frame) (i : Nat) : Option LoadRec := f.loads.find? (fun l => l.slot == i)
def Frame.modLoad (f : Frame) (i : Nat) (g : LoadRec → LoadRec) : Frame :=
  { f with loads := f.loads.map (fun l => if l.slot == i then g l else l) }

/-- The class and k that an access through an AGN allocates with (R138). -/
def State.agnReuse (s : State) (sid ag : Nat) : Nat × Nat :=
  let e := s.tensor (s.strand sid).who.job (agnRec (s.agn (s.strandAgn sid ag)).words).tid
  (treuse e, trk e)

/-- Deferred reads that a structure tile holds (R137). -/
def State.deferredIn (s : State) (a : Nat) : Nat :=
  (s.mem.defer.filter (fun d => (d.addr - 2 ^ 61) / 2 ^ 19 == (a - 2 ^ 61) / 2 ^ 19)).length

/-- A load performed at its home at address a (R295). -/
def State.performLoad (s : State) (core f : Nat) (l : LoadRec) (a : Nat) : State :=
  let x := s.strand (s.frame core f).sid
  let (_, s1) := s.homeRead a x.pts
  let v := overlay (s.storesBefore core f l.lsid) l.place l.n (s.readLE a l.n)
  let s2 := s1.modFrame core f (fun g => g.modLoad l.slot (fun y => { y with
    stage := 1, v := BitVec.ofNat 64 v, wts := (s1.line a).wts, rts := (s1.line a).rts, home := true }))
  let (cls, k) := s.agnReuse (s.frame core f).sid l.ag
  s2.fillLine core l.place (s1.line a).wts (s1.line a).rts l.bank true cls k

/-- HOME_READ: the load of a slot reaches its home (R137, R290, R295, R432). -/
def State.loadAtHome (s : State) (core f i : Nat) : State :=
  let fr := s.frame core f
  match fr.loadAt i with
  | none => s
  | some l =>
    if l.stage != 0 || l.walk then s
    else match l.place with
      | .home a =>
        if l.struct && !s.structWritten a then
          if s.mem.defer.contains { addr := a, core := core, frame := f, slot := i } || s.deferredIn a ≥ 1024 then s
          else s.onMem (fun m => { m with defer := m.defer ++ [{ addr := a, core := core, frame := f, slot := i }] })
        else if (s.line a).poison then
          s.modFrame core f (fun g => g.modLoad i (fun y => { y with stage := 1, ue := true }))
        else s.performLoad core f l a
      | .maj ss a =>
        if l.majOp != 0 then s
        else
          let (k, s1) := s.majStart { sid := fr.sid, frame := f, slot := i, job := (s.strand fr.sid).who.job,
                                      va := l.va.toNat, sset := ss, addr := cellAddr a, off := a % 64, n := l.n,
                                      pts := (s.strand fr.sid).pts }
          (s1.modFrame core f (fun g => g.modLoad i (fun y => { y with majOp := k }))).majLost k

/-- HOME_READ. DEDUCED: notes/assumptions/26. -/
def execHomeRead (core frame slot : Nat) (s : State) : Res := .next (s.loadAtHome core frame slot)

/-- The token that a load sends (R20, R142). -/
def loadToken (l : LoadRec) : Word :=
  if l.sx then BitVec.ofInt 64 (toSigned (8 * l.n) l.v.toNat) else BitVec.ofNat 64 (l.v.toNat % 2 ^ (8 * l.n))

/-- The target that a load's word names. -/
def loadTargets (sl : Slot) : List Tgt :=
  match slotInstr sl with
  | some i => targetsOf i
  | none => []

/-- A load's value comes back: it leaves the loads class and its token goes out (R142, R146). -/
def State.returnLoad (s : State) (core f : Nat) (l : LoadRec) : State :=
  let s1 := s.modFrame core f (fun g =>
    (g.modLoad l.slot (fun _ => { l with stage := 2 })).send (.val (loadToken l)) (loadTargets (g.slot l.slot)))
  s1.modStrand (s.frame core f).sid (fun x => { x with ldc := x.ldc - 1 })

/-- Record an uncorrectable error that has been consumed at a home (R432 to R435). DESIGN CHOICE: notes/assumptions/31, 87. -/
def State.consumeUe (s : State) (root : Nat) (pl : Place) : State :=
  let s1 := s.bumpUe root
  match pl with
  | .home a =>
    if a ≥ 2 ^ 61 then s1.errRecord root 2 1 ((a - 2 ^ 61) / 2 ^ 23) ((a - 2 ^ 61) / 2 ^ 19 % 16) (a % 2 ^ 19) 0
    else if a ≥ 2 ^ 60 then s1.errRecord root 2 0 ((a - 2 ^ 60) / 2 ^ 23) ((a - 2 ^ 60) / 2 ^ 20 % 8) (a % 2 ^ 20) 0
    else s1.errRecord root 2 4 63 (a / 2 ^ 48) (a % 2 ^ 48) 0
  | .maj _ a => s1.errRecord root 2 4 63 0 a 0

/-- A load that lost its data traps UE (R276, R326). -/
def State.loadUe (s : State) (core f : Nat) (l : LoadRec) : State :=
  let sid := (s.frame core f).sid
  let s1 := s.consumeUe (s.partOfCluster (coreCluster core)) l.place
  let s2 := s1.modFrame core f (fun g => (g.modLoad l.slot (fun y => { y with stage := 2 })).hold
    { cause := causeUe, slot := some l.slot, agn := some l.ag, arg := l.va })
  s2.modStrand sid (fun x => { x with ldc := x.ldc - 1 })

/-- A pending load served by a version that its core or its cluster's bank holds (R298). -/
def State.loadHit (s : State) (core f : Nat) (l : LoadRec) : State :=
  let p := (s.strand (s.frame core f).sid).pts
  let line := placeLine l.place
  let serve (st : State) (v : Version) : State :=
    let raw := leNatFrom v.bytes (placeOff l.place) l.n
    let w := overlay (s.storesBefore core f l.lsid) l.place l.n raw
    st.returnLoad core f { l with v := BitVec.ofNat 64 w, wts := v.wts, rts := v.rts }
  match s.leaseFind core line p with
  | some v => serve s v
  | none =>
    if !l.bank then s
    else match s.bankFind (coreCluster core) line p with
      | none => s
      | some v => serve (((s.bankTouch (coreCluster core) line).leasePut core v).tickUp) v

/-- LOAD_RETURN: what has arrived for a load is sent on; a load whose bytes the strand's own stores all hold, or that a
held version serves, needs no home (R142, R143, R298). -/
def State.loadReturn (s : State) (core f i : Nat) : State :=
  let fr := s.frame core f
  match fr.loadAt i with
  | none => s
  | some l =>
    let mine := s.storesBefore core f l.lsid
    if l.walk || decide (l.stage ≥ 2) then s
    else if l.stage = 1 then (if l.ue then s.loadUe core f l else s.returnLoad core f l)
    else if l.majOp != 0 then
      let o := s.majOp l.majOp
      if !o.done then s
      else if o.lost then (s.majTake l.majOp).loadUe core f l
      else
        let v := overlay mine l.place l.n (imgBytes o.img (placeOff l.place) l.n)
        let s1 := s.majTake l.majOp
        let (cls, k) := s.agnReuse fr.sid l.ag
        let s2 := s1.fillLine core l.place o.ts o.rts l.bank true cls k
        s2.returnLoad core f { l with v := BitVec.ofNat 64 v, wts := o.ts, rts := o.rts, home := true, majOp := 0 }
    else if ownAll mine l.place l.n then
      s.returnLoad core f { l with v := BitVec.ofNat 64 (overlay mine l.place l.n 0), fwd := true }
    else if placeIsHbm l.place then s.loadHit core f l
    else s

/-- LOAD_RETURN. -/
def execLoadReturn (core frame slot : Nat) (s : State) : Res := .next (s.loadReturn core frame slot)

/-! ## Stores at their homes and back (R296, R299) -/

/-- Change a strand's context where a holder has it. -/
def State.onHolder (s : State) (sid : Nat) (h : Holder) (f : Strand → Strand) : State :=
  match h with
  | .ctx => s.modStrand sid f
  | .hold => s.setHeld sid .hold (f (s.heldBy sid .hold))
  | .saved => s.onContext (s.heldBy sid .saved).who f
  | .ghost n => s.setHeld sid (.ghost n) (f (s.heldBy sid (.ghost n)))

/-- A ghost with nothing left goes. -/
def State.tidyGhost (s : State) (h : Holder) : State :=
  match h with
  | .ghost n => if (tget s.core.ghosts n).out.isEmpty then s.onCores (fun c => { c with ghosts := tdel c.ghosts n }) else s
  | _ => s

/-- Position of the first store in a strand's released work. -/
def firstStoreIdx : List OutItem → Nat → Option (Nat × StoreRec)
  | [], _ => none
  | .store r :: _, i => some (i, r)
  | .rel _ :: xs, i => firstStoreIdx xs (i + 1)

/-- Every reader of a structure word that waits is answered with the word just written (R137). -/
def State.answerDeferred (s : State) (a : Nat) : State :=
  let mine := s.mem.defer.filter (fun d => d.addr == a)
  let s1 := s.onMem (fun m => { m with defer := m.defer.filter (fun d => d.addr != a) })
  mine.foldl (fun st d => match (st.frame d.core d.frame).loadAt d.slot with
    | some l => st.performLoad d.core d.frame l a
    | none => st) s1

/-- A store performed at its home by its strand at timestamp p (R137, R296): what it becomes and the state. DEDUCED: notes/assumptions/32. -/
def State.performStore (s : State) (who : Owner) (p : Nat) (r : StoreRec) : StoreRec × State :=
  match r.place with
  | .home a =>
    if r.struct then
      if s.structWritten a then ({ r with sent := true, ack := p }, s.post who 0xA0 3 (r.off.toNat % 2 ^ 48))
      else
        let (t, s1) := s.homeWrite a (leBytes r.n r.v.toNat) p (sidAgent who.sid)
        ({ r with sent := true, ack := t }, (s1.structMark a).answerDeferred a)
    else
      let (t, s1) := s.homeWrite a (leBytes r.n r.v.toNat) p (sidAgent who.sid)
      ({ r with sent := true, ack := t }, s1)
  | .maj ss a =>
    let (k, s1) := s.majStart { write := true, sid := who.sid, job := who.job, va := r.va, sset := ss, addr := cellAddr a,
                                off := a % 64, n := r.n, v := r.v, pts := p }
    ({ r with sent := true, op := k }, s1)

/-- The first holder of a strand's released work for which a step can be taken. -/
def State.firstHolder (s : State) (sid : Nat) (f : Holder → Option State) : State :=
  match (s.holders sid).findSome? f with
  | some s' => s'
  | none => s

/-- Another majority write of the same cell by the same agent is in progress: the write waits (R310). -/
def State.majBusy (s : State) (sid : Nat) (r : StoreRec) : Bool :=
  match r.place with
  | .home _ => false
  | .maj ss a => s.mem.majOps.any (fun e =>
      e.2.write && !e.2.done && e.2.sid == sid && e.2.sset == ss && e.2.addr == cellAddr a)

/-- HOME_WRITE: the strand's first unacknowledged store reaches its home, if it has not yet (R299). DEDUCED: notes/assumptions/32. -/
def State.storeAtHome (s : State) (sid : Nat) : State :=
  s.firstHolder sid (fun h =>
    let x := s.heldBy sid h
    match firstStoreIdx x.out 0 with
    | none => none
    | some (i, r) =>
      if r.sent || s.majBusy sid r then none
      else
        let (r', s1) := s.performStore x.who x.pts r
        some ((s1.onHolder sid h (fun y => { y with out := listSet y.out i (.store r') })).majLost r'.op))

/-- HOME_WRITE. -/
def execHomeWrite (sid : Nat) (s : State) : Res := .next (s.storeAtHome sid)

/-- Take out the element at a position. -/
def listDrop {α : Type} : List α → Nat → List α
  | [], _ => []
  | _ :: xs, 0 => xs
  | x :: xs, n + 1 => x :: listDrop xs n

/-- The caches that an acknowledged store updates (R298). DEDUCED: notes/assumptions/26. -/
def State.storeFill (s : State) (core : Nat) (r : StoreRec) (t : Nat) : State :=
  if !r.bank then s
  else match r.place with
    | .home a => s.fillLine core r.place (s.line a).wts (s.line a).rts true (!r.na) r.cls r.rk
    | .maj _ _ => s.fillLine core r.place t t true (!r.na) r.cls r.rk

/-- STORE_ACK: the acknowledgement raises the strand's PTS, wherever its context lies, and the store leaves the stores class
and the termination counters (R146, R296, R303). -/
def State.storeAcked (s : State) (sid : Nat) : State :=
  s.firstHolder sid (fun h =>
    let x := s.heldBy sid h
    match firstStoreIdx x.out 0 with
    | none => none
    | some (i, r) =>
      let o := s.majOp r.op
      if !r.sent || (r.op != 0 && !o.done) then none
      else
        let t := if r.op != 0 then o.ts else r.ack
        let s1 := if r.op != 0 then s.majTake r.op else s
        let s2 := s1.onHolder sid h (fun y => { y with pts := max y.pts t, stc := y.stc - 1, out := listDrop y.out i })
        let s3 := s2.storeFill x.who.core r t
        some ((s3.countDown x.who t).tidyGhost h))

/-- STORE_ACK. -/
def execStoreAck (sid : Nat) (s : State) : Res := .next (s.storeAcked sid)

/-! ## The copies' messages -/

/-- COPY_PROBE (R290). -/
def execCopyProbe (op copy : Nat) (s : State) : Res := .next (s.copyProbe op copy)
/-- COPY_WRITE (R290). -/
def execCopyWrite (op copy : Nat) (s : State) : Res := .next (s.copyWrite op copy)
/-- COPY_READ (R291). -/
def execCopyRead (op copy : Nat) (s : State) : Res := .next (s.copyRead op copy)
/-- COPY_REPAIR (R292). -/
def execCopyRepair (op copy : Nat) (s : State) : Res := .next (s.copyRepair op copy)
/-- MAJ_ANSWER (R290, R291, R326). -/
def execMajAnswer (op copy : Nat) (s : State) : Res := .next (s.majAnswer op copy)

/-! ## Page walks (R452 to R454) -/

/-- A walk's answer reaches a load or store that waited for it (R275). -/
def State.walkAnswer (s : State) (w : Walk) (r : Except Nat Place) : State :=
  s.modFrame w.core w.frame (fun f =>
    match r with
    | .ok pl => f.modLoad w.slot (fun l => if l.walk then { l with walk := false, place := pl } else l)
    | .error c =>
      ((f.fire w.slot).modLoad w.slot (fun l => { l with walk := false, stage := 2 })).hold
        { cause := c, slot := some w.slot, agn := some w.agn, arg := BitVec.ofNat 64 w.va })

/-- A load that a failed walk ended leaves the loads class. -/
def State.walkFailed (s : State) (w : Walk) : State :=
  let f := s.frame w.core w.frame
  match f.loadAt w.slot with
  | some l => if l.walk then s.modStrand f.sid (fun x => { x with ldc := x.ldc - 1 }) else s
  | none => s

/-- A completed walk answers every miss it covers. DEDUCED: notes/assumptions/30. -/
def State.walkDone (s : State) (q n : Nat) : State :=
  match (tget s.acc.walks q)[n]? with
  | none => s
  | some w =>
    let root := s.partOf q
    let found := s.walk root w.asid w.va
    let same (x : Walk) : Bool := match found with
      | none => x.asid == w.asid && x.va / 2 ^ 16 == w.va / 2 ^ 16
      | some (b, _) => x.asid == w.asid && x.va / 2 ^ b == w.va / 2 ^ b
    let mine := (tget s.acc.walks q).filter same
    let s1 := s.onAcc (fun a => { a with
      walks := tset a.walks q ((tget a.walks q).filter (fun x => !same x)),
      tlb := match found with
        | none => a.tlb
        | some (b, leaf) => tset a.tlb q ({ asid := w.asid, base := w.va / 2 ^ b, bits := b, leaf := leaf } :: tget a.tlb q) })
    mine.foldl (fun st x =>
      let r : Except Nat Place := match found with
        | none => .error causeMiss
        | some (b, leaf) => st.leafAccess root b x.va leaf x.write false
      match r with
      | .ok pl => st.walkAnswer x (.ok pl)
      | .error c => (st.walkFailed x).walkAnswer x (.error c)) s1

/-- PAGE_WALK_DONE. -/
def execPageWalkDone (q walk : Nat) (s : State) : Res := .next (s.walkDone q walk)

end Sys2Proof.Machine
end

