-- ==== Sys2Proof/Machine/StreamOps.lean ====
section
/-! DEFINITION. Machine/StreamOps.lean: elements read and written through address generators, block headers, the building of a
cell from memory, token-FIFO buffers, and the window of live iteration tags (spec/06 R132, R137 to R139, R148, R156, spec/09
R204, spec/11 R228). -/

namespace Sys2Proof.Machine

/-! ## Pieces of an access: each within one line and one page -/

/-- The places of n bytes from address a of an AGN. -/
def State.pieces (s : State) (cl core job : Nat) (r : AgnRec) (a : Int) (n : Nat) (write : Bool) :
    Except Nat (List (Place × Nat)) :=
  if a % 64 + (n : Int) ≤ 64 then
    match s.agnPlace cl core job r a n write with
    | .error c => .error c
    | .ok p => .ok [(p, n)]
  else
    (List.range n).foldr (fun (i : Nat) acc => match acc, s.agnPlace cl core job r (a + (i : Int)) 1 write with
      | .ok l, .ok p => .ok ((p, 1) :: l)
      | _, .error c => .error c
      | .error c, _ => .error c) (.ok [])

/-- The places of n bytes from a virtual address of a job. DEDUCED: notes/assumptions/30. -/
def State.vaPieces (s : State) (q job va n : Nat) (write : Bool) : Except Nat (List (Place × Nat)) :=
  if va % 64 + n ≤ 64 then
    match s.xlate q job va write false with
    | .error c => .error c
    | .ok p => .ok [(p, n)]
  else
    (List.range n).foldr (fun i acc => match acc, s.xlate q job (va + i) write false with
      | .ok l, .ok p => .ok ((p, 1) :: l)
      | _, .error c => .error c
      | .error c, _ => .error c) (.ok [])

/-- What has been read: the bytes as a number, the access timestamp, the newest write and the shortest lease. -/
structure Got where
  v     : Nat := 0
  t     : Nat := 0
  wts   : Nat := 0
  lease : Nat := 2 ^ 48
  deriving DecidableEq, Repr

/-- Cause 0: the access must wait (an unwritten structure word, R137). -/
def causeWait : Nat := 0

/-- One piece read at its home at timestamp p, a strand's own stores laid over it. -/
def State.readPiece (s : State) (root : Nat) (rs : List StoreRec) (p : Nat) (pl : Place) (n : Nat) :
    Except Nat (Got × State) :=
  let unwritten := match pl with
    | .home a => s.isStruct a && !s.structWritten a
    | .maj _ _ => false
  if unwritten then .error causeWait
  else match s.engRead root pl n p with
    | .error c => .error c
    | .ok (v, t, s1) =>
      let (w, l) := match pl with
        | .home a => ((s1.line a).wts, (s1.line a).rts)
        | .maj _ _ => (t, t + leaseTicks)
      .ok ({ v := overlay rs pl n v, t := t, wts := w, lease := l }, s1)

/-- Pieces read in order. -/
def State.readPieces (s : State) (root : Nat) (rs : List StoreRec) (p : Nat) :
    List (Place × Nat) → Except Nat (Got × State)
  | [] => .ok ({ t := p }, s)
  | (pl, n) :: ps => match s.readPiece root rs p pl n with
    | .error c => .error c
    | .ok (g, s1) => match s1.readPieces root rs p ps with
      | .error c => .error c
      | .ok (h, s2) =>
        .ok ({ v := g.v + 2 ^ (8 * n) * h.v, t := max g.t h.t, wts := max g.wts h.wts, lease := min g.lease h.lease }, s2)

/-- A cluster's bank takes the version that an engine's access through a cache window has met (R138, R139). DESIGN CHOICE: notes/assumptions/27. -/
def State.engFill (s : State) (cl job ecls : Nat) (r : AgnRec) (na : Bool) (pl : Place) : State :=
  if r.port != 4 || !placeIsHbm pl then s
  else
    let e := s.tensor job r.tid
    let (w, l) := match pl with
      | .home a => ((s.line a).wts, (s.line a).rts)
      | .maj _ _ => (0, 0)
    (s.bankPut cl (treuse e) (trk e) (s.wayMask cl ecls) (!na) (s.versionOf (s.partOfCluster cl) pl w l)).tickUp

def AgnRec.ebytes (r : AgnRec) : Nat := max 1 (r.ebits / 8)

/-- A 4-bit element's place in its byte (R80, R131). -/
def AgnRec.nibble (r : AgnRec) (n : Nat) : Nat := n % r.ext.getD 3 1 % 2

/-- Element n read through an AGN at timestamp p (R132). The failing cause comes with the offset or address it names. -/
def State.readElem (s : State) (cl core job ecls : Nat) (r : AgnRec) (rs : List StoreRec) (p n : Nat) :
    Except (Nat × Word) (Got × List (Place × Nat) × State) :=
  match r.addr n with
  | none => .error (causeBound, BitVec.ofNat 64 n)
  | some a => match s.pieces cl core job r a r.ebytes false with
    | .error c => .error (c, if c = causeBound then BitVec.ofNat 64 n else BitVec.ofInt 64 a)
    | .ok ps => match s.readPieces (s.partOfCluster cl) rs p ps with
      | .error c => .error (c, BitVec.ofInt 64 a)
      | .ok (g, s1) =>
        let v := if r.esz = 0 then bits g.v (4 * r.nibble n) 4 else g.v
        .ok ({ g with v := v }, ps, ps.foldl (fun st x => st.engFill cl job ecls r false x.1) s1)

/-- Elements read in order; none reads as zero. -/
def State.readElems (s : State) (cl core job ecls : Nat) (r : AgnRec) (rs : List StoreRec) (p : Nat) :
    List (Option Nat) → Except (Nat × Word) (List Nat × Got × List (Place × Nat) × State)
  | [] => .ok ([], { t := p }, [], s)
  | o :: os => match o with
    | none => match s.readElems cl core job ecls r rs p os with
      | .error c => .error c
      | .ok (vs, h, qs, s2) => .ok (0 :: vs, h, qs, s2)
    | some n => match s.readElem cl core job ecls r rs p n with
      | .error c => .error c
      | .ok (g, ps, s1) => match s1.readElems cl core job ecls r rs p os with
        | .error c => .error c
        | .ok (vs, h, qs, s2) =>
          .ok (g.v :: vs, { v := 0, t := max g.t h.t, wts := max g.wts h.wts, lease := min g.lease h.lease }, ps ++ qs, s2)

/-! ## Block headers (R228) -/

/-- Blocks that hold some elements of a tensor, in order of first appearance: their header addresses. -/
def headerVas (e : BitVec 256) (os : List Nat) : List Nat :=
  let k := text e 3
  if tblk e = 0 || k = 0 then []
  else os.foldl (fun acc n =>
    let va := (tsbase e + 2 * (n / k * ((k + 31) / 32) + n % k / 32)) % 2 ^ 57
    if acc.contains va then acc else acc ++ [va]) []

/-- Headers read at timestamp p. -/
def State.readHeaders (s : State) (cl job : Nat) (rs : List StoreRec) (p : Nat) :
    List Nat → Except (Nat × Word) (List Nat × Got × List (Place × Nat) × State)
  | [] => .ok ([], { t := p }, [], s)
  | va :: vs => match s.vaPieces (clusterQuarter cl) job va 2 false with
    | .error c => .error (c, BitVec.ofNat 64 va)
    | .ok ps => match s.readPieces (s.partOfCluster cl) rs p ps with
      | .error c => .error (c, BitVec.ofNat 64 va)
      | .ok (g, s1) => match s1.readHeaders cl job rs p vs with
        | .error c => .error c
        | .ok (hs, h, qs, s2) =>
          .ok (g.v :: hs, { v := 0, t := max g.t h.t, wts := max g.wts h.wts, lease := min g.lease h.lease }, ps ++ qs, s2)

/-! ## Token-FIFO buffers (R12, R156) -/

/-- Key of the pipe or circular buffer behind a token-FIFO AGN. -/
def fifoKey (cl : Nat) (r : AgnRec) : Nat := (cl * 16 + r.tile) * 2 ^ 19 + r.base % 2 ^ 19
/-- Its capacity in 64-bit words: what the pipe declares, otherwise the AGN's shape. -/
def State.fifoWords (s : State) (cl : Nat) (r : AgnRec) : Nat :=
  let w := (s.pipe (fifoKey cl r)).words
  if w != 0 then w else r.count * r.ebits / 64
def Pipe.freeWords (p : Pipe) (cap : Nat) : Nat := cap - p.q.length
/-- Words a message's cells add (R156). -/
def messageWords (cnt : Nat) : Nat := 16 * (if cnt = 0 then 1 else cnt)

/-- Put words at a pipe's tail: their numbers, and the pipe. DEDUCED: notes/assumptions/60. -/
def Pipe.put (p : Pipe) (vs : List Word) (stamp : Nat) (vis : Bool) : List Nat × Pipe :=
  let ids := (List.range vs.length).map (fun i => p.next + i)
  (ids, { p with
    q := p.q ++ (vs.zip ids).map (fun x => { id := x.2, v := x.1, stamp := stamp, vis := vis }),
    next := p.next + vs.length })

/-- The first words not taken. DEDUCED: notes/assumptions/60. -/
def Pipe.ready (p : Pipe) : List PipeWord := p.q.filter (fun w => !w.taken)
/-- Take words by number: they stay until their block commits. -/
def Pipe.take (p : Pipe) (ids : List Nat) : Pipe :=
  { p with q := p.q.map (fun w => if ids.contains w.id then { w with taken := true } else w) }
def Pipe.drop (p : Pipe) (ids : List Nat) : Pipe := { p with q := p.q.filter (fun w => !ids.contains w.id) }

/-- The first n visible words, in order; none where fewer stand ready (R21). -/
def Pipe.peek (p : Pipe) (n : Nat) : Option (List PipeWord) :=
  let ws := p.ready.take n
  if ws.length = n && ws.all (·.vis) then some ws else none

/-! ## Building a cell (R148) -/

def isBarCell (c : Cell) : Bool := isBarrierCop c.cop.toNat

/-- The elements a cell of an AGN takes: offset off onward, absent past the shape. -/
def cellElems (r : AgnRec) (off : Nat) : List (Option Nat) :=
  (List.range r.perCell).map (fun j => if off + j < r.count then some (off + j) else none)

/-- The mask of present elements. -/
def presentCar (os : List (Option Nat)) : BitVec 128 := maskCar ((os.take 128).map Option.isSome)

/-- Sidecar headers packed low first. -/
def headerCar (hs : List Nat) : BitVec 128 :=
  BitVec.ofNat 128 (hs.foldr (fun h acc => h % 65536 + 65536 * acc) 0)

/-- Fill a header's payload and sidecar from memory at timestamp p (R148): with SIDE 63 the elements past the shape are
absent; otherwise they are an error, but for a stream's last cell (`tail`), whose elements past the shape are zero. -/
def State.fillCell (s : State) (cl core job : Nat) (r : AgnRec) (rs : List StoreRec) (p off : Nat) (c : Cell)
    (tail : Bool) : Except (Nat × Word) (Cell × Got × List (Place × Nat) × State) :=
  let os := cellElems r off
  let side := c.side.toNat
  let missing := os.findIdx? (fun o => o.isNone)
  match (if side = 63 || tail then none else missing) with
  | some j => .error (causeBound, BitVec.ofNat 64 (off + j))
  | none => match s.readElems cl core job (c.cop.toNat / 128) r rs p os with
    | .error e => .error e
    | .ok (vs, g, ps, s1) =>
      let c1 := { c with pay := packElems r.ebits vs }
      if side = 63 then .ok ({ c1 with car := presentCar os }, g, ps, s1)
      else if side = 0 || side > 8 then .ok ({ c1 with car := 0 }, g, ps, s1)
      else match s1.readHeaders cl job rs p ((headerVas (s.tensor job r.tid) (os.filterMap id)).take side) with
        | .error e => .error e
        | .ok (hs, h, qs, s2) =>
          .ok ({ c1 with car := headerCar hs },
               { v := 0, t := max g.t h.t, wts := max g.wts h.wts, lease := min g.lease h.lease }, ps ++ qs, s2)

/-- A cell whose payload comes from a token-FIFO tile: sixteen words. -/
def fifoCell (c : Cell) (ws : List PipeWord) : Cell :=
  { c with pay := packElems 64 (ws.map (fun w => w.v.toNat)),
           car := if c.side.toNat = 63 then maskCar ((List.range 16).map (fun _ => true)) else 0 }

/-! ## Elements written through an AGN -/

/-- One piece written at its home as a store at timestamp p (R296, R318). -/
def State.writePiece (s : State) (root : Nat) (p wid : Nat) (pl : Place) (n v : Nat) : Except Nat (Nat × State) :=
  match pl with
  | .home a =>
    if s.isStruct a then
      if s.structWritten a then .error causeRewrite
      else match s.engWrite root pl n v p wid with
        | .error c => .error c
        | .ok (t, s1) => .ok (t, (s1.structMark a).answerDeferred a)
    else s.engWrite root pl n v p wid
  | .maj _ _ => s.engWrite root pl n v p wid

def State.writePieces (s : State) (root : Nat) (p wid : Nat) : List (Place × Nat) → Nat → Except Nat (Nat × State)
  | [], _ => .ok (p, s)
  | (pl, n) :: ps, v => match s.writePiece root p wid pl n (v % 2 ^ (8 * n)) with
    | .error c => .error c
    | .ok (t, s1) => match s1.writePieces root p wid ps (v / 2 ^ (8 * n)) with
      | .error c => .error c
      | .ok (u, s2) => .ok (max t u, s2)

/-- A byte's current content, for a write of one of its halves. -/
def State.peekByte (s : State) (root : Nat) (pl : Place) : Nat :=
  ((s.lineImage root pl).getD (placeOff pl) 0).toNat

/-- Element n written through an AGN at timestamp p by agent wid: its timestamp and the state after. -/
def State.writeElem (s : State) (cl core job ecls : Nat) (r : AgnRec) (p wid n v : Nat) (na : Bool) :
    Except Nat (Nat × State) :=
  match r.addr n with
  | none => .error causeBound
  | some a => match s.pieces cl core job r a r.ebytes true with
    | .error c => .error c
    | .ok ps =>
      let root := s.partOfCluster cl
      let w := match r.esz, ps with
        | 0, (pl, _) :: _ =>
          let old := s.peekByte root pl
          if r.nibble n = 0 then old / 16 * 16 + v % 16 else old % 16 + v % 16 * 16
        | _, _ => v
      match s.writePieces root p wid ps w with
      | .error c => .error c
      | .ok (t, s1) => .ok (t, ps.foldl (fun st x => st.engFill cl job ecls r na x.1) s1)

/-- A status for a cause met by a cell, copy or engine (R161). -/
def causeStatus (c : Nat) : Nat := if c = causeRewrite then 0xA0 else agnStatus c

/-! ## The window of live tags (R204) -/

/-- The cells of collectives, whose ITAG is a rank or a message's tag (R393), and those that write their data. -/
def isCollCop (c : Nat) : Bool := decide (0x390 ≤ c ∧ c ≤ 0x393)

/-- Cells that the window holds: all but control cells, MSAVE, MLOAD and image cells (R263), and the cells of collectives and
the scalar cells that ATOM and RED build, which name no tag. DEDUCED: notes/assumptions/64. -/
def windowed (m : MCell) : Bool :=
  !m.cell.cls && !isCollCop m.cell.cop.toNat && (match m.report with
    | .coll _ _ _ => false
    | _ => true) && m.cell.cop.toNat != 0x088 && m.cell.cop.toNat != 0x089 && (match m.report with
    | .drain _ c => decide (c < 4)
    | _ => true) &&
  !(m.cell.pos == 2 && (m.report == .strandOp true || m.report == .again true))

/-- Distance of a tag ahead of LO, modulo 2^24. -/
def Graph.ahead (g : Graph) (t : Nat) : Nat := (t + (2 ^ 24 - g.lo % 2 ^ 24)) % 2 ^ 24
/-- Below LO. -/
def Graph.stale (g : Graph) (t : Nat) : Bool := decide (g.ahead t ≥ 2 ^ 23)
/-- Every tag of a run is live. -/
def Graph.tagsLive (g : Graph) (t run : Nat) : Bool := decide (g.ahead t + run < g.adm - g.lo)

/-- Whether a cell may enter the market now: live, stale (it is then discarded), or outside the window's rule. DEDUCED: notes/assumptions/64. -/
def State.tagOk (s : State) (m : MCell) : Bool :=
  let g := s.graph m.who.job m.who.graph
  !windowed m || !g.bound || g.stale m.cell.itag.toNat || g.tagsLive m.cell.itag.toNat m.cell.run.toNat

/-- A source of a graph has released a cell with a tag. -/
def State.sourceSent (s : State) (job graph src tag : Nat) : State :=
  s.modGraph job graph (fun g =>
    let d := g.ahead tag
    if d ≥ 2 ^ 23 then g else { g with srcTop := tset g.srcTop src (max (tgetD 0 g.srcTop src) (g.lo + d + 1)) })

end Sys2Proof.Machine
end

