-- ==== Sys2Proof/Machine/LinkOps.lean ====
section
/-! DEFINITION. Machine/LinkOps.lean: Tsuax flits and link ends (spec/20 R401 to R405): the layout, the CRC, credits, sequence
numbers, replay, and sending a flit. -/

namespace Sys2Proof.Machine

/-- DESIGN CHOICE: notes/assumptions/96. -/
abbrev Flit := BitVec 2048

/-! ## Layout (R402) -/

def flitBits (f : Flit) (lo n : Nat) : Nat := bits f.toNat lo n
def flitDnode (f : Flit) : Nat := flitBits f 112 16
def flitSnode (f : Flit) : Nat := flitBits f 96 16
def flitVl (f : Flit) : Nat := flitBits f 93 3
def flitType (f : Flit) : Nat := flitBits f 88 5
def flitSeq (f : Flit) : Nat := flitBits f 76 12
def flitAck (f : Flit) : Nat := flitBits f 64 12
def flitCvl (f : Flit) : Nat := flitBits f 56 8
def flitCrn (f : Flit) : Nat := flitBits f 48 8
def flitJob (f : Flit) : Nat := flitBits f 36 12
/-- Word i of the body. -/
def flitWord (f : Flit) (i : Nat) : Nat := flitBits f (128 + 64 * i) 64
/-- n bytes of the body from byte i. -/
def flitBytes (f : Flit) (i n : Nat) : List Byte := (List.range n).map (fun k => BitVec.ofNat 8 (flitBits f (128 + 8 * (i + k)) 8))

/-- One bit step of CRC-32 (IEEE 802.3, reflected). -/
def crc32Bit (c : Nat) : Nat := if c % 2 = 1 then Nat.xor (c / 2) 0xEDB88320 else c / 2
def crc32Byte (c b : Nat) : Nat :=
  crc32Bit (crc32Bit (crc32Bit (crc32Bit (crc32Bit (crc32Bit (crc32Bit (crc32Bit (Nat.xor c b))))))))
def crc32Go (v : Nat) : Nat → Nat → Nat → Nat
  | 0, _, c => c
  | n + 1, i, c => crc32Go v n (i + 1) (crc32Byte c (bits v (8 * i) 8))
/-- CRC-32 over bytes 0 to n - 1 of a little-endian number. -/
def crc32 (v n : Nat) : Nat := Nat.xor (crc32Go v n 0 0xFFFFFFFF) 0xFFFFFFFF

/-- A flit's CRC holds, and the rest of its trailer is zero. -/
def flitCrcOk (f : Flit) : Bool := flitBits f 1920 96 == 0 && flitBits f 2016 32 == crc32 f.toNat 240

/-- A flit before the link end adds SEQ, ACK, credits and CRC: destination, source, lane, type, job, body. -/
def mkFlit (dnode snode vl typ job body : Nat) : Flit :=
  BitVec.ofNat 2048 (at' 112 (dnode % 65536) + at' 96 (snode % 65536) + at' 93 (vl % 8) + at' 88 (typ % 32) +
    at' 36 (job % 4096) + at' 128 (body % 2 ^ 1792))

/-- Lane of a type (R403); CELL flits take two lanes. -/
def typeLane (typ : Nat) : Nat :=
  if typ = 1 || typ = 2 then 2 else if typ = 3 || typ = 4 then 3 else if typ = 5 then 4 else if typ = 6 then 5
  else if typ = 7 then 6 else 0

/-! ## Link ends (R404) -/

def State.tsPort (s : State) (p : Nat) : TsPort := tget s.lnk.ts p
def State.modTs (s : State) (p : Nat) (f : TsPort → TsPort) : State := s.onLnk (fun l => { l with ts := tmod l.ts p f })

def TsPort.credits (t : TsPort) (lane : Nat) : Nat := tgetD 32 t.credit lane

/-- Lanes with credits to return, and how many each can be given at once. -/
def TsPort.grant (t : TsPort) : Nat × Nat :=
  let ls := (List.range 7).filter (fun v => tgetD 0 t.owed v != 0)
  let n := ls.foldl (fun m v => min m (tgetD 0 t.owed v)) 255
  (ls.foldl (fun m v => m + 2 ^ v) 0, if ls.isEmpty then 0 else n)

/-- Finish a flit with the link end's fields. -/
def finishFlit (f : Flit) (seq ack cvl crn : Nat) : Flit :=
  let v := f.toNat + at' 76 (seq % 4096) + at' 64 (ack % 4096) + at' 56 (cvl % 256) + at' 48 (crn % 256)
  BitVec.ofNat 2048 (v + at' 2016 (crc32 v 240))

/-- Send one waiting flit whose lane has a credit, lanes 0 and 6 first; none where none can go. -/
def TsPort.sendOne (t : TsPort) : Option TsPort :=
  let can (f : Flit) : Bool := decide (t.credits (flitVl f) > 0)
  let pick := match takeFirst (fun f => can f && (flitVl f == 0 || flitVl f == 6)) t.out with
    | some r => some r
    | none => takeFirst can t.out
  if t.replay.length ≥ 128 then none
  else match pick with
    | none => none
    | some (f, rest) =>
      let (cvl, crn) := t.grant
      let g := finishFlit f t.txSeq t.rxSeq cvl crn
      let v := flitVl f
      some { t with
        out := rest, txSeq := (t.txSeq + 1) % 4096, replay := t.replay ++ [g], sent := g :: t.sent,
        credit := tset t.credit v (t.credits v - 1),
        owed := t.owed.map (fun e => if bitOf cvl e.1 then (e.1, e.2 - crn) else e) }

/-- Send what can be sent. -/
def TsPort.pump : Nat → TsPort → TsPort
  | 0, t => t
  | n + 1, t => match t.sendOne with
    | none => t
    | some u => TsPort.pump n u

/-- Queue a flit at a port and send what can go. -/
def State.queueFlit (s : State) (port : Nat) (f : Flit) : State :=
  s.modTs port (fun t => TsPort.pump (t.out.length + 1) { t with out := t.out ++ [f] })

/-- The node identifier of a partition (R401, R459). -/
def State.nodeOf (s : State) (root : Nat) : Nat := wbits (s.part root).pnode 0 16

/-- Send a flit from a partition to a node. DESIGN CHOICE: notes/assumptions/96. -/
def State.sendFlit (s : State) (root dnode vl typ job body : Nat) : State :=
  s.queueFlit (Config.tsuaxPort dnode % 18) (mkFlit dnode (s.nodeOf root) vl typ job body)

/-- A body from its words. -/
def bodyWords (ws : List Nat) : Nat := ws.foldr (fun w acc => w % 2 ^ 64 + 2 ^ 64 * acc) 0

/-- Address that a byte offset in a peer's export window stands for in a request (R158, R409): the job's own window base is
added, since READ and WRITE flits carry virtual addresses (R403). DEDUCED: notes/assumptions/39. -/
def State.exportAddr (s : State) (job off : Nat) : Nat := ((s.job job).jexpb.toNat + off) % 2 ^ 57

/-- Ask a peer for n bytes: the READ flit, and what its answer is for (R403). DEDUCED: notes/assumptions/39. -/
def State.askPeer (s : State) (root node job addr n : Nat) (r : PeerReq) : State :=
  let tag := s.lnk.nextReq % 65536
  let s1 := s.onLnk (fun l => { l with nextReq := tag + 1, reqs := l.reqs ++ [{ r with tag := tag, len := n }] })
  s1.sendFlit root node 2 2 job (bodyWords [addr, tag * 65536 + n])

/-- Send a peer n bytes: the WRITE flit (R403). DEDUCED: notes/assumptions/39. -/
def State.tellPeer (s : State) (root node job addr : Nat) (bs : List Byte) (r : PeerReq) : State :=
  let tag := s.lnk.nextReq % 65536
  let n := bs.length
  let s1 := s.onLnk (fun l => { l with nextReq := tag + 1, reqs := l.reqs ++ [{ r with tag := tag, len := n }] })
  s1.sendFlit root node 2 1 job (bodyWords [addr, tag * 65536 + n] + at' 128 (leNat bs))

end Sys2Proof.Machine
end

