-- ==== Sys2Proof/Machine/WritePorts.lean ====
section
/-! DEFINITION. Machine/WritePorts.lean: write-port cells, coalescing and flushes, hand-over, circular buffers and taps (spec/06
R135, R156, spec/08 R189, R190, R466, spec/15 R318 to R322, spec/16 R336). -/

namespace Sys2Proof.Machine

/-! ## Taps (R336) -/

/-- The taps that watch an AGN: graph, index, declaration. -/
def State.tapsOf (s : State) (key : Nat) : List (Nat × Nat × TapDecl) :=
  match s.tagJob (agnCl key) (agnCtx key) with
  | none => []
  | some job => ((s.work.graphs.filter (fun e => e.1 / 65536 == job && e.2.bound)).map (fun e =>
      ((List.range e.2.img.taps.length).map (fun i => (e.1 % 65536, i, e.2.img.taps.getD i {}))).filter
        (fun t => t.2.2.cluster == agnCl key && t.2.2.agn == agnNo key))).flatten

def tapKey (job g i : Nat) : Nat := graphKey job g * 64 + i
def State.tap (s : State) (k : Nat) : TapSt := tget s.eng.taps k
def State.modTap (s : State) (k : Nat) (f : TapSt → TapSt) : State :=
  s.onEng (fun e => { e with taps := tmod e.taps k f })

/-- Agent of a tap's barrier cell: no strand's, so that the combining store reads a tap's index in ITAG. -/
def tapAgent : Nat := 3

/-- A tap sends a barrier cell: a member arrival (weight 0), a counted arrival, or an exit-arrival. DEDUCED: notes/assumptions/59. -/
def State.tapSend (s : State) (job g i : Nat) (d : TapDecl) (cop weight stamp : Nat) : State :=
  let x := s.graph job g
  match tgetD 0 x.bars d.bar with
  | 0 => s
  | b + 1 =>
    s.sendOut d.cluster 30
      { cell := s.barrierCell job b cop weight i 0, stamp := stamp, agent := tapAgent,
        who := { launch := x.launch, graph := g, job := job, core := d.cluster * 8 } }

/-- Counted arrivals for n cells, at most 255 each. -/
def State.tapCounts (s : State) (job g i : Nat) (d : TapDecl) (stamp : Nat) : Nat → Nat → State
  | 0, _ => s
  | fuel + 1, n =>
    if n = 0 then s
    else (s.tapSend job g i d 0x290 (min n 255) stamp).tapCounts job g i d stamp fuel (n - min n 255)

/-- The AGN has flushed, or a cell has been performed into a buffer or tile: its counted taps send what is covered. DEDUCED: notes/assumptions/59. -/
def State.tapFlushed (s : State) (key t : Nat) : State :=
  let job := (s.tagJob (agnCl key) (agnCtx key)).getD 0
  (s.tapsOf key).foldl (fun st x =>
    let k := tapKey job x.1 x.2.1
    let y := st.tap k
    if x.2.2.count && y.covered != 0 then
      (st.modTap k (fun z => { z with covered := 0, stamp := 0 })).tapCounts job x.1 x.2.1 x.2.2 (max y.stamp t)
        y.covered y.covered
    else st) s

/-! ## Flushing (R319, R320) -/

/-- Bytes of one line written at its home by R296 as one store. -/
def State.lineWrite (s : State) (root : Nat) (pl : Place) (bs : List (Nat × Byte)) (p wid : Nat) : Option (Nat × State) :=
  match pl with
  | .home a =>
    let l := s.line a
    let t := max p (l.rts + 1)
    let base := a / 64 * 64
    let s1 := bs.foldl (fun st b => st.setByte (base + b.1) b.2) s
    some (t, s1.setLine a { l with wts := t, rts := t, wid := wid,
                                   poison := l.poison && !(decide (bs.length ≥ 64)) })
  | .maj ss a =>
    let old := leBytes 64 (leNat (s.lineImage root pl))
    let new := bs.foldl (fun (l : List Byte) b => listSet l b.1 b.2) old
    s.majWrite root ss (cellAddr a) 0 64 (leNat new) p wid

/-- The agent a write port flushes as: the first strand of its graph's first strand set (R294, R171). -/
def State.flushAgent (s : State) (key : Nat) : Nat :=
  match s.reportSid (agnCl key) (agnCtx key) with
  | some sid => sidAgent sid
  | none => loaderAgent

/-- One line goes home at the AGN's stamp, and the stamp follows it. A line whose page has lost its majority is lost, and
the loss is posted (R326). -/
def State.flushLine (s : State) (key : Nat) (l : CoLine) : State :=
  let cl := agnCl key
  let a := s.agn key
  match s.lineWrite (s.partOfCluster cl) l.place l.bytes a.stamp (s.flushAgent key) with
  | none => match s.tagJob cl (agnCtx key) with
    | none => s
    | some job => (s.postReport cl (agnCtx key) 0x80 2 0).cancelJobFor (clusterQuarter cl) job 0x1A 2
        (s.flushAgent key / 32) (agnNo key) cl 0 0
  | some (t, s1) =>
    let s2 := s1.modAgn key (fun x => { x with stamp := max x.stamp t })
    match s.tagJob cl (agnCtx key) with
    | none => s2
    | some job => s2.engFill cl job 0 (agnRec a.words) false l.place

/-- Flush an AGN's whole buffer. DEDUCED: notes/assumptions/59. -/
def State.flushAll (s : State) (key : Nat) : State :=
  let ls := (s.agn key).buf
  let s1 := ls.foldl (fun st l => st.flushLine key l) (s.modAgn key (fun a => { a with buf := [] }))
  s1.tapFlushed key (s1.agn key).stamp

/-- Flush one line; a buffer that is then empty has flushed. -/
def State.flushOne (s : State) (key i : Nat) : State :=
  match (s.agn key).buf[i]? with
  | none => s
  | some l =>
    let s1 := (s.modAgn key (fun a => { a with buf := a.buf.take i ++ a.buf.drop (i + 1) })).flushLine key l
    if (s1.agn key).buf.isEmpty then s1.tapFlushed key (s1.agn key).stamp else s1

/-- AGN_FLUSH (R319): an AGN may flush any line at any time. DEDUCED: notes/assumptions/59. -/
def execAgnFlush (key line : Nat) (s : State) : Res := .next (s.flushOne key line)

/-! ## What a cell writes (R190, R466) -/

/-- One write of a cell: the place, its bytes, and which half of the byte for a 4-bit element. -/
structure PortWrite where
  place : Place
  n     : Nat
  v     : Nat
  nib   : Option Nat
  deriving DecidableEq, Repr

/-- The payload elements that a write-port cell writes. -/
def writtenElems (r : AgnRec) (c : Cell) : List Nat :=
  let k := r.perCell
  if c.side = 0 then List.range (min k (c.run.toNat + 1))
  else if c.side = 63 then (List.range (min k 128)).filter (fun j => c.present j)
  else List.range k

/-- Extents of a tensor multiplied out. -/
def tcount (e : BitVec 256) : Nat := text e 0 * text e 1 * text e 2 * text e 3

/-- Address of block header of element n (R228). -/
def headerVa (e : BitVec 256) (n : Nat) : Nat :=
  let k := text e 3
  (tsbase e + 2 * (n / k * ((k + 31) / 32) + n % k / 32)) % 2 ^ 57

/-- The writes of the elements js of a cell, with AGN_BOUND noted where one lies outside; the error is a fault or port
failure that stops the whole cell, and its address. -/
def State.elemWrites (s : State) (cl core job : Nat) (r : AgnRec) (c : Cell) :
    List Nat → Except (Nat × Nat) (List PortWrite × Nat)
  | [] => .ok ([], 0)
  | j :: js => match s.elemWrites cl core job r c js with
    | .error e => .error e
    | .ok (ws, st) =>
      let n := c.aux.toNat * r.perCell + j
      match r.addr n with
      | none => .ok (ws, causeStatus causeBound)
      | some a => match s.pieces cl core job r a r.ebytes true with
        | .error d => if d = causeBound then .ok (ws, causeStatus causeBound) else .error (d, a.toNat)
        | .ok ps =>
          let v := c.elem r.ebits j
          let one : List PortWrite := (ps.foldl (fun (acc : List PortWrite × Nat) p =>
            (acc.1 ++ [{ place := p.1, n := p.2, v := acc.2 % 2 ^ (8 * p.2),
                         nib := if r.esz = 0 then some (r.nibble n) else none }], acc.2 / 2 ^ (8 * p.2))) ([], v)).1
          .ok (one ++ ws, st)

/-- The writes of a cell's block headers. -/
def State.hdrWrites (s : State) (cl job : Nat) (r : AgnRec) (c : Cell) :
    List Nat → Except (Nat × Nat) (List PortWrite × Nat)
  | [] => .ok ([], 0)
  | h :: hs => match s.hdrWrites cl job r c hs with
    | .error e => .error e
    | .ok (ws, st) =>
      let e := s.tensor job r.tid
      let n := c.aux.toNat * r.perCell + 32 * h
      if n ≥ tcount e then .ok (ws, causeStatus causeBound)
      else match s.vaPieces (clusterQuarter cl) job (headerVa e n) 2 true with
        | .error d => .error (d, headerVa e n)
        | .ok ps =>
          let one : List PortWrite := (ps.foldl (fun (acc : List PortWrite × Nat) p =>
            (acc.1 ++ [{ place := p.1, n := p.2, v := acc.2 % 2 ^ (8 * p.2), nib := none }], acc.2 / 2 ^ (8 * p.2)))
              ([], c.hdr h)).1
          .ok (one ++ ws, st)

/-- All writes of a cell. -/
def State.portWrites (s : State) (cl core job : Nat) (r : AgnRec) (c : Cell) : Except (Nat × Nat) (List PortWrite × Nat) :=
  let side := c.side.toNat
  match s.elemWrites cl core job r c (writtenElems r c) with
  | .error e => .error e
  | .ok (ws, st) =>
    if side = 0 || side > 8 then .ok (ws, st)
    else match s.hdrWrites cl job r c (List.range side) with
      | .error e => .error e
      | .ok (hs, st2) => .ok (ws ++ hs, if st = 0 then st2 else st)

/-! ## Performing them (R318, R319) -/

/-- A 4-bit value laid over its byte. -/
def nibPut (old v : Nat) : Option Nat → Nat
  | none => v
  | some 0 => old / 16 * 16 + v % 16
  | some _ => old % 16 + v % 16 * 16

/-- Write at the port: the timestamp, the status, the state. -/
def State.performWrites (s : State) (root p wid : Nat) : List PortWrite → Nat × Nat × State
  | [] => (p, 0, s)
  | w :: ws =>
    let v := nibPut (s.peekByte root w.place) w.v w.nib
    let (t, st, s1) := match s.writePiece root p wid w.place w.n v with
      | .error c => (p, causeStatus c, s)
      | .ok (t, s1) => (t, 0, s1)
    let (u, st2, s2) := s1.performWrites root p wid ws
    (max t u, if st = 0 then st2 else st, s2)

/-- First byte's place of the line that a place lies in. -/
def linePlace : Place → Place
  | .home a => .home (a / 64 * 64)
  | .maj ss a => .maj ss (a / 64 * 64)

/-- Lines of the coalescing buffer of an AGN (R319). -/
def coLines : Nat := 32

/-- Put bytes into a line's list, one per offset. -/
def coBytes (old : List (Nat × Byte)) (off : Nat) (bs : List Byte) : List (Nat × Byte) :=
  ((List.range bs.length).map (fun i => (off + i, bs.getD i 0))).foldl (fun l b =>
    l.filter (fun x => x.1 != b.1) ++ [b]) old

/-- Coalesce one write; a full buffer gives up its oldest line first. DEDUCED: notes/assumptions/59. -/
def State.coPut (s : State) (root key : Nat) (w : PortWrite) : State :=
  let lp := linePlace w.place
  let off := placeOff w.place
  let held := (s.agn key).buf.find? (fun l => l.place == lp)
  let s1 := if held.isNone && (s.agn key).buf.length ≥ coLines then s.flushOne key 0 else s
  let old := match held with
    | some l => match l.bytes.find? (fun b => b.1 == off) with
      | some b => b.2.toNat
      | none => s1.peekByte root w.place
    | none => s1.peekByte root w.place
  let bs := leBytes w.n (nibPut old w.v w.nib)
  s1.modAgn key (fun a => { a with
    buf := match held with
      | some _ => a.buf.map (fun l => if l.place == lp then { l with bytes := coBytes l.bytes off bs } else l)
      | none => a.buf ++ [{ place := lp, bytes := coBytes [] off bs }] })

/-- The bytes of several pieces, line by line, each with its byte of a value. -/
def pieceLines (ps : List (Place × Nat)) (v : Nat) : List CoLine :=
  (ps.foldl (fun (acc : List CoLine × Nat) p =>
    let lp := linePlace p.1
    let bs := (List.range p.2).map (fun i => (placeOff p.1 + i, (BitVec.ofNat 8 (acc.2 / 2 ^ (8 * i)) : Byte)))
    let l := acc.1
    (if l.any (fun x => x.place == lp)
      then l.map (fun x => if x.place == lp then { x with bytes := x.bytes ++ bs } else x)
      else l ++ [{ place := lp, bytes := bs }], acc.2 / 2 ^ (8 * p.2))) ([], v)).1

/-- What pieces hold now, as one number; no lease is taken. -/
def State.peekPieces (s : State) (root : Nat) (ps : List (Place × Nat)) : Nat :=
  ps.foldr (fun p v => leNatFrom (s.lineImage root p.1) (placeOff p.1) p.2 + 2 ^ (8 * p.2) * v) 0

/-- Whether a line can be neither read nor written: it is poisoned (R432). DESIGN CHOICE: notes/assumptions/87. -/
def State.linePoisoned (s : State) : Place → Bool
  | .home a => (s.line a).poison
  | .maj _ _ => false

/-- End of the leases of the line a place lies in. -/
def State.lineRts (s : State) (root : Nat) : Place → Nat
  | .home a => (s.line a).rts
  | .maj ss a => ((s.ssetStacks root ss).filter (fun k => s.copyAnswers root k (cellAddr a))).foldl
      (fun m k => max m (s.majCopy root k (cellAddr a)).rts) 0

/-- Several lines written at a timestamp that is past every lease. -/
def State.writeLines (s : State) (root wid t : Nat) : List CoLine → Option State
  | [] => some s
  | l :: ls => match s.lineWrite root l.place l.bytes t wid with
    | none => none
    | some (_, s1) => s1.writeLines root wid t ls

/-- One read and one write of pieces at one timestamp t = max(p, RTS + 1) (R135, R323): what they held, t, and the state
after. -/
def State.modPieces (s : State) (root p wid : Nat) (ps : List (Place × Nat)) (f : Nat → Nat) :
    Except Nat (Nat × Nat × State) :=
  let old := s.peekPieces root ps
  let ls := pieceLines ps (f old)
  let t := ls.foldl (fun m l => max m (s.lineRts root l.place + 1)) p
  if ls.any (fun l => s.linePoisoned l.place) then .error 0x1A
  else match s.writeLines root wid t ls with
    | none => .error 0x1A
    | some s1 => .ok (old, t, s1)

/-- The writes of a cell gathered into elements of four bytes. -/
def wordGroups : List PortWrite → List PortWrite → List (List PortWrite)
  | cur, [] => if cur.isEmpty then [] else [cur]
  | cur, w :: ws =>
    let c := cur ++ [w]
    if c.foldl (fun n x => n + x.n) 0 ≥ 4 then c :: wordGroups [] ws else wordGroups c ws

/-- Each FP32 element is added to the word at its address with one RNE rounding (R135). What a re-issued activation leaves is
a free value (R438). -/
def State.accumulate (s : State) (root p wid : Nat) (again : Bool) : List (List PortWrite) → Nat × Nat × State
  | [] => (p, 0, s)
  | g :: gs =>
    let v := g.foldr (fun w acc => w.v + 2 ^ (8 * w.n) * acc) 0
    let (fv, s0) := if again then s.freeNumber 1 else (0, s)
    let add (old : Nat) : Nat :=
      if again then fv % 2 ^ 32 else fround fp32 .rne false 0 (fvAdd .rne (fdec fp32 old) (fdec fp32 v))
    let (t, st, s1) := match s0.modPieces root p wid (g.map (fun w => (w.place, w.n))) add with
      | .error c => (p, causeStatus c, s0)
      | .ok (_, t, s1) => (t, 0, s1)
    let (u, st2, s2) := s1.accumulate root p wid again gs
    (max t u, if st = 0 then st2 else st, s2)

/-! ## After a cell (R322, R336) -/

/-- Whether another AGN waits for this one to hand over. -/
def State.followed (s : State) (key : Nat) : Bool := s.acc.agns.any (fun e => e.2.wait == some key)

/-- A cell has been performed at the port: taps count it, a member tap's k-th LAST flushes and arrives, and a LAST hands
the region over. -/
def State.afterWrite (s : State) (key : Nat) (m : MCell) (t : Nat) : State :=
  let job := m.who.job
  let window := (agnRec (s.agn key).words).isWindow
  let last := m.cell.last
  let s1 := (s.tapsOf key).foldl (fun st x =>
    let k := tapKey job x.1 x.2.1
    let st1 := st.modTap k (fun y => { y with
      covered := if x.2.2.count then y.covered + 1 else y.covered
      lasts := if x.2.2.count || !last then y.lasts else y.lasts + 1
      stamp := max y.stamp t })
    if !x.2.2.count && decide ((st1.tap k).lasts ≥ x.2.2.every) then
      let st2 := st1.flushAll key
      (st2.modTap k (fun y => { y with lasts := 0, stamp := 0 })).tapSend job x.1 x.2.1 x.2.2 0x290 0
        (max (st1.tap k).stamp (if window then (st2.agn key).stamp else 0))
    else st1) s
  let s2 := if window then s1 else s1.tapFlushed key t
  if last then
    let s3 := if s2.followed key then s2.flushAll key else s2
    s3.modAgn key (fun a => { a with handed := true })
  else s2

/-! ## Circular buffers (R156) -/

/-- One cell of a message: its sixteen words join the buffer and become visible with the message's last cell. -/
def Pipe.take16 (p : Pipe) (vs : List Word) (stamp cnt : Nat) : Pipe :=
  let left := if p.left = 0 then max 1 cnt else p.left
  let (ids, p1) := p.put vs stamp false
  let msg := p.msg ++ ids
  if left = 1 then
    { p1 with left := 0, msg := [], q := p1.q.map (fun w => if msg.contains w.id then { w with vis := true } else w) }
  else { p1 with left := left - 1, msg := msg }

/-- DEDUCED: notes/assumptions/60. -/
def State.fifoWrite (s : State) (cl p : Nat) (r : AgnRec) (key : Nat) (m : MCell) : State :=
  let k := fifoKey cl r
  let cap := s.fifoWords cl r
  let put (st : State) : State := (st.modPipe k (fun q => q.take16 ((List.range 16).map m.cell.word) m.stamp
    m.cell.cnt.toNat)).afterWrite key m m.stamp
  match s.takeInbox cl p m.cell.cop.toNat with
  | none => s
  | some (_, s1) =>
    if (s.pipe k).left = 0 && decide (messageWords m.cell.cnt.toNat > cap) then s1.cellEnd cl m 0x9F m.stamp
    else if (s.pipe k).freeWords cap < 16 then s
    else (put s1).cellEnd cl m 0 m.stamp

/-! ## Done words of collectives (R384, R399, R400) -/

/-- Number under which a done word waits on a fault record. -/
def waiterColl (key i : Nat) : Nat := 2 ^ 58 + key * 32 + i

/-- The rank's done word is written, once: a status and the count of what has been written. The data in the write port's
buffer go home before it, so that P is the largest WTS of the writes it reports. DEDUCED: notes/assumptions/78. -/
def State.collDone (s : State) (job g i status : Nat) : State :=
  let c := s.coll job g i
  if c.doneW then s
  else
    let cl := s.collCluster job g i
    let dk := s.jobAgn job cl (wbits c.record 15 5)
    let fn := wbits c.record 10 5
    let fk := s.jobAgn job cl fn
    let window := (agnRec (s.agn dk).words).isWindow
    let s1 := if window && !(s.agn dk).buf.isEmpty then s.flushAll dk else s
    let p := max c.maxw (if window then (s1.agn dk).stamp else 0)
    let a := s1.agn fk
    let r := agnRec a.words
    let settled (st : State) : State := st.modColl job g i (fun x => { x with doneW := true, owe := none, stat := status })
    let bad := s1.agnCheck cl r .wport
    let lose (cause : Nat) : State := (settled s1).postReport cl (agnCtx fk) (causeStatus cause) 2 i
    if bad != 0 then lose bad
    else match r.addr 0 with
      | none => lose causeBound
      | some va => match s1.pieces cl a.core job r va 8 true with
        | .error d =>
          if d = causeMiss || d = causePerm then
            (s1.faultWait (clusterQuarter cl) job d 2 (s1.flushAgent fk / 32) fn cl va.toNat i
              (waiterColl (graphKey job g) i)).modColl job g i (fun x => { x with owe := some status })
          else lose d
        | .ok ps =>
          match s1.writePieces (s1.partOfCluster cl) p (s1.flushAgent fk) ps (status * 2 ^ 56 + c.count % 2 ^ 56) with
          | .error d => lose d
          | .ok (_, s2) => settled s2

/-- A done word that is due is written: one whose page has faulted, or that of a rank which has all its cells. DEDUCED: notes/assumptions/78. -/
def State.collSettle (s : State) (job g i : Nat) : State :=
  let c := s.coll job g i
  let w := waiterColl (graphKey job g) i
  if c.doneW then s
  else match c.owe with
    | some st => match s.gate job w with
      | .wait => s
      | .ends e =>
        ((s.ungate job w).modColl job g i (fun x => { x with doneW := true, owe := none, stat := st })).postReport
          (s.collCluster job g i) ((s.ctxTag job (s.collCluster job g i)).getD 0) e 2 i
      | .go => s.collDone job g i st
    | none => match c.total with
      | some n => if c.got ≥ n && c.pend = 0 && !c.aborted then s.collDone job g i c.stat else s
      | none => s

/-- After a cell of a write port: what it may complete. -/
def State.afterPort (s : State) (m : MCell) : State :=
  match m.report with
  | .coll key i _ => s.collSettle (key / 65536) (key % 65536) i
  | _ => s

/-! ## WR, WRM, WACC -/

/-- Whether a cell may be written into a C buffer: it came from me0 to me3, ve0 to ve3 or cb (R133). A cell from another
cluster shows only that cluster's mesh port, and is let in. -/
def cOrigin (m : MCell) : Bool := (match m.report with
  | .coll _ _ _ => false
  | _ => true) && (decide (16 ≤ m.origin ∧ m.origin ≤ 23) || m.origin == 26 || m.origin == 30)

/-- What is wrong with a write-port cell before it touches memory: a status, 0 for nothing. -/
def State.portCheck (s : State) (cl key : Nat) (r : AgnRec) (m : MCell) : Nat :=
  let c := m.cell
  let side := c.side.toNat
  let bad := s.agnCheck cl r .wport
  if decide (c.pos.toNat > 1) || (c.cop == 1 && side != 63) then 0x90
  else if bad != 0 then causeStatus bad
  else if c.cop == 2 && !(r.port == 2 && r.esz == 3) then 0x90
  else if r.port == 2 && !cOrigin m then causeStatus causePort
  else if decide (1 ≤ side ∧ side ≤ 8) && (c.cop == 2 || tblk (s.tensor m.who.job r.tid) == 0) then 0x90
  else if side == 63 && r.esz == 0 then 0x90
  else if (s.agn key).words.isEmpty then causeStatus causeUnbound
  else 0

/-- The oldest delivered cell of an operation code at write port p of a cluster acts (R190, R318, R319, R322). DEDUCED: notes/assumptions/60. -/
def State.writeTaken (s : State) (cl p cop : Nat) : State :=
  match s.takeInbox cl (16 + p) cop with
  | none => s
  | some (m, s1) =>
    let key := agnKey cl m.cell.ctx.toNat (2 * p + m.cell.pos.toNat)
    let a := s.agn key
    let r := agnRec a.words
    let job := m.who.job
    let root := s.partOfCluster cl
    let bad := s.portCheck cl key r m
    let held := match a.wait with
      | some k => !(s.agn k).handed
      | none => false
    match s.gate job (waiterCell m) with
    | .wait => s
    | .ends status => (s1.ungate job (waiterCell m)).cellEnd cl m status m.stamp
    | .go =>
      if bad != 0 then s1.cellEnd cl m bad m.stamp
      else if held then s
      else if r.port == 3 && s.tileRole cl r.tile == 2 then s.fifoWrite cl (16 + p) r key m
      else match s.portWrites cl a.core job r m.cell with
        | .error (d, va) =>
          if d = causeMiss || d = causePerm then
            s.faultWait (clusterQuarter cl) job d 2 (m.agent / 32) (agnNo key) cl va m.cell.itag.toNat (waiterCell m)
          else s1.cellEnd cl m (causeStatus d) m.stamp
        | .ok (ws, st) =>
          let start := match a.wait with
            | some k => (s.agn k).stamp
            | none => 0
          if r.isWindow then
            let s2 := s1.modAgn key (fun x => { x with stamp := max (max x.stamp start) m.stamp })
            let s3 := (ws.foldl (fun st' w => st'.coPut root key w) s2).afterWrite key m m.stamp
            s3.cellEnd cl m st (max m.stamp (s3.agn key).stamp)
          else
            let (t, st2, s2) := if cop = 2 then s1.accumulate root m.stamp m.agent (s1.undefinedAgain m) (wordGroups [] ws)
              else s1.performWrites root m.stamp m.agent ws
            ((s2.afterWrite key m t).cellEnd cl m (if st = 0 then st2 else st) t).writeLost cl m (agnNo key)
              ((r.addr (m.cell.aux.toNat * r.perCell)).getD 0).toNat st2

/-- A write port's step, and what a switch box's cell completes with it (R384). DESIGN CHOICE: notes/assumptions/40. -/
def State.writeCell (s : State) (cl p cop : Nat) : State :=
  let s1 := s.writeTaken cl p cop
  match s.takeInbox cl (16 + p) cop with
  | none => s1
  | some (m, _) => s1.afterPort m

/-- WR (R190). -/
def execWr (cl port : Nat) (s : State) : Res := .next (s.writeCell cl port 0)
/-- WRM (R190). -/
def execWrm (cl port : Nat) (s : State) : Res := .next (s.writeCell cl port 1)
/-- WACC (R135, R190). -/
def execWacc (cl port : Nat) (s : State) : Res := .next (s.writeCell cl port 2)

end Sys2Proof.Machine
end

