-- ==== Sys2Proof/Machine/Configure.lean ====
section
/-! DEFINITION. Machine/Configure.lean: context tags, the nodes that live graphs hold, configuration lists and tile roles
(spec/02 R46, R50, spec/06 R131, R136, R137, spec/12 R240, spec/20 R398, R419 to R421). -/

namespace Sys2Proof.Machine

/-! ## Context tags (R50) -/

/-- A tag that a job takes starts with unbound AGNs and invalid routes. DESIGN CHOICE: notes/assumptions/68. -/
def State.clearTag (s : State) (cl c : Nat) : State :=
  (s.onAcc (fun a => { a with agns := a.agns.filter (fun e => e.1 / 32 != cl * 64 + c) })).onEng (fun e => { e with
    routes := e.routes.filter (fun r => !(r.1 / 16 % 64 == c && r.1 / 1024 / 32 == cl)),
    seeds := e.seeds.filter (fun r => !(r.1 % 64 == c && r.1 / 64 / 32 == cl)),
    times := e.times.filter (fun r => !(r.1 % 64 == c && r.1 / 64 / 32 == cl && r.1 / 64 % 32 ≥ 4)) })

/-- The tag of a job in a cluster, the lowest free one where it holds none; none: no tag is free. DESIGN CHOICE: notes/assumptions/68. -/
def State.takeTag (s : State) (job cl : Nat) : Option State :=
  match s.ctxTag job cl with
  | some _ => some s
  | none =>
    let used := tget s.work.tagPool cl
    match (List.range 64).find? (fun c => !used.contains c) with
    | none => none
    | some c =>
      let s1 := (s.clearTag cl c).onWork (fun w => { w with
        tagPool := tset w.tagPool cl (c :: used), ctxJob := tset w.ctxJob (cl * 64 + c) (job + 1) })
      some (s1.modJob job (fun j => { j with ctxs := tset j.ctxs cl (c + 1) }))

/-- Tags for every cluster of a list. -/
def State.takeTags (s : State) (job : Nat) : List Nat → Option State
  | [] => some s
  | cl :: cls => match s.takeTag job cl with
    | none => none
    | some s1 => s1.takeTags job cls

/-! ## What live graphs hold (R46) -/

def Graph.live (g : Graph) : Bool := g.used && g.bound && !g.retired

/-- The live graphs, with their keys. -/
def State.liveGraphs (s : State) : List (Nat × Graph) := s.work.graphs.filter (fun e => e.2.live)

def State.agnHeld (s : State) (job cl n : Nat) : Bool :=
  s.liveGraphs.any (fun e => e.1 / 65536 == job && e.2.img.agns.any (fun a => a.1 == cl && a.2.1 == n) &&
    !e.2.drained.contains (s.jobAgn job cl n))
def State.routeHeld (s : State) (job cl eng n : Nat) : Bool :=
  s.liveGraphs.any (fun e => e.1 / 65536 == job && e.2.img.routes.any (fun a => a.1 == cl && a.2.1 == eng && a.2.2.1 == n))
/-- A matrix context, or the context of its engine that the job's tag is bound to, is held. -/
def State.matHeld (s : State) (job cl me n : Nat) : Bool :=
  s.liveGraphs.any (fun e => e.2.img.matrices.any (fun a => a.1 == cl && a.2.1 == me &&
    (a.2.2.1 == n || e.1 / 65536 == job)))
/-- A tile is used by a bound node of some graph. -/
def State.tileHeld (s : State) (cl t : Nat) : Bool :=
  s.liveGraphs.any (fun e => e.2.img.tiles.any (fun a => a.1 == cl && a.2.1 == t) ||
    e.2.img.pipes.any (fun p => p.cluster == cl && p.tile == t))

/-! ## Tile roles (R136, R421) -/

/-- A tile's contents are void and it starts as R136 and R137 state; the lines of a cache bank that leaves the role drop. DESIGN CHOICE: notes/assumptions/68. -/
def State.voidTile (s : State) (cl t : Nat) : State :=
  let b := tileBase cl t
  let inside (a : Nat) : Bool := decide (b ≤ a ∧ a < b + 2 ^ 19)
  (s.onMem (fun m => { m with
    bytes := m.bytes.filter (fun e => !inside e.1)
    swrit := m.swrit.filter (fun e => !inside (8 * e.1))
    banks := m.banks.filter (fun e => e.1 / 384 != cl * 16 + t) })).onAcc (fun a => { a with
      pipes := a.pipes.filter (fun e => e.1 / 2 ^ 19 != cl * 16 + t) })

/-- DESIGN CHOICE: notes/assumptions/68. -/
def State.setRole (s : State) (cl t role : Nat) : State :=
  (s.voidTile cl t).onMem (fun m => { m with roles := tset m.roles (cl * 16 + t) role })

/-- How a configuration ends: it waits for a node, meets a fault at an address, or finishes with a status, the index of the
entry it names, a timestamp and the state. -/
inductive CfgOut where
  | wait
  | fault (cause va : Nat)
  | finish (status idx t : Nat) (s : State)

/-- DEDUCED: notes/assumptions/67. -/
def cfgBad : Nat := 0x31
def cfgNoCtx : Nat := 0x32
def cfgFixed : Nat := 0x33

/-- CFGT (R421). DEDUCED: notes/assumptions/67. -/
def State.cfgtRun (s : State) (left right : Word) (p : Nat) : CfgOut :=
  let cl := wbits left 0 6
  let code (t : Nat) : Nat := wbits right (3 * t) 3
  let changed := (List.range 16).filter (fun t => code t != s.tileRole cl t)
  if left.toNat ≥ 64 || cl ≥ 48 || right.toNat ≥ 2 ^ 48 || (List.range 16).any (fun t => decide (code t ≥ 5)) then
    .finish cfgBad 0 p s
  else if changed.any (s.tileHeld cl) then .wait
  else .finish 0 0 p (changed.foldl (fun st t => st.setRole cl t (code t)) s)

/-! ## Configuration entries (R419) -/

structure CfgEntry where
  kind  : Nat
  cl    : Nat
  idx   : Nat
  sub   : Nat
  graph : Nat
  recs  : List Word
  deriving DecidableEq, Repr

def CfgEntry.word (e : CfgEntry) (i : Nat) : Word := e.recs.getD i 0

/-- NW of each kind; none: no such kind. -/
def cfgWords (kind : Nat) : Option Nat :=
  match kind with
  | 0 => some 6
  | 2 => some 2
  | 4 => some 16
  | 6 => some 2
  | 15 => some 0
  | k => if k ≤ 10 then some 1 else none

/-- An AGN record keeps R131. -/
def agnRecordOk (ws : List Word) : Bool :=
  let w0 := ws.getD 0 0
  let r := agnRec ws
  let rank := wbits w0 50 2 + 1
  wbits w0 0 35 == 0 && decide (r.port ≤ 5) && decide (r.esz ≤ 4) && r.trole != 3 && wbits (ws.getD 1 0) 57 7 == 0 &&
  r.ext.all (fun e => decide (e ≥ 1)) &&
  (List.range (4 - rank)).all (fun d => r.ext.getD d 0 == 1 && r.str.getD d 0 == 0) &&
  (r.esz != 0 || r.str.getD 3 0 == 0)

/-- A route entry keeps R170 and R341 (bit 18 is the combining store's). -/
def routeOk (eng : Nat) (w : Word) : Bool :=
  decide (wbits w 20 3 ≤ 4) && wbits w 1 11 == 0 && (eng == 10 || wbits w 18 1 == 0) &&
  !decide (48 ≤ wbits w 58 6 ∧ wbits w 58 6 ≤ 62)

/-- A matrix context's words keep R240. -/
def matrixOk (a b : Word) : Bool :=
  decide (wbits a 20 3 ≤ 4) && wbits a 7 6 == 0 && wbits b 0 21 == 0 && decide (wbits a 42 10 ≤ 2) &&
  !decide (48 ≤ wbits a 58 6 ∧ wbits a 58 6 ≤ 62)

/-- A collective record keeps R420. -/
def collOk (w : Word) : Bool :=
  let k := wbits w 52 6 + 1
  wbits w 0 10 == 0 && decide (k ≥ 2) && decide (wbits w 46 6 < k) && [0, 1, 2, 3, 7].contains (wbits w 42 4) &&
  decide (1 ≤ wbits w 20 16 ∧ wbits w 20 16 ≤ 4096) &&
  (k % (wbits w 58 3 + 1) == 0 || wbits w 62 2 == 0 || wbits w 62 2 == 3)

/-- Index ranges and the rules of each record. DEDUCED: notes/assumptions/67. -/
def CfgEntry.ok (e : CfgEntry) : Bool :=
  let w := e.word 0
  decide (e.cl < 48) &&
  (match e.kind with
   | 0 => decide (e.idx < 32) && e.sub == 0 && agnRecordOk e.recs
   | 1 => decide (e.idx < 16) && decide (4 ≤ e.sub ∧ e.sub ≤ 10) && routeOk e.sub w
   | 2 => decide (e.idx < 4) && decide (e.sub < 4) && matrixOk w (e.word 1)
   | 3 => e.sub == 0 && collOk w
   | 4 => e.idx == 0 && e.sub == 0
   | 5 => decide (e.idx < 32) && e.sub == 0 && wbits w 11 32 == 0 && decide (wbits w 44 8 ≤ 64)
   | 6 => decide (e.idx < 16) && e.sub == 0 && wbits w 57 7 == 0 && wbits w 0 2 == 0 && wbits (e.word 1) 14 50 == 0 &&
      decide (1 ≤ wbits (e.word 1) 0 12 ∧ wbits (e.word 1) 0 12 ≤ 1536)
   | 7 => e.idx == 0 && e.sub == 0 && wbits w 0 50 == 0 && decide (32 ≤ wbits w 51 13 ∧ wbits w 51 13 ≤ 4096)
   | 8 => e.idx == 0 && decide (e.sub ≤ 10) && wbits w 3 61 == 0 && decide (1 ≤ wbits w 0 3 ∧ wbits w 0 3 ≤ 4)
   | 9 => decide (e.idx < 8) && e.sub == 0 && wbits w 7 57 == 0
   | 10 => e.idx == 0 && decide (4 ≤ e.sub ∧ e.sub ≤ 10) && wbits w 32 32 == 0
   | _ => e.idx == 0 && e.sub == 0)

/-- Member entries in use in a cluster's combining store (R329). -/
def State.membersUsed (s : State) (cl : Nat) : Nat :=
  (s.eng.bars.filter (fun e => e.1 / 256 == cl && e.2.used)).foldl (fun n e => n + e.2.nmem) 0

/-- Whether an entry needs a node that a live graph holds; an entry of the graph itself needs the graph free. DEDUCED: notes/assumptions/67. -/
def State.entryHeld (s : State) (job : Nat) (e : CfgEntry) : Bool :=
  match e.kind with
  | 0 => s.agnHeld job e.cl e.idx
  | 1 => s.routeHeld job e.cl e.sub e.idx
  | 2 => s.matHeld job e.cl e.sub e.idx
  | 3 => false
  | _ => (s.graph job e.graph).live

/-- Put an item into a list under a key: it replaces the item of that key. -/
def putItem {α : Type} (key : α → Bool) (l : List α) (x : α) : List α := l.filter (fun y => !key y) ++ [x]

/-- The list padded so that position i exists, then set. -/
def putAt {α : Type} (d : α) (l : List α) (i : Nat) (x : α) : List α :=
  listSet (l ++ List.replicate (i + 1 - l.length) d) i x

def addOnce (l : List Nat) (x : Nat) : List Nat := if l.contains x then l else l ++ [x]

/-! ## Writing the hardware's tables -/

/-- An AGN takes a record: its buffer is empty and its shape starts at its beginning; its stamp stays. -/
def State.writeAgn (s : State) (key : Nat) (ws : List Word) (wait : Option Nat) (core : Nat) : State :=
  s.modAgn key (fun a => { words := ws, stamp := a.stamp, wait := wait, core := core })

def State.writeRoute (s : State) (job cl eng n : Nat) (w : Word) : State :=
  s.onEng (fun e => { e with routes := tset e.routes (engCtx cl eng ((s.ctxTag job cl).getD 0) * 16 + n) w })

def State.writeSeed (s : State) (job cl eng v : Nat) : State :=
  s.onEng (fun e => { e with seeds := tset e.seeds (engCtx cl eng ((s.ctxTag job cl).getD 0)) v })

/-- A matrix context is bound to the job's tag: it has its reset state (R239), and no other context of the engine is bound to
that tag. -/
def State.writeMatrix (s : State) (job cl me n : Nat) (a b : Word) : State :=
  let tag := (s.ctxTag job cl).getD 0
  let w := BitVec.ofNat 64 (a.toNat / 128 * 128 + tag * 2 + wbits a 0 1)
  let s1 := (List.range 4).foldl (fun st k =>
    st.modMat (matKey cl me k) (fun m =>
      if wbits m.cfg0 1 6 = tag && wbits m.cfg0 0 1 = 1 then { m with cfg0 := m.cfg0 &&& ~~~(1 : Word) } else m)) s
  (s1.modMat (matKey cl me n) (fun _ => { cfg0 := w, cfg1 := b })).onEng (fun e => { e with
    times := tset e.times (engCtx cl me n) {} })

/-- Rank of this device in a list of nodes (R381). -/
def State.rankOf (s : State) (root : Nat) (nodes : List Nat) : Nat := (nodes.findIdx? (· == s.nodeOf root)).getD 0

/-- A collective record with the device's rank (R420). -/
def State.rankRecord (s : State) (root : Nat) (nodes : List Nat) (w : Word) : Word :=
  BitVec.ofNat 64 (w.toNat / 2 ^ 42 * 2 ^ 42 + s.rankOf root (nodes.take (wbits w 52 6 + 1)) % 64 * 2 ^ 36 + w.toNat % 2 ^ 36)

def State.editImage (s : State) (job g : Nat) (f : GraphImage → GraphImage) : State :=
  s.modGraph job g (fun x => { x with used := true, img := f x.img })

/-- A collective's slots and gateway nodes go back to their managers (R397). Die 4 is the north I/O die. -/
def State.ungrant (s : State) (c : Coll) : State :=
  s.onLnk (fun l => { l with
    slots := c.slots.foldl (fun t cl => tmod t cl (fun (n : Nat) => n - 1)) l.slots
    gates := if c.gates = 0 then l.gates else tmod l.gates 4 (fun (n : Nat) => n - c.gates) })

/-- One entry is applied: a status, 0 for applied, and the state. Its cluster's tag has been taken. DEDUCED: notes/assumptions/67. -/
def State.applyEntry (s : State) (root job : Nat) (e : CfgEntry) : Nat × State :=
  let w := e.word 0
  let inReg (i : GraphImage) : GraphImage := { i with clusters := addOnce i.clusters e.cl }
  let edit (st : State) (f : GraphImage → GraphImage) : State := st.editImage job e.graph (fun i => f (inReg i))
  match e.kind with
  | 0 => (0, (edit s (fun i => { i with
      agns := putItem (fun a => a.1 == e.cl && a.2.1 == e.idx) i.agns (e.cl, e.idx, e.recs) })).writeAgn
        (s.jobAgn job e.cl e.idx) e.recs none (e.cl * 8))
  | 1 => (0, (edit s (fun i => { i with
      routes := putItem (fun a => a.1 == e.cl && a.2.1 == e.sub && a.2.2.1 == e.idx) i.routes (e.cl, e.sub, e.idx, w) })).writeRoute
        job e.cl e.sub e.idx w)
  | 2 => (0, (edit s (fun i => { i with
      matrices := putItem (fun a => a.1 == e.cl && a.2.1 == e.sub && (a.2.2.1 == e.idx)) i.matrices
        (e.cl, e.sub, e.idx, w, e.word 1) })).writeMatrix job e.cl e.sub e.idx w (e.word 1))
  | 3 =>
    let x := s.graph job e.graph
    let c := tget x.colls e.idx
    if x.live && c.crossed then (cfgFixed, s)
    else
      let s1 := edit s (fun i => { i with colls := putAt 0 i.colls e.idx w, collAt := putAt 0 i.collAt e.idx e.cl })
      let again := c.doneW && c.stat = 0x71
      let d : Coll := { c with
        record := s.rankRecord root x.img.nodes w, placed := false, slots := [], gates := 0
        doneW := c.doneW && !again, stat := if again then 0 else c.stat }
      (0, if x.live then (s1.ungrant c).modGraph job e.graph (fun y => { y with colls := tset y.colls e.idx d }) else s1)
  | 4 => (0, s.editImage job e.graph (fun i => { i with
      nodes := (e.recs.map (fun v => (List.range 4).map (fun k => wbits v (16 * k) 16))).flatten }))
  | 5 =>
    let n := wbits w 52 12 + wbits w 44 8
    if s.membersUsed e.cl + n > 4096 then (cfgBad, s)
    else
      let d : BarDecl := { cluster := e.cl, count := wbits w 52 12, remote := wbits w 44 8, drop := bitOf w.toNat 43,
                           report := some (wbits w 0 11) }
      (0, edit s (fun i => { i with bars := putAt {} i.bars e.idx d }))
  | 6 =>
    let v := e.word 1
    let d : SetDecl := { entry := w, count := wbits v 0 12, handler := bitOf v.toNat 12, priv := bitOf v.toNat 13, resume := w }
    (0, edit s (fun i => { i with sets := putAt {} i.sets e.idx d }))
  | 7 => (0, s.editImage job e.graph (fun i => { i with live := wbits w 51 13, pack := bitOf w.toNat 50 }))
  | 8 => (0, edit s (fun i => { i with
      demands := putItem (fun a => a.1 == e.cl && a.2.1 == e.sub) i.demands (e.cl, e.sub, wbits w 0 3) }))
  | 9 => (0, edit s (fun i => { i with leases := putAt (0, 0) i.leases e.idx (wbits w 0 3, wbits w 4 3) }))
  | 10 => (0, (edit s (fun i => { i with
      seeds := putItem (fun a => a.1 == e.cl && a.2.1 == e.sub) i.seeds (e.cl, e.sub, wbits w 0 32) })).writeSeed
        job e.cl e.sub (wbits w 0 32))
  | _ => (0, s)

/-! ## Reading and applying a list -/

/-- A word of the list, read as a copy reads (R159, R419). -/
def State.cfgWord (s : State) (q job va p : Nat) : Except Nat (Word × Nat × State) :=
  match s.xlate q job va false false with
  | .error c => .error c
  | .ok pl => match s.engRead (s.partOf q) pl 8 p with
    | .error c => .error c
    | .ok (v, t, s1) => .ok (BitVec.ofNat 64 v, t, s1)

def State.cfgWordsFrom (s : State) (q job va p : Nat) : Nat → Except (Nat × Nat) (List Word × Nat × State)
  | 0 => .ok ([], p, s)
  | n + 1 => match s.cfgWord q job va p with
    | .error c => .error (c, va)
    | .ok (w, t, s1) => match s1.cfgWordsFrom q job (va + 8) p n with
      | .error e => .error e
      | .ok (ws, u, s2) => .ok (w :: ws, max t u, s2)

def cfgHeader (h : Word) (recs : List Word) : CfgEntry :=
  { kind := wbits h 60 4, cl := wbits h 54 6, idx := wbits h 40 8, sub := wbits h 32 8, graph := wbits h 16 16, recs := recs }

/-- The configuration of every graph that a list names is complete. -/
def State.cfgComplete (s : State) (job : Nat) (names : List Nat) : State :=
  names.foldl (fun st g => st.modGraph job g (fun x => { x with config := true })) s

/-- The entries of a list in order, from entry idx at va. DEDUCED: notes/assumptions/67. -/
def State.cfglGo (s : State) (q job p : Nat) (names : List Nat) (idx va t : Nat) : Nat → CfgOut
  | 0 => .finish 0 0 t (s.cfgComplete job names)
  | n + 1 => match s.cfgWord q job va p with
    | .error c => .fault c va
    | .ok (h, t1, s1) =>
      let nw := wbits h 8 8
      let rsv := wbits h 48 6 != 0 || wbits h 0 8 != 0
      if rsv || cfgWords (wbits h 60 4) != some nw then .finish cfgBad idx (max t t1) s1
      else match s1.cfgWordsFrom q job (va + 8) p nw with
        | .error (c, a) => .fault c a
        | .ok (ws, t2, s2) =>
          let e := cfgHeader h ws
          let now := max t (max t1 t2)
          if e.kind = 15 then .finish 0 0 now (s2.cfgComplete job names)
          else if !e.ok || s2.partOfCluster e.cl != s2.partOf q then .finish cfgBad idx now s2
          else if s2.entryHeld job e then .wait
          else match s2.takeTag job e.cl with
            | none => .finish cfgNoCtx idx now s2
            | some s3 =>
              let (st, s4) := s3.applyEntry (s.partOf q) job e
              if st != 0 then .finish st idx now s4
              else s4.cfglGo q job p (addOnce names e.graph) (idx + 1) (va + 8 + 8 * nw) now n

/-- CFGL of n entries at an address (R419). A list that is not at a multiple of 64 within the 57-bit space is bad. DEDUCED: notes/assumptions/67. -/
def State.cfglRun (s : State) (q job addr n p : Nat) : CfgOut :=
  if addr ≥ 2 ^ 57 || addr % 64 != 0 then .finish cfgBad 0 p s
  else s.cfglGo q job p [] 0 addr p n

end Sys2Proof.Machine
end

