-- ==== Sys2Proof/Machine/PowerOps.lean ====
section
/-! DEFINITION. Machine/PowerOps.lean: islands, regions, the live-tag scale and job power words (spec/18 R371 to R376). Islands of
a quarter: 0 to 11 its clusters, 12 and 13 kennels, 14 memory and I/O, 15 always on (spec/00 R2). -/

namespace Sys2Proof.Machine

/-- An island's state (R379). Before bring-up leaves REDUCED the cluster islands of q0 run at level 3 (R371, R461). -/
def State.island (s : State) (q i : Nat) : Island :=
  tgetD { cur := if q = 0 && decide (i < 12) then 3 else 7 } s.ken.islands (q * 16 + i)
def State.setIsland (s : State) (q i : Nat) (x : Island) : State :=
  s.onKen (fun k => { k with islands := tset k.islands (q * 16 + i) x })

/-- Whether a cluster's island is in retention: its clock stands still (R377). -/
def State.retained (s : State) (cl : Nat) : Bool := (s.island (clusterQuarter cl) (cl % 12)).ret
/-- Something has reached an island in retention (R377). -/
def State.wakeIsland (s : State) (cl : Nat) : State :=
  let x := s.island (clusterQuarter cl) (cl % 12)
  if x.ret then s.setIsland (clusterQuarter cl) (cl % 12) { x with wake := true } else s

/-- The region of a cluster island (R372, R458). -/
def State.regionOf (s : State) (cl : Nat) : Nat := wbits (tgetD 0 s.ken.rgn (clusterQuarter cl)) (4 * (cl % 12)) 4

/-- LSCALE of a region (R375); 255 holds nothing back. DESIGN CHOICE: notes/assumptions/8; DEDUCED: notes/assumptions/77. -/
def State.lscaleOf (s : State) (q region : Nat) : Nat := tgetD 255 s.ken.lscale (q * 16 + region)

/-- LIVEEFF of a graph (R375): the lowest scale among the regions it lies in. DEDUCED: notes/assumptions/77. -/
def State.liveEff (s : State) (g : Graph) : Nat :=
  let sc := g.img.clusters.foldl (fun m cl => min m (s.lscaleOf (clusterQuarter cl) (s.regionOf cl))) 255
  max 32 (g.img.live * (sc + 1) / 256)

/-- PWCFG of a quarter; reset RETIDLE 50 (R379). -/
def State.pwcfg (s : State) (q : Nat) : Word := tgetD 50 s.ken.pwcfg q
/-- The partition's PMODE (R376). -/
def State.contextMode (s : State) (root : Nat) : Bool := bitOf (s.pwcfg root).toNat 16

/-- The answer of PWRQ (R378); none: BADSYS. -/
def State.pwrqWord (s : State) (sid q : Nat) : Option Nat :=
  let cl := sidCluster sid
  let qu := clusterQuarter cl
  let w := (s.strand sid).who
  match q with
  | 0 =>
    let x := s.island qu (cl % 12)
    some (s.lscaleOf qu (s.regionOf cl) * 256 + x.str.toNat * 8 + x.cur % 8)
  | 1 => some (s.job w.job).jpwr.toNat
  | 2 => some (s.warmCount qu * 256 + s.awakeCount qu)
  | 3 => some (s.liveEff (s.graph w.job w.graph) % 8192)
  | _ => none

def causeBadSys : Nat := 0x0F

/-- PWRQ (R378). -/
def execPwrq (p : Pr) (q : BitVec 13) (ta : Tgt) (s : State) : Res :=
  fireAct p .none [ta] (fun s => match s.pwrqWord s.curSid q.toNat with
    | none => s.stopAt causeBadSys (q.setWidth 64)
    | some v => s.finish (.val (BitVec.ofNat 64 v)) [ta]) s

end Sys2Proof.Machine
end

