-- ==== Sys2Proof/Machine/Streams.lean ====
section
/-! DEFINITION. Machine/Streams.lean: cells, streams, parameter ports, ranges and pipes as a block names them (spec/06 R148 to
R156, spec/01 R21, R22). -/

namespace Sys2Proof.Machine

def causeBadCell : Nat := 0x0A
def causeBadParm : Nat := 0x0B
def causeOversize : Nat := 0x0C

/-! ## Whether a slot can still act -/

/-- Readiness of a slot by its own word (R15, R24, R74, R111). -/
def slotReadiness (sl : Slot) : Ready :=
  match slotInstr sl with
  | none => .wait
  | some w =>
    if sideOp (opOf sl.word) || opOf sl.word == 0x0C then readySide (predOf w) (usesOf w) sl
    else match w with
      | .sel p .. =>
        if sl.fired then .wait
        else match predReady p sl.pred with
          | .wait => .wait
          | .skip => .skip
          | q => if sl.left.isNone && sl.right.isNone then .wait else if q = .null then .null else .go
      | _ => readyPlain (predOf w) (usesOf w) sl

/-- A slot's outcome is settled: it has fired, or its predicate keeps it from firing. -/
def slotSettled (sl : Slot) : Bool := sl.fired || slotReadiness sl == .skip

/-- No reply from outside is awaited, and no slot that the test lets count can act (R36). DEDUCED: notes/assumptions/17. -/
def Frame.quiet (f : Frame) (counts : Nat → Bool) : Bool :=
  f.waits.isEmpty && f.asks.isEmpty && f.loads.all (fun l => decide (l.stage ≥ 2)) &&
  (List.range f.slots.length).all (fun i =>
    !counts i || (match slotReadiness (f.slot i) with
      | .go => false
      | .null => false
      | _ => true))

/-! ## Cells (R148) -/

/-- The destination of a message to a circular buffer is a write-port AGN on a token-FIFO tile: its capacity (R156). DEDUCED: notes/assumptions/35. -/
def State.messageTooLong (s : State) (cl job : Nat) (c : Cell) : Bool :=
  let dcl := c.target cl
  if c.mc || c.dport.toNat < 16 || c.cop.toNat / 128 != 0 then false
  else
    let r := agnRec (s.agn (s.jobAgn job dcl ((c.dport.toNat - 16) * 2 + c.pos.toNat))).words
    r.bound && r.role == 2 && r.port == 3 && s.tileRole dcl r.tile == 2 &&
      decide (messageWords c.cnt.toNat > s.fifoWords dcl r)

/-- A program's cell that only the device may build (R335). DEDUCED: notes/assumptions/35. -/
def deviceOnly (c : Cell) : Bool := c.cop.toNat == 0x292 || c.cop.toNat == 0x293 || c.cop.toNat == 0x294

/-- What the hardware writes into a strand's cell: CTX, the strand of a barrier cell, CHK (R77, R335). DEDUCED: notes/assumptions/26. -/
def State.stampCell (s : State) (sid cl job : Nat) (c : Cell) : Cell :=
  let c1 := { c with ctx := BitVec.ofNat 6 ((s.ctxTag job cl).getD 0) }
  let c2 := if (s.graph job (s.strand sid).who.graph).moved.isEmpty then c1
    else { c1 with dcl := BitVec.ofNat 6 (s.placeOf (s.strand sid).who (c1.target cl)) }
  let c3 := if isBarCell c2 then { c2 with itag := BitVec.ofNat 24 (c2.itag.toNat / 2048 * 2048 + sid) } else c2
  c3.seal

def tileClass (c : Cell) : Bool := c.cop.toNat / 128 == 1

/-- The effect of an ENQ whose cell has been built. -/
def State.enqEffect (s : State) (ag : Nat) (c : Cell) : State :=
  let who := s.curStrand.who
  s.resolve (.cell { cell := s.stampCell s.curSid s.curCluster s.curJob c, agent := sidAgent s.curSid, who := who,
                     report := .strandCell (tileClass c) } (ag / 2) (tileClass c))

/-- DEDUCED: notes/assumptions/35. -/
def State.fireEnq (s : State) (ag : BitVec 5) (mc : Bool) : State :=
  let cl := s.curCluster
  let job := s.curJob
  let r := agnRec (s.agn (s.strandAgn s.curSid ag.toNat)).words
  let c := cellOfDesc s.opL s.opR r.tid
  let off := ctagOff s.opR
  let bad := s.agnCheck cl r .cells
  let cls := c.cop.toNat / 128
  if c.mc != mc || deviceOnly c || !s.cellOk cl job c then s.stopAt causeBadCell
  else if bad != 0 then s.stopAt bad (BitVec.ofNat 64 off) (some ag.toNat)
  else if r.port == 2 && !(cls == 1 || cls == 2 || cls == 5) then
    s.stopAt causePort (BitVec.ofNat 64 off) (some ag.toNat)
  else if s.messageTooLong cl job c then s.stopAt causeOversize
  else if r.port == 3 && s.tileRole cl r.tile == 2 then
    let k := fifoKey cl r
    match (s.pipe k).peek 16 with
    | none => s
    | some ws =>
      let s1 := s.modPipe k (fun p => p.take (ws.map (·.id)))
      let s2 := s1.modCur (fun f => { f with gets := f.gets ++ ws.map (fun w => (s.fSlot, k, w.id)) })
      (s2.modStrand s.curSid (fun x => { x with pts := ws.foldl (fun m w => max m w.stamp) x.pts })).enqEffect ag.toNat
        (fifoCell c ws)
  else match s.fillCell cl s.fCore job r (s.storesBefore s.fCore s.fFrame 0) s.curStrand.pts off c false with
    | .error (0, _) => s
    | .error (d, a) => s.stopAt d a (some ag.toNat)
    | .ok (c1, g, ps, s1) =>
      let s2 := s1.modCur (fun f => { f with
        reads := f.reads ++ [{ slot := s.fSlot, places := ps, wts := g.wts, rts := g.lease }] })
      s2.enqEffect ag.toNat c1

/-- ENQ (R148). -/
def execEnq (p : Pr) (ag : BitVec 5) (s : State) : Res := fireSide p .lr (fun s => s.fireEnq ag false) s
/-- ENQM (R148). -/
def execEnqm (p : Pr) (ag : BitVec 5) (s : State) : Res := fireSide p .lr (fun s => s.fireEnq ag true) s

/-! ## Streams (R150, R151) -/

def State.fireStrm (s : State) (ag : BitVec 5) (tk : BitVec 3) (last pers : Bool) : State :=
  let cl := s.curCluster
  let key := s.strandAgn s.curSid ag.toNat
  let r := agnRec (s.agn key).words
  let bad := s.agnCheck cl r .cells
  let cls := (cellOfDesc s.opL s.opR r.tid).cop.toNat / 128
  if bad != 0 then s.stopAt bad 0 (some ag.toNat)
  else if r.port == 2 && !(cls == 1 || cls == 2 || cls == 5) then s.stopAt causePort 0 (some ag.toNat)
  else if pers && !r.pers then s.stopAt causeMode 0 (some ag.toNat)
  else s.resolve (.stream key s.opL s.opR tk.toNat last pers)

/-- STRM (R150). -/
def execStrm (p : Pr) (ag : BitVec 5) (tk : BitVec 3) (f : Bool) (s : State) : Res :=
  fireSide p .lr (fun s => s.fireStrm ag tk f false) s
/-- STRMS (R151). -/
def execStrms (p : Pr) (ag : BitVec 5) (tk : BitVec 3) (f : Bool) (s : State) : Res :=
  fireSide p .lr (fun s => s.fireStrm ag tk f true) s

/-! ## Parameter ports (R154) -/

/-- Whether a parameter token may be written through a record's port. -/
def parmOk (r : AgnRec) (t : Word) : Bool :=
  let sel := wbits t 61 3
  let v := wbits t 0 57
  wbits t 57 4 == 0 &&
    (if sel = 0 then r.isWindow || decide (v < (portSpace 0 0 r).2)
     else decide (sel ≤ 4) && decide (1 ≤ v ∧ v < 2 ^ 28))

def State.fireParm (s : State) (ag : BitVec 5) : State :=
  let key := s.strandAgn s.curSid ag.toNat
  let r := agnRec (s.agn key).words
  let bad := s.agnCheck s.curCluster r .parm
  if bad != 0 then s.stopAt bad 0 (some ag.toNat)
  else if !parmOk r s.opL then s.stopAt causeBadParm
  else s.resolve (.parm key (wbits s.opL 61 3) (BitVec.ofNat 64 (wbits s.opL 0 57)))

/-- PARM (R154). -/
def execParm (p : Pr) (ag : BitVec 5) (s : State) : Res := fireSide p .l (fun s => s.fireParm ag) s

/-! ## Ranges (R22, R42) -/

/-- RNGP (R22): asks the range server and waits for its answer; without a range it is ILLEGAL (R8). DEDUCED: notes/assumptions/36. -/
def execRngp (p : Pr) (ta : Tgt) (s : State) : Res :=
  fireAct p .none [ta] (fun s => match (s.launch s.curStrand.who.launch).range with
    | none => s.stopAt causeIllegal
    | some _ => s.modCur (fun f => { (f.fire s.fSlot) with asks := s.fSlot :: f.asks })) s

/-- The next chunk of a range for a set with k live strands (R42): a returned chunk whole, else by the claim's formula. DEDUCED: notes/assumptions/36. -/
def Range.claim (r : Range) (k : Nat) : (Nat × Nat) × Range :=
  match r.back with
  | c :: cs => (c, { r with back := cs })
  | [] =>
    let rem := r.size - r.next
    let chunk := min rem (max r.minchk ((rem + 2 * max 1 k - 1) / (2 * max 1 k)))
    ((r.next, chunk), { r with next := r.next + chunk })

/-- Cells of one outermost index of a persistent stream (R151). -/
def perIndex (r : AgnRec) : Nat := (r.count / r.ext.getD 0 1 + r.perCell - 1) / r.perCell

/-- An older block of the strand may still claim a chunk, or waits for one. -/
def State.claimBefore (s : State) (core f : Nat) : Bool :=
  s.olderOpen core f (fun sl => opOf sl.word == 0x85) ||
  (s.olderFrames core f).any (fun g => (s.frame core g).asks.any (fun i => opOf ((s.frame core g).slot i).word == 0x85))

/-- RANGE_CLAIM (R42, R151): the range server serves one claim, those of one strand in program order. DEDUCED: notes/assumptions/36. -/
def State.serveClaim (s : State) (c : Claimant) : State :=
  match c with
  | .slot fk i =>
    let core := fk / 8
    let f := fk % 8
    let fr := s.frame core f
    let who := (s.strand fr.sid).who
    let l := s.launch who.launch
    match l.range with
    | none => s
    | some r =>
      if !fr.used || !fr.asks.contains i || opOf (fr.slot i).word != 0x85 || s.claimBefore core f then s
      else
        let ((first, n), r') := r.claim (tgetD 0 l.setLive (s.strand fr.sid).set)
        let s1 := s.modLaunch who.launch (fun x => { x with range := some r' })
        s1.modFrame core f (fun g => { (g.send (.val (BitVec.ofNat 64 (first * 2 ^ 32 + n))) (loadTargets (g.slot i))) with
          asks := g.asks.filter (fun j => j != i), rngs := g.rngs ++ [(i, first, n)] })
  | .agn key =>
    match (s.agn key).stream with
    | none => s
    | some st =>
      let l := s.launch st.who.launch
      match l.range with
      | none => s
      | some r =>
        if !st.asking then s
        else
          let ((first, n), r') := r.claim (tgetD 0 l.setLive (s.strand st.sid).set)
          let s1 := s.modLaunch st.who.launch (fun x => { x with range := some r' })
          s1.modAgn key (fun a => { a with stream := some { st with
            asking := false, ended := n == 0
            chunks := if n = 0 then st.chunks else st.chunks ++ [(first, n, perIndex (agnRec (s.agn key).words))] } })

/-- RANGE_CLAIM. -/
def execRangeClaim (c : Claimant) (s : State) : Res := .next (s.serveClaim c)

/-! ## Pipes (R21, R155) -/

/-- The GETPs of a block on the pipe of an AGN. -/
def getpOn (ag : Nat) (sl : Slot) : Bool :=
  match slotInstr sl with
  | some (.getp _ a _) => a.toNat == ag
  | _ => false

/-- A GETP's turn: lower GETPs of its block on the pipe are settled, or nothing but such GETPs can act and it is the lowest
that can (R21). DEDUCED: notes/assumptions/36. -/
def Frame.getTurn (f : Frame) (i ag : Nat) : Bool :=
  let lower := (List.range i).filter (fun j => getpOn ag (f.slot j))
  lower.all (fun j => slotSettled (f.slot j)) ||
  (f.quiet (fun j => !getpOn ag (f.slot j)) && lower.all (fun j => slotReadiness (f.slot j) != .go))

/-- A GETP's turn on a pipe: words go to the blocks of the strand in program order, and within a block as R21 says. DEDUCED: notes/assumptions/36. -/
def State.pipeTurn (s : State) (ag : Nat) : Bool :=
  !s.olderOpen s.fCore s.fFrame (getpOn ag) && s.cur.getTurn s.fSlot ag

/-- DEDUCED: notes/assumptions/36. -/
def State.fireGetp (s : State) (ag : BitVec 5) (ta : Tgt) : State :=
  let r := agnRec (s.agn (s.strandAgn s.curSid ag.toNat)).words
  let bad := s.agnCheck s.curCluster r .pipeGet
  if bad != 0 then s.stopAt bad 0 (some ag.toNat)
  else if !s.pipeTurn ag.toNat then s
  else
    let k := fifoKey s.curCluster r
    match (s.pipe k).peek 1 with
    | some [w] =>
      let s1 := s.modPipe k (fun p => p.take [w.id])
      let s2 := s1.modCur (fun f => { f with gets := f.gets ++ [(s.fSlot, k, w.id)] })
      (s2.modStrand s.curSid (fun x => { x with pts := max x.pts w.stamp })).finish (.val w.v) [ta]
    | _ => s

/-- GETP (R21, R155, R306). -/
def execGetp (p : Pr) (ag : BitVec 5) (ta : Tgt) (s : State) : Res :=
  fireAct p .none [ta] (fun s => s.fireGetp ag ta) s

/-- Puts of a block to the pipe of an AGN. -/
def Frame.putsOn (f : Frame) (ag : Nat) : Nat :=
  (f.slots.filter (fun sl => match slotInstr sl with
    | some (.putp _ a) => a.toNat == ag
    | _ => false)).length

def State.firePutp (s : State) (ag : BitVec 5) : State :=
  let r := agnRec (s.agn (s.strandAgn s.curSid ag.toNat)).words
  let bad := s.agnCheck s.curCluster r .pipePut
  if bad != 0 then s.stopAt bad 0 (some ag.toNat)
  else if s.cur.putsOn ag.toNat > s.fifoWords s.curCluster r then s.stopAt causeOversize
  else s.resolve (.put (fifoKey s.curCluster r) s.opL)

/-- PUTP (R21, R155). -/
def execPutp (p : Pr) (ag : BitVec 5) (s : State) : Res := fireSide p .l (fun s => s.firePutp ag) s

end Sys2Proof.Machine
end

