-- ==== Sys2Proof/Machine/StreamCells.lean ====
section
/-! DEFINITION. Machine/StreamCells.lean: the cells that a streaming AGN sends, and the fault queue's resumptions (spec/06
R150 to R154, spec/13 R278). -/

namespace Sys2Proof.Machine

/-- A parameter value written into a record (R154): SEL 0 BASE, 1 to 4 EXT0 to EXT3. DEDUCED: notes/assumptions/37. -/
def parmApply (ws : List Word) (sel : Nat) (v : Word) : List Word :=
  if sel = 0 then
    listMod ws 1 (fun w => BitVec.ofNat 64 (w.toNat / 2 ^ 57 * 2 ^ 57 + wbits v 0 57))
  else
    listMod ws (1 + sel) (fun w => BitVec.ofNat 64 (wbits v 0 28 * 2 ^ 36 + wbits w 0 36))

/-- The pending writes take hold between rounds (R154). DEDUCED: notes/assumptions/37. -/
def Agn.takeParms (a : Agn) : Agn :=
  { a with words := a.parms.foldl (fun ws p => parmApply ws p.1 p.2) a.words, parms := [] }

/-- A stream starts on an AGN (R150): where the last one left the shape, or at its beginning. A re-issued stream starts
where it started first (R437). -/
def Agn.start (a : Agn) (st : Stream) : Agn :=
  let here := if a.pos ≥ (agnRec a.words).count then 0 else a.pos
  { a with stream := some { st with startPos := st.place.getD here, back := a.pos } }

/-- A stream is released to an AGN; one that waits for another of its block starts when that one has ended. -/
def Agn.give (a : Agn) (st : Stream) : Agn :=
  match a.stream with
  | none => a.start st
  | some _ => { a with later := a.later ++ [st] }

def Agn.startLater (a : Agn) : Agn :=
  match a.later with
  | [] => a
  | st :: rest => ({ a with later := rest } : Agn).start st

/-- First element that a stream reads, and the cells it sends when nothing ends it sooner (R150). -/
def streamCells (r : AgnRec) (st : Stream) : Nat :=
  let all := (r.count - st.startPos + r.perCell - 1) / r.perCell
  match st.left with
  | some n => min all n
  | none => all

/-- What the next cell of a stream is: its number j for the tag, its first element, how many elements, and whether it is
the final one as far as the stream can see. -/
structure NextCell where
  j     : Nat
  first : Nat
  n     : Nat
  final : Bool
  deriving DecidableEq, Repr

/-- Whether a launch's range has nothing left to give. -/
def State.rangeOut (s : State) (l : Nat) : Bool :=
  match (s.launch l).range with
  | none => true
  | some r => r.back.isEmpty && decide (r.next ≥ r.size)

/-- The chunk that cell k of a persistent stream lies in, and its place there. -/
def chunkAt : List (Nat × Nat × Nat) → Nat → Option ((Nat × Nat × Nat) × Nat)
  | [], _ => none
  | (f, n, per) :: cs, k => if k < n * per then some ((f, n, per), k) else chunkAt cs (k - n * per)

/-- The next cell; none: the stream, or the persistent stream's chunk, has no more. DEDUCED: notes/assumptions/37. -/
def State.streamNext (s : State) (r : AgnRec) (st : Stream) : Option NextCell :=
  if st.pers then
    match chunkAt st.chunks st.sent with
    | none => none
    | some ((f, n, per), k) =>
      let i := f + k / per
      let j := k % per
      let epi := r.count / r.ext.getD 0 1
      some { j := i * per + j, first := i * epi + j * r.perCell, n := min r.perCell (epi - j * r.perCell),
             final := k + 1 == n * per && s.rangeOut st.who.launch }
  else if st.sent ≥ streamCells r st then none
  else
    let first := st.startPos + st.sent * r.perCell
    some { j := st.sent, first := first, n := min r.perCell (r.count - first), final := st.sent + 1 == streamCells r st }

/-- Header of a stream's cell (R150, R77). DEDUCED: notes/assumptions/37. -/
def State.streamHead (s : State) (key : Nat) (r : AgnRec) (st : Stream) (x : NextCell) : Cell :=
  let c := cellOfDesc st.cdesc st.ctag r.tid
  { c with
    ctx := BitVec.ofNat 6 (agnCtx key)
    itag := BitVec.ofNat 24 (c.itag.toNat + x.j * (c.run.toNat + 1))
    aux := BitVec.ofNat 16 (c.aux.toNat + x.j)
    last := c.last || (st.last && x.final) }

/-- The next tag that a stream has still to send; none: unknown or none (R204, R213). -/
def State.streamTag (s : State) (key : Nat) (st : Stream) : Option Nat :=
  let r := agnRec (s.agn key).words
  match (s.agn key).cellOut with
  | some m => some m.cell.itag.toNat
  | none => match s.streamNext r st with
    | none => none
    | some x => some (s.streamHead key r st x).itag.toNat

/-- An activation keeps a stream of it that has ended (R437). -/
def State.streamRan (s : State) (key : Nat) (st : Stream) : State :=
  let col := wbits st.cdesc 31 8
  if !s.inActivation st.who col then s
  else s.modGraph st.who.job st.who.graph (fun g => { g with
    acts := g.acts.map (fun a => if !a.purged && a.colour == col then { a with ran := a.ran ++ [(key, st)] } else a) })

/-- A stream ends (R150 to R153): its token clears, a status is posted, its place in the shape is kept for the next STRM,
and pending parameters take hold. A re-issued stream keeps its token (R437). DEDUCED: notes/assumptions/37. -/
def State.streamFinish (s0 : State) (key : Nat) (st : Stream) (status : Nat) : State :=
  let s := s0.streamRan key st
  let a := s.agn key
  let r := agnRec a.words
  let pos := if st.again then st.back else if st.pers then 0 else st.startPos + st.sent * r.perCell
  let s1 := s.modAgn key (fun x => (({ x with
    stream := none, cellOut := none, pos := if pos ≥ r.count then 0 else pos } : Agn).takeParms).startLater)
  let s2 := (s1.ungate st.who.job (waiterStream key)).drainCheck st.who.job st.who.graph
  match st.tk with
  | some k =>
    let s3 := if status = 0 then s2 else s2.post st.who status 1 k
    if st.hold then s3 else (s3.clearTk st.who k).opEnd st.who a.stamp
  | none =>
    let s3 := if status = 0 then s2
      else s2.postReport (agnCl key) (agnCtx key) status 1 (agnNo key)
    if st.hold then s3 else s3.countDown st.who a.stamp

/-- A stream ends, unless data lost in an activation of a dynamic graph stop it until its colour is purged (R432). -/
def State.streamEnd (s : State) (key : Nat) (st : Stream) (status : Nat) : State :=
  if status = 0x80 && s.inActivation st.who (wbits st.cdesc 31 8) then
    s.modAgn key (fun a => { a with stream := some { st with hurt := true } })
  else s.streamFinish key st status

/-- Read the next cell and keep it for admission (R150, R152, R315). -/
def State.streamRead (s : State) (key : Nat) (st : Stream) (x : NextCell) : State :=
  let cl := agnCl key
  let a := s.agn key
  let r := agnRec a.words
  let job := st.who.job
  let h := s.streamHead key r st x
  let core := if st.tk.isSome then st.who.core else a.core
  let p := max st.stamp a.stamp
  let os := (List.range r.perCell).map (fun j => if j < x.n then some (x.first + j) else none)
  let fail (st' : State) (d va : Nat) : State :=
    if d = causeWait then st'
    else if d = causeMiss || d = causePerm then
      st'.faultWait (clusterQuarter cl) job d 1 st.who.sid (agnNo key) cl va (st.tk.getD 0) (waiterStream key)
    else st'.streamEnd key st (causeStatus d)
  if deviceOnly h || !s.cellOk cl job h then s.streamEnd key st 0x90
  else match s.readElems cl core job (h.cop.toNat / 128) r [] p os with
    | .error (d, va) => fail s d va.toNat
    | .ok (vs, g, _, s1) =>
      let side := h.side.toNat
      let c1 := { h with pay := packElems r.ebits vs }
      let send (st' : State) (c : Cell) (t : Nat) : State :=
        let m : MCell := {
          cell := c.seal, stamp := t, agent := sidAgent st.who.sid, who := st.who, age := st'.tickNo,
          report := match st.tk with
            | some k => .stream k
            | none => .streamNode key }
        (st'.modAgn key (fun y => { y with cellOut := some m, stamp := max y.stamp t })).tickUp
      if side = 63 then send s1 { c1 with car := presentCar os } g.t
      else if side = 0 || side > 8 then send s1 c1 g.t
      else match s1.readHeaders cl job [] p ((headerVas (s.tensor job r.tid) (os.filterMap id)).take side) with
        | .error (d, va) => fail s d va.toNat
        | .ok (hs, h2, _, s2) => send s2 { c1 with car := headerCar hs } (max g.t h2.t)

/-- One act of a streaming AGN. -/
def State.streamCell (s : State) (key : Nat) : State :=
  let a := s.agn key
  match a.stream with
  | none => s
  | some st =>
    if st.stopped || st.hurt || a.cellOut.isSome || s.retained (agnCl key) then s
    else match s.gate st.who.job (waiterStream key) with
      | .wait => s
      | .ends status => s.streamEnd key st status
      | .go =>
        let r := agnRec a.words
        match s.streamNext r st with
        | some x => s.streamRead key st x
        | none =>
          if !st.pers || st.ended then s.streamEnd key st 0
          else if st.asking then s
          else
            s.modAgn key (fun y => { y.takeParms with stream := some { st with asking := true } })

/-- The cell that an AGN holds has entered its ingress queue: the stream goes on (R150, R204). DEDUCED: notes/assumptions/38. -/
def State.streamSent (s : State) (key : Nat) : State :=
  s.modAgn key (fun a => { a with
    cellOut := none
    stream := a.stream.map (fun st => { st with sent := st.sent + 1 }) })

/-- STREAM_CELL (R150 to R153). -/
def execStreamCell (key : Nat) (s : State) : Res := .next (s.streamCell key)

/-- FRESUME_RETRY (R278): what waits on the record goes on. DEDUCED: notes/assumptions/41. -/
def execFresumeRetry (job tag : Nat) (s : State) : Res := .next (s.fresume job tag false)
/-- FRESUME_ABORT (R278): what waits on the record ends with its status. DEDUCED: notes/assumptions/41. -/
def execFresumeAbort (job tag : Nat) (s : State) : Res := .next (s.fresume job tag true)

end Sys2Proof.Machine
end

