-- ==== Sys2Proof/Machine/Graphs.lean ====
section
/-! DEFINITION. Machine/Graphs.lean: a launch binds its graph: what it needs free, what the loader writes, and how a graph's
nodes return (spec/02 R43 to R48, spec/01 R10, R12, spec/06 R153, spec/09 R195, R204, spec/16 R328, R329, spec/19 R381). -/

namespace Sys2Proof.Machine

/-! ## The image a launch binds -/

/-- A configured graph's lists stand before the image of its source file, which gives what no list entry carries. DEDUCED: notes/assumptions/65. -/
def mergeImage (cfg img : GraphImage) : GraphImage :=
  { img with
    clusters := img.clusters.foldl addOnce cfg.clusters
    pack := cfg.pack || img.pack
    live := if cfg.live = 256 then img.live else cfg.live
    sets := if cfg.sets.isEmpty then img.sets else cfg.sets
    agns := img.agns.filter (fun a => !cfg.agns.any (fun b => b.1 == a.1 && b.2.1 == a.2.1)) ++ cfg.agns
    routes := img.routes.filter (fun a => !cfg.routes.any (fun b => b.1 == a.1 && b.2.1 == a.2.1 && b.2.2.1 == a.2.2.1)) ++
      cfg.routes
    seeds := img.seeds.filter (fun a => !cfg.seeds.any (fun b => b.1 == a.1 && b.2.1 == a.2.1)) ++ cfg.seeds
    matrices := img.matrices.filter (fun a => !cfg.matrices.any (fun b => b.1 == a.1 && b.2.1 == a.2.1)) ++ cfg.matrices
    demands := img.demands.filter (fun a => !cfg.demands.any (fun b => b.1 == a.1 && b.2.1 == a.2.1)) ++ cfg.demands
    bars := if cfg.bars.isEmpty then img.bars else cfg.bars
    leases := if cfg.leases.isEmpty then img.leases else cfg.leases
    colls := if cfg.colls.isEmpty then img.colls else cfg.colls
    collAt := if cfg.colls.isEmpty then img.collAt else cfg.collAt
    nodes := if cfg.nodes.isEmpty then img.nodes else cfg.nodes }

/-- A list gives a handler's two blocks as two handler sets: the first is its entry, the second its resume block. DEDUCED: notes/assumptions/65. -/
def pairHandlers (img : GraphImage) : GraphImage :=
  match img.sets.filter (·.handler) with
  | a :: b :: _ => if a.resume = a.entry then
      { img with sets := img.sets.map (fun d => if d == a then { d with resume := b.entry } else d) } else img
  | _ => img

def State.launchImage (s : State) (l : Nat) (img : GraphImage) : GraphImage :=
  let x := s.launch l
  let g := s.graph x.job x.graph
  pairHandlers (if g.config then mergeImage g.img img else img)

/-! ## Named engines and open queues (R195, R204) -/

/-- Engines of a cluster that a graph names, by egress port. -/
def namedEngines (img : GraphImage) (cl : Nat) : List Nat :=
  let byDest (w : Word) : List Nat :=
    if bitOf w.toNat 52 || wbits w 53 5 ≥ 16 then [] else [wbits w 53 5]
  let streams := (img.streams.filter (fun d => (cellOfDesc d.cdesc d.ctag 0).target d.cluster == cl)).map
    (fun d => byDest d.cdesc)
  let rs : List Nat := (img.routes.filter (fun r => r.1 == cl)).map (fun r => r.2.1)
  let ms : List Nat := (img.matrices.filter (fun m => m.1 == cl)).map (fun m => m.2.1)
  let ds : List Nat := (img.demands.filter (fun d => d.1 == cl)).map (fun d => d.2.1)
  (rs ++ ms ++ streams.flatten ++ ds ++ (if img.colls.isEmpty then [] else [14]) ++
    (if img.leases.isEmpty then [] else [13])).eraseDups

/-- Stalls of an engine (R201); 0: it holds no matching store. -/
def stallsOf (e : Nat) : Nat :=
  if e ≤ 7 then 512 else if e ≤ 9 then 256 else if e = 10 then 1024 else if e = 15 then 256 else 0

/-- What a tag reserves in a cluster: engines and stalls (R204 step 1). -/
def tagDemand (img : GraphImage) (cl : Nat) : List (Nat × Nat) :=
  ((namedEngines img cl).filter (fun e => stallsOf e != 0)).map (fun e =>
    (e, match img.demands.find? (fun d => d.1 == cl && d.2.1 == e) with
      | some d => d.2.2
      | none => 1))

/-- Whether a destination of the graph lies in another cluster (R195). -/
def leavesCluster (img : GraphImage) (cl : Nat) : Bool :=
  let away (w : Word) : Bool := wbits w 58 6 != 63 && wbits w 58 6 != cl
  img.routes.any (fun r => r.1 == cl && away r.2.2.2) || img.matrices.any (fun m => m.1 == cl && away m.2.2.2.1) ||
  img.streams.any (fun d => d.cluster == cl && away d.cdesc)

/-- The queues that the loader opens in a market where the graph has nodes (R195). -/
def openQueues (img : GraphImage) (cl : Nat) : List Nat :=
  let named := namedEngines img cl
  let mine := img.agns.filter (fun a => a.1 == cl)
  let reads : List Nat := mine.map (fun a => a.2.1 / 2)
  let writes : List Nat := (mine.filter (fun a => decide ((agnRec a.2.2).role ≥ 2))).map (fun a => 16 + a.2.1 / 2)
  let ins : List Nat := (reads ++ named.map (fun e => 16 + e)).eraseDups
  let outs : List Nat := (named ++ writes ++ (if img.bars.any (fun b => b.cluster == cl) then [10] else []) ++
    (if leavesCluster img cl then [14] else [])).eraseDups
  (ins.map (fun i => (outs.map (fun e => [i * 66 + e * 2, i * 66 + e * 2 + 1])).flatten ++ [i * 66 + 64, i * 66 + 65])).flatten

def State.openFor (s : State) (img : GraphImage) (cl : Nat) : List Nat :=
  (openQueues img cl).foldl addOnce (s.market cl).opened

/-- Clusters in which the graph has nodes. -/
def imageClusters (img : GraphImage) : List Nat := (img.clusters ++ img.copyClusters).eraseDups

/-! ## What a bind waits for (R43, R46, R60) -/

/-- Free barrier objects of a cluster, lowest first. -/
def State.freeBarriers (s : State) (cl : Nat) : List Nat :=
  (List.range 256).filter (fun b => !(s.barrier (cl * 256 + b)).used)

/-- Member entries that a graph needs in a cluster from binding: reserved entries, member taps and the strands of its sets
(R328). -/
def membersNeeded (img : GraphImage) (cl : Nat) : Nat :=
  ((List.range img.bars.length).map (fun i =>
    let b := img.bars.getD i {}
    if b.cluster != cl then 0
    else b.remote + b.count + (img.taps.filter (fun t => t.bar == i && !t.count)).length +
      (b.members.map (fun m => (img.sets.getD m {}).count)).foldl (· + ·) 0)).foldl (· + ·) 0

/-- Every node that the graph needs is free (R46), its queues can be opened (R195), and no earlier picked launch with a
claim on its clusters still waits (R60). -/
def State.nodesFree (s : State) (l job : Nat) (img : GraphImage) : Bool :=
  img.agns.all (fun a => !s.agnHeld job a.1 a.2.1) &&
  img.routes.all (fun r => !s.routeHeld job r.1 r.2.1 r.2.2.1) &&
  img.matrices.all (fun m => !s.matHeld job m.1 m.2.1 m.2.2.1) &&
  img.tiles.all (fun t => (t.2.2 == 3 && s.tileRole t.1 t.2.1 == 3) || !s.tileHeld t.1 t.2.1) &&
  img.pipes.all (fun p => !s.tileHeld p.cluster p.tile) &&
  (imageClusters img).all (fun cl =>
    decide ((img.bars.filter (fun b => b.cluster == cl)).length ≤ (s.freeBarriers cl).length) &&
    decide (s.membersUsed cl + membersNeeded img cl ≤ 4096) && decide ((s.openFor img cl).length ≤ 1024)) &&
  (s.work.claims1.takeWhile (· != l)).all (fun k =>
    let x := s.launch k
    x.bound || !(s.graph x.job x.graph).used ||
      !(imageClusters (s.graph x.job x.graph).img).any (fun c => (imageClusters img).contains c))

/-- An image names only places that the device has, in the launch's partition. -/
def State.imageOk (s : State) (q : Nat) (img : GraphImage) : Bool :=
  let here (cl : Nat) : Bool := decide (cl < 48) && (imageClusters img).contains cl && s.partOfCluster cl == s.partOf q
  !img.clusters.isEmpty && (imageClusters img).all here &&
  img.agns.all (fun a => here a.1 && decide (a.2.1 < 32) && agnRecordOk a.2.2 && a.2.2.length == 6) &&
  img.routes.all (fun r => here r.1 && decide (4 ≤ r.2.1 ∧ r.2.1 ≤ 10) && decide (r.2.2.1 < 16)) &&
  img.matrices.all (fun m => here m.1 && decide (m.2.1 < 4) && decide (m.2.2.1 < 4)) &&
  img.tiles.all (fun t => here t.1 && decide (t.2.1 < 16) && decide (t.2.2 ≤ 4)) &&
  img.pipes.all (fun p => here p.cluster && decide (p.tile < 16) && decide (1 ≤ p.words ∧ p.words ≤ 49152)) &&
  img.streams.all (fun d => here d.cluster && decide (d.agn < 32)) &&
  img.bars.all (fun b => here b.cluster && decide (b.remote ≤ 64)) && decide (img.bars.length ≤ 32) &&
  img.taps.all (fun t => here t.cluster && decide (t.agn < 32) && decide (t.bar < img.bars.length) && decide (t.every ≥ 1)) &&
  img.sets.all (fun d => d.clusters.all here && wbits d.entry 0 2 == 0) &&
  decide (img.leases.length ≤ 8) && decide (32 ≤ img.live ∧ img.live ≤ 4096)

/-! ## What the loader writes -/

/-- Bytes written as the loader (agent 0x0001) from a byte address of an AGN's space, within lines (R10). -/
def State.loadBytes (s : State) (cl core job : Nat) (r : AgnRec) (a : Int) : Nat → List Byte → State
  | 0, _ => s
  | _, [] => s
  | fuel + 1, bs =>
    let n := min bs.length (64 - (a % 64).toNat)
    let s1 := match s.agnPlace cl core job r a n true with
      | .error _ => s
      | .ok pl => match s.engWrite (s.partOfCluster cl) pl n (leNat (bs.take n)) 0 loaderAgent with
        | .error _ => s
        | .ok (_, t) => t
    s1.loadBytes cl core job r (a + (n : Int)) fuel (bs.drop n)

/-- Words of structure memory: each is its word's first write (R10, R137). -/
def State.loadStruct (s : State) (cl core job : Nat) (r : AgnRec) (a : Int) : List Word → State
  | [] => s
  | w :: ws =>
    let s1 := match s.agnPlace cl core job r a 8 true with
      | .error _ => s
      | .ok pl => match s.writePiece (s.partOfCluster cl) 0 loaderAgent pl 8 w.toNat with
        | .error _ => s
        | .ok (_, t) => t
    s1.loadStruct cl core job r (a + 8) ws

/-- The core whose buffers a graph's engines reach in a cluster. -/
def imageCore (img : GraphImage) (cl : Nat) : Nat :=
  match img.wbases.find? (fun w => w.1 == cl) with
  | some w => w.2
  | none => cl * 8

def State.bindAgns (s : State) (job : Nat) (img : GraphImage) : State :=
  img.agns.foldl (fun st a =>
    let wait := (img.froms.find? (fun f => f.1 == a.1 && f.2.1 == a.2.1)).map (fun f => st.jobAgn job a.1 f.2.2)
    (st.writeAgn (st.jobAgn job a.1 a.2.1) a.2.2 wait (imageCore img a.1)).modAgn (st.jobAgn job a.1 a.2.1)
      (fun x => { x with node := img.streams.any (fun d => d.cluster == a.1 && d.agn == a.2.1) })) s

def State.writeTiles (s : State) (img : GraphImage) : State :=
  let s1 := img.tiles.foldl (fun st t =>
    if t.2.2 = 4 || st.tileRole t.1 t.2.1 != t.2.2 then st.setRole t.1 t.2.1 t.2.2 else st) s
  img.pipes.foldl (fun st p => if st.tileRole p.cluster p.tile != 2 then st.setRole p.cluster p.tile 2 else st) s1

/-- Pipes and circular buffers start empty (R12, R44). -/
def State.writePipes (s : State) (img : GraphImage) : State :=
  let s1 := img.agns.foldl (fun st a =>
    let r := agnRec a.2.2
    if r.port == 3 && st.tileRole a.1 r.tile == 2 then st.modPipe (fifoKey a.1 r) (fun p => { next := p.next }) else st) s
  img.pipes.foldl (fun st p =>
    match img.agns.find? (fun a => a.1 == p.cluster && a.2.1 == p.get) with
    | none => st
    | some a => st.modPipe (fifoKey p.cluster (agnRec a.2.2)) (fun q => { q with words := p.words })) s1

def State.writeData (s : State) (job : Nat) (img : GraphImage) : State :=
  let recOf (cl n : Nat) : Option AgnRec := (img.agns.find? (fun a => a.1 == cl && a.2.1 == n)).map (fun a => agnRec a.2.2)
  let s1 := img.data.foldl (fun st d => match recOf d.1 d.2.1 with
    | none => st
    | some r => st.loadBytes d.1 (imageCore img d.1) job r (r.base : Int) (d.2.2.length + 1) d.2.2) s
  img.structData.foldl (fun st d => match recOf d.1 d.2.1 with
    | none => st
    | some r => st.loadStruct d.1 (imageCore img d.1) job r (r.base : Int) d.2.2) s1

/-- The tensors that a source file declares enter the job's table (R9, R140). -/
def State.writeTensors (s : State) (job : Nat) (img : GraphImage) : State :=
  s.modJob job (fun j => { j with
    tensors := (img.tensors.filter (fun t => decide (1 ≤ t.1 ∧ t.1 ≤ 4095))).foldl (fun m t => tset m t.1 t.2) j.tensors })

/-- Barrier objects: the lowest free ones of their clusters, with the reset values of R329. -/
def State.writeBarriers (s : State) (job g : Nat) (img : GraphImage) : State :=
  (List.range img.bars.length).foldl (fun st i =>
    let d := img.bars.getD i {}
    match st.freeBarriers d.cluster with
    | [] => st
    | b :: _ =>
      let taps := (List.range img.taps.length).filter (fun k => (img.taps.getD k {}).bar == i && !(img.taps.getD k {}).count)
      let o : Barrier := {
        used := true, drop := d.drop, nmem := d.remote + d.count + taps.length, remote := d.remote, loc := d.count,
        report := d.report.getD 0, members := taps.map (fun k => { id := k, tap := true }) }
      (st.modBarrier (d.cluster * 256 + b) (fun _ => o)).modGraph job g (fun x =>
        { x with bars := tset x.bars i (d.cluster * 256 + b + 1) })) s

/-- The lease slots of a launch in every quarter of its region (R351, R363). -/
def State.writeLeases (s : State) (l : Nat) (img : GraphImage) : State :=
  let qs := ((imageClusters img).map clusterQuarter).eraseDups
  qs.foldl (fun st q => (List.range img.leases.length).foldl (fun st2 i =>
    let d := img.leases.getD i (0, 0)
    st2.modLease (slotKey l q i) (fun _ => { used := true, kind := d.1 % 8, prio := d.2 % 8 })) st) s

def State.writeColls (s : State) (root job g : Nat) (img : GraphImage) : State :=
  s.modGraph job g (fun x => { x with
    colls := (List.range img.colls.length).map (fun i => (i, { record := s.rankRecord root img.nodes (img.colls.getD i 0) })) })

/-- Stream nodes start as if a STRM had been released (R153). -/
def State.startNodes (s : State) (l job g : Nat) (img : GraphImage) : State :=
  let x := s.launch l
  img.streams.foldl (fun st d =>
    let key := st.jobAgn job d.cluster d.agn
    let r := agnRec (st.agn key).words
    let who : Owner := { launch := l, graph := g, phase := x.phase, job := job, core := d.cluster * 8 }
    let str : Stream := {
      who := who, cdesc := d.cdesc, ctag := d.ctag, last := d.last, pers := r.pers, stamp := x.stamp,
      left := if r.pers || ctagOff d.ctag = 0 then none else some (ctagOff d.ctag) }
    (st.countUp who).modAgn key (fun a => a.give str)) s

/-- The bound nodes count in their clusters until they return (R52). -/
def State.countNodes (s : State) (l : Nat) (x : Launch) (cls : List Nat) (up : Bool) : State :=
  cls.foldl (fun st cl => ((1, l) :: launchUnits x).foldl (fun u y =>
    if up then u.countUpFrom y.1 y.2 cl 2 else u.countDownFrom y.1 y.2 cl 2) st) s

/-- The largest timestamp that the loader's writes have taken. -/
def State.bindStamp (s : State) (l : Nat) : Nat := max (s.launch l).stamp (s.maxStamp (s.partOf (s.launch l).quarter))

/-- The launch binds its graph: the tags have been taken. DEDUCED: notes/assumptions/65. -/
def State.bindNodes (s : State) (l : Nat) (img : GraphImage) : State :=
  let x := s.launch l
  let job := x.job
  let g := x.graph
  let root := s.partOf x.quarter
  let s1 := (imageClusters img).foldl (fun st cl => st.modMarket cl (fun m => { m with opened := st.openFor img cl })) s
  let s2 := s1.modGraph job g (fun y => { used := true, img := img, config := y.config, launch := l, bound := true })
  let s3 := ((s2.writeTiles img).bindAgns job img).writePipes img
  let s4 := (s3.writeTensors job img).writeData job img
  let s5 := img.routes.foldl (fun st r => st.writeRoute job r.1 r.2.1 r.2.2.1 r.2.2.2) s4
  let s6 := img.seeds.foldl (fun st r => st.writeSeed job r.1 r.2.1 r.2.2) s5
  let s7 := img.matrices.foldl (fun st m => st.writeMatrix job m.1 m.2.1 m.2.2.1 m.2.2.2.1 m.2.2.2.2) s6
  let s8 := ((s7.writeBarriers job g img).writeLeases l img).writeColls root job g img
  let s9 := (List.range img.taps.length).foldl (fun st i => st.modTap (tapKey job g i) (fun _ => {})) s8
  let rng : Option Range := match x.range with
    | some r => some r
    | none => if img.range = 0 then none else some { size := img.range, minchk := img.minchk }
  let s10 := s9.modLaunch l (fun y => { y with bound := true, range := rng, stamp := s9.bindStamp l })
  (s10.countNodes l x (imageClusters img) true).startNodes l job g img

/-- GRAPH_BIND (R43, R46). A job card starts its strands as contexts come free; a pack starts with PACK_START. DEDUCED: notes/assumptions/65. -/
def State.graphBind (s : State) (l : Nat) (img0 : GraphImage) : State :=
  let x := s.launch l
  let img := s.launchImage l img0
  if !x.used || x.ended || x.bound || x.cancelled then s
  else if (s.graph x.job x.graph).live || !s.imageOk x.quarter img || !s.nodesFree l x.job img then s
  else match s.takeTags x.job (imageClusters img) with
    | none => s
    | some s1 => ((imageClusters img).foldl (fun st cl => st.wakeIsland cl) s1).bindNodes l img

/-! ## A graph's nodes return (R48) -/

/-- The graph retires: its barrier objects, its grants and its queues are free, and its nodes leave the counters. DEDUCED: notes/assumptions/64. -/
def State.retireGraph (s : State) (job g : Nat) : State :=
  let x := s.graph job g
  if !x.live then s
  else
    let l := s.launch x.launch
    let s1 := x.bars.foldl (fun st b => if b.2 = 0 then st else st.modBarrier (b.2 - 1) (fun o => { o with used := false })) s
    let s2 := x.colls.foldl (fun st c => st.ungrant c.2) s1
    let s3 := s2.modGraph job g (fun y => { y with retired := true })
    let still := (s3.liveGraphs).map (fun e => e.2.img)
    let s4 := (imageClusters x.img).foldl (fun st cl =>
      let keep := (still.map (fun i => if (imageClusters i).contains cl then openQueues i cl else [])).flatten
      st.modMarket cl (fun m => { m with opened := m.opened.filter (fun q => keep.contains q) })) s3
    let s5 := s4.countNodes x.launch l (imageClusters x.img) false
    let s6 := if unitLive s5 1 x.launch then s5 else s5.endLaunch x.launch
    (s6.endUpper 3 (phaseUnit job l.phase)).endUpper 4 job

end Sys2Proof.Machine
end

