-- ==== Sys2Proof/Machine/Mesh.lean ====
section
/-! DEFINITION. Machine/Mesh.lean: cells on their way to another cluster: the mesh of a quarter, the die-to-die modules, their
flits and replay buffers (spec/03 R77, spec/09 R193, spec/21 R426 to R430, spec/22 R445 to R448, spec/23 R450, R459). -/

namespace Sys2Proof.Machine

def State.ucMod (s : State) (die m : Nat) : UcMod := tget s.lnk.ucs (die * 64 + m)
def State.modUc (s : State) (die m : Nat) (f : UcMod → UcMod) : State :=
  s.onLnk (fun l => { l with ucs := tmod l.ucs (die * 64 + m) f })

/-- The other end of a module: modules 0 to 7 of a quarter stand on its edge within its row of quarters, 8 to 15 on its
edge within its column, 16 to 19 on its edge with an I/O die (4 north, 5 south), where they follow by quarter. -/
def ucFar (die m : Nat) : Nat × Nat :=
  if die < 4 then
    (if m < 8 then (Nat.xor die 1, m) else if m < 16 then (Nat.xor die 2, m)
     else (4 + die / 2, die % 2 * 4 + m % 4))
  else ((die - 4) * 2 + m / 4 % 2, 16 + m % 4)

/-- The two quarters of a boundary register: the sender, the receiver (R459). -/
def mbndEnds (n : Nat) : Nat × Nat :=
  let e := match n / 2 with
    | 0 => (0, 1)
    | 1 => (2, 3)
    | 2 => (0, 2)
    | _ => (1, 3)
  if n % 2 = 0 then e else (e.2, e.1)

/-- The boundary register of a hop between neighbouring quarters. -/
def mbndOf (a b : Nat) : Nat := ((List.range 8).find? (fun n => mbndEnds n == (a, b))).getD 0

/-- The next quarter on the way: within the row first. DEDUCED: notes/assumptions/84. -/
def nextQuarter (a b : Nat) : Nat := if a % 2 = b % 2 then Nat.xor a 2 else Nat.xor a 1

/-! ## Flits (R427) -/

def ucSeq (f : Flit) : Nat := flitBits f 120 8
def ucAck (f : Flit) : Nat := flitBits f 112 8
def ucNak (f : Flit) : Bool := flitBits f 111 1 == 1
def ucAv (f : Flit) : Bool := flitBits f 110 1 == 1
def ucType (f : Flit) : Nat := flitBits f 107 3
def ucRk (f : Flit) : Nat := flitBits f 105 2
def ucRseq (f : Flit) : Nat := flitBits f 89 16
def ucPcl (f : Flit) : Nat := flitBits f 83 6
/-- The cell that a CELL flit holds, and its stamp. -/
def ucCell (f : Flit) : Cell := cellOfNumber (flitBits f 128 1280)
def ucStamp (f : Flit) : Nat := flitBits f 1408 48
def ucCrcOk (f : Flit) : Bool := flitBits f 2016 32 == crc32 f.toNat 252

/-- A flit before the module adds SEQ, ACK and CRC. -/
def mkUcFlit (typ rk rseq pcl body : Nat) : Flit :=
  BitVec.ofNat 2048 (at' 107 (typ % 8) + at' 105 (rk % 4) + at' 89 (rseq % 65536) + at' 83 (pcl % 64) +
    at' 128 (body % 2 ^ 1888))

def finishUc (f : Flit) (seq : Nat) (ack : Option Nat) : Flit :=
  let v := f.toNat % 2 ^ 110 + f.toNat / 2 ^ 128 % 2 ^ 1888 * 2 ^ 128 + at' 120 (seq % 256) +
    (match ack with
     | some a => at' 112 (a % 256) + at' 110 1
     | none => 0)
  BitVec.ofNat 2048 (v + at' 2016 (crc32 v 252))

/-- A CELL flit: the cell, its stamp, and what R430 asks of a combining request or reply. -/
def cellFlit (src : Nat) (m : MCell) : Flit :=
  mkUcFlit 1 m.rk m.rseq src (m.cell.number + at' 1280 (m.stamp % 2 ^ 48))

/-! ## Sending (R428) -/

/-- A module that is up moves what waits into its replay buffer, which holds 64 flits, and sends it. -/
def UcMod.pump : Nat → UcMod → UcMod
  | 0, u => u
  | n + 1, u =>
    match u.out with
    | [] => u
    | f :: rest =>
      if u.state ≥ 2 || u.replay.length ≥ 64 then u
      else UcMod.pump n { u with
        out := rest, txSeq := (u.txSeq + 1) % 256, replay := u.replay ++ [finishUc f u.txSeq u.rxLast] }

def State.pumpUc (s : State) (die m : Nat) : State := s.modUc die m (fun u => UcMod.pump u.out.length u)

/-- Hand a flit to a module; `c`: the cell that a CELL flit carries. -/
def State.sendUc (s : State) (die m : Nat) (f : Flit) (c : Option MCell) : State :=
  (s.modUc die m (fun u => { u with out := u.out ++ [f], cells := u.cells ++ c.toList })).pumpUc die m

/-- The module that the cells of the i-th cluster of a quarter take to a neighbour (R426, R459). -/
def State.hopModule (s : State) (a b i : Nat) : Nat :=
  wbits (tget s.sys.mbnd (mbndOf a b)) (3 * (i % 12)) 3 + (if a / 2 = b / 2 then 0 else 8)

/-- Whether traffic may take a hop: the edge is open, and its module is not DOWN (R447, R450). -/
def State.hopOpen (s : State) (a b i : Nat) : Bool :=
  bitOf (tget s.sys.mbnd (mbndOf a b)).toNat 63 && (s.ucMod a (s.hopModule a b i)).state != 3

/-- Cells of a source cluster are still with a module that its traffic has been moved away from: what follows them waits, so that
the order of R426 holds across the move. DEDUCED: notes/assumptions/84. -/
def State.hopBehind (s : State) (a b src : Nat) : Bool :=
  (List.range 8).any (fun k =>
    let m := k + (if a / 2 = b / 2 then 0 else 8)
    let u := s.ucMod a m
    m != s.hopModule a b src && (u.replay ++ u.out).any (fun f => ucType f == 1 && ucPcl f == src))

/-- Send a cell's flit from die a toward quarter b; none: it cannot go yet. -/
def State.sendHop (s : State) (a b src : Nat) (m : MCell) : Option State :=
  let n := nextQuarter a b
  if s.hopOpen a n src && !s.hopBehind a n src then some (s.sendUc a (s.hopModule a n src) (cellFlit src m) (some m)) else none

/-- Traffic that a boundary register moves away from a module that is DOWN: its replay buffer and what waits go, in order,
to the modules that take them over, ahead of new traffic (R447). -/
def State.moveDown (s : State) (n : Nat) : State :=
  let (a, b) := mbndEnds n
  let base := if a / 2 = b / 2 then 0 else 8
  ((List.range 8).map (fun k => base + k)).foldl (fun st m =>
    let u := st.ucMod a m
    if u.state != 3 then st
    else
      let fs := u.replay ++ u.out
      let way (f : Flit) : Nat := st.hopModule a b (ucPcl f)
      let stay := fs.filter (fun f => way f == m)
      let cellsOf (k : Nat) : List MCell := u.cells.filter (fun c =>
        fs.any (fun f => way f == k && ucType f == 1 && ucCell f == c.cell))
      let st1 := st.modUc a m (fun x => { x with replay := [], out := stay, cells := cellsOf m })
      ((List.range 8).map (fun k => base + k)).foldl (fun st2 k =>
        if k = m then st2
        else (st2.modUc a k (fun x => { x with
          out := fs.filter (fun f => way f == k) ++ x.out, cells := cellsOf k ++ x.cells })).pumpUc a k) st1) s

/-- A module starts to train: what is in flight is lost, both ends keep their replay buffers (R429, R448). `full`: it may
come back to ×64 though it is degraded (R447). DEDUCED: notes/assumptions/84. -/
def State.ucRetrain (s : State) (die m : Nat) (full : Bool) : State :=
  if (s.ucMod die m).state = 2 then s
  else
    let (d, k) := ucFar die m
    let start (x : UcMod) : UcMod := { x with state := 2, rtrn := x.rtrn + 1, nakked := false, try64 := full || x.wide }
    (s.modUc die m start).modUc d k start

/-! ## To another cluster (R77, R193, R430, R450) -/

/-- What egress 14 of a cluster does with a cell for another cluster. -/
inductive MeshOut where
  | sent (s : State)
  | refused
  | wait
  deriving Inhabited

/-- A combining cell for another quarter is numbered for its pair of clusters (R430). -/
def State.numberReq (s : State) (cl dst : Nat) (m : MCell) : MCell × State :=
  if m.rk = 2 || m.cell.cop.toNat / 128 != 5 then (m, s)
  else
    let k := cl * 64 + dst
    let n := tgetD 0 s.lnk.rseq k
    ({ m with rk := 1, rseq := n }, s.onLnk (fun l => { l with rseq := tset l.rseq k ((n + 1) % 65536) }))

/-- A cell leaves a cluster for another: CTX becomes the job's tag there and CHK is made anew (R77). A cell for another
partition, or for a cluster where its job has no tag, is refused. -/
def State.meshSend (s : State) (cl : Nat) (m : MCell) : MeshOut :=
  let dst := m.target cl
  match s.ctxTag m.who.job dst with
  | none => .refused
  | some c =>
    if s.partOfCluster cl != s.partOfCluster dst then .refused
    else
      let m1 := { m with cell := ({ m.cell with ctx := BitVec.ofNat 6 c } : Cell).seal }
      if clusterQuarter cl = clusterQuarter dst then
        .sent (s.onLnk (fun l => { l with mesh := tmod l.mesh dst (fun x => x ++ [m1]) }))
      else
        let (m2, s1) := s.numberReq cl dst m1
        match s1.sendHop (clusterQuarter cl) (clusterQuarter dst) cl m2 with
        | none => .wait
        | some s2 => .sent s2

end Sys2Proof.Machine
end

