-- ==== Sys2Proof/Machine/Arrive.lean ====
section
/-! DEFINITION. Machine/Arrive.lean: stalls, and what becomes of a cell that leaves an egress input buffer (spec/07 R169, R172,
R173, spec/09 R201 to R204, spec/12 R240, R243, R244, R258). -/

namespace Sys2Proof.Machine

/-! ## Stalls (R201, R204) -/

/-- The rendezvous engines: the ports that hold a matching store. -/
def isRendezvous (e : Nat) : Bool := stallsOf e != 0

/-- The waiting tokens of a port that hold a stall. -/
def State.stallTokens (s : State) (cl e : Nat) : List MCell :=
  let p := s.port cl e
  let more : List MCell :=
    if e ≤ 3 then ((List.range 4).map (fun c => (s.matCtx (matKey cl e c)).queue ++ (s.matCtx (matKey cl e c)).pend)).flatten
    else if e = 8 then ((tget s.eng.rows cl).map (fun r => r.cells)).flatten
    else if e = 9 then ((tget s.eng.ixjobs cl).map (fun j => j.cells)).flatten
    else if e = 10 then ((s.eng.bars.filter (fun b => b.1 / 256 == cl)).map (fun b => b.2.held)).flatten
    else if e = 15 then tget s.eng.comps cl
    else []
  (p.stalls.map (fun t => t.cell) ++ p.gates ++ p.cmpls ++ more).filter (fun m => m.stall != 0)

/-- Stalls that a tag of a graph reserves at a port. -/
def demandAt (img : GraphImage) (cl e : Nat) : Nat :=
  match (tagDemand img cl).find? (fun d => d.1 == e) with
  | some d => d.2
  | none => 0

/-- Stalls that the live tags of every graph reserve at a port. -/
def State.reservedStalls (s : State) (cl e : Nat) : Nat :=
  s.liveGraphs.foldl (fun n g => n + (g.2.adm - g.2.lo) * demandAt g.2.img cl e) 0

/-- Unreserved stalls that no token holds. -/
def State.unreserved (s : State) (cl e : Nat) : Nat :=
  stallsOf e - s.reservedStalls cl e - ((s.stallTokens cl e).filter (fun m => m.stall == 1)).length

/-- The stall that a token with n tags from t takes: one reserved for one of its tags, otherwise an unreserved one; none:
no stall can be had (R172, R204). DEDUCED: notes/assumptions/47. -/
def State.takeStall (s : State) (cl e : Nat) (who : Owner) (t n : Nat) : Option Nat :=
  let g := s.graph who.job who.graph
  let d := if g.live then demandAt g.img cl e else 0
  let held (u : Nat) : Nat :=
    ((s.stallTokens cl e).filter (fun m => m.stall == 2 + u && m.who.job == who.job && m.who.graph == who.graph)).length
  let tags := ((List.range n).map (fun i => (t + i) % 2 ^ 24)).filter (fun u => decide (g.ahead u < g.adm - g.lo))
  match tags.find? (fun u => decide (held u < d)) with
  | some u => some (2 + u)
  | none => if s.unreserved cl e > 0 then some 1 else none

/-- A token, by its number, finds no stall: the engine counts the event once (R204). DEDUCED: notes/assumptions/47. -/
def State.countShort (s : State) (cl e age : Nat) : State :=
  if (s.port cl e).shorts.contains age then s
  else (s.modPort cl e (fun p => { p with shorts := age :: p.shorts })).modMarket cl (fun m => { m with short := m.short + 1 })
def State.clearShort (s : State) (cl e age : Nat) : State :=
  s.modPort cl e (fun p => { p with shorts := p.shorts.filter (· != age) })

/-! ## Statuses of a cell that goes on -/

/-- Post a status of a cell's operation without ending it. -/
def State.postCell (s : State) (cl : Nat) (m : MCell) (status : Nat) : State :=
  let id := m.cell.itag.toNat
  match m.report with
  | .strandCell _ => s.post m.who status 2 id
  | .strandCopy _ _ => s.post m.who status 2 id
  | .strandOp _ => s.post m.who status 2 id
  | .again _ => s.post m.who status 2 id
  | .stream tk => s.post m.who status 1 tk
  | .streamNode agn => s.postReport (agnCl agn) (agnCtx agn) status 1 (agnNo agn)
  | .engine => s.postReport cl m.cell.ctx.toNat status 2 id
  | .coll _ _ _ => s
  | .drain _ _ => s
  | .device => s

/-! ## Outcomes of an arrival -/

/-- A cell is accepted, or stays where it is: for want of a stall, or because the engine's side has no room. -/
inductive Arrival where
  | took (s : State)
  | noStall
  | busy
  deriving Inhabited

/-- Whether a delivered class-0 cell of a port is still to be acted on. -/
def Port.busy (p : Port) : Bool := p.inbox.any (fun m => !m.cell.cls)

def State.intoInbox (s : State) (cl e : Nat) (m : MCell) : State :=
  s.modPort cl e (fun p => { p with inbox := p.inbox ++ [m] })

/-- A cell that stands ready to be acted on. A gate cell that has been let go takes its place at once. -/
def State.arriveInbox (s : State) (cl e : Nat) (m : MCell) : Arrival :=
  if (s.port cl e).busy && m.stall = 0 && !m.cell.gate then .busy else .took (s.intoInbox cl e { m with stall := 0 })

/-! ## Vector operands (R169, R172, R173) -/

/-- The positions that a vector operation uses (R174 to R181). -/
def vecPositions (cop : Nat) : List Nat :=
  if cop = 0x106 || cop = 0x10F then [0, 1, 2]
  else if cop = 0x118 || cop = 0x11D then [0, 2]
  else if [0x10B, 0x10C, 0x110, 0x117, 0x119, 0x11A, 0x11E].contains cop then [0]
  else [0, 1]

/-- The element format of a tensor entry; none: its FMT or BLK is reserved, or no entry is named (R216). -/
def State.cellFmt (s : State) (job tid : Nat) : Option EFmt :=
  let e := s.tensor job tid
  if fmtBlkOk (tfmt e) (tblk e) then efmt (tfmt e) else none

/-- What is wrong with a vector cell on arrival: a status, 0 for nothing. DEDUCED: notes/assumptions/49. -/
def State.vecCheck (s : State) (m : MCell) : Nat :=
  let c := m.cell
  let side := c.side.toNat
  if !(vecPositions c.cop.toNat).contains c.pos.toNat then 0x90
  else match s.cellFmt m.who.job c.tid.toNat with
    | none => 0x91
    | some f =>
      if f.bits = 4 then 0x98
      else if decide (1 ≤ side ∧ side ≤ 8) then 0x90
      else if c.run.toNat + 1 > min 32 (1024 / f.bits) then 0x90
      else if c.itag.toNat + c.run.toNat > 2 ^ 24 - 1 then 0x90
      else 0

/-- The key on which operands match: CTX, COL, COP, ROUTE. -/
def vecKey (c : Cell) : Nat :=
  ((c.ctx.toNat * 256 + c.col.toNat) * 1024 + c.cop.toNat) * 16 + c.aux.toNat / 4096

/-- First and last tag of a waiting token. -/
def Stall.t0 (t : Stall) : Nat := t.cell.cell.itag.toNat + t.lo
def Stall.t1 (t : Stall) : Nat := t.t0 + t.n - 1

/-- Choices of one from each list. -/
def choices {α : Type} : List (List α) → List (List α)
  | [] => [[]]
  | xs :: rest => (xs.map (fun x => (choices rest).map (fun ys => x :: ys))).flatten

/-- The tags that all tokens of a choice share: first and last. -/
def shared (ts : List Stall) : Option (Nat × Nat) :=
  match ts with
  | [] => none
  | t :: rest =>
    let a := rest.foldl (fun m x => max m x.t0) t.t0
    let b := rest.foldl (fun m x => min m x.t1) t.t1
    if a ≤ b then some (a, b) else none

/-- Waiting tokens of a port under a key, at a position. -/
def Port.waiting (p : Port) (key pos : Nat) : List Stall :=
  p.stalls.filter (fun t => vecKey t.cell.cell == key && t.cell.cell.pos.toNat == pos)

/-- Whether a token can fire with what waits. -/
def Port.hasPartners (p : Port) (t : Stall) : Bool :=
  let key := vecKey t.cell.cell
  let others := (vecPositions t.cell.cell.cop.toNat).filter (fun q => q != t.cell.cell.pos.toNat)
  (choices (others.map (fun q => p.waiting key q))).any (fun ts => (shared (t :: ts)).isSome)

/-- The parts of elements lo to lo + n − 1 whose tags no token of a list holds. -/
def freeParts (base : Nat) (ws : List Stall) (lo n : Nat) : List (Nat × Nat) :=
  ws.foldl (fun parts w => (parts.map (fun p =>
    let a := base + p.1
    let b := a + p.2
    let c := max a w.t0
    let d := min b (w.t1 + 1)
    if c ≥ d then [p]
    else (if a < c then [(p.1, c - a)] else []) ++ (if d < b then [(d - base, b - d)] else []))).flatten) [(lo, n)]

/-- An operand cell arrives at a vector engine. The tags that a waiting token of its key and position holds already are
discarded with VDUP; the rest waits, in one token for each part. A cell of an operation with one operand waits for nothing
but its engine, without a stall. DEDUCED: notes/assumptions/47. -/
def State.arriveVec (s : State) (cl e : Nat) (m : MCell) : Arrival :=
  let c := m.cell
  let bad := s.vecCheck m
  if bad != 0 then .took (s.cellEnd cl m bad m.stamp)
  else if (vecPositions c.cop.toNat).length = 1 then
    if (s.port cl e).stalls.any (fun t => t.cell.stall == 0) && m.stall = 0 && !c.gate then .busy
    else .took (s.modPort cl e (fun p => { p with
      stalls := p.stalls ++ [{ cell := { m with stall := 0 }, n := c.run.toNat + 1, age := s.tickNo }] })).tickUp
  else
    let r := c.run.toNat + 1
    let parts := freeParts c.itag.toNat ((s.port cl e).waiting (vecKey c) c.pos.toNat) 0 r
    match parts with
    | [] => .took (s.cellEnd cl m 0x99 m.stamp)
    | (lo, n) :: more =>
      let first : Stall := { cell := m, lo := lo, n := n, age := s.tickNo }
      let code := if m.stall != 0 then some m.stall
        else match s.takeStall cl e m.who (c.itag.toNat + lo) n with
          | some k => some k
          | none => if (s.port cl e).hasPartners first then some 0 else none
      match code with
      | none => .noStall
      | some k =>
        let put (st : State) (t : Stall) : State := st.modPort cl e (fun p => { p with stalls := p.stalls ++ [t] })
        let s1 := put s { first with cell := { m with stall := k } }
        let s2 := more.foldl (fun st p => put st
          { cell := { m with stall := (st.takeStall cl e m.who (c.itag.toNat + p.1) p.2).getD 0 }, lo := p.1, n := p.2,
            age := s.tickNo }) s1
        let dup := decide ((parts.map (fun p => p.2)).foldl (· + ·) 0 < r)
        .took ((if dup then s2.postCell cl m 0x99 else s2).tickUp)

/-! ## Matrix cells (R240, R243, R244, R258) -/

/-- The positions of a matrix operation. -/
def matPositions (cop : Nat) : List Nat :=
  if cop = 0x080 then [3] else if cop = 0x082 then [2] else if cop = 0x083 || cop = 0x084 then [0, 2] else [0]

/-- The context of an engine that a context tag is bound to. -/
def State.matBound (s : State) (cl me ctx : Nat) : Option Nat :=
  (List.range 4).find? (fun k =>
    let w := (s.matCtx (matKey cl me k)).cfg0
    bitOf w.toNat 0 && wbits w 1 6 == ctx)

/-- The strand that receives a matrix context's posted statuses. -/
def State.postMat (s : State) (k status itag : Nat) : State :=
  if status = 0 then s else s.postSid (wbits (s.matCtx k).cfg1 21 11) status 2 itag

/-- A matrix cell's operation ends with a failure, which the context's REPORT strand hears of (R245). -/
def State.matRefuse (s : State) (cl k : Nat) (m : MCell) (status : Nat) : State :=
  (s.postMat k status m.cell.itag.toNat).cellEnd cl m 0 m.stamp

def isPairCop (cop : Nat) : Bool := cop == 0x083 || cop == 0x084

/-- Whether two cells are the partners of a sparse row: CTX, COL, COP and ITAG. -/
def pairsWith (a b : Cell) : Bool := a.ctx == b.ctx && a.col == b.col && a.cop == b.cop && a.itag == b.itag

/-- Whether a context takes no row: parked, frozen, being loaded or saved. -/
def MatCtx.halted (x : MatCtx) : Bool := x.parked || x.frozen || x.loading.isSome || x.saving.isSome

/-- Whether a cell would be served at once. -/
def MatCtx.servesNow (x : MatCtx) (c : Cell) : Bool :=
  !x.halted && x.drainOp.isNone && match x.opn with
    | none => x.queue.isEmpty
    | some o => o.cop == c.cop.toNat && o.col == c.col.toNat &&
        !x.queue.any (fun q => q.cell.cop == c.cop && q.cell.col == c.col)

def State.arriveMat (s : State) (cl me : Nat) (m : MCell) : Arrival :=
  let c := m.cell
  let cop := c.cop.toNat
  match s.matBound cl me c.ctx.toNat with
  | none => .took (s.cellEnd cl m 0x49 m.stamp)
  | some n =>
    let k := matKey cl me n
    let x := s.matCtx k
    let code := if m.stall != 0 then some m.stall else s.takeStall cl me m.who c.itag.toNat 1
    if (s.matEng (cl * 4 + me)).quar then .took (s.matRefuse cl k m 0x48)
    else if !(matPositions cop).contains c.pos.toNat then .took (s.matRefuse cl k m 0x90)
    else if cop = 0x088 || cop = 0x089 then s.arriveInbox cl me m
    else if isPairCop cop then
      match x.pend.find? (fun p => pairsWith p.cell c) with
      | none => match code with
        | none => .noStall
        | some z => .took (s.modMat k (fun y => { y with pend := y.pend ++ [{ m with stall := z }] }))
      | some p =>
        if p.cell.pos == c.pos then .took (s.matRefuse cl k m 0x90)
        else
          let pair := if c.pos = 0 then [m, p] else [p, m]
          .took (s.modMat k (fun y => { y with
            pend := y.pend.filter (fun q => q.age != p.age), queue := y.queue ++ pair }))
    else match code with
      | some z => .took (s.modMat k (fun y => { y with queue := y.queue ++ [{ m with stall := z }] }))
      | none =>
        if x.servesNow c then .took (s.modMat k (fun y => { y with queue := y.queue ++ [m] })) else .noStall

/-! ## The comparator (R201, R440) -/

/-- A cell waits at the comparator for its partner. -/
def State.arriveCmp (s : State) (cl : Nat) (m : MCell) : Arrival :=
  match (if m.stall != 0 then some m.stall else s.takeStall cl 15 m.who m.cell.itag.toNat (m.cell.run.toNat + 1)) with
  | none => .noStall
  | some k => .took (s.onEng (fun e => { e with comps := tmod e.comps cl (fun l => l ++ [{ m with stall := k }]) }))

/-! ## Collective cells (R382, R393, R398) -/

/-- The number of the collective that a cell names. -/
def collNo (c : Cell) : Nat := c.aux.toNat % 32

/-- Whether a collective's cell stays at egress 14: it is not placed, and nothing has ended it. -/
def State.collHold (s : State) (m : MCell) : Bool :=
  let g := s.graph m.who.job m.who.graph
  let c := tget g.colls (collNo m.cell)
  isCollCop m.cell.cop.toNat && g.live && decide (collNo m.cell < g.img.colls.length) && !c.placed && !c.aborted && !g.lost

/-- A collective's cell crosses egress 14: its algorithm is then fixed. -/
def State.arriveColl (s : State) (cl : Nat) (m : MCell) : Arrival :=
  match s.arriveInbox cl 14 m with
  | .took s1 =>
    .took (if thas (s.graph m.who.job m.who.graph).colls (collNo m.cell)
      then s1.modColl m.who.job m.who.graph (collNo m.cell) (fun c => { c with crossed := true }) else s1)
  | r => r

/-! ## Every port -/

/-- The key of an intersection job (R184). -/
def ixMatches (j : IxJob) (c : Cell) : Bool :=
  j.ctx == c.ctx.toNat && j.col == c.col.toNat && j.cop == c.cop.toNat && j.route == c.aux.toNat / 4096

/-- A cell would open a seventeenth intersection job (R184). -/
def State.ixFull (s : State) (cl : Nat) (c : Cell) : Bool :=
  let js := tget s.eng.ixjobs cl
  decide (js.length ≥ 16) && !js.any (fun j => ixMatches j c)

/-- A class-0 cell that waits for nothing reaches the engine behind a port. -/
def State.arrive (s : State) (cl e : Nat) (m : MCell) : Arrival :=
  if e ≤ 3 then s.arriveMat cl e m
  else if e ≤ 7 then s.arriveVec cl e m
  else if e = 15 then s.arriveCmp cl m
  else if e = 9 && s.ixFull cl m.cell then .busy
  else if (e = 13 && isCollCop m.cell.cop.toNat) || (e = 14 && !isCollCop m.cell.cop.toNat) then
    .took (s.cellEnd cl m 0x90 m.stamp)
  else if e = 14 then s.arriveColl cl m
  else s.arriveInbox cl e m

/-! ## Gates (R202) -/

/-- Whether a CMPL token covers a gate cell: CTX, COL, and its tags hold the cell's. -/
def covers (t g : Cell) : Bool :=
  t.ctx == g.ctx && t.col == g.col &&
    decide ((g.itag.toNat + (2 ^ 24 - t.itag.toNat)) % 2 ^ 24 + g.run.toNat ≤ t.run.toNat)

/-- Gate cells that a port without a matching store holds, and CMPL tokens. -/
def gateStore : Nat := 32
def cmplStore : Nat := 8

/-- A gate cell is delivered: a waiting CMPL token that covers it lets it through, otherwise it takes a stall. -/
def State.arriveGate (s : State) (cl e : Nat) (m : MCell) : Arrival :=
  match (s.port cl e).cmpls.find? (fun t => covers t.cell m.cell) with
  | some t => match s.arrive cl e m with
    | .took s1 => .took ((s1.modPort cl e (fun p => { p with cmpls := p.cmpls.filter (fun x => x.age != t.age) })).cellEnd
        cl t 0 t.stamp)
    | r => r
  | none =>
    let put (k : Nat) : Arrival := .took (s.modPort cl e (fun p => { p with gates := p.gates ++ [{ m with stall := k }] }))
    if isRendezvous e then
      (match s.takeStall cl e m.who m.cell.itag.toNat (m.cell.run.toNat + 1) with
       | some k => put k
       | none => .noStall)
    else if (s.port cl e).gates.length < gateStore then put 0 else .busy

/-- A cell leaves the input buffer of an egress port. A cell for another cluster goes on to the mesh; a control-class cell
is acted on as it comes, but behind a CMPL token that still waits for a stall (R202). DEDUCED: notes/assumptions/47. -/
def State.deliver (s : State) (cl e : Nat) (m : MCell) : Arrival :=
  if e = 14 && m.target cl != cl then
    match s.meshSend cl m with
    | .sent s1 => .took s1
    | .refused => .took (s.cellEnd cl m 0x90 m.stamp)
    | .wait => .busy
  else if m.cell.cls then
    if m.cell.cop = 0x3F0 && (s.port cl e).inbox.any (fun x => x.cell.cop == 0x3F0) then .busy
    else .took (s.intoInbox cl e m)
  else if e = 14 && s.collHold m then .busy
  else if m.cell.gate then s.arriveGate cl e m
  else s.arrive cl e m

/-- The oldest delivered CMPL token at a port acts (R202): it lets the first gate cell that it covers go on, or waits in a
stall; without one it stays. -/
def State.cmplToken (s : State) (cl e : Nat) : State :=
  match s.takeInbox cl e 0x3F0 with
  | none => s
  | some (t, s1) =>
    match (s1.port cl e).gates.find? (fun g => covers t.cell g.cell) with
    | some g =>
      let s2 := s1.modPort cl e (fun p => { p with gates := p.gates.filter (fun x => x.age != g.age) })
      (match s2.arrive cl e g with
       | .took s3 => s3.cellEnd cl t 0 t.stamp
       | _ => s)
    | none =>
      let wait (k : Nat) : State := s1.modPort cl e (fun p => { p with cmpls := p.cmpls ++ [{ t with stall := k }] })
      if isRendezvous e then
        (match s1.takeStall cl e t.who t.cell.itag.toNat (t.cell.run.toNat + 1) with
         | some k => (wait k).clearShort cl e t.age
         | none => s.countShort cl e t.age)
      else if (s1.port cl e).cmpls.length < cmplStore then wait 0 else s

/-- CMPL (R202, R203). -/
def execCmpl (cl port : Nat) (s : State) : Res := .next (s.cmplToken cl port)

/-- RCLL (R357): the recall has reached its holder's gateway; LQRY shows it. -/
def State.rcllToken (s : State) (cl e : Nat) : State :=
  match s.takeInbox cl e 0x3F1 with
  | none => s
  | some (t, s1) => s1.cellEnd cl t 0 t.stamp

/-- RCLL (R357). -/
def execRcll (cl port : Nat) (s : State) : Res := .next (s.rcllToken cl port)

end Sys2Proof.Machine
end

