-- ==== Sys2Proof/Machine/Atomics.lean ====
section
/-! DEFINITION. Machine/Atomics.lean: ATOM and RED as a block fires them, and the reply of an ATOM (spec/16 R346 to R348, spec/19
R385). -/

namespace Sys2Proof.Machine

def causeBadFmt : Nat := 0x0E

/-- COP of the operation that ATOM names (R343, R346). DEDUCED: notes/assumptions/48. -/
def atomCop : AtomOp → Nat
  | .cfaa => 0x289
  | .cxch => 0x287
  | .ccas => 0x288

/-- COP of the operation that RED names (R343, R348). -/
def redCop : RedOp → Nat
  | .cadd => 0x280
  | .cfadd => 0x281
  | .cmax => 0x282
  | .cmin => 0x283
  | .cand => 0x284
  | .cor => 0x285
  | .cxor => 0x286
  | .resc => 0x28A

/-- The checks that a target of the combining store passes when its instruction fires (R144, R346): 0, or the cause and its
argument. CCAS takes an element of 32 bits. DEDUCED: notes/assumptions/44. -/
def State.atomCheck (s : State) (ag : Nat) (off : Word) (ccas : Bool) : Nat × Word :=
  let cl := s.curCluster
  let r := agnRec (s.agn (s.strandAgn s.curSid ag)).words
  let c := s.agnCheck cl r .store
  if c != 0 then (c, off)
  else if !(r.esz == 3 || (r.esz == 4 && !ccas)) then (causeBadFmt, 0)
  else match s.reach cl s.fCore r .store off r.ebytes with
    | .fault d a => (d, a)
    | .home _ => (0, 0)
    | .virt va => match s.xlate (clusterQuarter cl) s.curJob va true false with
      | .error d => (d, BitVec.ofNat 64 va)
      | .ok _ => (0, 0)

/-- A scalar-form combining cell to egress 10 of the strand's own cluster (R342): payload words 0 to 4. DESIGN CHOICE: notes/assumptions/45. -/
def State.scalarCell (s : State) (cop ag : Nat) (off v cmp w4 : Word) : MCell :=
  let c : Cell := { dcl := 63, dport := 10, cop := BitVec.ofNat 10 cop, pos := 2,
                    ctx := BitVec.ofNat 6 ((s.ctxTag s.curJob s.curCluster).getD 0),
                    pay := packElems 64 [off.toNat, v.toNat, cmp.toNat, ag, w4.toNat] }
  { cell := c.seal, agent := sidAgent s.curSid, who := s.curStrand.who, report := .strandOp true }

/-- ATOM (R346): CCAS takes its comparand and new value from the two halves of its operand. -/
def execAtom (p : Pr) (op : AtomOp) (ag : BitVec 5) (gd : BitVec 6) (s : State) : Res :=
  fireSide p .lr (fun s =>
    let (c, a) := s.atomCheck ag.toNat s.opL (op == .ccas)
    if c != 0 then s.stopAt c a (some ag.toNat)
    else
      let v := if op = .ccas then BitVec.ofNat 64 (wbits s.opR 0 32) else s.opR
      let cmp := if op = .ccas then BitVec.ofNat 64 (wbits s.opR 32 32) else 0
      let w4 := BitVec.ofNat 64 (2 ^ 63 + s.tickNo % 2 ^ 48 * 64 + gd.toNat)
      (s.resolve (.atom (s.scalarCell (atomCop op) ag.toNat s.opL v cmp w4) gd.toNat)).tickUp) s

/-- The first of the 40 elements of a RESC operand that fails a check (R132, R142). DEDUCED: notes/assumptions/44. -/
def State.rescCheck (s : State) (ag : Nat) (off : Nat) : Nat × Word :=
  let cl := s.curCluster
  let r := agnRec (s.agn (s.strandAgn s.curSid ag)).words
  let one (i : Nat) : Option (Nat × Word) :=
    match s.reach cl s.fCore r .load (BitVec.ofNat 64 (off + i)) 4 with
    | .fault d a => some (d, a)
    | .home _ => none
    | .virt va => match s.xlate (clusterQuarter cl) s.curJob va false false with
      | .error d => some (d, BitVec.ofNat 64 va)
      | .ok _ => none
  ((List.range 40).findSome? one).getD (0, 0)

/-- RED of a RESC triple fires (R348, R385): its elements are read when it is released. -/
def State.fireResc (s : State) (ag : Nat) : State :=
  let r := agnRec (s.agn (s.strandAgn s.curSid ag)).words
  let c := s.agnCheck s.curCluster r .load
  if wbits s.opL 48 16 != 0 then s.stopAt causeBadParm
  else if c != 0 then s.stopAt c s.opR (some ag)
  else if r.role != 3 then s.stopAt causeRole s.opR (some ag)
  else if r.esz != 3 then s.stopAt causeBadFmt 0 (some ag)
  else
    let (d, a) := s.rescCheck ag s.opR.toNat
    if d != 0 then s.stopAt d a (some ag)
    else s.resolve (.rel (.resc ag s.opR.toNat s.opL 0) true false)
where
  causeBadParm : Nat := 0x0B

/-- RED (R348). -/
def execRed (p : Pr) (op : RedOp) (ag : BitVec 5) (s : State) : Res :=
  fireSide p .lr (fun s =>
    if op = .resc then s.fireResc ag.toNat
    else
      let (c, a) := s.atomCheck ag.toNat s.opL false
      if c != 0 then s.stopAt c a (some ag.toNat)
      else s.resolve (.red (s.scalarCell (redCop op) ag.toNat s.opL s.opR 0 0))) s

/-! ## Replies (R347) -/

/-- Whether a strand's context lies anywhere that a reply can reach (R286, R347). -/
def State.contextFound (s : State) (w : Owner) : Bool :=
  let is (x : Strand) : Bool := x.who.sid == w.sid && x.who.launch == w.launch && x.who.handler == w.handler
  ((s.strand w.sid).live && is (s.strand w.sid)) ||
  (thas s.core.holds w.sid && is (tget s.core.holds w.sid)) ||
  (thas s.core.saved w.sid && is (tget s.core.saved w.sid))

/-- ATOM_REPLY: the oldest reply that has come for a strand writes its register and raises PTS; the operation leaves the
stores class and the counters (R306, R346, R347). -/
def State.atomReply (s : State) (sid : Nat) : State :=
  s.firstHolder sid (fun h =>
    let x := s.heldBy sid h
    match x.replies with
    | [] => none
    | (g, v, t, no) :: rest =>
      some ((s.onHolder sid h (fun y => { y with
        regs := tset y.regs g v, pts := max y.pts t, stc := y.stc - 1, replies := rest,
        atoms := y.atoms.filter (fun a => !(a.1 == g && a.2 == no)) })).opEnd x.who t))

/-- ATOM_REPLY. -/
def execAtomReply (sid : Nat) (s : State) : Res := .next (s.atomReply sid)

end Sys2Proof.Machine
end

