-- ==== Sys2Proof/Machine/Plumbing.lean ====
section
/-! DEFINITION. Machine/Plumbing.lean: exits, dataflow plumbing, ERET and TRAP (spec/05 R103 to R115, spec/13 R271 to
R273). -/

namespace Sys2Proof.Machine

/-! ## Exits -/

/-- A next-block address must be aligned and of 57 bits (R104). DEDUCED: notes/assumptions/13. -/
def legalTarget (a : Int) : Bool := decide (0 ≤ a ∧ a < 2 ^ 57 ∧ a % 4 = 0)

def causeBadTarget : Nat := 5
def causeCtxState : Nat := 0x1B

/-- Whether the word in a slot is a call exit. -/
def isCallWord (w : IWord) : Bool := opOf w == 3 || opOf w == 4

/-- Whether a block's PUTR to g63 has fired with a value (R105). -/
def Frame.putLink (f : Frame) : Bool := f.regw.any (fun x => x.2.1 == 63 && x.2.2.isSome)

/-- The exit of the slot in focus fires with its next block (none: EXIT, SCALL, ERET). A second exit traps ILLEGAL (R19).
A younger block that is not the exit's successor was mapped on a wrong prediction and aborts (R35). -/
def State.takeExit (s : State) (next : Option Word) : State :=
  if s.cur.exit.isSome then s.stopAt causeIllegal
  else if isCallWord s.curSlot.word && s.cur.putLink then s.stopAt causeIllegal
  else
    let s1 := s.modCur (fun f => { (f.fire s.fSlot) with exit := some (s.fSlot, next) })
    let young := (s.framesOf s.curSid).filter (fun g => decide (s.cur.seq < (s.frame s.fCore g).seq))
    let right := match young, next with
      | g :: _, some a => (s.frame s.fCore g).addr == a
      | [], some a => match (s.curStrand).fetched with
        | some b => b.addr == a
        | none => true
      | _, none => false
    if right then s1 else s1.abortYounger s.fCore s.fFrame

/-- An exit to a computed address (R104). DEDUCED: notes/assumptions/18. -/
def State.exitTo (s : State) (a : Int) : State :=
  if legalTarget a then s.takeExit (some (BitVec.ofInt 64 a))
  else if s.cur.exit.isSome then s.stopAt causeIllegal
  else s.stopAt causeBadTarget (BitVec.ofInt 64 a)

/-- An exit fires only on values; a null token does not fire it (R74). DEDUCED: notes/assumptions/15. -/
def fireExit (p : Pr) (u : Uses) (act : State → State) (s : State) : Res :=
  match s.plainReady p u with
  | .wait => .next s
  | .skip => .next s
  | .null => .next (s.modCur (fun f => f.fire s.fSlot))
  | .go => .next (act s)

/-- H + 4 · sext(OFF19) (R103). -/
def offTarget (h : Word) (off : BitVec 19) : Int := (h.toNat : Int) + 4 * off.toInt

/-- BRO (R103). -/
def execBro (p : Pr) (_ex : BitVec 3) (off : BitVec 19) (s : State) : Res :=
  fireExit p .none (fun s => s.exitTo (offTarget s.cur.addr off)) s
/-- BRI (R103). -/
def execBri (p : Pr) (_ex : BitVec 3) (s : State) : Res := fireExit p .l (fun s => s.exitTo s.opL.toNat) s
/-- CALLO (R103, R105): the link is written at commit. -/
def execCallo (p : Pr) (_ex : BitVec 3) (off : BitVec 19) (s : State) : Res :=
  fireExit p .none (fun s => s.exitTo (offTarget s.cur.addr off)) s
/-- CALLI (R103, R105). -/
def execCalli (p : Pr) (_ex : BitVec 3) (s : State) : Res := fireExit p .l (fun s => s.exitTo s.opL.toNat) s
/-- RET (R106): next block from g63, waiting for it as GETR does. -/
def execRet (p : Pr) (_ex : BitVec 3) (s : State) : Res :=
  fireExit p .none (fun s => match s.readReg s.fCore s.fFrame 63 with
    | none => s
    | some v => s.exitTo v.toNat) s
/-- SCALL (R107): the block commits and the strand then enters its handler. -/
def execScall (p : Pr) (_ex : BitVec 3) (s : State) : Res := fireExit p .l (fun s => s.takeExit none) s
/-- EXIT (R108): the strand retires when its block commits. -/
def execExit (p : Pr) (_ex : BitVec 3) (s : State) : Res := fireExit p .none (fun s => s.takeExit none) s
/-- ERET (R271, R272). -/
def execEret (p : Pr) (_skip : Bool) (s : State) : Res :=
  fireExit p .none (fun s => if s.curStrand.hmode then s.takeExit none else s.stopAt causeCtxState) s

/-- TRAP (R273): holds SWTRAP with TARG = c against its block. -/
def execTrap (p : Pr) (c : BitVec 8) (s : State) : Res :=
  fireAct p .none [] (fun s => s.stopAt 8 (c.setWidth 64)) s

/-! ## Plumbing -/

/-- NULL (R109). -/
def execNull (p : Pr) (ta tb : Tgt) (s : State) : Res := fireAct p .none [ta, tb] (fun s => s.finish .null [ta, tb]) s
/-- MOV (R110). -/
def execMov (p : Pr) (ta tb : Tgt) (s : State) : Res := fireWith p .l [ta, tb] (fun l _ => l) s

/-- Whether SEL may act: unfired, its predicate matched or null, a token at either position (R111). -/
def State.selReady (s : State) (p : Pr) : Ready :=
  let sl := s.curSlot
  if sl.fired then .wait
  else match predReady p sl.pred with
    | .wait => .wait
    | .skip => .skip
    | q => if sl.left.isNone && sl.right.isNone then .wait else if q = .null then .null else .go

/-- The token SEL forwards: the one that came, or a null where both came and are null; none: both came and one is a
value, which traps ILLEGAL (R111). -/
def selToken (l r : Option Token) : Option Token :=
  match l, r with
  | some k, none => some k
  | none, some k => some k
  | some .null, some .null => some .null
  | _, _ => none

/-- SEL (R111). -/
def execSel (p : Pr) (ta tb : Tgt) (s : State) : Res :=
  match s.selReady p with
  | .wait => .next s
  | .skip => .next s
  | q => match selToken s.curSlot.left s.curSlot.right with
    | none => .next (s.stopAt causeIllegal)
    | some k => .next (s.finish (if q = .null then .null else k) [ta, tb])

/-- GETR (R112): waits for the youngest older block that may write the register. -/
def execGetr (p : Pr) (g : BitVec 13) (ta : Tgt) (s : State) : Res :=
  fireAct p .none [ta] (fun s => match s.readReg s.fCore s.fFrame g.toNat with
    | none => s
    | some v => s.finish (.val v) [ta]) s

/-- A PUTR resolves, with a value or without (R24, R113). -/
def State.putReg (s : State) (g : Nat) (v : Option Word) : State :=
  s.modCur (fun f => { (f.fire s.fSlot) with regw := f.regw ++ [(s.fSlot, g, v)] })

/-- Whether another write of register g has fired in the block (R18, R105). -/
def Frame.wrote (f : Frame) (g : Nat) : Bool :=
  f.regw.any (fun x => x.2.1 == g && x.2.2.isSome) ||
  (g == 63 && match f.exit with
    | some (i, _) => isCallWord (f.slot i).word
    | none => false)

/-- PUTR (R113). -/
def execPutr (p : Pr) (g : BitVec 13) (s : State) : Res :=
  match s.sideReady p .l with
  | .wait => .next s
  | .skip => .next s
  | .null => .next (s.putReg g.toNat none)
  | .go =>
    if s.cur.wrote g.toNat then .next (s.stopAt causeIllegal)
    else .next (s.putReg g.toNat (some s.opL))

/-- CONST (R114). -/
def execConst (p : Pr) (imm : BitVec 13) (ta : Tgt) (s : State) : Res := fireWith p .none [ta] (fun _ _ => sextImm imm) s
/-- CONSTH (R115). -/
def execConsth (p : Pr) (imm : BitVec 13) (ta : Tgt) (s : State) : Res := fireWith p .l [ta] (aluConsth imm) s

end Sys2Proof.Machine
end

