-- ==== Sys2Proof/Machine/Preempt.lean ====
section
/-! DEFINITION. Machine/Preempt.lean: pre-emption, switch handlers, the saved context, and jobs created, reweighted and closed
(spec/10 R212 to R214, spec/13 R279 to R286, spec/02 R51). -/

namespace Sys2Proof.Machine


/-! ## Streams of a halted strand (R213) -/

/-- How many different cells of a stream a list holds: copies of one multicast cell count once. DEDUCED: notes/assumptions/38. -/
def distinctTags (l : List MCell) : Nat :=
  (l.foldl (fun (acc : List (Nat × Nat)) m =>
    let k := (m.cell.itag.toNat, m.cell.aux.toNat)
    if acc.contains k then acc else k :: acc) []).length

/-- Whether a cell was sent by the stream of an AGN. -/
def streamsCell (key : Nat) (st : Stream) (cl : Nat) (m : MCell) : Bool :=
  cl == agnCl key && m.who == st.who && m.report == (match st.tk with
    | some k => .stream k
    | none => .streamNode key)

/-- A stream stops: its cells that have not left an egress input buffer are purged, and it will resume at the first of
them (R213). DEDUCED: notes/assumptions/38. -/
def State.stopStream (s : State) (key : Nat) (st : Stream) : State :=
  let cl := agnCl key
  let gone := (s.market cl).cells.filter (streamsCell key st cl)
  let s1 := s.modMarket cl (fun m => m.drop (streamsCell key st cl))
  let s2 := gone.foldl (fun st' m => st'.cellEnd cl m 0 m.stamp) s1
  s2.modAgn key (fun a => { a with
    cellOut := none, stream := some { st with stopped := true, sent := st.sent - distinctTags gone } })

/-- A stopped stream goes on at its resume point; it starts again with a stamp of at least p. -/
def State.startStream (s : State) (key p : Nat) : State :=
  s.modAgn key (fun a => { a with
    stream := a.stream.map (fun st => { st with stopped := false, stamp := max st.stamp p }) })

/-- The unfinished streams that a strand released. -/
def State.strandStreams (s : State) (who : Owner) : List (Nat × Stream) :=
  (s.acc.agns.map (fun e => (e.2.stream.toList.filter (fun st => st.who == who && st.tk.isSome)).map
    (fun st => (e.1, st)))).flatten

/-- The tokens of a strand's unfinished streams as its record keeps them (R286 words 76 to 83). -/
def State.tokensOf (s : State) (who : Owner) : List TokStream :=
  (s.strandStreams who).map (fun e =>
    let r := agnRec (s.agn e.1).words
    { tk := e.2.tk.getD 0, agn := agnNo e.1, pers := e.2.pers,
      left := match e.2.left with
        | some _ => streamCells r e.2 - e.2.sent
        | none => 0 })

/-! ## Halting (R279, R280) -/

/-- A strand halts at the boundary after its last committed block: its blocks abort, its streams stop, its context moves
into the hold store, and its strand context is one that its job has left. DEDUCED: notes/assumptions/20. -/
def State.haltStrand (s : State) (sid : Nat) : State :=
  let who := (s.strand sid).who
  let s1 := s.abortAll sid
  let s2 := (s1.strandStreams who).foldl (fun st e => st.stopStream e.1 e.2) s1
  let x := s2.strand sid
  let s3 := s2.onCores (fun c => { c with
    holds := tset c.holds sid { x with live := false, toks := s2.tokensOf who },
    outs := tset c.outs sid (who.job + 1) })
  s3.setStrand sid {}

/-- Whether a launch is a pack, which a pre-emption takes whole (R45). -/
def State.isPack (s : State) (l : Nat) : Bool := (s.launch l).kind == 2

/-- The strands that a request covers: those of the job in the clusters it names, and every strand of a pack that has one
there. A switch handler's strand is part of the switch and is not halted. -/
def State.covered (s : State) (job : Nat) (clusters : List Nat) : List Nat :=
  let mine := s.core.strands.filter (fun e => e.2.live && e.2.who.job == job && e.2.serves.isNone)
  let here (sid : Nat) : Bool := clusters.contains (sidCluster sid)
  let packs := (mine.filter (fun e => here e.1 && s.isPack e.2.who.launch)).map (fun e => e.2.who.launch)
  (mine.filter (fun e => here e.1 || packs.contains e.2.who.launch)).map (fun e => e.1)

/-- The matrix contexts that a graph's configuration binds (R211, R240): their keys. -/
def graphMatrices (img : GraphImage) : List Nat := img.matrices.map (fun m => matKey m.1 m.2.1 m.2.2.1)

/-- The bound graphs of a job. -/
def State.jobGraphs (s : State) (job : Nat) : List (Nat × Graph) :=
  (s.work.graphs.filter (fun e => e.1 / 65536 == job && e.2.used && e.2.bound && !e.2.retired)).map
    (fun e => (e.1 % 65536, e.2))

/-- The matrix contexts of a job in a set of clusters. -/
def State.jobMatrices (s : State) (job : Nat) (clusters : List Nat) : List Nat :=
  ((s.jobGraphs job).map (fun e => (graphMatrices e.2.img).filter (fun k => clusters.contains (k / 16)))).flatten

/-- The stream nodes of a launch's graph that are running. -/
def State.nodeStreams (s : State) (job g : Nat) : List (Nat × Stream) :=
  (s.graphStreams job g).filter (fun e => e.2.tk.isNone)

/-- Address of a job's power record (R376). -/
def State.powerRecord (s : State) (job : Nat) : Nat := (s.job job).csave.toNat % 2 ^ 57 + 2 ^ 21

/-- In context mode JPWR is written into the job's power record at a switch: its first word (R376). DEDUCED: notes/assumptions/71. -/
def State.savePower (s : State) (q job : Nat) : State :=
  if s.contextMode (s.partOf q) then
    (s.sysWrite q job (s.powerRecord job) 0 loaderAgent [(s.job job).jpwr.toNat]).2
  else s

/-- JPWR comes back from the record; a record that cannot be read changes nothing. -/
def State.loadPower (s : State) (q job : Nat) : State :=
  if s.contextMode (s.partOf q) then
    match s.sysRead q job (s.powerRecord job) with
    | none => s
    | some v => s.modJob job (fun j => { j with jpwr := BitVec.ofNat 64 v })
  else s

/-- PREEMPT_REQUEST (R279, R280, R213, R214): every strand it covers halts, the stream nodes of their graphs stop, and the
job's matrix contexts there apply no further row. DEDUCED: notes/assumptions/71. -/
def State.preempt (s : State) (job : Nat) (clusters : List Nat) : State :=
  let sids := s.covered job clusters
  let gs := (sids.map (fun sid => (s.strand sid).who.graph)).eraseDups
  let area := clusters ++ sids.map sidCluster
  let s1 := sids.foldl (fun st sid => st.haltStrand sid) s
  let s2 := gs.foldl (fun st g => (st.nodeStreams job g).foldl (fun u e => u.stopStream e.1 e.2) st) s1
  let s3 := (s2.jobMatrices job area).foldl (fun st k => st.modMat k (fun m => { m with frozen := true })) s2
  match sids with
  | [] => s3
  | sid :: _ => s3.savePower (sid / 512) job

/-- PREEMPT_REQUEST. -/
def execPreemptRequest (job : Nat) (clusters : List Nat) (s : State) : Res :=
  .next (if (s.job job).state = 0 then s else s.preempt job clusters)

/-! ## The save area (R283 to R286) -/

/-- Whether the page of a context record can be used: 0, or the cause (R285). -/
def State.saveAreaBad (s : State) (job sid : Nat) (write : Bool) : Nat :=
  let q := clusterQuarter (sidCluster sid)
  match s.xlate q job (s.recordAddr job sid) write false with
  | .error c => c
  | .ok (.home a) => if (s.line a).poison then 0x1A else 0
  | .ok (.maj ss a) =>
    let root := s.partOf q
    let all := s.ssetStacks root ss
    if (all.filter (fun k => s.copyAnswers root k (cellAddr a))).length < majorityOf all.length then 0x1A else 0

/-- A save area that cannot be used cancels the job (R285). -/
def State.saveAreaLost (s : State) (job sid cause : Nat) : State :=
  s.cancelJobFor (clusterQuarter (sidCluster sid)) job cause 3 sid 0 (sidCluster sid) (s.recordAddr job sid) sid

/-- CTXS of a held strand (R283): the record of R286 is written at timestamp p and the hold entry is freed. DEDUCED: notes/assumptions/71. -/
def State.saveContext (s : State) (sid p : Nat) : Nat × State :=
  let x := tget s.core.holds sid
  let job := x.who.job
  let bad := s.saveAreaBad job sid true
  if bad != 0 then (p, s.saveAreaLost job sid bad)
  else
    let (t, s1) := s.sysWrite (clusterQuarter (sidCluster sid)) job (s.recordAddr job sid) p (sidAgent sid)
      (recordWords x ++ List.replicate 43 0)
    (t, s1.onCores (fun c => { c with holds := tdel c.holds sid, saved := tset c.saved sid x }))

/-- Whether a record is the strand's own (R285). DEDUCED: notes/assumptions/71. -/
def recordOk (job sid : Nat) (w : Word) : Bool :=
  wbits w 48 16 == 0x5354 && wbits w 40 8 == 1 && wbits w 28 12 == job && wbits w 0 11 == sid

/-- CTXR (R284): the context is loaded from its record, PTS is at least p, its stopped streams go on, and the strand
resumes at its PC. DEDUCED: notes/assumptions/71; DESIGN CHOICE: notes/assumptions/72. -/
def State.restoreContext (s : State) (sid p : Nat) : State :=
  let x := tget s.core.saved sid
  let job := x.who.job
  let q := clusterQuarter (sidCluster sid)
  let bad := s.saveAreaBad job sid false
  if bad != 0 then s.saveAreaLost job sid bad
  else
    let ws := s.sysReadWords q job (s.recordAddr job sid) 85
    if !recordOk job sid (ws.getD 84 0) then s.cancelUnit 4 job
    else
      let y := recordLoad x ws
      let pts := max y.pts p
      let s1 := s.setStrand sid { y with live := true, pts := pts, fetched := none, toks := [] }
      let s2 := s1.onCores (fun c => { c with
        saved := tdel c.saved sid, outs := tdel c.outs sid, switch := tdel c.switch sid })
      y.toks.foldl (fun st t => st.startStream (st.jobAgn job (sidCluster sid) t.agn) pts) s2

/-! ## Switch handlers (R212, R281) -/

/-- The switch handler of a graph: the number of its set, and its declaration. -/
def handlerOf (img : GraphImage) : Option (Nat × SetDecl) :=
  match img.sets.findIdx? (·.handler) with
  | none => none
  | some i => some (i, img.sets.getD i {})

/-- Start a handler in the context that strand sid has left, at a block: privileged, g1 the strand's identifier, at least
the halted strand's timestamp. DEDUCED: notes/assumptions/20. -/
def State.startHandler (s : State) (sid set : Nat) (pc : Word) (x : Strand) (resume : Bool) : State :=
  let who := { x.who with handler := true }
  let s1 := s.setStrand sid {
    live := true, who := who, set := set, regs := [(1, BitVec.ofNat 64 sid)], pc := pc, pts := x.pts, privs := true,
    serves := some (sid, resume) }
  let s2 := s1.onCores (fun c => { c with switch := tset c.switch sid (if resume then 2 else 1) })
  let s3 := s2.modLaunch who.launch (fun l => { l with setLive := tset l.setLive set (tgetD 0 l.setLive set + 1) })
  s3.countUp who

/-- HANDLER_START (R281): in a context that a halted strand has left, the switch handler starts, or the device saves the
context itself. -/
def State.handlerStart (s : State) (sid : Nat) : State :=
  let x := tget s.core.holds sid
  if !thas s.core.holds sid || (s.strand sid).live || tgetD 0 s.core.switch sid != 0 then s
  else match handlerOf (s.graph x.who.job x.who.graph).img with
    | some (i, h) => s.startHandler sid i h.entry x false
    | none => (s.saveContext sid x.pts).2

/-- HANDLER_START. DEDUCED: notes/assumptions/20. -/
def execHandlerStart (sid : Nat) (s : State) : Res := .next (s.handlerStart sid)

/-- Whether a context that a job left can be given back to its strand now: it is free, and its strand's record is saved or
its switch handler has ended. -/
def State.canReturn (s : State) (sid : Nat) : Bool :=
  !(s.strand sid).live && tgetD 0 s.core.switch sid != 2 &&
  (thas s.core.saved sid || tgetD 0 s.core.switch sid == 1)

/-- One strand comes back: its resume handler starts, or the device restores the context itself (R281). -/
def State.returnStrand (s : State) (sid : Nat) : State :=
  let x := if thas s.core.saved sid then tget s.core.saved sid else tget s.core.holds sid
  match handlerOf (s.graph x.who.job x.who.graph).img with
  | some (i, h) => s.startHandler sid i h.resume x true
  | none => s.restoreContext sid x.pts

/-- JOB_RESTORE (R281): once every strand context that the job left can be given back, its strands return to them; its
stream nodes restart and its matrix contexts go on. -/
def State.jobRestore (s : State) (job : Nat) : State :=
  let sids := (s.core.outs.filter (fun e => e.2 == job + 1)).map (fun e => e.1)
  if sids.isEmpty || !sids.all s.canReturn || sids.any (fun sid => s.pmHolds (sid / 512)) then s
  else
    let s1 := sids.foldl (fun st sid => st.returnStrand sid) s
    let s2 := (s1.jobGraphs job).foldl (fun st e =>
      (st.nodeStreams job e.1).foldl (fun u x => u.startStream x.1 0) st) s1
    (s2.jobGraphs job).foldl (fun st e =>
      (graphMatrices e.2.img).foldl (fun u k => u.modMat k (fun m => { m with frozen := false })) st)
      (s2.loadPower (sids.headD 0 / 512) job)

/-- JOB_RESTORE. -/
def execJobRestore (job : Nat) (s : State) : Res := .next (s.jobRestore job)

/-! ## CTXS and CTXR as a block fires them (R283, R284) -/

/-- CTXS (R283). -/
def execCtxs (p : Pr) (s : State) : Res :=
  fireSide p .l (fun s =>
    let t := s.opL.toNat
    if decide (t < 2048) && thas s.core.holds t && sidCore t == s.fCore && (tget s.core.holds t).who.job == s.curJob
    then s.resolve (.ctxs t)
    else s.stopAt causeCtxState s.opL) s

/-- CTXR (R284). -/
def execCtxr (p : Pr) (s : State) : Res :=
  fireSide p .l (fun s =>
    let t := s.opL.toNat
    if decide (t < 2048) && t == s.curSid && s.curStrand.serves == some (t, true) && hdrLast s.cur.hdr &&
       thas s.core.saved t && (tget s.core.saved t).who.job == s.curJob
    then s.resolve (.ctxr t)
    else s.stopAt causeCtxState s.opL) s

/-! ## Jobs (R51) -/

/-- Share weight as JOBCMD and the events give it: 0 is the default 16 (R51). -/
def shareWeight (w : Nat) : Nat := if w = 0 then 16 else w % 256

/-- A job that is not live becomes live: its registers and counters as R51 lists them, its package counter at the arming
count of R52. -/
def State.createJob (s : State) (job weight : Nat) : State :=
  if (s.job job).state != 0 || job = 0 || job ≥ 4095 then s
  else
    let s1 := s.onWork (fun w => { w with
      counts := w.counts.filter (fun e => !(e.1 / 2048 / 2 ^ 46 == 3 && e.1 / 2048 % 2 ^ 46 / 2 ^ 32 == job)) })
    (s1.modJob job (fun _ => { state := 1, weight := shareWeight weight })).setCount 4 job 3 0 1

/-- JOB_CREATE. -/
def execJobCreate (job weight : Nat) (s : State) : Res := .next (s.createJob job weight)

/-- A live job's share weight (R51). -/
def State.weighJob (s : State) (job weight : Nat) : State :=
  if (s.job job).state != 1 || job = 0 then s else s.modJob job (fun j => { j with weight := shareWeight weight })

/-- JOB_WEIGHT. -/
def execJobWeight (job weight : Nat) (s : State) : Res := .next (s.weighJob job weight)

/-- JOB_CLOSE: no further launch is accepted; the job terminates once its counter is zero, and then job 0's counter
advances (R50, R51). -/
def State.closeJob (s : State) (job cctr : Nat) : State :=
  if (s.job job).state != 1 || job = 0 then s
  else
    let s1 := s.modJob job (fun j => { j with state := 2, closeCtr := some cctr })
    (s1.countDownFrom 4 job 0 0).endUpper 4 job

/-- JOB_CLOSE. -/
def execJobClose (job cctr : Nat) (s : State) : Res := .next (s.closeJob job cctr)

end Sys2Proof.Machine
end

