-- ==== Sys2Proof/Machine/Stamps.lean ====
section
/-! DEFINITION. Machine/Stamps.lean: every timestamp that strands, engines, cells, address generators and transfer units of a
partition hold, changed by one formula (spec/15 R301, spec/23 R451). -/

namespace Sys2Proof.Machine

/-- Change the entries whose key answers a test. -/
def tmap {α : Type} (t : Tab α) (p : Nat → Bool) (g : α → α) : Tab α :=
  t.map (fun e => if p e.1 then (e.1, g e.2) else e)

def stampCell1 (f : Nat → Nat) (m : MCell) : MCell :=
  { m with stamp := f m.stamp, prod := m.prod.map (fun p => { p with cts := f p.cts }) }
def stampCells (f : Nat → Nat) (l : List MCell) : List MCell := l.map (stampCell1 f)

def Strand.stamps (f : Nat → Nat) (x : Strand) : Strand :=
  let item (o : OutItem) : OutItem := match o with
    | .store r => .store { r with ack := f r.ack }
    | .rel r => .rel r
  { x with
    pts := f x.pts, fencets := f x.fencets, out := x.out.map item
    replies := x.replies.map (fun r => (r.1, r.2.1, f r.2.2.1, r.2.2.2)) }

def Frame.stamps (f : Nat → Nat) (x : Frame) : Frame :=
  { x with
    loads := x.loads.map (fun l => { l with wts := f l.wts, rts := f l.rts })
    reads := x.reads.map (fun r => { r with wts := f r.wts, rts := f r.rts }) }

def Agn.stamps (f : Nat → Nat) (a : Agn) : Agn :=
  { a with
    stamp := f a.stamp, cellOut := a.cellOut.map (stampCell1 f)
    stream := a.stream.map (fun st => { st with stamp := f st.stamp }) }

def Market.stamps (f : Nat → Nat) (m : Market) : Market :=
  let lists (t : Tab (List MCell)) : Tab (List MCell) := t.map (fun q => (q.1, stampCells f q.2))
  { m with
    queues := lists m.queues, buf0 := lists m.buf0, buf1 := lists m.buf1
    matched := m.matched.map (fun x => { x with cell := stampCell1 f x.cell }) }

def Port.stamps (f : Nat → Nat) (p : Port) : Port :=
  { p with
    stalls := p.stalls.map (fun t => { t with cell := stampCell1 f t.cell })
    gates := stampCells f p.gates, cmpls := stampCells f p.cmpls, inbox := stampCells f p.inbox }

def Timeline.stamps (f : Nat → Nat) (t : Timeline) : Timeline :=
  { t with
    done := t.done.map (fun e => (e.1, f e.2)), prev := f t.prev
    ctss := t.ctss.map (fun e => (e.1, f e.2)) }

def MatCtx.stamps (f : Nat → Nat) (c : MatCtx) : MatCtx :=
  { c with
    opn := c.opn.map (fun o => { o with stamp := f o.stamp }), saving := c.saving.map (stampCell1 f)
    loading := c.loading.map (stampCell1 f), queue := stampCells f c.queue, pend := stampCells f c.pend
    dcts := f c.dcts, scts := f c.scts, drainOp := c.drainOp.map (fun d => (d.1, stampCell1 f d.2)) }

def MajOp.stamps (f : Nat → Nat) (o : MajOp) : MajOp :=
  { o with
    pts := f o.pts, ts := f o.ts, rts := f o.rts
    legs := o.legs.map (fun e => (e.1, { e.2 with wts := f e.2.wts, rts := f e.2.rts })) }

def KJob.stamps (f : Nat → Nat) (j : KJob) : KJob :=
  { j with cell := stampCell1 f j.cell, fin := j.fin.map (fun x => (x.1, f x.2.1, f x.2.2)) }

/-- Apply f to every timestamp that a partition holds outside its home lines and copies. DEDUCED: notes/assumptions/93. -/
def State.mapStamps (s : State) (root : Nat) (f : Nat → Nat) : State :=
  let cl (c : Nat) : Bool := s.partOfCluster c == root
  let qu (q : Nat) : Bool := s.partOf q == root
  let s1 := s.onCores (fun c => { c with
    strands := tmap c.strands (fun k => cl (sidCluster k)) (Strand.stamps f)
    holds := tmap c.holds (fun k => cl (sidCluster k)) (Strand.stamps f)
    ghosts := c.ghosts.map (fun e => if cl (sidCluster e.2.who.sid) then (e.1, e.2.stamps f) else e)
    frames := tmap c.frames (fun k => cl (k / 64)) (Frame.stamps f)
    cores := tmap c.cores (fun k => cl (k / 8)) (fun x => { x with
      issue := x.issue.map (fun i => { i with cell := stampCell1 f i.cell }) }) })
  let s2 := (s1.core.saved.filter (fun e => cl (sidCluster e.1))).foldl (fun st e =>
    st.onContext e.2.who (Strand.stamps f)) s1
  let s3 := s2.onMem (fun m => { m with
    majOps := m.majOps.map (fun e => if cl (sidCluster e.2.sid) then (e.1, e.2.stamps f) else e)
    hwm := tmap m.hwm (fun k => k / 65536 == root) f })
  let s4 := s3.onAcc (fun a => { a with
    agns := tmap a.agns (fun k => cl (agnCl k)) (Agn.stamps f)
    pipes := tmap a.pipes (fun k => cl (k / 2 ^ 19 / 16)) (fun p => { p with
      q := p.q.map (fun w => { w with stamp := f w.stamp }) })
    copies := tmap a.copies (fun k => cl (k / 65536)) (fun o => { o with
      stamp := f o.stamp, maxw := f o.maxw, cts := f o.cts })
    xfers := tmap a.xfers (fun k => cl (k / 65536 / 2)) (fun o => { o with
      cell := stampCell1 f o.cell, maxw := f o.maxw, cts := f o.cts }) })
  let s5 := s4.onWork (fun w => { w with
    launches := w.launches.map (fun e => if qu e.2.quarter
      then (e.1, { e.2 with stamp := f e.2.stamp, cts := f e.2.cts }) else e)
    graphs := w.graphs.map (fun e => if e.2.img.clusters.any cl then (e.1, { e.2 with
      colls := e.2.colls.map (fun c => (c.1, { c.2 with
        maxw := f c.2.maxw, held := stampCells f c.2.held, top := stampCells f c.2.top
        waits := stampCells f c.2.waits })) }) else e) })
  let s6 := s5.onEng (fun e => { e with
    markets := tmap e.markets cl (Market.stamps f)
    ports := tmap e.ports (fun k => cl (k / 32)) (Port.stamps f)
    outs := tmap e.outs (fun k => cl (k / 32)) (stampCells f)
    times := tmap e.times (fun k => cl (k / 64 / 32)) (Timeline.stamps f)
    ixjobs := tmap e.ixjobs cl (fun l => l.map (fun j => { j with stamp := f j.stamp, cells := stampCells f j.cells }))
    rows := tmap e.rows cl (fun l => l.map (fun j => { j with cells := stampCells f j.cells }))
    bars := tmap e.bars (fun k => cl (k / 256)) (fun b => { b with
      cstamp := f b.cstamp, ostamp := f b.ostamp, held := stampCells f b.held })
    taps := e.taps.map (fun t => (t.1, { t.2 with stamp := f t.2.stamp }))
    comps := tmap e.comps cl (stampCells f) })
  let s7 := s6.onMat (fun m => { m with ctxs := tmap m.ctxs (fun k => cl (k / 16)) (MatCtx.stamps f) })
  let s8 := s7.onKen (fun k => { k with
    engines := tmap k.engines (fun i => qu (i / 32)) (fun e => { e with jobs := e.jobs.map (KJob.stamps f) })
    ended := tmap k.ended cl (fun l => l.map (KJob.stamps f)) })
  s8.onLnk (fun l => { l with
    mesh := tmap l.mesh cl (stampCells f)
    ucs := tmap l.ucs (fun k => qu (k / 64)) (fun u => { u with cells := stampCells f u.cells }) })

end Sys2Proof.Machine
end

