-- ==== Sys2Proof/Machine/Trust.lean ====
section
/-! DEFINITION. Machine/Trust.lean: bring-up, firmware checks, measurements and attestation (spec/23 R460 to R464). -/

namespace Sys2Proof.Machine

/-! ## Measurements (R463) -/

/-- MEASm extended by a digest. A 256-bit register's bytes are its little-endian bytes, as R464's report holds them. DEDUCED: notes/assumptions/90. -/
def State.measExtend (s : State) (m : Nat) (digest : List Byte) : State :=
  s.onSys (fun y => { y with
    meas := tset y.meas m (BitVec.ofNat 256 (leNat (sha256 (leBytes 32 (tget y.meas m).toNat ++ digest)))) })

/-- Measuring d extends register m by SHA-256(d). DEDUCED: notes/assumptions/90. -/
def State.measure (s : State) (m : Nat) (d : List Byte) : State := s.measExtend m (sha256 d)

/-- An access-control entry (R411). -/
def State.aceEntry (s : State) (n : Nat) : Word := tget s.lnk.ace n

/-- What MEAS4 measures at a write of PCFG or of the access-control table: PCFG and the 256 entries. DEDUCED: notes/assumptions/90. -/
def State.accessImage (s : State) : List Byte :=
  leBytes 8 s.sys.pcfg.toNat ++ ((List.range 256).map (fun n => leBytes 8 (s.aceEntry n).toNat)).flatten

def State.measureAccess (s : State) : State := s.measure 4 s.accessImage

/-! ## Images (R462) -/

/-- What an image's signature covers: the header fields and the digest. DEDUCED: notes/assumptions/90. -/
def signedPart (i : FwImage) : List Byte :=
  leBytes 4 i.version.toNat ++ leBytes 8 i.body.length ++ leBytes 32 i.digest.toNat

/-- An image may run (R462). DEDUCED: notes/assumptions/90. -/
def fwImageOk (i : FwImage) : Bool :=
  BitVec.ofNat 256 (leNat (sha256 (leBytes 48 i.key.toNat))) == Config.fusedKey &&
  i.sig.length == 16224 && Config.slhVerify i.key (signedPart i) i.sig &&
  sha256 i.body == leBytes 32 i.digest.toNat && decide (Config.fusedMin.toNat ≤ i.version.toNat)

/-! ## Bring-up (R460, R461) -/

def buReset : Nat := 0
def buVerify : Nat := 1
def buLink : Nat := 2
def buReduced : Nat := 3
def buFull : Nat := 4
def buFail : Nat := 7

/-- BUSTAT (R460). -/
def State.bustat (s : State) : Nat :=
  s.sys.bustate * 2 ^ 61 + s.sys.caldone.toNat * 2 ^ 48 + s.sys.qup.toNat * 2 ^ 44 + s.sys.failc.toNat

/-- REDUCED is left for FULL once every stack is calibrated and every quarter verified. -/
def State.buCheck (s : State) : State :=
  if s.sys.bustate = buReduced && s.sys.caldone == BitVec.allOnes 12 && s.sys.qver == BitVec.allOnes 4
  then s.onSys (fun y => { y with bustate := buFull }) else s

/-- POWER_GOOD: the boot ROM stage runs and is measured; the always-on island goes on to verify firmware. -/
def execPowerGood (s : State) : Res :=
  .next (if s.sys.bustate = buReset
    then (s.onSys (fun y => { y with bustate := buVerify })).measure 0 Config.bootRom else s)

/-- A failed image sends bring-up to FAIL; the spec names no cause codes, so the cause is a free value. DEDUCED: notes/assumptions/90. -/
def State.buFails (s : State) : State :=
  let c := (Config.freeValue s.sched.frees).setWidth 8
  (s.onSys (fun y => { y with bustate := buFail, failc := c })).onSched (fun k => { k with frees := k.frees + 1 })

/-- The quarter firmware images in order: each is measured and verifies the next quarter. -/
def State.quartersVerified (s : State) : List FwImage → State
  | [] => s
  | i :: is =>
    let n := (List.range 4).find? (fun q => !s.sys.qver.getLsbD q)
    let s1 := s.measure 2 i.body
    match n with
    | none => s1.quartersVerified is
    | some q => (s1.onSys (fun y => { y with qver := y.qver ||| (1#4 <<< q) })).quartersVerified is

/-- Entry 0 of the access-control table at bring-up: the host's node with every right (R411). -/
def aceHost : Word :=
  BitVec.ofNat 64 (Config.hostNode.toNat * 2 ^ 48 + 0x7F * 2 ^ 41 + 2 ^ 47 + 0xFFF * 2 ^ 26 + 1023 * 2 ^ 6)

/-- FIRMWARE_VERIFIED: in VERIFY the always-on firmware and then quarter firmware, all of which must pass; later, the
firmware of quarters not yet verified. -/
def State.firmware (s : State) (imgs : List FwImage) : State :=
  if s.sys.bustate = buVerify then
    match imgs with
    | [] => s
    | a :: qs =>
      if !imgs.all fwImageOk then s.buFails
      else
        let s1 := s.measure 1 a.body
        let s2 := s1.onSys (fun y => { y with bustate := buLink, fwver := a.version })
        let s3 := s2.onLnk (fun l => { l with ace := tset l.ace 0 aceHost })
        (s3.quartersVerified qs).buCheck
  else if s.sys.bustate = buLink || s.sys.bustate = buReduced then
    if imgs.all fwImageOk then (s.quartersVerified imgs).buCheck else s.buFails
  else s

/-- FIRMWARE_VERIFIED. -/
def execFirmwareVerified (imgs : List FwImage) (s : State) : Res := .next (s.firmware imgs)

/-- PNODE written in LINK: the device serves launches with q0 alone. -/
def State.leaveLink (s : State) : State :=
  if s.sys.bustate = buLink
  then (s.onSys (fun y => { y with bustate := buReduced, qup := y.qup ||| 1#4 })).buCheck else s

/-- STACK_CALIBRATED. -/
def execStackCalibrated (stack : Nat) (s : State) : Res :=
  .next (if decide (1 ≤ s.sys.bustate ∧ s.sys.bustate ≤ 4) && decide (stack < 12)
    then (s.onSys (fun y => { y with caldone := y.caldone ||| (1#12 <<< stack) })).buCheck else s)

/-- QUARTER_IN_SERVICE: in FULL each verified quarter joins. -/
def execQuarterInService (q : Nat) (s : State) : Res :=
  .next (if s.sys.bustate = buFull && decide (q < 4) && s.sys.qver.getLsbD q
    then s.onSys (fun y => { y with qup := y.qup ||| (1#4 <<< q) }) else s)

/-- DEVICE_RESET: everything is as at reset; the model's own scheduling data go on. -/
def execDeviceReset (s : State) : Res := .next { State.reset with sched := s.sched }

/-- LOADER_IMAGE_OFFER: an image that passes runs and is measured; one that fails is refused (R462, R463). -/
def execLoaderImageOffer (img : FwImage) (s : State) : Res :=
  .next (if fwImageOk img
    then (s.onSys (fun y => { y with loaderVer := img.version, loaderDig := img.digest })).measure 3 img.body else s)

/-! ## Attestation (R464) -/

/-- Whether n bytes from an address of job 0 lie in the host's export window. -/
def State.inHostWindow (s : State) (a n : Nat) : Bool :=
  let j := s.job 0
  let b := j.jexpb.toNat
  decide (b ≤ a) && decide (a + n ≤ b + 65536 * j.jexpl.toNat)

/-- Words of a byte string, the last one padded with zeros. -/
def wordsOf (bs : List Byte) : List Nat :=
  (List.range ((bs.length + 7) / 8)).map (fun i => leNat ((bs.drop (8 * i)).take 8))

/-- The report's first 288 bytes. DEDUCED: notes/assumptions/90. -/
def State.reportBody (s : State) : List Byte :=
  ((List.range 8).map (fun m => leBytes 32 (tget s.sys.meas m).toNat)).flatten ++
  leBytes 8 s.sys.nonce.toNat ++ leBytes 8 (s.sys.fwver.toNat * 2 ^ 32 + Config.fusedMin.toNat) ++
  leBytes 8 Config.serial.toNat ++ leBytes 8 s.bustat

/-- A byte string of exactly n bytes. -/
def padTo (n : Nat) (bs : List Byte) : List Byte := bs.take n ++ List.replicate (n - bs.length) 0#8

/-- The running operation ends: its done word, and the next request. DEDUCED: notes/assumptions/90. -/
def State.attDone (s : State) (a status : Nat) : State :=
  let (_, s1) := s.sysWrite 0 0 (a + 16512) 0 loaderAgent [status]
  s1.onSys (fun y => { y with attreq := y.attwait.head?, attwait := y.attwait.tail })

/-- A request reaches the device: it runs, or waits for the one that runs. -/
def State.attAsk (s : State) (op a : Nat) : State :=
  s.onSys (fun y => match y.attreq with
    | none => { y with attreq := some (op, a) }
    | some _ => { y with attwait := y.attwait ++ [(op, a)] })

/-- Run the request that is pending when its operation is among those named. -/
def State.attRun (s : State) (ops : List Nat) (act : Nat → Nat → State → State) : State :=
  match s.sys.attreq with
  | none => s
  | some (op, a) =>
    if !ops.contains op then s
    else if !s.inHostWindow a 16520 then s.attDone a 0x20
    else (act op a s).attDone a 0

/-- ATT_REPORT (OP 1). -/
def execAttReport (s : State) : Res :=
  .next (s.attRun [1] (fun _ a st =>
    let b := st.reportBody
    (st.sysWrite 0 0 a 0 loaderAgent (wordsOf (b ++ padTo 16224 (Config.slhSign b)))).2))

/-- ATT_EXTEND (OP 2 to 4): MEAS5 to MEAS7 by the 32-byte digest at A. -/
def execAttExtend (s : State) : Res :=
  .next (s.attRun [2, 3, 4] (fun op a st =>
    st.measExtend (op + 3) (((st.sysReadWords 0 0 a 4).map (fun w => leBytes 8 w.toNat)).flatten)))

/-- ATT_CERT (OP 5). -/
def execAttCert (s : State) : Res :=
  .next (s.attRun [5] (fun _ a st => (st.sysWrite 0 0 a 0 loaderAgent (wordsOf (Config.certificate))).2))

end Sys2Proof.Machine
end

