-- ==== Sys2Proof/Machine/Partitions.lean ====
section
/-! DEFINITION. Machine/Partitions.lean: rebases, hounds, and the handshake that changes partitions (spec/15 R301, spec/16 R326,
R327, spec/23 R449 to R451). -/

namespace Sys2Proof.Machine

/-! ## Hounds (R292, R327) -/

/-- HNDCFG of a quarter; reset EN 1, RATE 4,096. -/
def State.hound (s : State) (q : Nat) : Hound := tget s.sys.hounds q
def State.modHound (s : State) (q : Nat) (f : Hound → Hound) : State :=
  s.onSys (fun y => { y with hounds := tmod y.hounds q f })

/-- The majority cells that a quarter's hound visits: those of stack sets whose first stack is in the quarter, in
increasing order. Key: set * 2^52 + address. DEDUCED: notes/assumptions/94. -/
def State.houndCells (s : State) (q : Nat) : List Nat :=
  let root := s.partOf q
  let all := (s.mem.majCells.filter (fun e => e.1 / 2 ^ 52 / 16 == root)).map (fun e => e.1 % 2 ^ 56)
  let mine := all.filter (fun k => (s.ssetStacks root (k / 2 ^ 52)).headD 99 / 3 == q)
  mine.mergeSort (fun x y => decide (x % 2 ^ 52 < y % 2 ^ 52 ∨ (x % 2 ^ 52 = y % 2 ^ 52 ∧ x ≤ y)))

/-- The hound reads every copy of a cell that answers and sends the greatest tag's image to every copy that lags: how
many it repaired, and the state after (R292). -/
def State.houndCell (s : State) (root k : Nat) : Nat × State :=
  let a := k % 2 ^ 52
  let all := s.ssetStacks root (k / 2 ^ 52)
  let ok := all.filter (fun st => s.copyAnswers root st a)
  let win := s.majNewest root a ok
  let lag := (all.filter (s.stackUp root)).filter (fun st => decide ((s.majCopy root st a).tag < win.tag))
  if ok.length < majorityOf all.length then (0, s)
  else (lag.length, lag.foldl (fun st k2 =>
    st.setCopy k2 a (copyTakesRepair (st.majCopy root k2 a) win.wts win.wid win.img)) s)

/-- One visit: the next cell in order, or the end of a pass. DEDUCED: notes/assumptions/94. -/
def State.houndVisit (s : State) (q : Nat) : State :=
  let h := s.hound q
  let root := s.partOf q
  let cells := s.houndCells q
  if !bitOf h.cfg.toNat 31 then s
  else match cells[h.pos]? with
    | some k =>
      let (n, s1) := s.houndCell root k
      s1.modHound q (fun x => { x with pos := x.pos + 1, rep := x.rep + BitVec.ofNat 64 n })
    | none => s.modHound q (fun x => { x with pos := 0, pass := x.pass + 1 })

/-- HOUND_VISIT. -/
def execHoundVisit (q : Nat) (s : State) : Res := .next (if q < 4 then s.houndVisit q else s)

/-- A whole pass of a quarter's hound (R301 step 2). -/
def State.houndPass (s : State) (q : Nat) : State :=
  let s1 := (s.houndCells q).foldl (fun st k =>
    let (n, st1) := st.houndCell (st.partOf q) k
    st1.modHound q (fun x => { x with rep := x.rep + BitVec.ofNat 64 n })) s
  s1.modHound q (fun x => { x with pos := 0, pass := x.pass + 1 })

/-! ## Rebases (R301) -/

def State.quartersOf (s : State) (root : Nat) : List Nat := (List.range 4).filter (fun q => s.partOf q == root)

/-- Every cache bank and lease cache of a set of quarters drops its lines. -/
def State.dropCaches (s : State) (qs : List Nat) : State :=
  s.onMem (fun m => { m with
    lease := m.lease.filter (fun e => !qs.contains (e.1 / 96))
    banks := m.banks.filter (fun e => !qs.contains (e.1 / 384 / 16 / 12)) })

/-- The rebase of a partition whose largest timestamp has reached 3 × 2^45, once the last one's walker has finished. DEDUCED: notes/assumptions/93. -/
def State.rebase (s : State) (root : Nat) : State :=
  if s.partOf root != root || (s.part root).walker || s.maxStamp root < 3 * 2 ^ 45 then s
  else
    let s1 := s.mapStamps root (fun t => max t (2 * rebaseB))
    let s2 := (s.quartersOf root).foldl (fun st q => st.houndPass q) s1
    let s3 := s2.dropCaches (s.quartersOf root)
    let s4 := s3.mapStamps root (fun t => max t rebaseB - rebaseB)
    s4.modPart root (fun p => { p with epoch := p.epoch + 1, walker := true })

/-- REBASE. -/
def execRebase (part : Nat) (s : State) : Res := .next (if part < 4 then s.rebase part else s)

/-- The walker has converted every line and copy that no access has touched (R301 step 5). -/
def State.walkerDone (s : State) (root : Nat) : State :=
  let bit := s.epochBit root
  let s1 := s.onMem (fun m => { m with
    lines := m.lines.map (fun e => if s.partOf (homeQuarter (e.1 * 64)) = root then (e.1, convLine bit e.2) else e)
    maj := m.maj.map (fun e => if s.partOf (e.1 / 2 ^ 52 / 3) = root then (e.1, convCopy bit e.2) else e) })
  s1.modPart root (fun p => { p with walker := false })

/-- REBASE_WALKER_DONE. DEDUCED: notes/assumptions/93. -/
def execRebaseWalkerDone (part : Nat) (s : State) : Res :=
  .next (if (s.part part).walker then s.walkerDone part else s)

/-! ## MAJFAIL and stack sets (R326) -/

/-- Every copy of a stack starts again with tag 0 and image zero. -/
def State.stackFresh (s : State) (stack : Nat) (p : Nat → Bool) : State :=
  s.onMem (fun m => { m with maj := m.maj.filter (fun e => !(e.1 / 2 ^ 52 == stack && p (e.1 % 2 ^ 52))) })

/-- A write of MAJFAIL: stacks that return to service start fresh. -/
def State.setMajfail (s : State) (root : Nat) (v : Word) : State :=
  let back := (List.range 12).filter (fun n => bitOf (s.part root).majfail.toNat n && !bitOf v.toNat n)
  let s1 := back.foldl (fun st n => st.stackFresh n (fun _ => true)) s
  s1.modPart root (fun p => { p with majfail := v })

/-- A write of a stack set: a stack that is new in it starts fresh for the set's cells. -/
def State.setSset (s : State) (root n : Nat) (v : Word) : State :=
  let old := s.ssetStacks root n
  let s1 := s.modPart root (fun p => { p with sset := tset p.sset n v })
  let mine (a : Nat) : Bool := thas s.mem.majCells ((root * 16 + n) * 2 ^ 52 + a)
  ((s1.ssetStacks root n).filter (fun k => !old.contains k)).foldl (fun st k => st.stackFresh k mine) s1

/-! ## Graphs lost (R54, R444, R451) -/

/-- A graph is lost: its launch meets GRAPH_LOST, and the graph's work is cancelled. DEDUCED: notes/assumptions/89. -/
def State.graphLost (s : State) (job g : Nat) : State :=
  let x := s.graph job g
  if !x.used || x.lost then s
  else
    let s1 := s.modGraph job g (fun y => { y with lost := true })
    let s2 := s1.noteEnd { launch := x.launch, graph := g, job := job } 3 0
    s2.cancelUnit 2 (graphKey job g)

/-! ## Changing partitions (R451) -/

def pmIdle : Nat := 0
def pmQuiescing : Nat := 1
def pmQuiesced : Nat := 2
def pmResuming : Nat := 3
def pmBusy : Nat := 4

/-- Whether a mask of quarters is a union of whole partitions. -/
def State.wholeParts (s : State) (mask : Nat) : Bool :=
  decide (0 < mask ∧ mask < 16) &&
  (List.range 4).all (fun q => (List.range 4).all (fun r =>
    s.partOf q != s.partOf r || (bitOf mask q == bitOf mask r)))

/-- PMCMD QUIESCE with a mask fits PMSTAT. -/
def State.canQuiesce (s : State) (mask : Nat) : Bool :=
  (s.sys.pmstat == pmIdle || s.sys.pmstat == pmBusy) && s.wholeParts mask
def State.canResume (s : State) (mask : Nat) : Bool := s.sys.pmstat == pmQuiesced && s.sys.pmask == mask

def State.pmStart (s : State) (mask : Nat) : State :=
  s.onSys (fun y => { y with pmstat := pmQuiescing, pmask := mask, pcfgOld := y.pcfg })

/-- LAUNCH operations in progress into the queues of a mask. -/
def State.launching (s : State) (mask : Nat) : Bool :=
  let into (o : OutItem) : Bool := match o with
    | .rel (.launch _ _ q _) => bitOf mask (q / 256)
    | _ => false
  s.core.strands.any (fun e => e.2.out.any into) || s.core.holds.any (fun e => e.2.out.any into) ||
  s.core.saved.any (fun e => e.2.out.any into) || s.core.ghosts.any (fun e => e.2.out.any into)

/-- Queues of a mask that hold a claim not yet published. -/
def State.claimsOpen (s : State) (mask : Nat) : Bool :=
  s.work.queues.any (fun e => bitOf mask (e.1 / 256) && e.2.claim != e.2.pub)

/-- Jobs with a strand in the quarters of a mask. -/
def State.residentJobs (s : State) (mask : Nat) : List Nat :=
  ((s.core.strands.filter (fun e => e.2.live && e.2.serves.isNone && bitOf mask (e.1 / 512))).map
    (fun e => e.2.who.job)).eraseDups

/-- The clusters of a mask. -/
def maskClusters (mask : Nat) : List Nat := (List.range 48).filter (fun c => bitOf mask (c / 12))

/-- Whether anything that strands of the mask released is still under way. DEDUCED: notes/assumptions/92. -/
def State.workLeft (s : State) (mask : Nat) : Bool :=
  let inCl (c : Nat) : Bool := bitOf mask (c / 12)
  let busy (e : Nat × Strand) : Bool := inCl (sidCluster e.2.who.sid) && (!e.2.out.isEmpty || decide (e.2.stc > 0) ||
    decide (e.2.cpc > 0))
  s.core.strands.any (fun e => e.2.live && inCl (sidCluster e.1)) || s.core.holds.any (fun e => inCl (sidCluster e.1)) ||
  s.core.saved.any busy || s.core.ghosts.any busy ||
  s.acc.copies.any (fun e => e.2.used && inCl (e.1 / 65536)) ||
  s.acc.xfers.any (fun e => e.2.used && inCl (e.1 / 65536 / 2)) ||
  s.acc.agns.any (fun e => inCl (agnCl e.1) && (match e.2.stream with
    | some st => !st.stopped
    | none => false)) ||
  s.allCells.any (fun x => inCl x.1) ||
  s.ken.engines.any (fun e => bitOf mask (e.1 / 32) && !e.2.jobs.isEmpty) ||
  s.sys.parts.any (fun e => bitOf mask e.1 && e.2.walker)

/-- QUIESCING goes on: busy queues end it; otherwise resident jobs are pre-empted, write ports flush, and once nothing is
left under way the quarters are quiesced. -/
def State.quiesce (s : State) : State :=
  let mask := s.sys.pmask
  if s.launching mask then s
  else if s.claimsOpen mask then s.onSys (fun y => { y with pmstat := pmBusy })
  else
    let s1 := (s.residentJobs mask).foldl (fun st j => st.preempt j (maskClusters mask)) s
    let keys := (s1.acc.agns.filter (fun e => bitOf mask (agnCl e.1 / 12) && !e.2.buf.isEmpty)).map (fun e => e.1)
    let s2 := keys.foldl (fun st k => st.flushAll k) s1
    if s2.workLeft mask then s2 else s2.onSys (fun y => { y with pmstat := pmQuiesced })

/-- PM_QUIESCE: the host's command, and its progress. DEDUCED: notes/assumptions/71. -/
def State.pmQuiesce (s : State) (mask : Nat) : State :=
  if s.canQuiesce mask then s.pmStart mask
  else if s.sys.pmstat == pmQuiescing && s.sys.pmask == mask then s.quiesce else s

/-- PM_QUIESCE. DEDUCED: notes/assumptions/92. -/
def execPmQuiesce (qmask : Nat) (s : State) : Res := .next (s.pmQuiesce qmask)

/-- The former partitions of a new partition's quarters. -/
def State.formerRoots (s : State) (qs : List Nat) : List Nat := (qs.map (fun q => wbits s.sys.pcfgOld (2 * q) 2)).eraseDups

/-- The state as the old PCFG partitions it. -/
def State.asFormer (s : State) : State := s.onSys (fun y => { y with pcfg := y.pcfgOld })

/-- One new partition is formed (R451): its timestamps rise to the largest of its former partitions, MMEPOCH is the
larger, and the epoch bits of the other's lines follow. DEDUCED: notes/assumptions/71, 92. -/
def State.formPart (s : State) (root : Nat) : State :=
  let qs := s.quartersOf root
  let olds := s.formerRoots qs
  let f := s.asFormer
  let top := olds.foldl (fun m r => max m (f.maxStamp r)) 0
  let ep := olds.foldl (fun m r => max m (s.part r).epoch.toNat) 0
  let bit := ep % 2
  let behind (q : Nat) : Bool := qs.contains q && decide ((s.part (wbits s.sys.pcfgOld (2 * q) 2)).epoch.toNat < ep)
  let s1 := s.onMem (fun m => { m with
    lines := m.lines.map (fun e => if behind (homeQuarter (e.1 * 64)) then (e.1, { e.2 with epoch := bit }) else e)
    maj := m.maj.map (fun e => if behind (e.1 / 2 ^ 52 / 3) then (e.1, { e.2 with epoch := bit }) else e) })
  (s1.mapStamps root (fun t => max t top)).modPart root (fun p => { p with epoch := BitVec.ofNat 64 ep })

/-- Graphs whose clusters lie in more than one partition. DEDUCED: notes/assumptions/92. -/
def State.splitGraphs (s : State) : List (Nat × Nat) :=
  (s.work.graphs.filter (fun e => e.2.used && e.2.bound &&
    (e.2.img.clusters.map s.partOfCluster).eraseDups.length > 1)).map (fun e => (e.1 / 65536, e.1 % 65536))

/-- PM_RESUME (R451). -/
def State.pmResume (s : State) (mask : Nat) : State :=
  if !(s.canResume mask || (s.sys.pmstat == pmResuming && s.sys.pmask == mask)) then s
  else
    let qs := (List.range 4).filter (fun q => bitOf mask q)
    let s1 := s.onAcc (fun a => { a with tlb := a.tlb.filter (fun e => !qs.contains e.1) })
    let s2 := s1.dropCaches qs
    let s3 := (qs.map s.partOf).eraseDups.foldl (fun st r => st.formPart r) s2
    let s4 := s3.onSys (fun y => { y with pmstat := pmIdle, pmask := 0 })
    s4.splitGraphs.foldl (fun st g => st.graphLost g.1 g.2) s4

/-- PM_RESUME. DEDUCED: notes/assumptions/92. -/
def execPmResume (qmask : Nat) (s : State) : Res := .next (s.pmResume qmask)

end Sys2Proof.Machine
end

