-- ==== Sys2Proof/Machine/Registers.lean ====
section
/-! DEFINITION. Machine/Registers.lean: the system register space, and SRD, SWR and TLBI as a block fires them (spec/23 R455 to
R459, spec/13 R274, spec/15 R302, spec/22 R435, R448, spec/09 R206, spec/12 R264, spec/16 R327, R329, spec/18 R379, spec/20
R411, R413). -/

namespace Sys2Proof.Machine

/-- Who reads or writes a register: a strand, or an MGMT flit. -/
structure Issuer where
  strand : Bool := true
  who    : Owner := {}
  root   : Nat := 0
  hmode  : Bool := false
  host   : Bool := false          -- may write Host registers (R457)
  deriving DecidableEq, Repr

/-! ## Selectors (R456) -/

/-- The scopes that R458 gives blocks. -/
inductive Scope where
  | none | cl | clMe | q | die
  deriving DecidableEq, Repr

/-- The unit that a selector names in a scope; none: BADSYS. DEDUCED: notes/assumptions/91. -/
def State.selUnit (s : State) (i : Issuer) (sc : Scope) (sel : Word) : Option Nat :=
  let unit := wbits sel 8 6
  let q := wbits sel 6 2
  let c := wbits sel 0 6
  let cl := if c = 63 && i.strand then sidCluster i.who.sid else c
  let clOk := decide (cl < 48) && s.partOfCluster cl == i.root
  if wbits sel 14 50 != 0 then Option.none
  else match sc with
    | .none => if sel = 0 then some 0 else Option.none
    | .cl => if unit = 0 && q = 0 && clOk then some cl else Option.none
    | .clMe => if unit < 4 && q = 0 && clOk then some (cl * 4 + unit) else Option.none
    | .q => if unit = 0 && c = 0 && s.partOf q == i.root then some q else Option.none
    | .die => if q = 0 && c = 0 && (unit = 4 || unit = 5 || (decide (unit < 4) && s.partOf unit == i.root))
        then some unit else Option.none

/-! ## Names -/

/-- A system register, with its index within its kind. -/
inductive SysReg where
  | tcause | tblk | targ | tresume | tbank (n : Nat)
  | tvec | csave | fqbase | fqcfg | fqhead | fresume
  | mmcfg | mmepoch
  | errbase | errcfg | errhead | errtail | cecnt | uecnt | crccnt | sdccnt | errlost
  | pcfg | pmcmd | pmstat | pnode | qagelim | bustat | jroot | jexpb | jexpl | hil (n : Nat) | sset (n : Nat)
  | mbnd (n : Nat) | xlstat | fwver | attnonce | attreq | jobcmd | jobstat | jcw | meas (n : Nat)
  | mkcfg | mcg (n : Nat) | mkptr (n : Nat) | mkpool | mkaged | mkshort | mkstale
  | mecfg | mestat | mescx | mechkc | mectx (n : Nat)
  | cwmask (n : Nat)
  | barrier (b w : Nat)
  | hndcfg | hndrep | rdrep | majfail | hndpass
  | kncfg | knrcl | knevc | knfull | knout
  | pwcfg | vfisl (n : Nat) | hopabort | clampsat | vfrgn | jpwr | jpwrlo | jpwrhi
  | qbase (n : Nat) | qcfg (n : Nat) | qcnt (n : Nat) | qpubc (n : Nat)
  | uccfg (m : Nat) | ucstat (m : Nat) | ucretry (m : Nat) | ucrtrn (m : Nat) | ucdrop (m : Nat) | uccmd (m : Nat)
  | ace (n : Nat)
  | ctr (n : Nat)
  deriving DecidableEq, Repr

/-- Registers at the first offsets of a block. -/
def nth (l : List SysReg) (i : Nat) : Option SysReg := l[i]?

def trapReg (o : Nat) : Option SysReg :=
  if o < 7 then nth [.tcause, .tblk, .targ, .tresume, .tbank 0, .tbank 1, .tbank 2] o
  else if o ≥ 16 then nth [.tvec, .csave, .fqbase, .fqcfg, .fqhead, .fresume] (o - 16)
  else none

def systemReg (o : Nat) : Option SysReg :=
  if o < 9 then nth [.pcfg, .pmcmd, .pmstat, .pnode, .qagelim, .bustat, .jroot, .jexpb, .jexpl] o
  else if o < 0x0A then none
  else if o < 0x0E then some (.hil (o - 0x0A))
  else if o < 0x1E then some (.sset (o - 0x0E))
  else if o < 0x26 then some (.mbnd (o - 0x1E))
  else if o = 0x26 then some .xlstat
  else if o < 0x28 then none
  else if o < 0x2E then nth [.fwver, .attnonce, .attreq, .jobcmd, .jobstat, .jcw] (o - 0x28)
  else if o < 0x30 then none
  else some (.meas (o - 0x30))

def marketReg (o : Nat) : Option SysReg :=
  if o = 0 then some .mkcfg
  else if o < 0x21 then some (.mcg (o - 1))
  else if o < 0x41 then some (.mkptr (o - 0x21))
  else nth [.mkpool, .mkaged, .mkshort, .mkstale] (o - 0x41)

def matrixReg (o : Nat) : Option SysReg :=
  if o < 4 then nth [.mecfg, .mestat, .mescx, .mechkc] o else some (.mectx (o - 4))

def powerReg (o : Nat) : Option SysReg :=
  if o = 0 then some .pwcfg
  else if o < 0x11 then some (.vfisl (o - 1))
  else if o < 0x13 then nth [.hopabort, .clampsat] (o - 0x11)
  else if o < 0x20 then none
  else nth [.vfrgn, .jpwr, .jpwrlo, .jpwrhi] (o - 0x20)

def queueReg (o : Nat) : SysReg :=
  match o % 4 with
  | 0 => .qbase (o / 4)
  | 1 => .qcfg (o / 4)
  | 2 => .qcnt (o / 4)
  | _ => .qpubc (o / 4)

def linkReg (o : Nat) : Option SysReg :=
  nth [.uccfg (o / 8), .ucstat (o / 8), .ucretry (o / 8), .ucrtrn (o / 8), .ucdrop (o / 8), .uccmd (o / 8)] (o % 8)

/-- The register and the scope that a SYSNUM names (R458); none: unassigned. DEDUCED: notes/assumptions/91. -/
def sysReg (n : Nat) : Option (SysReg × Scope) :=
  let w (sc : Scope) (r : Option SysReg) : Option (SysReg × Scope) := r.map (fun x => (x, sc))
  if n ≤ 0x15 then w .none (trapReg n)
  else if n < 0x20 then none
  else if n < 0x22 then w .none (nth [.mmcfg, .mmepoch] (n - 0x20))
  else if n < 0x30 then none
  else if n ≤ 0x38 then
    w .none (nth [.errbase, .errcfg, .errhead, .errtail, .cecnt, .uecnt, .crccnt, .sdccnt, .errlost] (n - 0x30))
  else if n < 0x40 then none
  else if n ≤ 0x8F then w (if n = 0x66 then .q else .none) (systemReg (n - 0x40))
  else if n < 0x100 then none
  else if n ≤ 0x144 then w .cl (marketReg (n - 0x100))
  else if n < 0x180 then none
  else if n ≤ 0x18B then w .clMe (matrixReg (n - 0x180))
  else if n < 0x200 then none
  else if n ≤ 0x201 then w .cl (some (.cwmask (n - 0x200)))
  else if n < 0x400 then none
  else if n < 0x800 then w .cl (some (.barrier ((n - 0x400) / 4) ((n - 0x400) % 4)))
  else if n ≤ 0x804 then w .q (nth [.hndcfg, .hndrep, .rdrep, .majfail, .hndpass] (n - 0x800))
  else if n < 0x820 then none
  else if n ≤ 0x824 then w .q (nth [.kncfg, .knrcl, .knevc, .knfull, .knout] (n - 0x820))
  else if n < 0x840 then none
  else if n ≤ 0x863 then w (if n ≤ 0x860 then .q else .none) (powerReg (n - 0x840))
  else if n < 0xC00 then none
  else if n < 0x1000 then w .q (some (queueReg (n - 0xC00)))
  else if n < 0x1100 then w .die (linkReg (n - 0x1000))
  else if n < 0x1200 then none
  else if n < 0x1300 then w .none (some (.ace (n - 0x1200)))
  else if n < 0x1400 then none
  else if n < 0x1800 then w .none (some (.ctr (n - 0x1400)))
  else none

/-- What may be done with a register: read, write, host only for writes. -/
structure RegAccess where
  r : Bool
  w : Bool
  host : Bool
  deriving DecidableEq, Repr

def ro : RegAccess := ⟨true, false, false⟩
def rw : RegAccess := ⟨true, true, false⟩
def wo : RegAccess := ⟨false, true, false⟩
def rhw : RegAccess := ⟨true, true, true⟩
def hw : RegAccess := ⟨false, true, true⟩

/-- DEDUCED: notes/assumptions/91. -/
def SysReg.access : SysReg → RegAccess
  | .tcause | .tblk | .targ | .mmepoch | .errtail | .pmstat | .bustat | .fwver | .jobstat | .meas _ | .mkptr _ | .mkpool
  | .mechkc | .mectx _ | .barrier _ _ | .hndpass | .qcnt _ | .qpubc _ | .ucstat _ | .ctr _ => ro
  | .fresume | .uccmd _ => wo
  | .pcfg | .pnode | .jroot | .jexpb | .jexpl | .hil _ | .sset _ | .mbnd _ | .jcw | .jpwrlo | .jpwrhi | .ace _ => rhw
  | .pmcmd | .attnonce | .attreq | .jobcmd => hw
  | _ => rw

/-- The strand's own trap record: only in handler mode, and never from outside (R274). -/
def SysReg.own : SysReg → Bool
  | .tcause | .tblk | .targ | .tresume | .tbank _ => true
  | _ => false

/-! ## Reading -/

/-- JOBSTAT and the completion counters act on the issuer's job. -/
def num (n : Nat) : Word := BitVec.ofNat 64 n

def Barrier.narr (b : Barrier) : Nat := (b.members.filter (·.arr)).length

/-- A barrier object's words (R329). -/
def Barrier.word (b : Barrier) (w : Nat) : Nat :=
  match w with
  | 0 => b.cph % 2 ^ 32 * 2 ^ 32 + b.brk.toNat * 2 ^ 31 + b.drop.toNat * 2 ^ 30 + b.evt.toNat * 2 ^ 29 + ofSigned 21 b.pend
  | 1 => b.cstamp % 2 ^ 48
  | 2 => b.nmem % 4096 * 2 ^ 52 + b.narr % 4096 * 2 ^ 40 + b.resv % 2 ^ 20 * 2 ^ 20 + b.report % 2048
  | _ => b.ostamp % 2 ^ 48

/-- Queues open in a market, and the free shared buffers (R206). -/
def Market.pool (m : Market) : Nat := min 2048 m.sharedFree * 2 ^ 16 + m.opened.length

/-- An island's register (R379). DEDUCED: notes/assumptions/77. -/
def Island.word (x : Island) : Nat :=
  x.ret.toNat * 128 + x.str.toNat * 64 + (if x.ret then 0 else x.cur % 8) * 8 + x.floor % 8

/-- KNOUT (R379): engines out of service. -/
def State.knOut (s : State) (q : Nat) : Nat :=
  (List.range 32).foldl (fun m i => if (s.kEngine q i).out then m + 2 ^ i else m) 0

def State.queueAt (s : State) (q n : Nat) : Queue := s.queue (q * 256 + n)

/-- The value of a register; u is the unit that the selector names. -/
def State.sysRegValue (s : State) (i : Issuer) (u : Nat) : SysReg → Word
  | .tcause => (s.strand i.who.sid).tcause
  | .tblk => (s.strand i.who.sid).tblk
  | .targ => (s.strand i.who.sid).targ
  | .tresume => (s.strand i.who.sid).tresume
  | .tbank n => match n with
    | 0 => (s.strand i.who.sid).tbank0
    | 1 => (s.strand i.who.sid).tbank1
    | _ => (s.strand i.who.sid).tbank2
  | .tvec => (s.job i.who.job).tvec
  | .csave => (s.job i.who.job).csave
  | .fqbase => (s.job i.who.job).fqbase
  | .fqcfg => (s.job i.who.job).fqcfg
  | .fqhead => (s.job i.who.job).fqhead
  | .mmcfg => (s.part i.root).mmcfg
  | .mmepoch => (s.part i.root).epoch
  | .errbase => (s.part i.root).rel.base
  | .errcfg => (s.part i.root).rel.cfg
  | .errhead => (s.part i.root).rel.head
  | .errtail => num (s.part i.root).rel.tail
  | .cecnt => (s.part i.root).rel.ce
  | .uecnt => (s.part i.root).rel.ue
  | .crccnt => (s.part i.root).rel.crc
  | .sdccnt => (s.part i.root).rel.sdc
  | .errlost => (s.part i.root).rel.lost
  | .pcfg => s.sys.pcfg
  | .pmstat => num (s.sys.pmask * 16 + s.sys.pmstat)
  | .pnode => (s.part i.root).pnode
  | .qagelim => (s.part i.root).qage
  | .bustat => num s.bustat
  | .jroot => (s.job i.who.job).jroot
  | .jexpb => (s.job i.who.job).jexpb
  | .jexpl => (s.job i.who.job).jexpl
  | .hil n => tget (s.part i.root).hil n
  | .sset n => tget (s.part i.root).sset n
  | .mbnd n => tget s.sys.mbnd n
  | .xlstat => tget s.sys.xlstat u
  | .fwver => num (s.sys.fwver.toNat * 2 ^ 32 + Config.fusedMin.toNat)
  | .jobstat => num (s.job i.who.job).state
  | .jcw => (s.job i.who.job).jcw
  | .meas n => num (bits (tget s.sys.meas (n / 4)).toNat (64 * (n % 4)) 64)
  | .mkcfg => (s.market u).cfg
  | .mcg n => s.mcGroup u n
  | .mkptr n => num (tget (s.market u).op n * 32 + tget (s.market u).ap n)
  | .mkpool => num (s.market u).pool
  | .mkaged => (s.market u).aged
  | .mkshort => (s.market u).short
  | .mkstale => (s.market u).stale
  | .mecfg => num (s.matEng u).mchkn
  | .mestat => num ((s.matEng u).quar.toNat * 2 ^ 63 + (s.matEng u).qcol % 256 * 256 + (s.matEng u).qrow % 128)
  | .mescx => (s.matEng u).scx
  | .mechkc => num (s.matEng u).chkc
  | .mectx n => if n % 2 = 0 then (s.matCtx (u * 4 + n / 2)).cfg0 else (s.matCtx (u * 4 + n / 2)).cfg1
  | .cwmask n => ~~~(tget s.sys.ways (u * 2 + n))
  | .barrier b w => num ((s.barrier (u * 256 + b)).word w)
  | .hndcfg => (s.hound u).cfg
  | .hndrep => (s.hound u).rep
  | .rdrep => (s.hound u).rdrep
  | .majfail => (s.part i.root).majfail
  | .hndpass => (s.hound u).pass
  | .kncfg => s.kncfg u
  | .knrcl => tget s.ken.rcl u
  | .knevc => tget s.ken.evc u
  | .knfull => tget s.ken.full u
  | .knout => num (s.knOut u)
  | .pwcfg => s.pwcfg u
  | .vfisl n => num (s.island u n).word
  | .hopabort => tget s.ken.hopabort u
  | .clampsat => tget s.ken.clampsat u
  | .vfrgn => tget s.ken.rgn u
  | .jpwr => (s.job i.who.job).jpwr
  | .jpwrlo => (s.job i.who.job).jpwrlo
  | .jpwrhi => (s.job i.who.job).jpwrhi
  | .qbase n => (s.queueAt u n).base
  | .qcfg n => (s.queueAt u n).cfg
  | .qcnt n => num ((s.queueAt u n).claim % 2 ^ 32 * 2 ^ 32 + (s.queueAt u n).head % 2 ^ 32)
  | .qpubc n => num ((s.queueAt u n).pub % 2 ^ 32)
  | .uccfg m => num ((s.ucMod u m).lim * 2 ^ 16 + (s.ucMod u m).win)
  | .ucstat m => num ((s.ucMod u m).state * 2 ^ 62 + (s.ucMod u m).half * 2 ^ 61 + (s.ucMod u m).repaired % 256)
  | .ucretry m => (s.ucMod u m).retry
  | .ucrtrn m => (s.ucMod u m).rtrn
  | .ucdrop m => (s.ucMod u m).drop
  | .ace n => s.aceEntry n
  | .ctr n => tget (s.job i.who.job).ctr n
  | .fresume | .pmcmd | .attnonce | .attreq | .jobcmd | .uccmd _ => 0

/-- Read a register; none: BADSYS (R457). DEDUCED: notes/assumptions/91. -/
def State.regRead (s : State) (i : Issuer) (n : Nat) (sel : Word) : Option Word :=
  match sysReg n with
  | none => none
  | some (r, sc) => match s.selUnit i sc sel with
    | none => none
    | some u =>
      if !r.access.r || (r.own && !(i.strand && i.hmode)) then none
      else some (s.sysRegValue i u r)

/-! ## Writing -/

/-- What a write comes to. -/
inductive RegOut where
  | done (s : State)
  | badsys
  | badparm
  deriving DecidableEq

/-- Write where a condition on the value holds. -/
def wif (c : Bool) (s : State) : RegOut := if c then .done s else .badsys

/-- Bits outside a mask of fields are zero. -/
def only (v : Word) (mask : Nat) : Bool := (v &&& ~~~(num mask)) == 0
def aligned (v : Word) (n : Nat) : Bool := v.toNat % n == 0
/-- A field's value lies in a range. -/
def inRange (v : Word) (lo n a b : Nat) : Bool := decide (a ≤ wbits v lo n ∧ wbits v lo n ≤ b)

def State.setJob (s : State) (i : Issuer) (f : Job → Job) : State := s.modJob i.who.job f

/-- The five values PCFG accepts (R449). -/
def pcfgOk (v : Word) : Bool := [0x00, 0xA0, 0xE4, 0xE0, 0xA4].contains v.toNat

/-- Whether every quarter of a list lies in the quiesced mask (R451). -/
def State.quiesced (s : State) (qs : List Nat) : Bool :=
  s.sys.pmstat == pmQuiesced && qs.all (fun q => bitOf s.sys.pmask q)

/-- Quarters whose partition a PCFG value changes. -/
def pcfgChanges (old new : Word) : List Nat := (List.range 4).filter (fun q => wbits old (2 * q) 2 != wbits new (2 * q) 2)

/-- A write of PCFG (R449, R451, R463). -/
def State.writePcfg (s : State) (v : Word) : RegOut :=
  if !pcfgOk v then .badsys
  else if !s.quiesced (pcfgChanges s.sys.pcfg v) && v != s.sys.pcfg then .badsys
  else .done ((s.onSys (fun y => { y with pcfg := v })).measureAccess)

/-- Two interleave ranges do not overlap. -/
def hilApart (a b : Word) : Bool :=
  let lo (h : Word) : Nat := wbits h 27 22
  let hi (h : Word) : Nat := wbits h 27 22 + wbits h 5 22
  !bitOf a.toNat 63 || !bitOf b.toNat 63 || decide (hi a ≤ lo b ∨ hi b ≤ lo a)

/-- The stacks of a partition. -/
def State.partStacks (s : State) (root : Nat) : List Nat := (List.range 12).filter (fun k => s.partOf (k / 3) == root)

def State.hilOk (s : State) (root n : Nat) (v : Word) : Bool :=
  let st := setBits (wbits v 49 12) 12
  wbits v 0 5 == 0 && wbits v 61 2 != 3 && decide (wbits v 5 22 ≥ 1 ∨ v = 0) &&
  st.all (fun k => (s.partStacks root).contains k) && (!bitOf v.toNat 63 || !st.isEmpty) &&
  ((List.range 4).filter (fun m => m != n)).all (fun m => hilApart v (tget (s.part root).hil m))

def State.ssetOk (s : State) (root : Nat) (v : Word) : Bool :=
  let n := if bitOf v.toNat 62 then 5 else 3
  let st := (List.range n).map (fun i => wbits v (4 * i) 4)
  only v (2 ^ 63 + 2 ^ 62 + (2 ^ 20 - 1)) &&
  (!bitOf v.toNat 63 || (st.all (fun k => (s.partStacks root).contains k) && decide (st.eraseDups.length = n)))

/-- A field's value saturated into its bounds; whether it moved. -/
def clampField (v lo hi : Nat) : Nat × Bool :=
  let w := min (max v lo) hi
  (w, w != v)

/-- The word clamped field by field, and the fields that moved (R376). -/
def clampJpwr (v lo hi : Word) : Nat × Nat :=
  let f := clampField (wbits v 8 8) (wbits lo 8 8) (wbits hi 8 8)
  let l := clampField (wbits v 4 3) (wbits lo 4 3) (wbits hi 4 3)
  let p := clampField (wbits v 0 3) (wbits lo 0 3) (wbits hi 0 3)
  (f.1 * 256 + l.1 * 16 + p.1, f.2.toNat + l.2.toNat + p.2.toNat)

/-- A write of JPWR (R376). -/
def State.writeJpwr (s : State) (i : Issuer) (v : Word) : RegOut :=
  let j := s.job i.who.job
  if s.contextMode i.root then
    wif (only v 0xFF77 && inRange v 0 3 1 7) (s.setJob i (fun x => { x with jpwr := v }))
  else
    let (w, n) := clampJpwr v j.jpwrlo j.jpwrhi
    let q := if i.strand then clusterQuarter (sidCluster i.who.sid) else i.root
    .done ((s.setJob i (fun x => { x with jpwr := num w })).onKen (fun k => { k with
      clampsat := tmod k.clampsat q (fun c => c + num n) }))

/-- The clusters of a quarter that a VFRGN value puts in a region form a rectangle: a quarter's clusters stand in three
rows of four (R372, R2; the grid is the model's reading). DEDUCED: notes/assumptions/77. -/
def rgnRect (v : Word) (r : Nat) : Bool :=
  let mine := (List.range 12).filter (fun c => wbits v (4 * c) 4 == r)
  let xs := mine.map (· % 4)
  let ys := mine.map (· / 4)
  let lo (l : List Nat) : Nat := l.foldl min 99
  let hi (l : List Nat) : Nat := l.foldl max 0
  mine.isEmpty || mine.length == (hi xs - lo xs + 1) * (hi ys - lo ys + 1)

/-- A write of VFRGN: a value that leaves a region no rectangle is not applied (R458). -/
def State.writeVfrgn (s : State) (q : Nat) (v : Word) : RegOut :=
  if !only v (2 ^ 48 - 1) then .badsys
  else .done (if (List.range 16).all (rgnRect v) then s.onKen (fun k => { k with rgn := tset k.rgn q v }) else s)

/-- A write of an island's register: the floor; an island in retention wakes (R377, R379). -/
def State.writeVfisl (s : State) (q n : Nat) (v : Word) : RegOut :=
  let x := s.island q n
  wif (only v 0xFF) (s.setIsland q n { x with floor := wbits v 0 3, wake := x.wake || x.ret })

/-- A write of KNOUT: an engine whose bit is 0 returns to service, and the kennel serves (R362, R379). -/
def State.writeKnout (s : State) (q : Nat) (v : Word) : RegOut :=
  if !only v (2 ^ 32 - 1) then .badsys
  else
    let s1 := (List.range 32).foldl (fun st i => if bitOf v.toNat i then st
      else st.modKEngine q i (fun e => { e with out := false })) s
    .done (s1.kServe q)

/-- A write of KNCFG (R379): engines beyond KWARM sleep, and the kennel serves. -/
def State.writeKncfg (s : State) (q : Nat) (v : Word) : RegOut :=
  if !(only v (0x3FF * 2 ^ 32 + 0x3FF * 2 ^ 20 + 0x1F * 2 ^ 8 + 0x3F) && inRange v 32 10 1 1000 && inRange v 20 10 10 1023 &&
       inRange v 8 5 0 16 && inRange v 0 6 1 32) then .badsys
  else
    let s1 := s.onKen (fun k => { k with cfg := tset k.cfg q v })
    .done (((List.range 32).foldl (fun st _ => st.kTrim q) s1).kServe q)

/-- A write of MESTAT (R264). -/
def State.writeMestat (s : State) (k : Nat) (v : Word) : RegOut :=
  if bitOf v.toNat 63 || !only v 0xFF7F then .badsys
  else .done (s.modMatEng k (fun e => { e with quar := false }))

/-- A write of an access-control entry (R411, R463). -/
def State.writeAce (s : State) (n : Nat) (v : Word) : RegOut :=
  if wbits v 38 3 != 0 || wbits v 0 6 != 0 then .badsys
  else .done ((s.onLnk (fun l => { l with ace := tset l.ace n v })).measureAccess)

/-- A write of PNODE (R401, R459, R460). -/
def State.writePnode (s : State) (root : Nat) (v : Word) : RegOut :=
  if !only v 0xFFFF || v = 0 || v = 0xFFFF then .badsys
  else .done ((s.modPart root (fun p => { p with pnode := v })).leaveLink)

/-- A write of a queue's configuration (R413). -/
def State.writeQcfg (s : State) (k : Nat) (v : Word) : RegOut :=
  let x := s.queue k
  if !(only v (0xFFF * 2 ^ 52 + 0x8000 + 0x700 + 0xF) && inRange v 0 4 4 12) || x.claim != x.head then .badsys
  else .done (s.modQueue k (fun y => { y with cfg := v }))

/-- A write of PMCMD (R451). -/
def State.writePmcmd (s : State) (v : Word) : RegOut :=
  let m := wbits v 0 4
  if !only v (3 * 2 ^ 62 + 15) then .badsys
  else if wbits v 62 2 = 1 && s.canQuiesce m then .done (s.pmStart m)
  else if wbits v 62 2 = 2 && s.canResume m then .done (s.onSys (fun y => { y with pmstat := pmResuming }))
  else .badsys

/-- A write of JOBCMD (R51). -/
def State.writeJobcmd (s : State) (v : Word) : RegOut :=
  let j := wbits v 50 12
  let st := (s.job j).state
  let w := wbits v 42 8
  if !only v ((2 ^ 32 - 1) * 2 ^ 32) then .badsys
  else if j = 0 || j ≥ 4095 then .badparm
  else match wbits v 62 2 with
    | 1 => if st = 0 then .done (s.createJob j w) else .badparm
    | 2 => if st = 1 then .done (s.closeJob j (wbits v 32 10)) else .badparm
    | 3 => if st = 1 then .done (s.weighJob j w) else .badparm
    | _ => .badsys

/-- Write 0 to clear. -/
def clr (v : Word) (s : State) : RegOut := wif (v == 0) s

def State.setRel (s : State) (i : Issuer) (f : Reliability → Reliability) : State :=
  s.modPart i.root (fun p => { p with rel := f p.rel })

/-- A write of a value to a register in a unit. DEDUCED: notes/assumptions/91. -/
def State.sysRegWrite (s : State) (i : Issuer) (u : Nat) (v : Word) : SysReg → RegOut
  | .tresume => wif (only v (2 ^ 57 - 4)) (s.onContext i.who (fun x => { x with tresume := v }))
  | .tbank n => .done (s.onContext i.who (fun x => match n with
    | 0 => { x with tbank0 := v }
    | 1 => { x with tbank1 := v }
    | _ => { x with tbank2 := v }))
  | .tvec => wif (only v (2 ^ 57 - 4)) (s.setJob i (fun j => { j with tvec := v }))
  | .csave => wif (only v (2 ^ 57 - 2 ^ 21)) (s.setJob i (fun j => { j with csave := v }))
  | .fqbase => wif (only v (2 ^ 57 - 32)) (s.setJob i (fun j => { j with fqbase := v }))
  | .fqcfg => wif (only v (0x3FF * 2 ^ 54 + 0xFFFF) && (wbits v 0 16 == 0 || inRange v 0 16 16 65535))
      (s.setJob i (fun j => { j with fqcfg := v }))
  | .fqhead => .done (s.setJob i (fun j => { j with fqhead := v }))
  | .fresume =>
    let tag := wbits v 0 32
    wif (only v (2 ^ 63 + (2 ^ 32 - 1)) && (s.job i.who.job).faults.any (fun f => f.tag == tag))
      (s.fresume i.who.job tag (bitOf v.toNat 63))
  | .mmcfg => wif (only v 0xFFFF && inRange v 0 16 64 65535) (s.modPart i.root (fun p => { p with mmcfg := v }))
  | .errbase => wif (only v (2 ^ 57 - 4096)) (s.setRel i (fun r => { r with base := v }))
  | .errcfg => wif (only v (2 ^ 63 + 0x3FF * 2 ^ 48 + 0xFFFF) && (wbits v 0 16 == 0 || inRange v 0 16 16 65535))
      (s.setRel i (fun r => { r with cfg := v }))
  | .errhead => .done (s.setRel i (fun r => { r with head := v }))
  | .cecnt => clr v (s.setRel i (fun r => { r with ce := 0 }))
  | .uecnt => clr v (s.setRel i (fun r => { r with ue := 0 }))
  | .crccnt => clr v (s.setRel i (fun r => { r with crc := 0 }))
  | .sdccnt => clr v (s.setRel i (fun r => { r with sdc := 0 }))
  | .errlost => clr v (s.setRel i (fun r => { r with lost := 0 }))
  | .pcfg => s.writePcfg v
  | .pmcmd => s.writePmcmd v
  | .pnode => s.writePnode i.root v
  | .qagelim => wif (only v (2 ^ 30 - 1) && inRange v 0 30 1 1000000) (s.modPart i.root (fun p => { p with qage := v }))
  | .jroot => wif (only v (2 ^ 52 - 4096)) (s.setJob i (fun j => { j with jroot := v }))
  | .jexpb => wif (only v (2 ^ 57 - 65536)) (s.setJob i (fun j => { j with jexpb := v }))
  | .jexpl => wif (only v (2 ^ 41 - 1)) (s.setJob i (fun j => { j with jexpl := v }))
  | .hil n => wif (s.quiesced (s.quartersOf i.root) && s.hilOk i.root n v)
      (s.modPart i.root (fun p => { p with hil := tset p.hil n v }))
  | .sset n => wif (s.quiesced (s.quartersOf i.root) && s.ssetOk i.root v) (s.setSset i.root n v)
  | .mbnd n =>
    let e := mbndEnds n
    wif (only v (2 ^ 63 + (2 ^ 36 - 1)) && (s.quiesced [e.1, e.2] || bitOf (tget s.sys.mbnd n).toNat 63 == bitOf v.toNat 63) &&
        (!bitOf v.toNat 63 || s.partOf e.1 == s.partOf e.2))
      ((s.onSys (fun y => { y with mbnd := tset y.mbnd n v })).moveDown n)
  | .xlstat => clr v (s.onSys (fun y => { y with xlstat := tset y.xlstat u 0 }))
  | .attnonce => .done (s.onSys (fun y => { y with nonce := v }))
  | .attreq => wif (only v (7 * 2 ^ 61 + (2 ^ 57 - 64)) && inRange v 61 3 1 5) (s.attAsk (wbits v 61 3) (wbits v 0 57))
  | .jobcmd => s.writeJobcmd v
  | .jcw => wif (only v (2 ^ 57 - 8)) (s.setJob i (fun j => { j with jcw := v }))
  | .mkcfg => wif (only v (0xFF * 2 ^ 16 + 0xFFF) && inRange v 16 8 16 255 && inRange v 0 12 16 4095)
      (s.modMarket u (fun m => { m with cfg := v }))
  | .mcg n => wif (only v (2 ^ 32 - 1)) (s.modMarket u (fun m => { m with mcg := tset m.mcg n v }))
  | .mkaged => clr v (s.modMarket u (fun m => { m with aged := 0 }))
  | .mkshort => clr v (s.modMarket u (fun m => { m with short := 0 }))
  | .mkstale => clr v (s.modMarket u (fun m => { m with stale := 0 }))
  | .mecfg => wif (only v 0xFFF) (s.modMatEng u (fun e => { e with mchkn := v.toNat }))
  | .mestat => s.writeMestat u v
  | .mescx => clr v (s.modMatEng u (fun e => { e with scx := 0 }))
  | .cwmask n => .done (s.onSys (fun y => { y with ways := tset y.ways (u * 2 + n) (~~~v) }))
  | .hndcfg => wif (only v (2 ^ 31 + 0xFFFF) && inRange v 0 16 64 65535) (s.modHound u (fun h => { h with cfg := v }))
  | .hndrep => clr v (s.modHound u (fun h => { h with rep := 0 }))
  | .rdrep => clr v (s.modHound u (fun h => { h with rdrep := 0 }))
  | .majfail => wif (only v 0xFFF) (s.setMajfail i.root v)
  | .kncfg => s.writeKncfg u v
  | .knrcl => clr v (s.onKen (fun k => { k with rcl := tset k.rcl u 0 }))
  | .knevc => clr v (s.onKen (fun k => { k with evc := tset k.evc u 0 }))
  | .knfull => clr v (s.onKen (fun k => { k with full := tset k.full u 0 }))
  | .knout => s.writeKnout u v
  | .pwcfg => wif (only v 0x1FFFF && inRange v 0 16 10 65535) (s.onKen (fun k => { k with pwcfg := tset k.pwcfg u v }))
  | .vfisl n => s.writeVfisl u n v
  | .hopabort => clr v (s.onKen (fun k => { k with hopabort := tset k.hopabort u 0 }))
  | .clampsat => clr v (s.onKen (fun k => { k with clampsat := tset k.clampsat u 0 }))
  | .vfrgn => s.writeVfrgn u v
  | .jpwr => s.writeJpwr i v
  | .jpwrlo => wif (only v 0xFF77 && inRange v 0 3 1 7) (s.setJob i (fun j => { j with jpwrlo := v }))
  | .jpwrhi => wif (only v 0xFF77 && inRange v 0 3 1 7) (s.setJob i (fun j => { j with jpwrhi := v }))
  | .qbase n => wif (only v (2 ^ 57 - 65536)) (s.modQueue (u * 256 + n) (fun x => { x with base := v }))
  | .qcfg n => s.writeQcfg (u * 256 + n) v
  | .uccfg m => wif (only v 0xFFFFFF && inRange v 16 8 1 255 && inRange v 0 16 1 65535)
      (s.modUc u m (fun x => { x with lim := wbits v 16 8, win := wbits v 0 16 }))
  | .ucretry m => clr v (s.modUc u m (fun x => { x with retry := 0 }))
  | .ucrtrn m => clr v (s.modUc u m (fun x => { x with rtrn := 0 }))
  | .ucdrop m => clr v (s.modUc u m (fun x => { x with drop := 0 }))
  | .uccmd m => wif (only v 1) (if v = 1 then s.ucRetrain u m true else s)
  | .ace n => s.writeAce n v
  | .tcause | .tblk | .targ | .mmepoch | .errtail | .pmstat | .bustat | .fwver | .jobstat | .meas _ | .mkptr _ | .mkpool
  | .mechkc | .mectx _ | .barrier _ _ | .hndpass | .qcnt _ | .qpubc _ | .ucstat _ | .ctr _ => .badsys

/-- Write a register (R457). DEDUCED: notes/assumptions/91. -/
def State.regWrite (s : State) (i : Issuer) (n : Nat) (sel v : Word) : RegOut :=
  match sysReg n with
  | none => .badsys
  | some (r, sc) => match s.selUnit i sc sel with
    | none => .badsys
    | some u =>
      if !r.access.w || (r.access.host && !i.host) || (r.own && !(i.strand && i.hmode)) then .badsys
      else s.sysRegWrite i u v r

/-- The issuer that a strand's instruction is. -/
def State.strandIssuer (s : State) (sid : Nat) : Issuer :=
  let x := s.strand sid
  { strand := true, who := x.who, root := s.partOfCluster (sidCluster sid), hmode := x.hmode }

/-- The host, acting on a partition under a job. -/
def hostIssuer (root job : Nat) : Issuer := { strand := false, who := { job := job }, root := root, host := true }

/-! ## SRD, SWR, TLBI -/

def isSwrRel : OutItem → Bool
  | .rel (.swr ..) => true
  | _ => false

/-- A block holds an SWR that may still be released: one that has not resolved by a null or a predicate. -/
def Frame.hasSwr (f : Frame) : Bool :=
  (List.range f.slots.length).any (fun i =>
    match slotInstr (f.slot i) with
    | some (.swr ..) => slotReadiness (f.slot i) != .skip && !f.fx.any (fun x => x.1 == i && x.2 == Effect.null)
    | _ => false)

/-- An SWR of an older block of the strand has not been applied. DEDUCED: notes/assumptions/91. -/
def State.swrPending (s : State) : Bool :=
  s.curStrand.out.any isSwrRel || (s.olderFrames s.fCore s.fFrame).any (fun f => (s.frame s.fCore f).hasSwr)

/-- SRD (R456, R457). -/
def execSrd (p : Pr) (sys : BitVec 13) (ta : Tgt) (s : State) : Res :=
  fireAct p .l [ta] (fun s =>
    if s.swrPending then s
    else match s.regRead (s.strandIssuer s.curSid) sys.toNat s.opL with
      | none => s.stopAt causeBadSys (sys.setWidth 64)
      | some v => s.finish (.val v) [ta]) s

/-- SWR (R456, R457): its value is checked when it fires; it is applied after the strand's earlier stores. -/
def execSwr (p : Pr) (sys : BitVec 13) (s : State) : Res :=
  fireSide p .lr (fun s =>
    match s.regWrite (s.strandIssuer s.curSid) sys.toNat s.opL s.opR with
    | .done _ => s.resolve (.rel (.swr sys.toNat s.opL s.opR) true false)
    | _ => s.stopAt causeBadSys (sys.setWidth 64)) s

/-- Whether TLBI's fields and tokens are right for a strand of a job (R455). DEDUCED: notes/assumptions/91. -/
def tlbiOk (form : Nat) (ta : Bool) (l r : Word) (job : Nat) : Bool :=
  !ta && decide (form < 2) && wbits r 52 12 == job && wbits r 41 11 == 0 &&
  (form == 1 || only l (2 ^ 57 - 65536))

/-- TLBI (R455). -/
def execTlbi (p : Pr) (form : BitVec 13) (ta : Tgt) (s : State) : Res :=
  fireSide p .lr (fun s =>
    let n := wbits s.opR 0 41
    if !tlbiOk form.toNat (ta != .none) s.opL s.opR s.curJob then s.stopAt causeBadSys (form.setWidth 64)
    else if form = 0 && n = 0 then s.resolve .null
    else s.resolve (.rel (.tlbi form.toNat (wbits s.opL 0 57) s.curJob n) false true)) s

/-- Translation caches of a partition drop what a TLBI names (R455). -/
def State.tlbDrop (s : State) (root form va asid n : Nat) : State :=
  let hit (e : TlbEntry) : Bool :=
    form == 2 || (e.asid == asid && (form == 1 ||
      decide (e.base * 2 ^ e.bits < va + 65536 * n ∧ va < (e.base + 1) * 2 ^ e.bits)))
  s.onAcc (fun a => { a with tlb := a.tlb.map (fun e =>
    if s.partOf e.1 == root then (e.1, e.2.filter (fun x => !hit x)) else e) })

/-! ## Register events: the host writes (R451, R264, R376, R379, R411, R459) -/

/-- What a write leaves: nothing changes where it is refused. -/
def RegOut.state (r : RegOut) (s : State) : State :=
  match r with
  | .done s' => s'
  | _ => s

/-- PCFG_WRITE. -/
def execPcfgWrite (v : Word) (s : State) : Res := .next ((s.writePcfg v).state s)
/-- ACE_WRITE. -/
def execAceWrite (entry : Nat) (v : Word) (s : State) : Res := .next ((s.writeAce entry v).state s)
/-- PNODE_WRITE. -/
def execPnodeWrite (q : Nat) (v : Word) (s : State) : Res := .next ((s.writePnode (s.partOf q) v).state s)
/-- MESTAT_WRITE. -/
def execMestatWrite (cl me : Nat) (v : Word) (s : State) : Res := .next ((s.writeMestat (cl * 4 + me) v).state s)
/-- KNOUT_WRITE. -/
def execKnoutWrite (q : Nat) (v : Word) (s : State) : Res := .next ((s.writeKnout q v).state s)
/-- JPWR_WRITE. -/
def execJpwrWrite (job : Nat) (v : Word) (s : State) : Res := .next ((s.writeJpwr (hostIssuer 0 job) v).state s)
/-- VFISL_WRITE. -/
def execVfislWrite (q island : Nat) (v : Word) (s : State) : Res := .next ((s.writeVfisl q island v).state s)

/-- REGISTER_WRITE: any register, by the host, under a job; the partition is that of the selector's unit. -/
def execRegisterWrite (w : RegWrite) (s : State) : Res :=
  let q := wbits w.sel 6 2
  let c := wbits w.sel 0 6
  let root := s.partOf (if c != 0 && c < 48 then c / 12 else q)
  .next ((s.regWrite (hostIssuer root w.job) w.sysnum w.sel w.val).state s)

end Sys2Proof.Machine
end

