-- ==== Sys2Proof/Machine/BarrierStore.lean ====
section
/-! DEFINITION. Machine/BarrierStore.lean: the barrier objects of a combining store: what each event does, completion of a phase, and
the events that wait for one (spec/16 R328 to R335). -/

namespace Sys2Proof.Machine

/-- Least value of PEND. -/
def pendLimit : Nat := 2 ^ 20 - 1

/-- The member that a cell speaks for: an entry, or one reserved for such a strand that it takes (R328, R329, R335). -/
def Barrier.entry (b : Barrier) (m : MCell) : Option (Nat × Barrier) :=
  let id := m.cell.itag.toNat % 2048
  let tap := m.agent == tapAgent
  let is (x : Member) : Bool := x.node == m.snode && x.id == id && x.tap == tap
  let take (c : Barrier) : Option (Nat × Barrier) :=
    some (b.members.length, { c with members := b.members ++ [{ node := m.snode, id := id, tap := tap }] })
  match b.members.findIdx? is with
  | some i => some (i, b)
  | none =>
    if m.snode != 0 && decide (b.remote > 0) then take { b with remote := b.remote - 1 }
    else if m.snode = 0 && !tap && decide (b.loc > 0) then take { b with loc := b.loc - 1 }
    else none

/-- What becomes of an event. -/
inductive Applied where
  | done        -- it has applied to the open phase
  | gone        -- discarded without a status
  | bad         -- discarded with BADCELL
  | over        -- a counted arrival that PEND cannot take
  | hold        -- its member has arrived already: it waits for the phase
  deriving DecidableEq, Repr

/-- One event (R330, R332). -/
def Barrier.event (b : Barrier) (m : MCell) : Barrier × Applied :=
  let cop := m.cell.cop.toNat
  let cnt := m.cell.cnt.toNat
  if b.brk then (b, .gone)
  else if cop = 0x294 then
    let n := (m.cell.word 0).toNat
    ({ b with pend := b.pend + n, resv := b.resv - n, evt := true }, .done)
  else if (cop = 0x290 || cop = 0x291) && cnt != 0 then
    if b.pend - cnt < -(pendLimit : Int) then (b, .over)
    else ({ b with pend := b.pend - cnt, evt := true,
                   ostamp := if cop = 0x290 then max b.ostamp m.stamp else b.ostamp }, .done)
  else match b.entry m with
    | none => (b, .bad)
    | some (i, c) =>
      if cop = 0x293 && !c.drop then ({ c with brk := true, evt := true }, .done)
      else if (c.members.getD i {}).arr then (c, .hold)
      else
        let exits := cop = 0x292 || cop = 0x293
        let merges := cop = 0x290 || cop = 0x292
        ({ c with members := listMod c.members i (fun x => { x with arr := true, xp := exits }),
                  evt := true, ostamp := if merges then max c.ostamp m.stamp else c.ostamp }, .done)

/-- Whether the open phase is complete (R331). -/
def Barrier.full (b : Barrier) : Bool := b.evt && b.narr == b.nmem && b.pend == 0

/-- The phase completes; the events that waited are given out (R331). DEDUCED: notes/assumptions/58. -/
def Barrier.advance (b : Barrier) : Barrier × List MCell :=
  ({ b with
      cstamp := b.ostamp, cph := (b.cph + 1) % 2 ^ 32,
      nmem := b.nmem - (b.members.filter (fun m => m.xp)).length,
      members := (b.members.filter (fun m => !m.xp)).map (fun m => { m with arr := false, xp := false }),
      evt := false, ostamp := 0, held := [] }, b.held)

/-- Events applied in order to object k; those that waited for a phase go before later ones. `fuel` bounds the events and
the phases that they complete. -/
def State.barrierEvents (s : State) (cl k : Nat) : Nat → List MCell → State
  | 0, _ => s
  | _, [] => s
  | fuel + 1, m :: rest =>
    let (b, r) := (s.barrier k).event m
    match r with
    | .gone => (s.cellEnd cl m 0 m.stamp).barrierEvents cl k fuel rest
    | .bad => (s.cellEnd cl m 0x90 m.stamp).barrierEvents cl k fuel rest
    | .over =>
      ((s.postSid b.report 0xA1 2 m.cell.itag.toNat).cellEnd cl m 0 m.stamp).barrierEvents cl k fuel rest
    | .hold => (s.modBarrier k (fun _ => { b with held := b.held ++ [m] })).barrierEvents cl k fuel rest
    | .done =>
      if b.brk then
        -- held events are discarded with the others
        let s1 := (s.modBarrier k (fun _ => { b with held := [] })).cellEnd cl m 0 m.stamp
        (b.held.foldl (fun st h => st.cellEnd cl h 0 h.stamp) s1).barrierEvents cl k fuel rest
      else if b.full then
        let (c, held) := b.advance
        ((s.modBarrier k (fun _ => c)).cellEnd cl m 0 m.stamp).barrierEvents cl k fuel (held ++ rest)
      else ((s.modBarrier k (fun _ => b)).cellEnd cl m 0 m.stamp).barrierEvents cl k fuel rest

/-- The oldest barrier cell of an operation code that no earlier one for its object precedes (R334), and the rest. DEDUCED: notes/assumptions/58. -/
def takeBarrier (cop : Nat) (before : List MCell) : List MCell → Option (MCell × List MCell)
  | [] => none
  | m :: rest =>
    if m.cell.cop.toNat = cop && !before.any (fun x => isBarrierCop x.cell.cop.toNat && x.cell.aux == m.cell.aux)
    then some (m, before ++ rest)
    else takeBarrier cop (before ++ [m]) rest

/-- A barrier cell acts (R330 to R335). An event that must wait for its phase takes an unreserved stall, and stays where it
is without one. DEDUCED: notes/assumptions/49, 58. -/
def State.barrierCellAct (s : State) (cl cop : Nat) : State :=
  match takeBarrier cop [] (s.port cl 10).inbox with
  | none => s
  | some (m, rest) =>
    let c := m.cell
    let k := cl * 256 + c.aux.toNat % 256
    let b := s.barrier k
    let s1 := s.modPort cl 10 (fun p => { p with inbox := rest })
    if !b.used || c.aux.toNat ≥ 256 || c.pos != 0 || c.itag.toNat ≥ 2048 || c.run != 0 then s1.cellEnd cl m 0x90 m.stamp
    else
      let fuel := (b.held.length + 2) * (b.held.length + 2)
      match (b.event m).2 with
      | .hold =>
        (match s.takeStall cl 10 m.who 0 0 with
         | none => s.countShort cl 10 m.age
         | some z => (s1.clearShort cl 10 m.age).barrierEvents cl k fuel [{ m with stall := z }])
      | _ => s1.barrierEvents cl k fuel [m]

/-- BARV (R330, R335). -/
def execBarv (cl : Nat) (s : State) : Res := .next (s.barrierCellAct cl 0x290)
/-- BARX (R307, R330). -/
def execBarx (cl : Nat) (s : State) : Res := .next (s.barrierCellAct cl 0x291)
/-- BEXA (R330). -/
def execBexa (cl : Nat) (s : State) : Res := .next (s.barrierCellAct cl 0x292)
/-- BKIL (R330, R332). -/
def execBkil (cl : Nat) (s : State) : Res := .next (s.barrierCellAct cl 0x293)
/-- BEXP (R330, R338). -/
def execBexp (cl : Nat) (s : State) : Res := .next (s.barrierCellAct cl 0x294)

end Sys2Proof.Machine
end

