-- ==== Sys2Proof/Machine/LeaseWords.lean ====
section
/-! DEFINITION. Machine/LeaseWords.lean: LEASH, LREL, LQRY and LPRI as a block fires them (spec/17 R352, R358, spec/18 R366 to
R368). What they do at commit is in LeaseOps. -/

namespace Sys2Proof.Machine

/-- Key of a lease slot of the strand's launch in its quarter; none: the graph does not declare it (R352, R363). -/
def State.leaseSlot (s : State) (sid slot : Nat) : Option Nat :=
  let k := slotKey (s.strand sid).who.launch (clusterQuarter (sidCluster sid)) slot
  if slot < 8 && (s.lease k).used then some k else none

/-- The generation after one more LEASH (R352): 1 to 4,095, wrapping to 1. -/
def nextGen (g : Nat) : Nat := if g ≥ 4095 then 1 else g + 1

def State.noSlot (s : State) (slot : Nat) : State := s.stopAt causeUnbound 0 (some slot)

/-- A LEASH on a slot waits for those of older blocks, so that generations rise in program order. DEDUCED: notes/assumptions/36. -/
def State.leashBefore (s : State) (slot : BitVec 5) : Bool :=
  s.olderOpen s.fCore s.fFrame (fun sl => match slotInstr sl with
    | some (.leash _ _ x _ _) => x == slot
    | _ => false)

/-- LEASH (R352): the generation rises when it fires. -/
def execLeash (p : Pr) (k : KKind) (slot : BitVec 5) (tk : BitVec 3) (ta : Tgt) (s : State) : Res :=
  fireSide p .none (fun s => match s.leaseSlot s.curSid slot.toNat with
    | none => s.noSlot slot.toNat
    | some key =>
      if (s.lease key).kind != kindNo k then s.noSlot slot.toNat
      else if s.leashBefore slot then s
      else
        let g := nextGen (s.lease key).gen
        let s1 := s.modLease key (fun x => { x with gen := g })
        let s2 := s1.resolve (.leash key (kindNo k) tk.toNat g)
        s2.modCur (fun f => { (f.send (.val (BitVec.ofNat 64 g)) [ta]) with gens := f.gens ++ [(s.fSlot, key)] })) s
where
  kindNo : KKind → Nat
    | .fftx => 0
    | .sort => 1
    | .infl => 2
    | .spga => 3
    | .trsv => 4
    | .embg => 5
    | .topk => 6
    | .sten => 7

/-- LREL (R358). -/
def execLrel (p : Pr) (slot : BitVec 5) (s : State) : Res :=
  fireSide p .none (fun s => match s.leaseSlot s.curSid slot.toNat with
    | none => s.noSlot slot.toNat
    | some key => s.resolve (.lrel key)) s

/-- Requests of a queue that stand before a slot's (R367). -/
def queueAhead (l : List LeaseReq) (slot : Nat) : Nat :=
  match l.find? (fun r => r.slot == slot) with
  | none => 0
  | some r => (l.filter (fun x => reqBefore x r)).length

/-- The slot status word (R367). The grace left is the model's free value, at most the grace window. DEDUCED: notes/assumptions/73. -/
def State.leaseWord (s : State) (key : Nat) : Nat :=
  let x := s.lease key
  let q := slotQuarter key
  let qpos := if x.state = 1 then queueAhead (s.kQueue q x.kind) key else 0
  let gr := if x.state = 4
    then (Config.freeValue s.sched.frees).toNat % (wbits (s.kncfg q) 32 10 * 1000 + 1) else 0
  let eng := if x.state ≥ 2 then x.eng else 0
  x.state * 2 ^ 61 + x.prio % 8 * 2 ^ 58 + x.stat % 256 * 2 ^ 50 + eng % 4 * 2 ^ 48 + x.gen % 4096 * 2 ^ 36 +
    qpos % 64 * 2 ^ 30 + gr

/-- DESIGN CHOICE: notes/assumptions/3. -/
def State.freeUp (s : State) : State := s.onSched (fun c => { c with frees := c.frees + 1 })

/-- LQRY (R367). -/
def execLqry (p : Pr) (slot : BitVec 5) (ta : Tgt) (s : State) : Res :=
  fireAct p .none [ta] (fun s => match s.leaseSlot s.curSid slot.toNat with
    | none => s.noSlot slot.toNat
    | some key => (s.finish (.val (BitVec.ofNat 64 (s.leaseWord key))) [ta]).freeUp) s

/-- LPRI (R368). -/
def execLpri (p : Pr) (slot : BitVec 5) (s : State) : Res :=
  fireSide p .l (fun s => match s.leaseSlot s.curSid slot.toNat with
    | none => s.noSlot slot.toNat
    | some key =>
      if s.opL.toNat > 7 then s.stopAt 0x0B
      else s.resolve (.lpri key s.opL.toNat)) s

end Sys2Proof.Machine
end

