-- ==== Sys2Proof/Machine/Waits.lean ====
section
/-! DEFINITION. Machine/Waits.lean: the wait instructions, fences, yields and timeline reads (spec/06 R160 to R168), and the
barrier words of a strand (spec/16 R337 to R340). -/

namespace Sys2Proof.Machine

/-! ## Firing -/

/-- The wait instructions WAITN, WAITT, WAITA, WAITB and FENCE trap ASYNCERR while a status is unreported (R160);
otherwise the slot fires and its wait is pending (R162). -/
def State.startWait (s : State) (w : Wait) : State :=
  if wbits s.curStrand.async 56 8 != 0 then s.stopAt causeAsync s.curStrand.async
  else s.modCur (fun f => { (f.fire s.fSlot) with waits := f.waits ++ [(s.fSlot, w)] })

/-- WAITN (R163). -/
def execWaitn (p : Pr) (ld st : BitVec 6) (cp tl : BitVec 5) (s : State) : Res :=
  fireAct p .none [] (fun s => s.startWait (.counts ld.toNat st.toNat cp.toNat tl.toNat)) s

/-- WAITT (R164). -/
def execWaitt (p : Pr) (eng : BitVec 5) (ctx : BitVec 2) (ta : Tgt) (s : State) : Res :=
  fireAct p .l [ta] (fun s => s.startWait (.timeline eng.toNat ctx.toNat s.opL)) s

/-- WAITA fires (R165): its word is resolved as LD resolves one. -/
def State.fireWaita (s : State) (ag : BitVec 5) (cmp : Cmp) : State :=
  let cl := s.curCluster
  let r := agnRec (s.agn (s.strandAgn s.curSid ag.toNat)).words
  if wbits s.curStrand.async 56 8 != 0 then s.stopAt causeAsync s.curStrand.async
  else match s.reach cl s.fCore r .load s.opL 8 with
    | .fault c a => s.stopAt c a (some ag.toNat)
    | .home a => s.startWait (.word (.home a) cmp s.opR)
    | .virt va => match s.xlate (clusterQuarter cl) s.curJob va false false with
      | .error c => s.stopAt c (BitVec.ofNat 64 va) (some ag.toNat)
      | .ok pl => s.startWait (.word pl cmp s.opR)

/-- WAITA (R165). -/
def execWaita (p : Pr) (ag : BitVec 5) (cmp : Cmp) (ta : Tgt) (s : State) : Res :=
  fireAct p .lr [ta] (fun s => s.fireWaita ag cmp) s

/-- The barrier object behind a slot of the strand's graph; none: the graph leaves it unbound (R337). -/
def State.barSlot (s : State) (sid slot : Nat) : Option Nat :=
  let w := (s.strand sid).who
  match tgetD 0 (s.graph w.job w.graph).bars slot with
  | 0 => none
  | n + 1 => some n

/-- WAITB (R339). -/
def execWaitb (p : Pr) (bs : BitVec 5) (ta : Tgt) (s : State) : Res :=
  fireAct p .l [ta] (fun s => match s.barSlot s.curSid bs.toNat with
    | none => s.stopAt causeUnbound 0 (some bs.toNat)
    | some b => s.startWait (.barrier b (wbits s.opL 0 32))) s

/-- Bit 63 of a barrier's token: broken (R333, R339, R340). -/
def brkBit (b : Barrier) : Word := if b.brk then 0x8000000000000000#64 else 0

def State.raisePts (s : State) (sid t : Nat) : State := s.modStrand sid (fun x => { x with pts := max x.pts t })

/-- TBP (R340). -/
def execTbp (p : Pr) (bs : BitVec 5) (ta : Tgt) (s : State) : Res :=
  fireAct p .l [ta] (fun s => match s.barSlot s.curSid bs.toNat with
    | none => s.stopAt causeUnbound 0 (some bs.toNat)
    | some k =>
      let b := s.barrier k
      let moved := b.cph % 2 != wbits s.opL 0 1
      let s1 := s.finish (.val (flagBit moved ||| brkBit b)) [ta]
      if moved then s1.raisePts s.curSid b.cstamp else s1) s
where
  flagBit (b : Bool) : Word := if b then 1 else 0

/-- FENCE (R166). -/
def execFence (p : Pr) (e sq : Bool) (s : State) : Res := fireAct p .none [] (fun s => s.startWait (.fence e sq)) s

/-- YIELD (R167): it fires when its block is mapped and acts when the block commits. DEDUCED: notes/assumptions/21. -/
def execYield (p : Pr) (s : State) : Res := fireAct p .none [] (fun s => s.modCur (fun f => f.fire s.fSlot)) s

/-- Key of the timeline that ENG and CTX name for a strand (R164, R167): a matrix context by its number, any other engine
by the context tag of the strand's job. -/
def State.timelineKey (s : State) (sid eng ctx : Nat) : Nat :=
  let cl := sidCluster sid
  if eng ≤ 3 then engCtx cl eng ctx else engCtx cl eng ((s.ctxTag (s.strand sid).who.job cl).getD 0)

/-- TLRD (R168). -/
def execTlrd (p : Pr) (eng : BitVec 5) (ctx : BitVec 2) (ta : Tgt) (s : State) : Res :=
  fireAct p .none [ta] (fun s =>
    if eng = 31 then s.finish (.val s.curStrand.async) [ta]
    else s.finish (.val (BitVec.ofNat 64 (s.timeline (s.timelineKey s.curSid eng.toNat ctx.toNat)).tl)) [ta]) s

/-! ## Conditions (R162) -/

def cmpHolds (c : Cmp) (w v : Word) : Bool :=
  match c with
  | .ge => v.ule w
  | .eq => w == v
  | .ne => w != v
  | .gt => v.ult w

/-- Phase p of a barrier is complete (R329). -/
def Barrier.complete (b : Barrier) (p : Nat) : Bool := decide ((b.cph + (2 ^ 33 - 1 - p)) % 2 ^ 32 < 2 ^ 31)

/-- The write-role AGNs of a strand's graph in its cluster (R166, R320). DEDUCED: notes/assumptions/42. -/
def State.writeAgns (s : State) (sid : Nat) : List Nat :=
  let w := (s.strand sid).who
  let cl := sidCluster sid
  ((s.graph w.job w.graph).img.agns.filter (fun e => e.1 == cl)).map (fun e => s.jobAgn w.job cl e.2.1)
    |>.filter (fun k => let r := agnRec (s.agn k).words
                        r.isWindow && (r.role == 2 || r.role == 3))

/-- The outcome of looking at a pending wait: it goes on waiting, it traps, or it ends with a token and a timestamp. -/
inductive WaitEnd where
  | wait
  | trap (cause : Nat)
  | done (v : Word) (t : Nat) (s : State)

/-- Look at a wait of a strand (R163 to R166, R339). The read of WAITA is a load at the word's home (R294). DEDUCED: notes/assumptions/42. -/
def State.waitLook (s : State) (sid : Nat) (w : Wait) : WaitEnd :=
  let x := s.strand sid
  match w with
  | .counts ld st cp tl =>
    if x.ldc ≤ ld && x.stc ≤ st && x.cpc ≤ cp && x.tlc ≤ tl then .done 0 0 s else .wait
  | .timeline eng ctx n =>
    let t := s.timeline (s.timelineKey sid eng ctx)
    if n.toNat ≤ t.tl then .done (BitVec.ofNat 64 t.tl) (t.ctsOf n.toNat) s else .wait
  | .word pl cmp v =>
    let unwritten := match pl with
      | .home a => s.isStruct a && !s.structWritten a
      | .maj _ _ => false
    if unwritten then .wait
    else match s.engRead (s.partOfCluster (sidCluster sid)) pl 8 x.pts with
      | .error c => .trap c
      | .ok (r, t, s1) =>
        let wts := match pl with
          | .home a => (s1.line a).wts
          | .maj _ _ => t
        if cmpHolds cmp (BitVec.ofNat 64 r) v then .done (BitVec.ofNat 64 r) wts s1 else .wait
  | .barrier k p =>
    let b := s.barrier k
    if b.complete p || b.brk then .done (BitVec.ofNat 64 p ||| brkBit b) b.cstamp s else .wait
  | .fence e sq =>
    let ks := s.writeAgns sid
    if e && x.ops != 0 then .wait
    else if sq && !(ks.all (fun k => (s.agn k).buf.isEmpty)) then .wait
    else
      let t1 := if e then x.fencets else 0
      .done 0 (if sq then ks.foldl (fun m k => max m (s.agn k).stamp) t1 else t1) s

/-- WAITN and FENCE speak of what the strand has released before them in program order, so every older block commits first
(R162, R163, R166). DEDUCED: notes/assumptions/42. -/
def Wait.counted : Wait → Bool
  | .counts .. => true
  | .fence .. => true
  | _ => false

/-- WAIT_CONDITION_MET: the wait of a slot ends where its condition holds: PTS is raised and its token goes out. DEDUCED: notes/assumptions/42. -/
def State.waitMet (s : State) (core f i : Nat) : State :=
  let fr := s.frame core f
  match fr.waits.find? (fun x => x.1 == i) with
  | none => s
  | some (_, w) =>
    let gone (g : Frame) : Frame := { g with waits := g.waits.filter (fun x => x.1 != i) }
    if w.counted && !s.isOldest core f then s
    else match s.waitLook fr.sid w with
    | .wait => s
    | .trap c => s.modFrame core f (fun g => (gone g).hold { cause := c, slot := some i })
    | .done v t s1 =>
      (s1.modFrame core f (fun g => (gone g).send (.val v) (waitTargets (g.slot i)))).raisePts fr.sid t
where
  waitTargets (sl : Slot) : List Tgt :=
    match slotInstr sl with
    | some i => targetsOf i
    | none => []

/-- WAIT_CONDITION_MET. -/
def execWaitConditionMet (core frame slot : Nat) (s : State) : Res := .next (s.waitMet core frame slot)

/-! ## Arrivals and expectations -/

/-- A barrier cell of the strand in focus, with its sideband (R315, R335). -/
def State.strandBarrier (s : State) (b cop n : Nat) : MCell :=
  { cell := s.barrierCell s.curJob b cop 0 s.curSid n, agent := sidAgent s.curSid, who := s.curStrand.who,
    report := .strandOp false }

/-- ARV (R337): a release arrival at commit. -/
def execArv (p : Pr) (bs : BitVec 5) (s : State) : Res :=
  fireSide p .none (fun s => match s.barSlot s.curSid bs.toNat with
    | none => s.stopAt causeUnbound 0 (some bs.toNat)
    | some b => s.resolve (.arrive (s.strandBarrier b 0x290 0) false)) s
/-- ARVX (R337): a relaxed arrival at commit. -/
def execArvx (p : Pr) (bs : BitVec 5) (s : State) : Res :=
  fireSide p .none (fun s => match s.barSlot s.curSid bs.toNat with
    | none => s.stopAt causeUnbound 0 (some bs.toNat)
    | some b => s.resolve (.arrive (s.strandBarrier b 0x291 0) true)) s

def causeExpectOvf : Nat := 0x0D

/-- EXPT (R338): it asks its object for a reservation and waits for the answer. -/
def execExpt (p : Pr) (bs : BitVec 5) (s : State) : Res :=
  fireSide p .l (fun s => match s.barSlot s.curSid bs.toNat with
    | none => s.stopAt causeUnbound 0 (some bs.toNat)
    | some _ =>
      if s.opL = 0 then s.resolve .null
      else if s.opL.toNat > 2 ^ 20 - 1 then s.stopAt causeExpectOvf
      else s.modCur (fun f => { (f.fire s.fSlot) with asks := s.fSlot :: f.asks })) s

/-- EXPT_RESERVE: the object's answer to a reservation request (R338). -/
def State.expectAnswer (s : State) (core f i : Nat) : State :=
  let fr := s.frame core f
  if !fr.used || !fr.asks.contains i then s
  else match slotInstr (fr.slot i) with
    | some (.expt _ bs) =>
      let n := (tokVal (fr.slot i).left).toNat
      let done (g : Frame) : Frame := { g with asks := g.asks.filter (fun j => j != i) }
      match s.barSlot fr.sid bs.toNat with
      | none => s
      | some k =>
        let b := s.barrier k
        if b.brk then s.modFrame core f (fun g => { done g with fx := g.fx ++ [(i, .null)] })
        else if b.pend + (b.resv : Int) + (n : Int) > 2 ^ 20 - 1 then
          s.modFrame core f (fun g => (done g).hold { cause := causeExpectOvf, slot := some i })
        else
          (s.modBarrier k (fun b => { b with resv := b.resv + n })).modFrame core f (fun g =>
            { done g with fx := g.fx ++ [(i, .expect k n)], resv := g.resv ++ [(i, k, n)] })
    | _ => s

/-- EXPT_RESERVE. -/
def execExptReserve (core frame slot : Nat) (s : State) : Res := .next (s.expectAnswer core frame slot)

end Sys2Proof.Machine
end

