-- ==== Sys2Proof/Machine/Blocks.lean ====
section
/-! DEFINITION. Machine/Blocks.lean: fetching, decoding and mapping blocks, the liveness tick, and traps taken (spec/02 R31 to
R33, R36, spec/03 R62 to R64, R89, spec/13 R266 to R268, R275, R276, spec/15 R300). -/

namespace Sys2Proof.Machine

/-! ## Fetch (R62, R64, R89, R268, R275, R276) -/

/-- The instruction word at an address of a job, or the trap that its fetch holds. -/
def State.fetchWord (s : State) (q job va : Nat) : Except Trap IWord :=
  let fail (c : Nat) : Except Trap IWord := .error { cause := c, arg := BitVec.ofNat 64 va, fetch := true }
  match s.xlate q job va false true with
  | .error c => fail c
  | .ok (.home a) => if (s.line a).poison then fail causeUe else .ok (BitVec.ofNat 32 (s.readLE a 4))
  | .ok (.maj ss a) =>
    let root := s.partOf q
    let all := s.ssetStacks root ss
    if (all.filter (fun k => s.copyAnswers root k (cellAddr a))).length < majorityOf all.length then fail causeUe
    else .ok (BitVec.ofNat 32 (leNatFrom (s.lineImage root (.maj ss a)) (a % 64) 4))

/-- n words from an address, in order; the first that fails decides. -/
def State.fetchWords (s : State) (q job va : Nat) : Nat → Except Trap (List IWord)
  | 0 => .ok []
  | n + 1 => match s.fetchWord q job va with
    | .error t => .error t
    | .ok w => match s.fetchWords q job (va + 4) n with
      | .error t => .error t
      | .ok ws => .ok (w :: ws)

/-- A block as fetched and decoded, with the trap that stands against it. DEDUCED: notes/assumptions/14, 18. -/
def State.fetchBlock (s : State) (sid : Nat) (addr : Word) : Fetched :=
  let x := s.strand sid
  let q := clusterQuarter (sidCluster sid)
  let a := addr.toNat
  match s.fetchWord q x.who.job a with
  | .error t => { addr := addr, trap := some t }
  | .ok hdr =>
    if headerBad hdr then { addr := addr, hdr := hdr, trap := some { cause := 2 } }
    else if hdrPriv hdr && !x.privileged then { addr := addr, hdr := hdr, trap := some { cause := 3 } }
    else match s.fetchWords q x.who.job (a + 4) (hdrLen hdr + 1) with
      | .error t => { addr := addr, hdr := hdr, trap := some t }
      | .ok ws => { addr := addr, hdr := hdr, words := ws, trap := blockCheck hdr ws }

/-- Whether a strand's next fetch may be at an address: its PC; behind a mapped block, the block's exit, or any address that
the core predicts while no exit has fired (R33). -/
def State.fetchAt (s : State) (sid : Nat) (addr : Word) : Bool :=
  let x := s.strand sid
  x.live && x.fetched.isNone && x.eret.isNone &&
  (match (s.framesOf sid).reverse with
   | [] => addr == x.pc
   | f :: _ =>
     let fr := s.frame (sidCore sid) f
     match fr.exit with
     | some (_, some a) => addr == a
     | some (_, none) => false
     | none => !hdrLast fr.hdr && legalTarget addr.toNat)
where
  legalTarget (a : Nat) : Bool := decide (a < 2 ^ 57) && a % 4 == 0

/-- BLOCK_FETCH_RETURN (R31): the strand's next block is fetched and decoded. DESIGN CHOICE: notes/assumptions/11; DEDUCED: notes/assumptions/18. -/
def execBlockFetchReturn (sid : Nat) (addr : Word) (s : State) : Res :=
  .next (if s.fetchAt sid addr then s.modStrand sid (fun x => { x with fetched := some (s.fetchBlock sid addr) }) else s)

/-! ## Mapping (R31 to R33, R162, R167) -/

/-- The scoreboard token that an instruction sets at commit. -/
def tokenOf : Instr → Option Nat
  | .strm _ _ tk _ | .strms _ _ tk _ => some tk.toNat
  | .cpy _ _ tk _ _ | .cpyg _ _ tk _ _ | .cpys _ _ tk _ _ | .cpyr _ _ tk _ _ => some tk.toNat
  | .leash _ _ _ tk _ => some tk.toNat
  | .launch _ _ tk => some tk.toNat
  | _ => none

/-- Whether a mapped block may still set a token of a mask when it commits. DEDUCED: notes/assumptions/43. -/
def Frame.mayToken (f : Frame) (mask : BitVec 8) : Bool :=
  (List.range f.slots.length).any (fun i => match slotInstr (f.slot i) with
    | none => false
    | some w => match tokenOf w with
      | none => false
      | some k => mask.getLsbD k && slotReadiness (f.slot i) != .skip && !f.fx.any (fun x => x.1 == i && x.2 == Effect.null))

/-- A pending WAITN or FENCE keeps younger blocks from mapping (R162). DEDUCED: notes/assumptions/43. -/
def Frame.holdsYounger (f : Frame) : Bool :=
  f.waits.any (fun x => match x.2 with
    | .counts .. => true
    | .fence .. => true
    | _ => false)

/-- Whether a strand's next block is ready to map (R31). DEDUCED: notes/assumptions/43. -/
def State.mapReady (s : State) (sid : Nat) : Bool :=
  let x := s.strand sid
  x.live && x.eret.isNone &&
  (match x.fetched with
   | none => false
   | some b =>
     let m := hdrWmask b.hdr
     b.trap.isNone && (x.tk &&& m) == 0 &&
     (s.framesOf sid).all (fun f =>
       let fr := s.frame (sidCore sid) f
       !hdrSerial fr.hdr && fr.trap.isNone && !fr.holdsYounger && !fr.mayToken m))

/-- The strands of a core's contexts. -/
def coreSids (core : Nat) : List Nat := (List.range 4).map (mkSid core)
def State.freeFrames (s : State) (core : Nat) : List Nat := (List.range 8).filter (fun f => !(s.frame core f).used)

/-- A context may take a frame if each other occupied context without one still finds one (R32). -/
def State.mayTake (s : State) (core ctx : Nat) : Bool :=
  let hungry := (List.range 4).filter (fun c => c != ctx && (s.strand (mkSid core c)).live &&
    (s.framesOf (mkSid core c)).isEmpty)
  decide ((s.freeFrames core).length - 1 ≥ hungry.length)

/-- Map a strand's fetched block into a frame. -/
def State.mapBlock (s : State) (core ctx f : Nat) (b : Fetched) : State :=
  let sid := mkSid core ctx
  let n := (s.strand sid).seq + 1
  let s1 := s.modStrand sid (fun x => { x with seq := n, fetched := none })
  let s2 := s1.setFrame core f { used := true, sid := sid, addr := b.addr, hdr := b.hdr, seq := n,
                                 slots := b.words.map (fun w => { word := w }) }
  let s3 := s2.modCoreSt core (fun k => { k with lastTurn := ctx })
  (coreSids core).foldl (fun st t =>
    if (st.strand t).yields.contains ctx then
      st.modStrand t (fun x => { x with yields := x.yields.filter (fun c => c != ctx) })
    else st) s3

/-- FRAME_TURN (R32): where the clock runs, a free frame goes to the first context in turn that has a ready block, owes no other a frame, and may
take one. -/
def State.frameTurn (s : State) (core : Nat) : State :=
  let order := (List.range 4).map (fun d => ((s.coreSt core).lastTurn + 1 + d) % 4)
  let owes (sid : Nat) : Bool := (s.strand sid).yields.any (fun c => (s.strand (mkSid core c)).live)
  if s.retained (coreCluster core) then s
  else match s.freeFrames core, order.find? (fun c =>
      s.mapReady (mkSid core c) && !owes (mkSid core c) && s.mayTake core c) with
  | f :: _, some c => match (s.strand (mkSid core c)).fetched with
    | some b => s.mapBlock core c f b
    | none => s
  | _, _ => s

/-- FRAME_TURN. DESIGN CHOICE: notes/assumptions/9. -/
def execFrameTurn (core : Nat) (s : State) : Res := .next (s.frameTurn core)

/-! ## The liveness tick (R300) -/

/-- LIVENESS_TICK: PTS of each strand resident on a core rises by one. DESIGN CHOICE: notes/assumptions/2. -/
def execLivenessTick (core : Nat) (s : State) : Res :=
  .next ((coreSids core).foldl (fun st sid =>
    if (st.strand sid).live then st.modStrand sid (fun x => { x with pts := x.pts + 1 }) else st) s)

/-! ## Traps taken (R36, R266, R268) -/

/-- Words that may wait for a reply, a register, a counter or an older block although their operands have arrived. -/
def mayStay (op : Nat) : Bool :=
  op ∈ [0x05, 0x0B, 0x70, 0x71, 0x80, 0x81, 0x86, 0x90, 0x91, 0x92, 0x93, 0xE0]

/-- A run-time fault is the lowest slot's: no lower slot can still fire (R268). DEDUCED: notes/assumptions/16. -/
def Frame.trapDue (f : Frame) (t : Trap) : Bool :=
  match t.slot with
  | none => true
  | some i => (List.range i).all (fun j => mayStay (opOf (f.slot j).word) ||
      (match slotReadiness (f.slot j) with
       | .go => false
       | .null => false
       | _ => true))

/-- Nothing can happen in a block any longer (R36). DEDUCED: notes/assumptions/16, 17. -/
def Frame.stuck (f : Frame) : Bool := f.exit.isNone && f.quiet (fun _ => true)

/-- A block fetch that consumed an uncorrectable error is recorded when its trap is taken (R276, R434). -/
def State.fetchUe (s : State) (sid : Nat) (t : Trap) : State :=
  if !(t.fetch && t.cause == causeUe) then s
  else
    let q := clusterQuarter (sidCluster sid)
    match s.xlate q (s.strand sid).who.job t.arg.toNat false true with
    | .error _ => s
    | .ok pl => s.consumeUe (s.partOf q) pl

/-- What a strand's oldest block holds against it: the trap, the block's address and LEN. DEDUCED: notes/assumptions/16, 17. -/
def State.dueTrap (s : State) (sid : Nat) : Option (Trap × Word × Nat) :=
  match s.framesOf sid with
  | f :: _ =>
    let fr := s.frame (sidCore sid) f
    match fr.trap with
    | some t => if fr.trapDue t then some (t, fr.addr, hdrLen fr.hdr) else none
    | none => if fr.stuck then some ({ cause := 4 }, fr.addr, hdrLen fr.hdr) else none
  | [] => match (s.strand sid).fetched with
    | none => none
    | some b => match b.trap with
      | none => none
      | some t => some (t, b.addr, hdrLen b.hdr)

/-- TRAP_TAKE. DEDUCED: notes/assumptions/16. -/
def execTrapTake (sid : Nat) (s : State) : Res :=
  .next (if !(s.strand sid).live then s
    else match s.dueTrap sid with
    | none => s
    | some (t, blk, len) => (s.fetchUe sid t).takeTrap sid t blk len)

end Sys2Proof.Machine
end

