-- ==== Sys2Proof/Machine/Special.lean ====
section
/-! DEFINITION. Machine/Special.lean: correctly rounded special functions (spec/20 R387, R390). A function is enclosed between two
fixed-point numbers with P fraction bits; P rises until both ends round alike. Results that are exact are taken apart. -/

namespace Sys2Proof.Machine

/-! ## Enclosures -/

/-- An enclosure: the value lies between lo · 2^−P and hi · 2^−P. -/
abbrev Enclosure := Int × Int

/-- A fixed-point number as an exact value. -/
def fixFV (p : Nat) (i : Int) : FV := .fin (decide (i < 0)) i.natAbs 1 (-(p : Int))

/-- Round a value known by enclosures, at the first precision that decides it. DEDUCED: notes/assumptions/54. -/
def settle (round : FV → Nat) (enc : Nat → Enclosure) : List Nat → Nat
  | [] => 0
  | [p] => round (fixFV p (enc p).1)
  | p :: q :: ps =>
    let e := enc p
    let x := round (fixFV p e.1)
    if x = round (fixFV p e.2) then x else settle round enc (q :: ps)

/-- n / d · 2^e to P fraction bits, from below and from above. -/
def fixFloor (p n d : Nat) (e : Int) : Nat :=
  let (a, b) := scale n d (e + p)
  a / b
def fixCeil (p n d : Nat) (e : Int) : Nat :=
  let (a, b) := scale n d (e + p)
  (a + b - 1) / b

/-! ## Constants -/

/-- The alternating series of atan(1/q) from term k on; `q2` is q². -/
def atanSeries (q2 : Nat) : Nat → Nat → Nat → Int → Int
  | 0, _, _, acc => acc
  | n + 1, t, k, acc =>
    if t = 0 then acc
    else atanSeries q2 n (t / q2) (k + 1) (if k % 2 = 0 then acc + ((t / (2 * k + 1) : Nat) : Int)
      else acc - ((t / (2 * k + 1) : Nat) : Int))

/-- π to P bits by Machin's formula: from below, within 128 · P units. -/
def piLow (p : Nat) : Nat :=
  let v := 16 * atanSeries 25 p (2 ^ p / 5) 0 0 - 4 * atanSeries 57121 p (2 ^ p / 239) 0 0
  (v - 64 * (p : Int)).toNat
def piErr (p : Nat) : Nat := 128 * p

/-- The series of atanh(y) from term k on: y² to P bits in `y2`. All terms are rounded down. -/
def atanhSeries (p y2 : Nat) : Nat → Nat → Nat → Nat → Nat
  | 0, _, _, acc => acc
  | n + 1, t, k, acc =>
    if t = 0 then acc else atanhSeries p y2 n (t * y2 / 2 ^ p) (k + 1) (acc + t / (2 * k + 1))

/-- ln 2 = 2 · atanh(1/3): from below, within 16 · P units. -/
def ln2Low (p : Nat) : Nat := 2 * atanhSeries p (2 ^ p / 9) p (2 ^ p / 3) 0 0
def ln2Err (p : Nat) : Nat := 16 * p

/-! ## Exponentials -/

/-- The series of e^r for 0 ≤ r < 1, terms rounded down. -/
def expSeries (p r : Nat) : Nat → Nat → Nat → Nat → Nat
  | 0, _, _, acc => acc
  | n + 1, t, k, acc => if t = 0 then acc else expSeries p r n (t * r / 2 ^ p / (k + 1)) (k + 1) (acc + t)

def squareTimes (p up : Nat) : Nat → Nat → Nat
  | 0, v => v
  | n + 1, v => squareTimes p up n (v * v / 2 ^ p + up)

/-- e^y for 0 ≤ y < 512 from an enclosure of y: y is divided by 1,024, and the result squared ten times. DEDUCED: notes/assumptions/54. -/
def expEnc (p : Nat) (y : Nat × Nat) : Nat × Nat :=
  let low := expSeries p (y.1 / 1024) (2 * p) (2 ^ p) 0 0
  let high := expSeries p (y.2 / 1024 + 1) (2 * p) (2 ^ p) 0 0 + 8 * p + 8
  (squareTimes p 0 10 low, squareTimes p 1 10 high)

/-- 2^f for 0 ≤ f < 1, f exactly n / d · 2^e. -/
def exp2Enc (n d : Nat) (e : Int) (p : Nat) : Enclosure :=
  let l := ln2Low p
  let r := expEnc p (fixFloor p n d e * l / 2 ^ p, fixCeil p n d e * (l + ln2Err p) / 2 ^ p + 1)
  (r.1, r.2)

/-- e^−y for 0 < y < 512. -/
def expNegEnc (n d : Nat) (e : Int) (p : Nat) : Enclosure :=
  let r := expEnc p (fixFloor p n d e, fixCeil p n d e)
  ((2 ^ (2 * p) / r.2 : Nat), (2 ^ (2 * p) / r.1 + 1 : Nat))

/-- tanh y for 0 < y < 128. DEDUCED: notes/assumptions/54. -/
def tanhEnc (n d : Nat) (e : Int) (p : Nat) : Enclosure :=
  let r := expEnc p (fixFloor p n d (e + 1), fixCeil p n d (e + 1))
  let one := 2 ^ p
  (((r.1 - one) * one / (r.1 + one) : Nat), ((r.2 - one) * one / (r.2 + one) + 1 : Nat))

/-! ## Logarithm -/

/-- log2 of n / d · 2^e for n, d > 0: the exponent, and the logarithm of a mantissa from 1 to 2. DEDUCED: notes/assumptions/54. -/
def log2Enc (n d : Nat) (e : Int) (p : Nat) : Enclosure :=
  let k := ratLog2 n d
  let (a, b) := scale n d (-k)
  let y := (a - b) * 2 ^ p / (a + b)
  let lnLow := 2 * atanhSeries p (y * y / 2 ^ p) (2 * p) y 0 0
  let lnHigh := lnLow + 32 * p + 32
  let l := ln2Low p
  let whole : Int := (k + e) * ((2 ^ p : Nat) : Int)
  (whole + (lnLow * 2 ^ p / (l + ln2Err p) : Nat), whole + (lnHigh * 2 ^ p / l + 1 : Nat))

/-! ## Sine and cosine -/

/-- The alternating series Σ ± r^k / k! over every second k, from a term t on. -/
def circleSeries (p : Nat) (r2 : Int) : Nat → Int → Nat → Int → Int
  | 0, _, _, acc => acc
  | n + 1, t, k, acc =>
    if t = 0 then acc
    else circleSeries p r2 n (-(t * r2 / 2 ^ p) / (((k + 1) * (k + 2) : Nat) : Int)) (k + 2) (acc + t)

/-- sin (`c` false) or cos of x = n / d · 2^e > 0: x is reduced by a multiple of π/2. DEDUCED: notes/assumptions/54. -/
def circleEnc (c : Bool) (n d : Nat) (e : Int) (p : Nat) : Enclosure :=
  let x : Int := fixFloor p n d e
  let h : Int := piLow p / 2
  let k : Nat := (x / h).toNat
  let r : Int := x - k * h
  let slack : Int := k * (piErr p : Int) + 64 * p + 64
  let r2 : Int := r * r / 2 ^ p
  let q := if c then k + 1 else k
  let v := if q % 2 = 0 then circleSeries p r2 (2 * p) r 1 0 else circleSeries p r2 (2 * p) (2 ^ p) 0 0
  let v := if q % 4 ≥ 2 then -v else v
  (v - slack, v + slack)

/-! ## The normal distribution -/

/-- Σ (−1)^k x^(2k+1) / (2^k k! (2k+1)) from term k on: `u` is x^(2k+1) / (2^k k!) with its sign, `x2` is x². -/
def normalSeries (p : Nat) (x2 : Int) : Nat → Int → Nat → Int → Int
  | 0, _, _, acc => acc
  | n + 1, u, k, acc =>
    if u = 0 then acc
    else normalSeries p x2 n (-(u * x2 / 2 ^ p) / ((2 * (k + 1) : Nat) : Int)) (k + 1)
      (acc + u / ((2 * k + 1 : Nat) : Int))

/-- |x| · Φ(x) for 0 < |x| ≤ 16, |x| = n / d · 2^e; `s`: x is negative. Products of the series grow by at most e^128. DEDUCED: notes/assumptions/54. -/
def geluEnc (s : Bool) (n d : Nat) (e : Int) (p : Nat) : Enclosure :=
  let a : Int := fixFloor p n d e
  let x : Int := if s then -a else a
  let sum := normalSeries p (x * x / 2 ^ p) (4 * p + 2048) x 0 0
  let root := isqrt (2 * piLow p * 2 ^ p)
  let c : Int := (2 ^ (2 * p) / root : Nat)
  let mid : Int := 2 ^ p / 2 + sum * c / 2 ^ p
  let slack : Int := 2 ^ 220 * (p : Int)
  let lo := max 0 (mid - slack)
  let hi := mid + slack
  (a * lo / 2 ^ p - 1, a * hi / 2 ^ p + 2)

/-! ## The functions (R387) -/

/-- A value smaller than any half of a smallest subnormal and its draws, with a sign; one just below a value. -/
def tinyFV (s : Bool) : FV := .fin s 1 1 (-400)
def justBelow (s : Bool) (n d : Nat) (e : Int) : FV := .fin s (n * 2 ^ 400 - 1) (d * 2 ^ 400) e

/-- floor of n / d · 2^e with a sign, and the fraction above it. -/
def floorFrac (s : Bool) (n d : Nat) (e : Int) : Int × Nat × Nat :=
  let (a, b) := scale n d e
  let x : Int := if s then -(a : Int) else a
  let k := x / (b : Int)
  (k, (x - k * b).toNat, b)

/-- 2^x, rounded by `round`. DEDUCED: notes/assumptions/54. -/
def fnExp2 (round : FV → Nat) : FV → Nat
  | .nan => round .nan
  | .inf s => if s then round (.fin false 0 1 0) else round (.inf false)
  | .fin s n d e =>
    let (a, b) := scale n d e
    if a ≥ 512 * b then round (if s then tinyFV false else .fin false 1 1 512)
    else
      let (k, r, m) := floorFrac s n d e
      if r = 0 then round (.fin false 1 1 k)
      else settle (fun v => round (v.shl k)) (exp2Enc r m 0) [128, 256, 512, 1024]

/-- e^x for x ≤ 0, as the row normaliser takes it. -/
def fnExpNeg (round : FV → Nat) : FV → Nat
  | .fin _ n d e =>
    let (a, b) := scale n d e
    if n = 0 then round (.fin false 1 1 0)
    else if a ≥ 400 * b then round (tinyFV false)
    else settle round (expNegEnc n d e) [256, 512, 1024, 2048]
  | .inf _ => round (.fin false 0 1 0)
  | .nan => round .nan

/-- DEDUCED: notes/assumptions/54. -/
def fnLog2 (round : FV → Nat) : FV → Nat
  | .nan => round .nan
  | .inf s => if s then round .nan else round (.inf false)
  | .fin s n d e =>
    if n = 0 then round (.inf true)
    else if s then round .nan
    else
      let k := ratLog2 n d
      let (a, b) := scale n d (-k)
      if a = b then round (intFV (k + e)) else settle round (log2Enc n d e) [128, 256, 512, 1024]

def fnRcp (round : FV → Nat) (v : FV) : Nat := round (fvDiv (.fin false 1 1 0) v)

/-- 1 / √x. -/
def fvRsqrt (v : FV) : FV :=
  match v with
  | .fin s 0 _ _ => .inf s
  | v => fvSqrt (fvDiv (.fin false 1 1 0) v)
def fnRsqrt (round : FV → Nat) (v : FV) : Nat :=
  match v with
  | .inf true => round .nan
  | v => round (fvRsqrt v)

def fnTanh (round : FV → Nat) : FV → Nat
  | .nan => round .nan
  | .inf s => round (.fin s 1 1 0)
  | .fin s n d e =>
    let (a, b) := scale n d e
    if n = 0 then round (.fin s 0 1 0)
    else if a ≥ 120 * b then round (justBelow s 1 1 0)
    else settle (fun v => round (if s then v.neg else v)) (tanhEnc n d e) [256, 512, 1024, 2048]

def fnSin (round : FV → Nat) : FV → Nat
  | .fin s n d e =>
    if n = 0 then round (.fin s 0 1 0)
    else settle (fun v => round (if s then v.neg else v)) (circleEnc false n d e) [320, 640, 1280]
  | _ => round .nan

def fnCos (round : FV → Nat) : FV → Nat
  | .fin _ n d e =>
    if n = 0 then round (.fin false 1 1 0)
    else settle round (circleEnc true n d e) [320, 640, 1280]
  | _ => round .nan

/-- DEDUCED: notes/assumptions/54. -/
def fnGelu (round : FV → Nat) : FV → Nat
  | .nan => round .nan
  | .inf s => if s then round (.fin true 0 1 0) else round (.inf false)
  | .fin s n d e =>
    let (a, b) := scale n d e
    if n = 0 then round (.fin s 0 1 0)
    else if a > 16 * b then round (if s then tinyFV true else justBelow false n d e)
    else settle (fun v => round (if s then v.neg else v)) (geluEnc s n d e) [768, 1536, 3072]

end Sys2Proof.Machine
end

