-- ==== Sys2Proof/Machine/VectorOps.lean ====
section
/-! DEFINITION. Machine/VectorOps.lean: what a firing of a vector engine computes, lane by lane (spec/07 R174 to R182, spec/11
R219 to R232). -/

namespace Sys2Proof.Machine

/-! ## Rounding draws (R231) -/

/-- How an engine rounds: the route's mode and SAT, and the context's seed. -/
structure Rounding where
  mode : Rnd
  sat  : Bool
  seed : Nat
  deriving DecidableEq, Repr

def Rounding.draw (q : Rounding) (tag i : Nat) : Nat := srDraw q.seed tag i

/-- A value rounded to a float format; i roundings have been made toward the result of the lane with this tag. -/
def Rounding.round (q : Rounding) (f : FFmt) (tag i : Nat) (v : FV) : Nat := fround f q.mode q.sat (q.draw tag i) v

/-! ## Elements -/

def EFmt.isInt : EFmt → Bool
  | .int _ _ => true
  | _ => false
def EFmt.isFloat : EFmt → Bool
  | .flt _ => true
  | _ => false
def EFmt.isSigned : EFmt → Bool
  | .int _ s => s
  | _ => false

/-- An integer element's value, signed or unsigned by format. -/
def EFmt.intVal (f : EFmt) (v : Nat) : Int := if f.isSigned then toSigned f.bits v else (v : Int)
/-- An element's exact value. -/
def EFmt.exact : EFmt → Nat → FV
  | .flt g, v => fdec g v
  | f, v => intFV (f.intVal v)

def floatOf : EFmt → FFmt
  | .flt g => g
  | _ => fp64

/-- VCVT of one element (R175). -/
def vcvt (q : Rounding) (tag : Nat) (src dst : EFmt) (v : Nat) : Nat :=
  match src, dst with
  | .int _ _, .int w _ => ofSigned w (src.intVal v)
  | _, .int w sg => ofSigned w (fvToIntSat w sg q.mode (q.draw tag 0) (src.exact v))
  | _, .flt g => q.round g tag 0 (src.exact v)
  | _, .q4x => 0

/-- Comparisons of VCMP and VFCMP. -/
def vcmpInt (f : EFmt) (mod a b : Nat) : Bool :=
  let x := f.intVal a
  let y := f.intVal b
  match mod with
  | 0 => a == b
  | 1 => a != b
  | 2 => decide (x < y)
  | _ => decide (x ≤ y)

def vcmpFlt (g : FFmt) (mod a b : Nat) : Bool :=
  match mod, fvCmp (fdec g a) (fdec g b) with
  | 3, none => true
  | 0, some o => o == .eq
  | 1, some o => o == .lt
  | 2, some o => o == .lt || o == .eq
  | _, _ => false

/-- One lane of an elementwise operation (R174): the operands' format, the route's, the modifier, L, Rt and P. -/
def vecLane (cop : Nat) (f rf : EFmt) (q : Rounding) (tag mod a b c : Nat) : Nat :=
  let w := f.bits
  let g := floatOf f
  let sh := b % w
  if cop = 0x100 then (a + b) % 2 ^ w
  else if cop = 0x101 then (a + (2 ^ w - b % 2 ^ w)) % 2 ^ w
  else if cop = 0x102 then a * b % 2 ^ w
  else if cop = 0x103 then q.round g tag 0 (fvAdd q.mode (fdec g a) (fdec g b))
  else if cop = 0x104 then q.round g tag 0 (fvAdd q.mode (fdec g a) (fdec g b).neg)
  else if cop = 0x105 then q.round g tag 0 (fvMul (fdec g a) (fdec g b))
  else if cop = 0x106 then q.round g tag 0 (fvAdd q.mode (fvMul (fdec g a) (fdec g b)) (fdec g c))
  else if cop = 0x107 then (if f.intVal b < f.intVal a then b else a)
  else if cop = 0x108 then (if f.intVal a < f.intVal b then b else a)
  else if cop = 0x109 then fminBits g false a b
  else if cop = 0x10A then fminBits g true a b
  else if cop = 0x10B then (if toSigned w a < 0 then (2 ^ w - a) % 2 ^ w else a)
  else if cop = 0x10C then a % 2 ^ (w - 1)
  else if cop = 0x10D then (vcmpInt f mod a b).toNat
  else if cop = 0x10E then (vcmpFlt g mod a b).toNat
  else if cop = 0x10F then (if c = 0 then b else a)
  else if cop = 0x110 then vcvt q tag f rf a
  else if cop = 0x111 then a * 2 ^ sh % 2 ^ w
  else if cop = 0x112 then a / 2 ^ sh
  else if cop = 0x113 then ofSigned w (toSigned w a / 2 ^ sh)
  else if cop = 0x114 then Nat.land a b
  else if cop = 0x115 then Nat.lor a b
  else Nat.xor a b

/-- Operations that take integer formats only, and float formats only. -/
def vecIntOnly (cop : Nat) : Bool :=
  [0x100, 0x101, 0x102, 0x107, 0x108, 0x10B, 0x10D, 0x111, 0x112, 0x113].contains cop
def vecFloatOnly (cop : Nat) : Bool := [0x103, 0x104, 0x105, 0x106, 0x109, 0x10A, 0x10C, 0x10E].contains cop

/-- MOD values that an operation takes (R170, R174, R176 to R181). DEDUCED: notes/assumptions/49. -/
def vecModOk (cop mod : Nat) : Bool :=
  if cop = 0x10D || cop = 0x10E then decide (mod < 4)
  else if cop = 0x117 || cop = 0x118 then decide (mod < 9)
  else if cop = 0x119 || cop = 0x11C then mod / 16 % 8 == 0 && decide (mod % 16 < 9)
  else if cop = 0x11E then decide (mod < 32)
  else mod == 0

/-! ## Operators (R176) -/

/-- Whether an operator of MOD [3:0] takes a format. -/
def redFits (o : Nat) (f : EFmt) : Bool :=
  if o ≥ 6 then true else if o = 1 || o = 4 || o = 5 then f.isFloat else f.isInt

/-- One combination. -/
def redOp (o : Nat) (f : EFmt) (q : Rounding) (tag i a b : Nat) : Nat :=
  let w := f.bits
  let g := floatOf f
  match o with
  | 0 => (a + b) % 2 ^ w
  | 1 => q.round g tag i (fvAdd q.mode (fdec g a) (fdec g b))
  | 2 => if f.intVal b < f.intVal a then b else a
  | 3 => if f.intVal a < f.intVal b then b else a
  | 4 => fminBits g false a b
  | 5 => fminBits g true a b
  | 6 => Nat.land a b
  | 7 => Nat.lor a b
  | _ => Nat.xor a b

/-- The identity of an operator. DEDUCED: notes/assumptions/51. -/
def redIdentity (o : Nat) (f : EFmt) : Nat :=
  let w := f.bits
  let g := floatOf f
  let top (s : Bool) : Nat := if g.kind = .e4m3 then signBit g s + maxCode g else infCode g s false
  match o with
  | 1 => signBit g true
  | 2 => if f.isSigned then 2 ^ (w - 1) - 1 else 2 ^ w - 1
  | 3 => if f.isSigned then 2 ^ (w - 1) else 0
  | 4 => top false
  | 5 => top true
  | 6 => 2 ^ w - 1
  | _ => 0

/-- One level of the tree: neighbours combine, an odd last one stays; `i` combinations have been made. -/
def treeLevel (op : Nat → Nat → Nat → Nat) : Nat → List Nat → List Nat × Nat
  | i, a :: b :: rest =>
    let (l, j) := treeLevel op (i + 1) rest
    (op i a b :: l, j)
  | i, l => (l, i)

/-- The fixed tree of R176. DEDUCED: notes/assumptions/55. -/
def treeReduce (op : Nat → Nat → Nat → Nat) : Nat → Nat → List Nat → Nat
  | 0, _, l => l.headD 0
  | n + 1, i, l =>
    match l with
    | [] => 0
    | [a] => a
    | _ =>
      let (m, j) := treeLevel op i l
      treeReduce op n j m

/-- DEDUCED: notes/assumptions/51. -/
def reduceTree (o : Nat) (f : EFmt) (q : Rounding) (tag : Nat) (l : List Nat) : Nat :=
  treeReduce (redOp o f q tag) l.length 0 l

/-! ## Reductions, scans, permutes (R176 to R179) -/

/-- Lanes of an operand or result: an element, or absent. -/
abbrev Lanes := List (Option Nat)

def laneOr (d : Nat) (l : Lanes) (j : Nat) : Nat := (l.getD j none).getD d

/-- Lanes at which a segment begins. -/
def segHeads (heads : Lanes) : List Nat :=
  (List.range heads.length).filter (fun j => decide (j = 0) || laneOr 0 heads j != 0)

/-- VSRED: each segment's result in its first lane. DEDUCED: notes/assumptions/51. -/
def segReduce (o : Nat) (f : EFmt) (q : Rounding) (t0 : Nat) (data heads : Lanes) : Lanes :=
  let hs := segHeads heads
  (List.range data.length).map (fun j =>
    if hs.contains j then
      let stop := (hs.find? (fun k => decide (k > j))).getD data.length
      some (reduceTree o f q (t0 + j) ((List.range (stop - j)).map (fun k => laneOr (redIdentity o f) data (j + k))))
    else none)

/-- VSCAN from lane j on: `acc` so far, `k` combinations made. DEDUCED: notes/assumptions/51. -/
def scanLanes (o : Nat) (f : EFmt) (q : Rounding) (excl : Bool) (tag : Nat) : Nat → Nat → Lanes → Lanes
  | _, _, [] => []
  | acc, k, none :: rest => none :: scanLanes o f q excl (tag + 1) acc k rest
  | acc, k, some v :: rest =>
    let next := redOp o f q tag k acc v
    some (if excl then acc else next) :: scanLanes o f q excl (tag + 1) next (k + 1) rest

/-- VPERM: result lane j is the lane of the data that P names. DEDUCED: notes/assumptions/51. -/
def permLanes (data idx : Lanes) : Lanes :=
  idx.map (fun o => match o with
    | some u => if u < data.length then data.getD u none else none
    | none => none)

/-! ## Gather and scatter (R180, R181) -/

/-- Role and port of the AGN behind a gather or scatter: 0, or the cause. -/
def State.vecAgnCheck (s : State) (cl : Nat) (r : AgnRec) (rd wr acc : Bool) : Nat :=
  let tile := r.port == 3 && r.trole == 0 && s.tileRole cl r.tile == 1
  if !r.bound then causeUnbound
  else if (rd && !(r.role == 1 || r.role == 3)) || (wr && !(r.role == 2 || r.role == 3)) then causeRole
  else if !(r.port == 1 || r.port == 2 || tile || (r.port == 4 && !acc)) then causePort
  else 0

/-- Where each lane's element lies: its pieces, none for a lane that is absent or fails its check; the statuses that such
lanes post; and a fault of an address, if one has occurred. -/
structure LaneMap where
  lanes : List (Option (List (Place × Nat))) := []
  bound : Bool := false
  odd   : Bool := false
  fault : Option (Nat × Nat) := none
  deriving DecidableEq, Repr

def State.laneMap (s : State) (cl core job : Nat) (r : AgnRec) (write : Bool) (idx : Lanes) : LaneMap :=
  idx.foldl (fun (m : LaneMap) o =>
    let skip (x : LaneMap) : LaneMap := { x with lanes := x.lanes ++ [none] }
    match o with
    | none => skip m
    | some n => match r.addr n with
      | none => skip { m with bound := true }
      | some a =>
        if a % (r.ebytes : Int) != 0 then skip { m with odd := true }
        else match s.pieces cl core job r a r.ebytes write with
          | .ok ps => { m with lanes := m.lanes ++ [some ps] }
          | .error d =>
            if d = causeBound then skip { m with bound := true }
            else skip { m with fault := if m.fault.isNone then some (d, a.toNat) else m.fault }) {}

def LaneMap.posts (m : LaneMap) : List Nat :=
  (if m.bound then [causeStatus causeBound] else []) ++ (if m.odd then [causeStatus causeMisalign] else [])

/-- Read the lanes at timestamp p: values, the largest timestamp, the state; the error is a cause. -/
def State.gatherLanes (s : State) (cl job : Nat) (r : AgnRec) (p : Nat) :
    List (Option (List (Place × Nat))) → Except Nat (Lanes × Nat × State)
  | [] => .ok ([], p, s)
  | none :: rest => match s.gatherLanes cl job r p rest with
    | .error c => .error c
    | .ok (vs, t, s1) => .ok (none :: vs, t, s1)
  | some ps :: rest => match s.readPieces (s.partOfCluster cl) [] p ps with
    | .error c => .error c
    | .ok (g, s1) =>
      let s2 := ps.foldl (fun st x => st.engFill cl job 2 r false x.1) s1
      match s2.gatherLanes cl job r p rest with
      | .error c => .error c
      | .ok (vs, t, s3) => .ok (some g.v :: vs, max t g.t, s3)

/-- Write lanes in order at timestamp p: the largest timestamp, a failing status, the state. With `f`, the old element is
combined with the value in one access (R181). -/
def State.scatterLanes (s : State) (cl job : Nat) (r : AgnRec) (p wid : Nat) (f : Option (Nat → Nat → Nat → Nat)) :
    List (List (Place × Nat) × Nat × Nat) → Nat × Nat × State
  | [] => (p, 0, s)
  | (ps, j, v) :: rest =>
    let root := s.partOfCluster cl
    let w : Except Nat (Nat × State) := match f with
      | none => s.writePieces root p wid ps v
      | some g => match s.modPieces root p wid ps (fun old => g j old v) with
        | .error c => .error c
        | .ok (_, t, s1) => .ok (t, s1)
    match w with
    | .error c => (p, causeStatus c, s)
    | .ok (t, s1) =>
      let s2 := ps.foldl (fun st x => st.engFill cl job 2 r false x.1) s1
      let (u, st, s3) := s2.scatterLanes cl job r p wid f rest
      (max t u, st, s3)

/-- VSCATC's lanes that lead: their pieces, the number of combinations made, their value; and the masks CONFLICT and LEADER. -/
structure Combined where
  leads : List (Nat × List (Place × Nat) × Nat × Nat) := []   -- lane, pieces, combinations, value
  conflict : Nat := 0
  leader : Nat := 0
  deriving DecidableEq, Repr

def combineLanes (o : Nat) (f : EFmt) (q : Rounding) (t0 : Nat) (idx data : Lanes)
    (places : List (Option (List (Place × Nat)))) : Combined :=
  (List.range idx.length).foldl (fun (c : Combined) j =>
    match places.getD j none with
    | none => c
    | some ps =>
      let v := laneOr 0 data j
      let n := laneOr 0 idx j
      match c.leads.find? (fun l => laneOr 0 idx l.1 == n) with
      | none => { c with leads := c.leads ++ [(j, ps, 0, v)], leader := c.leader + 2 ^ j }
      | some l => { c with
          leads := c.leads.map (fun x =>
            if x.1 = l.1 then (x.1, x.2.1, x.2.2.1 + 1, redOp o f q (t0 + x.1) x.2.2.1 x.2.2.2 v) else x)
          conflict := c.conflict + 2 ^ j }) {}

end Sys2Proof.Machine
end

