-- ==== Sys2Proof/Machine/Vector.lean ====
section
/-! DEFINITION. Machine/Vector.lean: the vector engines: which firing goes next, how its operands split, and what it sends
(spec/07 R169 to R183, spec/09 R203, spec/15 R316). -/

namespace Sys2Proof.Machine

/-! ## Firings (R172) -/

/-- A firing: its operation, an operand for each position in order, and its tags. -/
structure Firing where
  cop : Nat
  ops : List Stall
  t0  : Nat
  t1  : Nat
  deriving DecidableEq, Repr

/-- Order of arrival of its newest operand, and that operand's cell. -/
def Firing.newest (f : Firing) : Nat := f.ops.foldl (fun m t => max m t.age) 0
def Firing.newestCell (f : Firing) : Nat :=
  match f.ops.find? (fun t => t.age == f.newest) with
  | some t => t.cell.age
  | none => 0

/-- The cell whose route, modifier and header the firing follows: the left operand's. -/
def Firing.lead (f : Firing) : MCell :=
  match f.ops with
  | t :: _ => t.cell
  | [] => {}

def insertFiring (f : Firing) : List Firing → List Firing
  | [] => [f]
  | g :: gs => if f.newest ≤ g.newest then f :: g :: gs else g :: insertFiring f gs

/-- Everything that can fire at a port, in the order of its newest operands. DEDUCED: notes/assumptions/50. -/
def Port.firings (p : Port) : List Firing :=
  let keys := (p.stalls.map (fun t => vecKey t.cell.cell)).eraseDups
  let of (key : Nat) : List Firing :=
    let cop := key / 16 % 1024
    (choices ((vecPositions cop).map (fun q => p.waiting key q))).filterMap (fun ts =>
      (shared ts).map (fun r => { cop := cop, ops := ts, t0 := r.1, t1 := r.2 }))
  ((keys.map of).flatten).foldr insertFiring []

/-- The parts of its operands outside its tags: token, first element, elements. -/
def Firing.parts (f : Firing) : List (Stall × Nat × Nat) :=
  (f.ops.map (fun t =>
    (if t.t0 < f.t0 then [(t, t.lo, f.t0 - t.t0)] else []) ++
    (if f.t1 < t.t1 then [(t, t.lo + (f.t1 + 1 - t.t0), t.t1 - f.t1)] else []))).flatten

/-- Give each part a stall: those the operands held first, then what can be had; none: no stall is left. -/
def State.splitParts (s : State) (cl e : Nat) : List Nat → List (Stall × Nat × Nat) → Option State
  | _, [] => some s
  | pool, (t, lo, n) :: rest =>
    let put (k : Nat) : State := s.modPort cl e (fun p => { p with
      stalls := p.stalls ++ [{ t with cell := { t.cell with stall := k }, lo := lo, n := n }] })
    match pool with
    | k :: ks => (put k).splitParts cl e ks rest
    | [] => match s.takeStall cl e t.cell.who (t.cell.cell.itag.toNat + lo) n with
      | none => none
      | some k => (put k).splitParts cl e [] rest

/-- The operands leave the matching store, their parts stay. DEDUCED: notes/assumptions/50. -/
def State.splitFiring (s : State) (cl e : Nat) (f : Firing) : Option State :=
  let s1 := s.modPort cl e (fun p => { p with stalls := p.stalls.filter (fun t => !f.ops.contains t) })
  s1.splitParts cl e ((f.ops.map (fun t => t.cell.stall)).filter (· != 0)) f.parts

/-- The operand cells whose last part the firing takes: their operations end with it. -/
def State.firingEnds (s : State) (cl e : Nat) (f : Firing) : List (Owner × Report × BitVec 24) :=
  (f.ops.filter (fun t => !(s.port cl e).stalls.any (fun u => u.cell.age == t.cell.age))).map
    (fun t => (t.cell.who, t.cell.report, t.cell.cell.itag))

/-- LAST of the result (R171). -/
def Firing.last (f : Firing) : Bool :=
  f.ops.any (fun t =>
    let c := t.cell.cell
    c.last && f.t1 == c.itag.toNat + c.run.toNat)

def Firing.start (f : Firing) : Nat := f.ops.foldl (fun m t => max m t.cell.stamp) 0

/-! ## What a firing computes -/

/-- A result: lanes, the format that packs them, RUN, and whether the sidecar mask is sent whatever the lanes. -/
structure VecOut where
  lanes : Lanes
  fmt   : EFmt
  run   : Nat
  masked : Bool := false
  deriving DecidableEq, Repr

/-- How a firing ends: with a failing status, in a fault of an address (cause, address), or with a result (none: it sends
no cell), its completion timestamp, the statuses of single lanes and a write's failing status. -/
inductive VecEnd where
  | fail (status : Nat)
  | fault (cause va : Nat)
  | out (o : Option VecOut) (cts : Nat) (posts : List Nat) (lost : Nat) (s : State)

/-- An operand as the firing sees it: its format and its lanes. -/
structure Operand where
  fmt   : EFmt
  lanes : Lanes
  deriving DecidableEq, Repr

def State.operand (s : State) (f : Firing) (t : Stall) : Operand :=
  let c := t.cell.cell
  let fmt := (s.cellFmt t.cell.who.job c.tid.toNat).getD (.int 8 false)
  { fmt := fmt
    lanes := (List.range (f.t1 + 1 - f.t0)).map (fun i =>
      let j := f.t0 - c.itag.toNat + i
      if c.present j then some (c.elem fmt.bits j) else none) }

/-- Elementwise operations (R174, R175). -/
def vecElementwise (cop mod t0 : Nat) (rf : EFmt) (q : Rounding) (ops : List Operand) (start : Nat) (s : State) : VecEnd :=
  let a := ops.getD 0 { fmt := rf, lanes := [] }
  let b := ops.getD 1 { fmt := rf, lanes := [] }
  let c := ops.getD 2 { fmt := rf, lanes := [] }
  let same := (ops.take (if cop = 0x10F then 2 else 3)).all (fun o => o.fmt == a.fmt) &&
    (cop != 0x10F || (c.fmt.isInt && c.fmt.bits == a.fmt.bits))
  let result := if cop = 0x10D || cop = 0x10E then rf.isInt else cop == 0x110 || rf == a.fmt
  let kind := (!vecIntOnly cop || a.fmt.isInt) && (!vecFloatOnly cop || a.fmt.isFloat) &&
    (cop != 0x10B || a.fmt.isSigned)
  if !(same && result && kind) then .fail 0x98
  else
    let n := a.lanes.length
    let lanes : Lanes := (List.range n).map (fun j =>
      if ops.all (fun o => (o.lanes.getD j none).isSome)
      then some (vecLane cop a.fmt rf q (t0 + j) mod (laneOr 0 a.lanes j) (laneOr 0 b.lanes j) (laneOr 0 c.lanes j))
      else none)
    .out (some { lanes := lanes, fmt := rf, run := n - 1 }) start [] 0 s

/-- Reductions, scans, permutes and broadcasts (R176 to R179). -/
def vecAcross (cop mod t0 : Nat) (rf : EFmt) (q : Rounding) (ops : List Operand) (start : Nat) (s : State) : VecEnd :=
  let a := ops.getD 0 { fmt := rf, lanes := [] }
  let p := ops.getD 1 { fmt := rf, lanes := [] }
  let o := mod % 16
  let n := a.lanes.length
  let out (l : Lanes) (run : Nat) (m : Bool) : VecEnd := .out (some { lanes := l, fmt := rf, run := run, masked := m }) start [] 0 s
  if rf != a.fmt then .fail 0x98
  else if (cop = 0x118 || cop = 0x11D) && !(p.fmt.isInt && (cop == 0x11D || p.fmt.bits == a.fmt.bits)) then .fail 0x98
  else if decide (0x117 ≤ cop ∧ cop ≤ 0x119) && !redFits o a.fmt then .fail 0x98
  else if cop = 0x117 then
    out [some (reduceTree o a.fmt q t0 (a.lanes.map (fun v => v.getD (redIdentity o a.fmt))))] 0 false
  else if cop = 0x118 then out (segReduce o a.fmt q t0 a.lanes p.lanes) (n - 1) true
  else if cop = 0x119 then out (scanLanes o a.fmt q (mod ≥ 128) t0 (redIdentity o a.fmt) 0 a.lanes) (n - 1) false
  else if cop = 0x11D then out (permLanes a.lanes p.lanes) (n - 1) false
  else match (if mod < n then a.lanes.getD mod none else none) with
    | none => .fail 0x90
    | some v => out (List.replicate n (some v)) (n - 1) false

/-- Gather and scatter (R180 to R182). -/
def State.vecMemory (s : State) (cl ctx dagn job cop mod t0 : Nat) (rf : Option EFmt) (q : Rounding) (ops : List Operand)
    (start : Nat) : VecEnd :=
  let key := agnKey cl ctx dagn
  let ag := s.agn key
  let r := agnRec ag.words
  let acc := cop == 0x11C && decide (mod ≥ 128)
  let bad := s.vecAgnCheck cl r (cop == 0x11A || acc) (cop != 0x11A) acc
  let a := ops.getD 0 { fmt := .q4x, lanes := [] }
  let b := ops.getD 1 { fmt := .q4x, lanes := [] }
  let o := mod % 16
  if bad != 0 then .fail (causeStatus bad)
  else match s.cellFmt job r.tid with
    | none => .fail 0x91
    | some df =>
      if !a.fmt.isInt || df.bits = 4 || (cop == 0x11A && rf != some df) || (cop != 0x11A && b.fmt != df) then .fail 0x98
      else if cop = 0x11C && !(redFits o df && rf == some (.int 32 false)) then .fail 0x98
      else
        let idx : Lanes := (List.range a.lanes.length).map (fun j =>
          if ops.all (fun x => (x.lanes.getD j none).isSome) then a.lanes.getD j none else none)
        let m := s.laneMap cl ag.core job r (cop != 0x11A) idx
        let wid := s.flushAgent key
        match m.fault with
        | some (d, va) => .fault d va
        | none =>
          if cop = 0x11A then
            match s.gatherLanes cl job r start m.lanes with
            | .error c => .fail (causeStatus c)
            | .ok (vs, t, s1) => .out (some { lanes := vs, fmt := df, run := a.lanes.length - 1 }) t m.posts 0 s1
          else if cop = 0x11B then
            let ws := (List.range m.lanes.length).filterMap (fun j =>
              (m.lanes.getD j none).map (fun ps => (ps, j, laneOr 0 b.lanes j)))
            let (t, st, s1) := s.scatterLanes cl job r start wid none ws
            .out none t m.posts st s1
          else
            let c := combineLanes o df q t0 idx b.lanes m.lanes
            let ws := c.leads.map (fun l => (l.2.1, l.1, l.2.2.2))
            let count (j : Nat) : Nat := match c.leads.find? (fun l => l.1 == j) with
              | some l => l.2.2.1
              | none => 0
            let f : Option (Nat → Nat → Nat → Nat) :=
              if acc then some (fun j old v => redOp o df q (t0 + j) (count j) old v) else none
            let (t, st, s1) := s.scatterLanes cl job r start wid f ws
            .out (some { lanes := [some c.conflict, some c.leader], fmt := .int 32 false, run := 0 }) t m.posts st s1

/-- What a firing computes, once its modifier, its route and its route's format and mode have been checked. -/
def State.vecCompute (s : State) (cl e : Nat) (f : Firing) (rt : Route) (start : Nat) : VecEnd :=
  let m := f.lead
  let c := m.cell
  let job := m.who.job
  let mod := c.cnt.toNat
  let ops := f.ops.map (s.operand f)
  let seed := tgetD 0 s.eng.seeds (engCtx cl e c.ctx.toNat)
  let q : Rounding := { mode := (rndOf rt.rnd).getD .rne, sat := rt.sat, seed := seed }
  let scat := f.cop == 0x11B
  let rf := s.cellFmt job rt.tid
  if !vecModOk f.cop mod then .fail 0x90
  else if !rt.v && !scat then .fail 0x92
  else if !scat && rf.isNone then .fail 0x91
  else if !scat && decide (((rf.map EFmt.bits).getD 8) = 4) then .fail 0x98
  else if !scat && (rndOf rt.rnd).isNone then .fail 0x90
  else if f.cop = 0x11A || scat || f.cop = 0x11C then s.vecMemory cl c.ctx.toNat rt.dagn job f.cop mod f.t0 rf q ops start
  else
    let g := rf.getD (.int 8 false)
    if f.cop ≤ 0x116 then vecElementwise f.cop mod f.t0 g q ops start s
    else vecAcross f.cop mod f.t0 g q ops start s

/-! ## The result cell, and the end of a firing (R171, R183, R203) -/

/-- A result cell of a route (R171). -/
def routeCell (rt : Route) (lead : Cell) (itag run : Nat) (last : Bool) (bits : Nat) (lanes : Lanes) (masked : Bool) : Cell :=
  ({ dcl := BitVec.ofNat 6 rt.dcl, dport := BitVec.ofNat 5 rt.dport, mc := rt.mc, cop := BitVec.ofNat 10 rt.cop,
     pos := BitVec.ofNat 2 rt.pos, tid := BitVec.ofNat 12 rt.tid, ctx := lead.ctx, col := lead.col, gate := lead.gate,
     itag := BitVec.ofNat 24 itag, run := BitVec.ofNat 5 run, last := last,
     aux := BitVec.ofNat 16 (lead.aux.toNat % 4096),
     side := if masked then 63 else 0,
     pay := packElems bits (lanes.map (fun v => v.getD 0)),
     car := if masked then maskCar (lanes.map Option.isSome) else 0 } : Cell).seal

/-- The CMPL token of a completed firing, when its route asks for one (R203). DEDUCED: notes/assumptions/50. -/
def routeCmpl (rt : Route) (lead : Cell) (itag run : Nat) : Option Cell :=
  if rt.v && rt.cn then
    some ({ dcl := BitVec.ofNat 6 rt.dcl, dport := BitVec.ofNat 5 rt.cnport, cls := true, cop := 0x3F0, ctx := lead.ctx,
            col := lead.col, itag := BitVec.ofNat 24 itag, run := BitVec.ofNat 5 run } : Cell).seal
  else none

/-- An operation that sends no result cell completes at once. DESIGN CHOICE: notes/assumptions/40. -/
def State.endNow (s : State) (cl port : Nat) (m : MCell) (p : Prod) : State :=
  let s1 := s.prodEnd cl { m with prod := some p }
  match p.cmpl with
  | none => s1
  | some c => s1.sendOut cl port { cell := c, stamp := p.cts, who := m.who }

/-- An engine's result waits at its ingress port; its operation completes when it has entered the market. DESIGN CHOICE: notes/assumptions/40. -/
def State.sendResult (s : State) (cl port : Nat) (m : MCell) (c : Cell) (p : Prod) : State :=
  s.sendOut cl port { cell := c, stamp := p.cts, agent := m.agent, who := m.who, report := .engine, prod := some p }

/-- The firing takes place: `s0` is the state before its operands left the store, `s` after. DEDUCED: notes/assumptions/50, 98. -/
def State.vecFire (s0 s : State) (cl e : Nat) (f : Firing) : State :=
  let m := f.lead
  let c := m.cell
  let ctx := c.ctx.toNat
  let key := engCtx cl e ctx
  let rt := s0.route cl e ctx (c.aux.toNat / 4096)
  let start := s0.startStamp key f.start
  let (num, s1) := s.timeStart key
  let prod (t : Nat) : Prod := {
    key := key, num := num, cts := t, cmpl := routeCmpl rt c f.t0 (f.t1 - f.t0), ends := s.firingEnds cl e f }
  let fails (st : State) (status t : Nat) : State :=
    (st.failOp cl ctx m.who c.col.toNat status f.t0).endNow cl (16 + e) m (prod t)
  match s0.gate m.who.job (waiterCell m) with
  | .wait => s0
  | .ends status => fails (s1.ungate m.who.job (waiterCell m)) status start
  | .go => match s1.vecCompute cl e f rt start with
    | .fail status => fails s1 status start
    | .fault d va =>
      s0.faultWait (clusterQuarter cl) m.who.job d 2 (m.agent / 32) rt.dagn cl va f.t0 (waiterCell m)
    | .out o t posts lost s2 =>
      let s3 := posts.foldl (fun st p => st.postReport cl ctx p 2 f.t0) s2
      if lost != 0 then (fails s3 lost t).writeLost cl m rt.dagn 0 lost
      else match o with
        | none => s3.endNow cl (16 + e) m (prod t)
        | some r =>
          let x := routeCell rt c f.t0 r.run f.last r.fmt.bits r.lanes (r.masked || r.lanes.any Option.isNone)
          if !s3.cellOk cl m.who.job x || decide (r.lanes.length * r.fmt.bits > 1024) then fails s3 0x90 t
          else s3.sendResult cl (16 + e) m x (prod t)

/-- Whether an engine's ingress port still holds a result that has not entered the market. DEDUCED: notes/assumptions/50. -/
def State.resultWaits (s : State) (cl e : Nat) : Bool :=
  (tget s.eng.outs (cl * 32 + 16 + e)).any (fun m => !m.cell.cls)

/-- A vector engine fires once: of what can fire, the firing whose newest operand arrived first, when it is one of the
operation named. A firing that finds no stall for a part of its operands is counted, and lets the next go. DESIGN CHOICE: notes/assumptions/40; DEDUCED: notes/assumptions/50. -/
def State.vecStep (s : State) (cl e cop : Nat) : State :=
  if s.resultWaits cl e then s
  else
    let fs := (s.port cl e).firings.filter (fun f => s.gate f.lead.who.job (waiterCell f.lead) != .wait)
    let short := fs.takeWhile (fun f => (s.splitFiring cl e f).isNone)
    let s1 := (short.filter (fun f => f.cop == cop)).foldl (fun st f => st.countShort cl e f.newestCell) s
    match fs.drop short.length with
    | [] => s1
    | f :: _ =>
      if f.cop != cop then s1
      else match s1.splitFiring cl e f with
        | none => s1
        | some s2 => State.vecFire s1 (s2.clearShort cl e f.newestCell) cl e f

/-! ## The operations -/

/-- VADD (R174). -/
def execVadd (cl ve : Nat) (s : State) : Res := .next (s.vecStep cl (4 + ve) 0x100)
/-- VSUB (R174). -/
def execVsub (cl ve : Nat) (s : State) : Res := .next (s.vecStep cl (4 + ve) 0x101)
/-- VMUL (R174). -/
def execVmul (cl ve : Nat) (s : State) : Res := .next (s.vecStep cl (4 + ve) 0x102)
/-- VFADD (R174). -/
def execVfadd (cl ve : Nat) (s : State) : Res := .next (s.vecStep cl (4 + ve) 0x103)
/-- VFSUB (R174). -/
def execVfsub (cl ve : Nat) (s : State) : Res := .next (s.vecStep cl (4 + ve) 0x104)
/-- VFMUL (R174). -/
def execVfmul (cl ve : Nat) (s : State) : Res := .next (s.vecStep cl (4 + ve) 0x105)
/-- VFMA (R174). -/
def execVfma (cl ve : Nat) (s : State) : Res := .next (s.vecStep cl (4 + ve) 0x106)
/-- VMIN (R174). -/
def execVmin (cl ve : Nat) (s : State) : Res := .next (s.vecStep cl (4 + ve) 0x107)
/-- VMAX (R174). -/
def execVmax (cl ve : Nat) (s : State) : Res := .next (s.vecStep cl (4 + ve) 0x108)
/-- VFMIN (R174). -/
def execVfmin (cl ve : Nat) (s : State) : Res := .next (s.vecStep cl (4 + ve) 0x109)
/-- VFMAX (R174). -/
def execVfmax (cl ve : Nat) (s : State) : Res := .next (s.vecStep cl (4 + ve) 0x10A)
/-- VABS (R174). -/
def execVabs (cl ve : Nat) (s : State) : Res := .next (s.vecStep cl (4 + ve) 0x10B)
/-- VFABS (R174). -/
def execVfabs (cl ve : Nat) (s : State) : Res := .next (s.vecStep cl (4 + ve) 0x10C)
/-- VCMP (R174). -/
def execVcmp (cl ve : Nat) (s : State) : Res := .next (s.vecStep cl (4 + ve) 0x10D)
/-- VFCMP (R174). -/
def execVfcmp (cl ve : Nat) (s : State) : Res := .next (s.vecStep cl (4 + ve) 0x10E)
/-- VSEL (R174). -/
def execVsel (cl ve : Nat) (s : State) : Res := .next (s.vecStep cl (4 + ve) 0x10F)
/-- VCVT (R174, R175). -/
def execVcvt (cl ve : Nat) (s : State) : Res := .next (s.vecStep cl (4 + ve) 0x110)
/-- VSHL (R174). -/
def execVshl (cl ve : Nat) (s : State) : Res := .next (s.vecStep cl (4 + ve) 0x111)
/-- VSHR (R174). -/
def execVshr (cl ve : Nat) (s : State) : Res := .next (s.vecStep cl (4 + ve) 0x112)
/-- VSAR (R174). -/
def execVsar (cl ve : Nat) (s : State) : Res := .next (s.vecStep cl (4 + ve) 0x113)
/-- VAND (R174). -/
def execVand (cl ve : Nat) (s : State) : Res := .next (s.vecStep cl (4 + ve) 0x114)
/-- VOR (R174). -/
def execVor (cl ve : Nat) (s : State) : Res := .next (s.vecStep cl (4 + ve) 0x115)
/-- VXOR (R174). -/
def execVxor (cl ve : Nat) (s : State) : Res := .next (s.vecStep cl (4 + ve) 0x116)
/-- VRRED (R176). -/
def execVrred (cl ve : Nat) (s : State) : Res := .next (s.vecStep cl (4 + ve) 0x117)
/-- VSRED (R177). -/
def execVsred (cl ve : Nat) (s : State) : Res := .next (s.vecStep cl (4 + ve) 0x118)
/-- VSCAN (R178). -/
def execVscan (cl ve : Nat) (s : State) : Res := .next (s.vecStep cl (4 + ve) 0x119)
/-- VGTH (R180). -/
def execVgth (cl ve : Nat) (s : State) : Res := .next (s.vecStep cl (4 + ve) 0x11A)
/-- VSCAT (R180). -/
def execVscat (cl ve : Nat) (s : State) : Res := .next (s.vecStep cl (4 + ve) 0x11B)
/-- VSCATC (R181). -/
def execVscatc (cl ve : Nat) (s : State) : Res := .next (s.vecStep cl (4 + ve) 0x11C)
/-- VPERM (R179). -/
def execVperm (cl ve : Nat) (s : State) : Res := .next (s.vecStep cl (4 + ve) 0x11D)
/-- VBCST (R179). -/
def execVbcst (cl ve : Nat) (s : State) : Res := .next (s.vecStep cl (4 + ve) 0x11E)

end Sys2Proof.Machine
end

