-- ==== Sys2Proof/Machine/Combine.lean ====
section
/-! DEFINITION. Machine/Combine.lean: the combining store: merges in a stall, one operation for each applied or forwarded cell,
and its replies (spec/16 R341 to R349, spec/15 R323, spec/19 R385, spec/21 R425, R430). -/

namespace Sys2Proof.Machine

/-! ## One element (R343) -/

/-- Whether an operation takes a format; `scaled`: with a block header. DEDUCED: notes/assumptions/57. -/
def combFits (cop : Nat) (f : EFmt) (scaled : Bool) : Bool :=
  let plain := decide (f.bits > 4) && !scaled
  if cop = 0x280 then f.isInt
  else if cop = 0x281 then f.isFloat && !scaled && (f == .flt fp64 || f == .flt fp32 || f == .flt fp16 || f == .flt bf16)
  else if cop = 0x282 || cop = 0x283 then plain
  else if cop = 0x28A then f == .flt fp32
  else if decide (0x287 ≤ cop ∧ cop ≤ 0x289) then decide (f.bits ≥ 32)
  else true

/-- The new target. -/
def combOp (cop : Nat) (f : EFmt) (x v cmp : Nat) : Nat :=
  let w := f.bits
  let g := floatOf f
  let fadd := fround g .rne false 0 (fvAdd .rne (fdec g x) (fdec g v))
  if cop = 0x280 then (x + v) % 2 ^ w
  else if cop = 0x281 then fadd
  else if cop = 0x282 then
    (if f.isFloat then fminBits g true x v else if f.intVal x < f.intVal v then v else x)
  else if cop = 0x283 then
    (if f.isFloat then fminBits g false x v else if f.intVal v < f.intVal x then v else x)
  else if cop = 0x284 then Nat.land x v
  else if cop = 0x285 then Nat.lor x v
  else if cop = 0x286 then Nat.xor x v
  else if cop = 0x287 then v % 2 ^ w
  else if cop = 0x288 then (if x = cmp % 2 ^ w then v % 2 ^ w else x)
  else if f.isFloat then fadd
  else (x + v) % 2 ^ w

def isReturning (cop : Nat) : Bool := decide (0x287 ≤ cop ∧ cop ≤ 0x289)

/-! ## Triples (R344) -/

def f32 (v : FV) : Nat := fround fp32 .rne false 0 v

/-- The scale a_i of a triple whose m is `mi`, under the merged `m`. -/
def rescScale (mi m : Nat) : Nat :=
  if fvCmp (fdec fp32 mi) (fdec fp32 m) = some .eq then 0x3F800000
  else if mi = 0xFF800000 then 0
  else fnExp2 f32 (fdec fp32 (f32 (fvAdd .rne (fdec fp32 mi) (fdec fp32 m).neg)))

/-- The merge of an earlier triple with a later one: v[0] to v[31], m, s. -/
def rescMerge (a b : List Nat) : List Nat :=
  let m1 := a.getD 32 0
  let m2 := b.getD 32 0
  if (fdec fp32 m1).isNan || (fdec fp32 m2).isNan then List.replicate 34 (canonNan fp32)
  else
    let m := fminBits fp32 true m1 m2
    let terms := [(rescScale m1 m, a), (rescScale m2 m, b)].filter (fun t => t.1 != 0)
    let sum (i : Nat) : Nat :=
      f32 (groupSum (terms.map (fun t => fvMul (fdec fp32 t.1) (fdec fp32 (t.2.getD i 0)))))
    (List.range 34).map (fun i => if i = 32 then m else sum i)

/-- The triple that a cell carries. -/
def cellTriple (c : Cell) : List Nat :=
  (List.range 32).map (fun j => c.elem 32 j) ++ [bits c.car.toNat 0 32, bits c.car.toNat 32 32]

/-- A number of 34 words as a triple, and back. -/
def tripleWords (n v : Nat) : List Nat := (List.range n).map (fun i => bits v (32 * i) 32)
def tripleNumber (ws : List Nat) : Nat := ws.foldr (fun w acc => w % 2 ^ 32 + 2 ^ 32 * acc) 0

/-! ## What a cell asks for -/

/-- The form of a cell (R342 to R344): whether it is vector or scalar, or malformed. -/
def combForm (c : Cell) : Option Bool :=
  let cop := c.cop.toNat
  if c.run != 0 then none
  else if c.pos = 0 then (if isReturning cop || (cop == 0x28A && c.side != 0) then none else some true)
  else if c.pos = 2 then (if cop = 0x28A then none else some false)
  else none

/-- Whether a cell comes from ATOM or RED. -/
def fromStrandOp (m : MCell) : Bool := m.report == .strandOp true || m.report == .again true

/-- The strand behind ATOM's cell waits for a reply. -/
def isAtomCell (m : MCell) : Bool := fromStrandOp m && m.cell.pos == 2 && bitOf (m.cell.word 4).toNat 63

/-- Where an operation's failures are posted (R342, R349). -/
def State.combPost (s : State) (cl : Nat) (m : MCell) (status : Nat) : State :=
  if status = 0 then s
  else if fromStrandOp m then
    (if status = 0x80 && s.inActivation m.who m.cell.col.toNat then s.hurtMark cl m.who m.cell.col.toNat
     else s.post m.who status 2 m.cell.itag.toNat)
  else s.failOp cl m.cell.ctx.toNat m.who m.cell.col.toNat status m.cell.itag.toNat

/-- A cell's operation ends without a word to its route's report strand: the failure has been posted. A reply is due to
ATOM whatever happens (R347); `x`: what its target held, a free value where the operation has failed. A re-issued ATOM, whose
first issue has replied, replies no more (R437). DEDUCED: notes/assumptions/44. -/
def State.combEnd (s : State) (cl : Nat) (m : MCell) (x : Option Nat) (t : Nat) : State :=
  if isAtomCell m && m.report != .again true && s.contextFound m.who then
    let w4 := (m.cell.word 4).toNat
    let (v, s1) : Word × State := match x with
      | some v => (BitVec.ofNat 64 v, s)
      | none => s.freshFree
    s1.onContext m.who (fun y => { y with replies := y.replies ++ [(w4 % 64, v, t, w4 / 64 % 2 ^ 48)] })
  else s.cellEnd cl m 0 t

/-- A cell that starts no operation ends. -/
def State.combDiscard (s : State) (cl : Nat) (m : MCell) (status : Nat) : State :=
  (s.combPost cl m status).combEnd cl m none m.stamp

/-- A cell whose CTX is bound to no job here: only ATOM and RED hear of it (R342). -/
def State.combUnbound (s : State) (cl : Nat) (m : MCell) : State :=
  let s1 := if fromStrandOp m then s.post m.who (causeStatus causeUnbound) 2 m.cell.itag.toNat else s
  s1.combEnd cl m none m.stamp

/-! ## The target (R342) -/

/-- Role and port of the target AGN: 0, or the cause. DEDUCED: notes/assumptions/57. -/
def State.combAgnCheck (s : State) (cl : Nat) (r : AgnRec) : Nat :=
  let tile := r.port == 3 && r.trole == 0 && s.tileRole cl r.tile == 1
  if !r.bound then causeUnbound
  else if !(r.role == 2 || r.role == 3) then causeRole
  else if !(r.port == 1 || r.port == 2 || r.port == 4 || r.port == 5 || tile) then causePort
  else 0

/-- How an operation ends: with a failing status, in a fault of an address (cause, address), or done: the target's old
value, the completion timestamp, the status of skipped elements, a write's failing status, and the state. -/
inductive CombEnd where
  | fail (status : Nat)
  | fault (cause va : Nat)
  | out (x : Option Nat) (cts : Nat) (skipped lost : Nat) (s : State)

/-- One element of a cell and where it goes. -/
structure CombElem where
  pieces : List (Place × Nat)
  v   : Nat
  nib : Option Nat := none

/-- The elements are combined one after the other, each in one access (R323, R349). What a re-issued activation leaves is a
free value (R438). -/
def State.combElems (s : State) (root p wid cop : Nat) (f : EFmt) (cmp : Nat) (again : Bool) :
    List CombElem → Option Nat × Nat × Nat × State
  | [] => (none, p, 0, s)
  | e :: es =>
    let (fv, s0) := if again then s.freeNumber 1 else (0, s)
    let op (x : Nat) : Nat := if again then fv % 2 ^ f.bits else combOp cop f x e.v cmp
    let new (old : Nat) : Nat := match e.nib with
      | none => op old
      | some n => nibPut old (op (old / (if n = 0 then 1 else 16) % 16)) (some n)
    match s0.modPieces root p wid e.pieces new with
    | .error c => (none, p, causeStatus c, s0)
    | .ok (old, t, s1) =>
      let (_, u, st, s2) := s1.combElems root p wid cop f cmp again es
      (some old, max t u, st, s2)

/-- Cache windows: the cluster's bank takes what the store has met (R138, R139). -/
def State.combFill (s : State) (cl job : Nat) (r : AgnRec) (es : List CombElem) : State :=
  ((es.map (fun e => e.pieces)).flatten).foldl (fun st p => st.engFill cl job 5 r false p.1) s

/-- A vector-form cell applied to memory (R342 to R344). -/
def State.combVector (s : State) (cl job dagn wid start : Nat) (c : Cell) (again : Bool) : CombEnd :=
  let ag := s.agn (agnKey cl c.ctx.toNat dagn)
  let r := agnRec ag.words
  let cop := c.cop.toNat
  let root := s.partOfCluster cl
  let bad := s.combAgnCheck cl r
  if bad != 0 then .fail (causeStatus bad)
  else
    let scaled := tblk (s.tensor job r.tid) != 0 || tblk (s.tensor job c.tid.toNat) != 0
    match s.cellFmt job r.tid with
    | none => .fail 0x91
    | some f =>
      if s.cellFmt job c.tid.toNat != some f || !combFits cop f scaled then .fail 0x91
      else if cop = 0x28A then
        let b := c.aux.toNat % 4096 * 40
        let m := s.laneMap cl ag.core job r true ((List.range 34).map (fun i => some (b + i)))
        if m.bound then .fail (causeStatus causeBound)
        else if m.odd then .fail 0xA4
        else match m.fault with
          | some (d, va) => .fault d va
          | none =>
            let ps := (m.lanes.filterMap id).flatten
            let (fv, s0) := if again then s.freeNumber 17 else (0, s)
            match s0.modPieces root start wid ps (fun old =>
                if again then fv else tripleNumber (rescMerge (tripleWords 34 old) (cellTriple c))) with
            | .error d => .out none start 0 (causeStatus d) s0
            | .ok (_, t, s1) => .out none t 0 0 (s1.combFill cl job r [{ pieces := ps, v := 0 }])
      else
        let k := r.perCell
        let off (j : Nat) : Nat := c.aux.toNat % 4096 * k + j
        let idx : Lanes := (List.range k).map (fun j => if c.present j then some (off j) else none)
        let m := s.laneMap cl ag.core job r true idx
        match m.fault with
        | some (d, va) => .fault d va
        | none =>
          let es : List CombElem := (List.range k).filterMap (fun j => (m.lanes.getD j none).map (fun ps =>
            { pieces := ps, v := c.elem f.bits j, nib := if r.esz = 0 then some (r.nibble (off j)) else none }))
          let (_, t, lost, s1) := s.combElems root start wid cop f 0 again es
          .out none t (if m.bound then causeStatus causeBound else if m.odd then 0xA4 else 0) lost
            (s1.combFill cl job r es)

/-- Reserved words of a scalar-form cell are zero, and only ATOM's says RS (R342, R425). -/
def scalarOk (m : MCell) : Bool :=
  let c := m.cell
  let cop := c.cop.toNat
  let rs := bitOf (c.word 4).toNat 63
  let w3 := (c.word 3).toNat
  let w5 := (c.word 5).toNat
  (cop == 0x288 || c.word 2 == 0) && w3 % 32 + w3 / 256 % 16 * 256 == w3 &&
  decide (w5 < (if isReturning cop && !rs then 4096 else 1)) &&
  (List.range 10).all (fun i => c.word (6 + i) == 0) && (!rs || (fromStrandOp m && isReturning cop))

/-- A scalar-form cell applied to memory (R342, R343). -/
def State.combScalar (s : State) (cl job wid start : Nat) (c : Cell) (again : Bool) : CombEnd :=
  let ag := s.agn (agnKey cl c.ctx.toNat ((c.word 3).toNat % 32))
  let r := agnRec ag.words
  let cop := c.cop.toNat
  let bad := s.combAgnCheck cl r
  if bad != 0 then .fail (causeStatus bad)
  else match s.cellFmt job r.tid with
    | none => .fail 0x91
    | some f =>
      if !(r.esz == 3 || r.esz == 4) || f.bits != r.ebits || !combFits cop f (tblk (s.tensor job r.tid) != 0) then .fail 0x91
      else
        let m := s.laneMap cl ag.core job r true [some (c.word 0).toNat]
        if m.bound then .fail (causeStatus causeBound)
        else if m.odd then .fail 0xA4
        else match m.fault with
          | some (d, va) => .fault d va
          | none =>
            let e : CombElem := { pieces := (m.lanes.filterMap id).flatten, v := (c.word 1).toNat }
            let (x, t, lost, s1) := s.combElems (s.partOfCluster cl) start wid cop f (c.word 2).toNat again [e]
            .out x t 0 lost (s1.combFill cl job r [e])

/-! ## Operations (R345, R349) -/

/-- A merged cell as its route forwards it (R345, R385). -/
def forwardCell (rt : Route) (c : Cell) : Cell :=
  ({ c with dcl := BitVec.ofNat 6 rt.dcl, dport := BitVec.ofNat 5 rt.dport, mc := rt.mc, cop := BitVec.ofNat 10 rt.cop,
            pos := BitVec.ofNat 2 rt.pos, tid := BitVec.ofNat 12 rt.tid, cls := false, cnt := 0, run := 0,
            aux := BitVec.ofNat 16 (c.aux.toNat % 4096) } : Cell).seal

/-- The reply of a returning cell that no ATOM sent (R425). DEDUCED: notes/assumptions/44; DESIGN CHOICE: notes/assumptions/45. -/
def replyCell (rt : Route) (c : Cell) (f : EFmt) (x : Nat) : Cell :=
  ({ dcl := BitVec.ofNat 6 rt.dcl, dport := BitVec.ofNat 5 rt.dport, mc := rt.mc, cop := BitVec.ofNat 10 rt.cop,
     pos := BitVec.ofNat 2 rt.pos, tid := BitVec.ofNat 12 rt.tid, ctx := c.ctx, col := c.col, itag := c.itag,
     aux := BitVec.ofNat 16 ((c.word 5).toNat % 4096), last := true, side := 63,
     pay := packElems f.bits [x], car := 1 } : Cell).seal

/-- A cell is applied or forwarded; `more`: the cells merged into it. A cell that a fault holds back stays
where it is, in `s0`; otherwise it has left its place, in `s`. DEDUCED: notes/assumptions/57, 98. -/
def State.combPerform (s0 s : State) (cl : Nat) (m : MCell) (more : List MCell) : State :=
  let c := m.cell
  let ctx := c.ctx.toNat
  let key := engCtx cl 10 ctx
  match s0.tagJob cl ctx with
  | none => more.foldl (fun st x => st.combUnbound cl x) (s.combUnbound cl m)
  | some job =>
    let start := s0.startStamp key m.stamp
    let (num, s1) := s.timeStart key
    let vector := c.pos == 0
    let replies := !vector && isReturning c.cop.toNat && !bitOf (c.word 4).toNat 63
    let n := if vector then c.aux.toNat / 4096 else (c.word 3).toNat / 256 % 16
    let rt := s0.route cl 10 ctx n
    let routed := vector || replies
    let all := m :: more
    let ends := (all.filter (fun x => !isAtomCell x)).map (fun x => (x.who, x.report, x.cell.itag))
    let prod (t : Nat) : Prod := {
      key := key, num := num, cts := t, cmpl := if routed then routeCmpl rt c c.itag.toNat 0 else none, ends := ends }
    let atoms (st : State) (x : Option Nat) (t : Nat) : State :=
      (all.filter isAtomCell).foldl (fun a y => a.combEnd cl y x t) st
    let fails (st : State) (status t : Nat) : State :=
      (atoms (st.combPost cl m status) none t).endNow cl 26 m (prod t)
    let send (st : State) (x : Cell) (rk rseq t : Nat) : State :=
      if !st.cellOk cl job x then fails st 0x90 t
      else st.sendOut cl 26 { cell := x, stamp := t, agent := m.agent, who := m.who, report := .engine, rk := rk,
                              rseq := rseq, prod := some (prod t) }
    match s0.gate m.who.job (waiterCell m) with
    | .wait => s0
    | .ends status => fails (s1.ungate m.who.job (waiterCell m)) status start
    | .go =>
      if !vector && !scalarOk m then fails s1 0x90 start
      else if routed && !rt.v then fails s1 0x92 start
      else if vector && rt.fwd then send s1 (forwardCell rt c) 0 0 start
      else
        let dagn := if vector then rt.dagn else (c.word 3).toNat % 32
        let again := s1.undefinedAgain m
        match (if vector then s1.combVector cl job dagn m.agent start c again else s1.combScalar cl job m.agent start c again) with
        | .fail status => fails s1 status start
        | .fault d va =>
          s0.faultWait (clusterQuarter cl) m.who.job d 2 (m.agent / 32) dagn cl va c.itag.toNat (waiterCell m)
        | .out x t skipped lost s2 =>
          let s3 := s2.combPost cl m skipped
          if lost != 0 then (fails s3 lost t).writeLost cl m dagn 0 lost
          else if replies then
            match s3.cellFmt job rt.tid with
            | none => fails s3 0x91 t
            | some f => send s3 (replyCell rt c f (x.getD 0)) (if m.rk = 1 then 2 else 0) m.rseq t
          else (atoms s3 x t).endNow cl 26 m (prod t)

/-! ## Merges (R345) -/

/-- The key on which cells merge. -/
def mergesWith (a b : Cell) : Bool :=
  a.ctx == b.ctx && a.col == b.col && a.cop == b.cop && a.itag == b.itag && a.aux == b.aux

/-- A later cell's contribution in the held result; none: the format does not suit. -/
def mergeCell (f : Option EFmt) (scaled : Bool) (a b : Cell) : Option Cell :=
  let cop := a.cop.toNat
  let last := a.last || b.last
  if cop = 0x28A then
    let w := rescMerge (cellTriple a) (cellTriple b)
    some { a with pay := packElems 32 (w.take 32), last := last,
                  car := BitVec.ofNat 128 (w.getD 32 0 + 2 ^ 32 * w.getD 33 0) }
  else match f with
    | none => none
    | some f =>
      if !combFits cop f scaled then none
      else
        let k := 1024 / f.bits
        let js := List.range k
        let vs := js.map (fun j =>
          let x := a.elem f.bits j
          let y := b.elem f.bits j
          if a.present j then (if b.present j then combOp cop f x y 0 else x) else if b.present j then y else 0)
        let ms := js.map (fun j => a.present j || b.present j)
        let c := { a with pay := packElems f.bits vs, last := last }
        some (if a.side != 63 then c else { c with car := maskCar ms })

/-- The held result of a cell's key that still waits for contributions. -/
def Port.merging (p : Port) (c : Cell) : Option Stall :=
  p.stalls.find? (fun t => decide (0 < t.n ∧ t.n < t.cell.cell.cnt.toNat) && mergesWith t.cell.cell c)

/-- The contributions of a key beside the held result: markers, which hold no stall. -/
def Port.contributions (p : Port) (c : Cell) : List MCell :=
  (p.stalls.filter (fun t => t.n == 0 && mergesWith t.cell.cell c)).map (fun t => t.cell)

/-- A cell, or a marker, in the combining store's matching store. -/
def State.putMerge (s : State) (cl : Nat) (t : Stall) : State :=
  s.modPort cl 10 (fun p => { p with stalls := p.stalls ++ [t] })

/-- A merge opens in a stall; without one the cell waits. -/
def State.mergeOpen (s s1 : State) (cl : Nat) (m : MCell) : State :=
  match s.takeStall cl 10 m.who m.cell.itag.toNat 1 with
  | none => s.countShort cl 10 m.age
  | some k => ((s1.clearShort cl 10 m.age).putMerge cl { cell := { m with stall := k }, n := 1, age := s.tickNo }).tickUp

/-- A cell joins the merge held in `h`. DEDUCED: notes/assumptions/57. -/
def State.mergeJoin (s s1 : State) (cl job : Nat) (h : Stall) (m : MCell) : State :=
  let c := m.cell
  let hc := h.cell.cell
  if hc.cnt != c.cnt || hc.tid != c.tid then s1.combDiscard cl m 0x90
  else match mergeCell (s.cellFmt job c.tid.toNat) (tblk (s.tensor job c.tid.toNat) != 0) hc c with
    | none => s1.combDiscard cl m 0x91
    | some x =>
      let held : Stall := { h with cell := { h.cell with cell := x, stamp := max h.cell.stamp m.stamp }, n := h.n + 1 }
      let s2 := s1.modPort cl 10 (fun p => { p with stalls := p.stalls.map (fun t => if t == h then held else t) })
      (s2.putMerge cl { cell := { m with stall := 0 }, n := 0, age := s.tickNo }).tickUp

/-- A vector-form cell with CNT of 2 or more: it opens a merge in a stall, or joins one. DEDUCED: notes/assumptions/57. -/
def State.combMerge (s s1 : State) (cl : Nat) (m : MCell) : State :=
  match s.tagJob cl m.cell.ctx.toNat with
  | none => s1.combUnbound cl m
  | some job => match (s.port cl 10).merging m.cell with
    | none => s.mergeOpen s1 cl m
    | some h => s.mergeJoin s1 cl job h m

/-- Take a key's merge out of its stall: the contributions go with it. -/
def Port.release (p : Port) (h : Stall) : Port :=
  { p with stalls := p.stalls.filter (fun t => t != h && !(t.n == 0 && mergesWith t.cell.cell h.cell.cell)) }

/-- One operation of the combining store: a merge that is complete is applied or forwarded, otherwise the cell delivered
to it acts. DESIGN CHOICE: notes/assumptions/40. -/
def State.combStep (s : State) (cl cop : Nat) : State :=
  let ready (t : Stall) : Bool :=
    t.cell.cell.cop.toNat == cop && t.n != 0 && decide (t.n ≥ t.cell.cell.cnt.toNat) &&
      s.gate t.cell.who.job (waiterCell t.cell) != .wait
  match (s.port cl 10).stalls.find? ready with
  | some h =>
    State.combPerform s (s.modPort cl 10 (fun p => p.release h)) cl h.cell ((s.port cl 10).contributions h.cell.cell)
  | none => match s.takeInbox cl 10 cop with
    | none => s
    | some (m, s1) =>
      match combForm m.cell with
      | none => s1.combDiscard cl m 0x90
      | some v => if v && decide (m.cell.cnt.toNat ≥ 2) then State.combMerge s s1 cl m else State.combPerform s s1 cl m []

/-- CADD (R343). -/
def execCadd (cl : Nat) (s : State) : Res := .next (s.combStep cl 0x280)
/-- CFADD (R343). -/
def execCfadd (cl : Nat) (s : State) : Res := .next (s.combStep cl 0x281)
/-- CMAX (R343). -/
def execCmax (cl : Nat) (s : State) : Res := .next (s.combStep cl 0x282)
/-- CMIN (R343). -/
def execCmin (cl : Nat) (s : State) : Res := .next (s.combStep cl 0x283)
/-- CAND (R343). -/
def execCand (cl : Nat) (s : State) : Res := .next (s.combStep cl 0x284)
/-- COR (R343). -/
def execCor (cl : Nat) (s : State) : Res := .next (s.combStep cl 0x285)
/-- CXOR (R343). -/
def execCxor (cl : Nat) (s : State) : Res := .next (s.combStep cl 0x286)
/-- CXCH (R343). -/
def execCxch (cl : Nat) (s : State) : Res := .next (s.combStep cl 0x287)
/-- CCAS (R343). -/
def execCcas (cl : Nat) (s : State) : Res := .next (s.combStep cl 0x288)
/-- CFAA (R343). -/
def execCfaa (cl : Nat) (s : State) : Res := .next (s.combStep cl 0x289)
/-- RESC (R343, R344). -/
def execResc (cl : Nat) (s : State) : Res := .next (s.combStep cl 0x28A)

end Sys2Proof.Machine
end

