-- ==== Sys2Proof/Machine/Collectives.lean ====
section
/-! DEFINITION. Machine/Collectives.lean: the switch box: placement of collectives, broadcast, reduction, point-to-point cells, aborts
(spec/19 R381 to R384, spec/20 R392 to R400). -/

namespace Sys2Proof.Machine

/-! ## The collective record (R420) and its ranks (R381, R383) -/

def collKind (w : Word) : Nat := wbits w 62 2
def collRing (w : Word) : Bool := bitOf w.toNat 61
def collFan (w : Word) : Nat := wbits w 58 3 + 1
def collRanks (w : Word) : Nat := wbits w 52 6 + 1
def collRoot (w : Word) : Nat := wbits w 46 6
def collOp (w : Word) : Nat := wbits w 42 4
def collRank (w : Word) : Nat := wbits w 36 6

/-- Lowest rank of a rank's group: its device holds the group's node. -/
def collLead (w : Word) (r : Nat) : Nat := r / collFan w * collFan w
/-- Groups of a tree. -/
def collGroups (w : Word) : Nat := collRanks w / collFan w
/-- Whether the instance reduces: only then does it need slots and nodes (R397). -/
def collReduces (w : Word) : Bool := collKind w == 1 || collKind w == 2

/-- The combining operation of a record's OP (R94, R343). -/
def collCop (w : Word) : Nat := if collOp w = 7 then 0x28A else 0x280 + collOp w

/-- The node identifier of a rank. -/
def State.rankNode (s : State) (job g r : Nat) : Nat := (s.graph job g).img.nodes.getD r 0
/-- The rank that a cell comes from: this device's own, or that of its source node. -/
def State.cellRank (s : State) (m : MCell) (w : Word) : Nat :=
  if m.snode = 0 then collRank w
  else (((s.graph m.who.job m.who.graph).img.nodes.take (collRanks w)).findIdx? (· == m.snode)).getD 64

/-- Who a switch box's own cells count for. -/
def State.collOwner (s : State) (job g i : Nat) : Owner :=
  let x := s.graph job g
  { launch := x.launch, graph := g, phase := (s.launch x.launch).phase, job := job, core := s.collCluster job g i * 8 }

/-! ## Placement (R383, R397) -/

/-- DESIGN CHOICE: notes/assumptions/79. -/
def slotsPerBox : Nat := 4
/-- DESIGN CHOICE: notes/assumptions/79. -/
def nodesPerGateway : Nat := 16
/-- The north I/O die. DESIGN CHOICE: notes/assumptions/79. -/
def northDie : Nat := 4

/-- Cluster 0 of the device, whose switch box holds the slots (R383). DESIGN CHOICE: notes/assumptions/79. -/
def State.slotCluster (s : State) (cl : Nat) : Nat := s.partOfCluster cl * 12

/-- A reduction slot and a gateway node that this device gives the instance: how many of each. -/
def collNeeds (w : Word) : Nat × Nat :=
  if !collReduces w || collRing w then (0, 0)
  else
    (if collRank w % collFan w = 0 then 1 else 0,
     if collGroups w ≥ 2 && collRank w == collRoot w then 1 else 0)

/-- COLL_PLACE: this device's managers grant what they are to give, or not; `others`: every other rank has bound the
collective and its managers have granted theirs. What cannot be granted is refused on every rank (R382, R397, R398). A
done word that waits for its page is tried again. -/
def State.collPlace (s : State) (job g i : Nat) (others : Bool) : State :=
  let x := s.graph job g
  let c := s.coll job g i
  let cl := s.collCluster job g i
  let k := s.slotCluster cl
  let (a, b) := collNeeds c.record
  if c.owe.isSome then s.collSettle job g i
  else if !x.live || !thas x.colls i || c.placed || c.doneW || c.aborted then s
  else
    let room := decide (tget s.lnk.slots k + a ≤ slotsPerBox) && decide (tget s.lnk.gates northDie + b ≤ nodesPerGateway)
    if room && others then
      (s.onLnk (fun l => { l with
        slots := if a = 0 then l.slots else tset l.slots k (tget l.slots k + a)
        gates := if b = 0 then l.gates else tset l.gates northDie (tget l.gates northDie + b) })).modColl job g i
          (fun y => { y with placed := true, slots := if a = 0 then [] else [k], gates := b })
    else s.collDone job g i 0x71

/-- COLL_PLACE (R382, R397). -/
def execCollPlace (job graph coll : Nat) (others : Bool) (s : State) : Res := .next (s.collPlace job graph coll others)

/-! ## Sending to ranks (R381, R405) -/

/-- A cell goes to the switch box of another rank: its own fields, and the cluster that holds the collective. DESIGN CHOICE: notes/assumptions/79. -/
def State.toRank (s : State) (cl : Nat) (m : MCell) (i r : Nat) (c : Cell) : State :=
  let job := m.who.job
  let g := m.who.graph
  let c1 := ({ c with dcl := BitVec.ofNat 6 (s.collCluster job g i), dport := 14, mc := false } : Cell).seal
  s.sendFlit (s.partOfCluster cl) (s.rankNode job g r) (if c.cls then 0 else 1) 0 job c1.number

/-- To every rank but this one. -/
def State.toOthers (s : State) (cl : Nat) (m : MCell) (i : Nat) (w : Word) (c : Cell) : State :=
  ((List.range (collRanks w)).filter (fun r => r != collRank w)).foldl (fun st r => st.toRank cl m i r c) s

/-! ## Writing on this rank (R190, R382, R383) -/

/-- One WR cell to `dst`'s write port: elements of the payload that are present, their offset, and what the cell adds to
the count. DEDUCED: notes/assumptions/78, 98. -/
def State.collWr (s : State) (job g i aux add stamp : Nat) (pay : BitVec 1024) (car : BitVec 128) : State :=
  let c := s.coll job g i
  let cl := s.collCluster job g i
  let d := wbits c.record 15 5
  let ctx := (s.ctxTag job cl).getD 0
  let r := agnRec (s.agn (s.jobAgn job cl d)).words
  let x : Cell := ({ dcl := 63, dport := BitVec.ofNat 5 (16 + d / 2), cop := 0, ctx := BitVec.ofNat 6 ctx,
                     pos := BitVec.ofNat 2 (d % 2), tid := BitVec.ofNat 12 r.tid, aux := BitVec.ofNat 16 aux, side := 63,
                     pay := pay, car := car } : Cell).seal
  (s.modColl job g i (fun y => { y with pend := y.pend + 1 })).sendOut cl 30
    { cell := x, stamp := stamp, agent := s.flushAgent (agnKey cl ctx d), who := s.collOwner job g i, passed := true,
      report := .coll (graphKey job g) i add }

/-- A cell's whole payload at offset AUX [15:5] (R382, R394, R395). -/
def State.collData (s : State) (job g i : Nat) (aux stamp : Nat) (c : Cell) : State :=
  let d := wbits (s.coll job g i).record 15 5
  let r := agnRec (s.agn (s.jobAgn job (s.collCluster job g i) d)).words
  s.collWr job g i (aux / 32) 1 stamp c.pay (maskCar (List.replicate (min 128 r.perCell) true))

/-- Elements with their offsets, gathered into cells of k elements. -/
def collChunks (k : Nat) (es : List (Nat × Nat)) : List (Nat × List (Nat × Nat)) :=
  ((es.map (fun e => e.1 / k)).eraseDups).map (fun a => (a, es.filter (fun e => e.1 / k == a)))

/-- A final triple (R383): v at elements 0 to 31 of its record of 40 elements, m at 32, s at 33. -/
def State.collTriple (s : State) (job g i rec stamp : Nat) (c : Cell) : State :=
  let d := wbits (s.coll job g i).record 15 5
  let r := agnRec (s.agn (s.jobAgn job (s.collCluster job g i) d)).words
  let k := max 1 (min 128 r.perCell)
  let es := (cellTriple c).mapIdx (fun j v => (rec * 40 + j, v))
  let cs := collChunks k es
  (cs.foldl (fun (a : State × Nat) ch =>
    let find (j : Nat) : Option (Nat × Nat) := ch.2.find? (fun e => e.1 % k == j)
    let pay := packElems r.ebits ((List.range k).map (fun j => match find j with
      | some e => e.2
      | none => 0))
    let car := maskCar ((List.range k).map (fun j => (find j).isSome))
    (a.1.collWr job g i ch.1 (if a.2 + 1 = cs.length then 1 else 0) stamp pay car, a.2 + 1)) (s, 0)).1

/-- A cell or result has come for this rank; `total`: how many there will be, where this one tells. DEDUCED: notes/assumptions/78. -/
def State.collGot (s : State) (job g i : Nat) (total : Option Nat) : State :=
  s.modColl job g i (fun y => { y with got := y.got + 1, total := match total with
    | some n => some n
    | none => y.total })

/-! ## A cell at the switch box -/

/-- The instance that a collective's cell names; none: the graph has no such collective. -/
def State.collOf (s : State) (m : MCell) : Option (Nat × Coll) :=
  let g := s.graph m.who.job m.who.graph
  let i := collNo m.cell
  if thas g.colls i then some (i, tget g.colls i) else none

/-- Take the oldest cell of a COP at the switch box and act on it: a cell that names no collective, or breaks R393, is
refused; one of an instance that has been aborted, or of a graph that is lost, is discarded (R400). -/
def State.collCell (s : State) (cl cop : Nat) (act : State → MCell → Nat → Coll → State) : State :=
  match s.takeInbox cl 14 cop with
  | none => s
  | some (m, s1) =>
    match s1.collOf m with
    | none => s1.cellEnd cl m 0x90 m.stamp
    | some (i, c) =>
      if c.aborted then s1.cellEnd cl m 0 m.stamp
      else if m.cell.pos != 0 then s1.cellEnd cl m 0x90 m.stamp
      else (act s1 m i c).collSettle m.who.job m.who.graph i

/-! ## Broadcast (R382) and the result of an all-reduce (R394) -/

/-- A result cell of an all-reduce is written on this rank. DESIGN CHOICE: notes/assumptions/79. -/
def State.allredWrite (s : State) (job g i : Nat) (w : Word) (stamp : Nat) (c : Cell) : State :=
  let n := c.aux.toNat / 32
  let s1 := s.collGot job g i (if c.last then some (n + 1) else none)
  if collOp w = 7 then s1.collTriple job g i n stamp c else s1.collData job g i c.aux.toNat stamp c

def State.bcastAct (s : State) (cl : Nat) (m : MCell) (i : Nat) (c : Coll) : State :=
  let w := c.record
  let job := m.who.job
  let g := m.who.graph
  let ok := m.cell.side == 0 &&
    (if collKind w = 0 then s.cellRank m w == collRoot w else collKind w == 2 && m.snode != 0 && decide (s.cellRank m w < 64))
  if !ok then s.cellEnd cl m 0x90 m.stamp
  else if collKind w = 2 then (s.allredWrite job g i w m.stamp m.cell).cellEnd cl m 0 m.stamp
  else
    let s1 := if m.snode = 0 then s.toOthers cl m i w m.cell else s
    let s2 := s1.collGot job g i (if m.cell.last then some (c.got + 1) else none)
    (s2.collData job g i m.cell.aux.toNat m.stamp m.cell).cellEnd cl m 0 m.stamp

/-- CBCST (R382, R394). -/
def execCbcst (cl : Nat) (s : State) : Res := .next (s.collCell cl 0x393 (fun st m i c => st.bcastAct cl m i c))

/-! ## Reduction (R383, R394) -/

/-- The cell as the combining operation takes it. -/
def collCombCell (w : Word) (c : Cell) : Cell := { c with cop := BitVec.ofNat 10 (collCop w) }

/-- The format and header form of a contribution's elements. -/
def State.collFmt (s : State) (job : Nat) (c : Cell) : Option EFmt × Bool :=
  (s.cellFmt job c.tid.toNat, tblk (s.tensor job c.tid.toNat) != 0)

/-- Whether a contribution can be merged (R343, R344). -/
def State.collFits (s : State) (job : Nat) (w : Word) (c : Cell) : Bool :=
  if collOp w = 7 then true
  else match s.collFmt job c with
    | (some f, scaled) => combFits (collCop w) f scaled
    | (none, _) => false

/-- Put a contribution in its place by rank. -/
def insertByTag (m : MCell) : List MCell → List MCell
  | [] => [m]
  | x :: xs => if m.cell.itag < x.cell.itag then m :: x :: xs else x :: insertByTag m xs

/-- Merge contributions in increasing ITAG: the result bears the lowest ITAG, LAST where any had it, and the largest
stamp. -/
def State.collMerge (s : State) (job : Nat) (w : Word) (l : List MCell) : MCell :=
  match l.foldl (fun a m => insertByTag m a) [] with
  | [] => {}
  | x :: xs =>
    let f := s.collFmt job x.cell
    let c := xs.foldl (fun a m => (mergeCell f.1 f.2 a (collCombCell w m.cell)).getD a) (collCombCell w x.cell)
    { x with cell := { c with cop := 0x392 }, stamp := l.foldl (fun t m => max t m.stamp) 0 }

/-- A reduction's result for one cell index, at the node that finishes it (R383, R394). `r` bears the fields of the
result; the cell that brought it on gives whose it is. DESIGN CHOICE: notes/assumptions/79. -/
def State.collResult (s : State) (cl : Nat) (m : MCell) (i : Nat) (w : Word) (r : MCell) : State :=
  let job := m.who.job
  let g := m.who.graph
  if collKind w = 2 then
    let c : Cell := { r.cell with cop := 0x393, itag := 0, side := if collOp w = 7 then r.cell.side else 0 }
    (s.toOthers cl m i w c).allredWrite job g i w r.stamp c
  else if collRank w = collRoot w then
    let s1 := s.collGot job g i (some 1)
    if collOp w = 7 then s1.collTriple job g i 0 r.stamp r.cell else s1.collData job g i r.cell.aux.toNat r.stamp r.cell
  else s.toRank cl m i (collRoot w) r.cell

/-- A group's result goes to the root node, or is the result (R383). DESIGN CHOICE: notes/assumptions/79. -/
def State.groupResult (s : State) (cl : Nat) (m : MCell) (i : Nat) (w : Word) (r : MCell) : State :=
  let job := m.who.job
  let g := m.who.graph
  if collGroups w ≤ 1 then s.collResult cl m i w r
  else if collRank w != collRoot w then s.toRank cl m i (collRoot w) r.cell
  else
    let mine (x : MCell) : Bool := x.cell.aux == r.cell.aux
    let all := (s.coll job g i).top.filter mine ++ [{ r with who := m.who, report := .device }]
    if all.length < collGroups w then
      (s.countUp m.who).modColl job g i (fun y => { y with top := y.top ++ [{ r with who := m.who, report := .device }] })
    else
      let s1 := s.modColl job g i (fun y => { y with top := y.top.filter (fun x => !mine x) })
      let s2 := (all.dropLast).foldl (fun st x => st.cellEnd cl x 0 x.stamp) s1
      s2.collResult cl m i w (s2.collMerge job w all)

/-- What a node does with a contribution: the inputs that it waits for, and what becomes of its result. -/
def State.nodeTake (s : State) (cl : Nat) (m : MCell) (i n : Nat) (w : Word) (out : State → MCell → State) : State :=
  let job := m.who.job
  let g := m.who.graph
  let same (x : MCell) : Bool := x.cell.aux == m.cell.aux
  let held := (s.coll job g i).held.filter same
  if held.any (fun x => x.cell.itag == m.cell.itag) then s.cellEnd cl m 0x90 m.stamp
  else if held.length + 1 < n then s.modColl job g i (fun y => { y with held := y.held ++ [m] })
  else
    let s1 := s.modColl job g i (fun y => { y with held := y.held.filter (fun x => !same x) })
    let r := s1.collMerge job w (held ++ [m])
    let s2 := out s1 r
    (held ++ [m]).foldl (fun st x => st.cellEnd cl x 0 r.stamp) s2

/-- DEDUCED: notes/assumptions/49, 78. -/
def State.credAct (s : State) (cl : Nat) (m : MCell) (i : Nat) (c : Coll) : State :=
  let w := c.record
  let me := collRank w
  let from_ := s.cellRank m w
  let tag := m.cell.itag.toNat
  let k := collRanks w
  let bad : State := s.cellEnd cl m 0x90 m.stamp
  let sent (st : State) : State := st.cellEnd cl m 0 m.stamp
  if !collReduces w || from_ ≥ k then bad
  else if !s.collFits m.who.job w m.cell then s.cellEnd cl m 0x91 m.stamp
  else if collRing w then
    (if m.snode = 0 then
       if tag != me then bad
       else if me = 0 then sent (s.toRank cl m i 1 m.cell)
       else s.nodeTake cl m i 2 w (fun st r => if me + 1 = k then st.collResult cl m i w r else st.toRank cl m i (me + 1) r.cell)
     else if tag != 0 then bad
     else if from_ + 1 = me then
       s.nodeTake cl m i 2 w (fun st r => if me + 1 = k then st.collResult cl m i w r else st.toRank cl m i (me + 1) r.cell)
     else if from_ + 1 = k && collKind w = 1 && me = collRoot w then sent (s.collResult cl m i w m)
     else bad)
  else if m.snode = 0 || (collLead w from_ = me && from_ != me) then
    (if tag != from_ then bad
     else if collLead w from_ != me then sent (s.toRank cl m i (collLead w from_) m.cell)
     else s.nodeTake cl m i (collFan w) w (fun st r => st.groupResult cl m i w r))
  else if collLead w from_ != from_ || me != collRoot w || tag != from_ then bad
  else if collGroups w ≤ 1 then (if collKind w = 1 then sent (s.collResult cl m i w m) else bad)
  else if c.top.any (fun x => x.cell.aux == m.cell.aux && x.cell.itag == m.cell.itag) then bad
  else sent (s.groupResult cl m i w m)

/-- CRED (R383, R394). -/
def execCred (cl : Nat) (s : State) : Res := .next (s.collCell cl 0x392 (fun st m i c => st.credAct cl m i c))

/-! ## Point to point (R395) -/

/-- The key on which CSEND and CRECV meet: source rank and message tag. -/
def State.p2pKey (s : State) (w : Word) (m : MCell) : Nat × Nat :=
  (if m.cell.cop = 0x391 then m.cell.cnt.toNat else s.cellRank m w, m.cell.itag.toNat)

/-- A cell meets its partner, which waits, or waits itself. -/
def State.p2pMeet (s : State) (cl : Nat) (m : MCell) (i : Nat) (c : Coll) : State :=
  let w := c.record
  let job := m.who.job
  let g := m.who.graph
  let same := c.waits.filter (fun x => s.p2pKey w x == s.p2pKey w m)
  if same.any (fun x => x.cell.cop == m.cell.cop) then s.cellEnd cl m 0x90 m.stamp
  else match same with
    | [] => s.modColl job g i (fun y => { y with waits := y.waits ++ [m] })
    | x :: _ =>
      let (snd, rcv) := if m.cell.cop = 0x391 then (x, m) else (m, x)
      let t := max snd.stamp rcv.stamp
      let s1 := (s.modColl job g i (fun y => { y with waits := y.waits.filter (fun z => z != x) })).collGot job g i
        (if snd.cell.last then some (c.got + 1) else none)
      ((s1.collData job g i rcv.cell.aux.toNat t snd.cell).cellEnd cl snd 0 t).cellEnd cl rcv 0 t

/-- DEDUCED: notes/assumptions/78. -/
def State.csendAct (s : State) (cl : Nat) (m : MCell) (i : Nat) (c : Coll) : State :=
  let w := c.record
  let dst := m.cell.cnt.toNat
  if collKind w != 3 || dst ≥ collRanks w || m.cell.aux.toNat ≥ 32 || s.cellRank m w ≥ collRanks w then s.cellEnd cl m 0x90 m.stamp
  else if dst = collRank w then s.p2pMeet cl m i c
  else if m.snode = 0 then (s.toRank cl m i dst m.cell).cellEnd cl m 0 m.stamp
  else s.cellEnd cl m 0x90 m.stamp

def State.crecvAct (s : State) (cl : Nat) (m : MCell) (i : Nat) (c : Coll) : State :=
  let w := c.record
  if collKind w != 3 || m.cell.cnt.toNat ≥ collRanks w || m.snode != 0 then s.cellEnd cl m 0x90 m.stamp
  else s.p2pMeet cl m i c

/-- CSEND (R395). -/
def execCsend (cl : Nat) (s : State) : Res := .next (s.collCell cl 0x390 (fun st m i c => st.csendAct cl m i c))
/-- CRECV (R395). -/
def execCrecv (cl : Nat) (s : State) : Res := .next (s.collCell cl 0x391 (fun st m i c => st.crecvAct cl m i c))

/-! ## Aborts and lost ranks (R399, R400) -/

/-- What this device holds of an instance goes, and its done word is written with a status unless it has been. -/
def State.collAbort (s : State) (cl job g i status : Nat) : State :=
  let c := s.coll job g i
  if c.aborted then s
  else
    let s1 := (c.held ++ c.top ++ c.waits).foldl (fun st m => st.cellEnd cl m 0 m.stamp)
      (s.modColl job g i (fun y => { y with aborted := true, held := [], top := [], waits := [] }))
    s1.collDone job g i status

/-- ABRT at a switch box (R400): a token of this device goes on to every other rank. At another port it has no effect. -/
def State.abrtToken (s : State) (cl e : Nat) : State :=
  match s.takeInbox cl e 0x3F3 with
  | none => s
  | some (m, s1) =>
    let s2 := match s1.collOf m with
      | some (i, c) =>
        if e != 14 || c.aborted then s1
        else
          let s3 := if m.snode = 0 then s1.toOthers cl m i c.record m.cell else s1
          s3.collAbort cl m.who.job m.who.graph i 0x70
      | none => s1
    s2.cellEnd cl m 0 m.stamp

/-- ABRT (R400). DESIGN CHOICE: notes/assumptions/79. -/
def execAbrt (cl port : Nat) (s : State) : Res := .next (s.abrtToken cl port)

/-- A rank's device or partition leaves the fabric (R399): every collective of the graph that has it as a rank ends here
with COLL_LOST. -/
def State.rankLeft (s : State) (job g rank : Nat) : State :=
  let x := s.graph job g
  if !x.live then s
  else (x.colls.map (fun e => e.1)).foldl (fun st i =>
    let w := (st.coll job g i).record
    if rank < collRanks w && rank != collRank w then st.collAbort (st.collCluster job g i) job g i 0x72 else st) s

/-- RANK_LEFT_FABRIC (R399). -/
def execRankLeftFabric (job graph rank : Nat) (s : State) : Res := .next (s.rankLeft job graph rank)

end Sys2Proof.Machine
end

