-- ==== Sys2Proof/Machine/Copies.lean ====
section
/-! DEFINITION. Machine/Copies.lean: CPY, CPYG, CPYS and CPYR, and a copy's work in the transfer units (spec/06 R157 to R161,
spec/15 R317). -/

namespace Sys2Proof.Machine

/-! ## Firing (R157 to R159) -/

/-- Copies of older blocks of the strand that may still fire: a copy waits for them, so that the numbers of committed
copies are dense (R159). DEDUCED: notes/assumptions/39. -/
def State.copiesBefore (s : State) : Bool :=
  s.olderOpen s.fCore s.fFrame (fun sl => decide (0x90 ≤ opOf sl.word ∧ opOf sl.word ≤ 0x93))

/-- The copy that two request tokens describe; kind 4 is one that breaks the request's form (R158). -/
def copyOf (k : Nat) (ag : BitVec 5) (tk : BitVec 3) (f : Bool) (l r : Word) (seq : Word) : Copy :=
  let bad := wbits l 60 4 != k || bitOf l.toNat 57 || (k == 1 && wbits l 32 15 != 0)
  { kind := if bad then 4 else k, na := bitOf l.toNat 59, sna := bitOf l.toNat 58, src := wbits l 0 57,
    len := if wbits r 40 24 = 0 then 2 ^ 24 else wbits r 40 24, dag := wbits r 35 5, doff := wbits r 0 35,
    fag := ag.toNat, flag := f, tk := tk.toNat, seq := seq }

/-- A copy fires: the sequence counter rises, its value goes to TA, and the copy is recorded (R159). -/
def fireCopy (k : Nat) (p : Pr) (ag : BitVec 5) (tk : BitVec 3) (f : Bool) (ta : Tgt) (s : State) : Res :=
  fireSide p .lr (fun s =>
    if s.copiesBefore then s
    else
      let n := s.curStrand.cseq + 1
      let s1 := s.resolve (.copy (copyOf k ag tk f s.opL s.opR n))
      let s2 := s1.modCur (fun g => { (g.send (.val n) [ta]) with cseqs := g.cseqs + 1 })
      s2.modStrand s.curSid (fun x => { x with cseq := n })) s

/-- CPY (R158, R159). -/
def execCpy (p : Pr) (ag : BitVec 5) (tk : BitVec 3) (f : Bool) (ta : Tgt) (s : State) : Res := fireCopy 0 p ag tk f ta s
/-- CPYG (R158, R159). -/
def execCpyg (p : Pr) (ag : BitVec 5) (tk : BitVec 3) (f : Bool) (ta : Tgt) (s : State) : Res := fireCopy 1 p ag tk f ta s
/-- CPYS (R158, R159). -/
def execCpys (p : Pr) (ag : BitVec 5) (tk : BitVec 3) (f : Bool) (ta : Tgt) (s : State) : Res := fireCopy 2 p ag tk f ta s
/-- CPYR (R158, R159). -/
def execCpyr (p : Pr) (ag : BitVec 5) (tk : BitVec 3) (f : Bool) (ta : Tgt) (s : State) : Res := fireCopy 3 p ag tk f ta s

/-! ## Spans: places of a run of bytes, none crossing a line -/

/-- The places of n bytes from a virtual address; the failing cause comes with its address. -/
def State.spanVa (s : State) (q job : Nat) (write : Bool) : Nat → Nat → Nat → Except (Nat × Nat) (List (Place × Nat))
  | 0, _, _ => .ok []
  | fuel + 1, va, n =>
    if n = 0 then .ok []
    else
      let k := min n (64 - va % 64)
      match s.xlate q job va write false with
      | .error c => .error (c, va)
      | .ok p => match s.spanVa q job write fuel (va + k) (n - k) with
        | .error e => .error e
        | .ok ps => .ok ((p, k) :: ps)

/-- The places of n bytes from a byte address of an AGN. -/
def State.spanAgn (s : State) (cl core job : Nat) (r : AgnRec) (write : Bool) :
    Nat → Int → Nat → Except (Nat × Nat) (List (Place × Nat))
  | 0, _, _ => .ok []
  | fuel + 1, a, n =>
    if n = 0 then .ok []
    else
      let k := min n (64 - (a % 64).toNat)
      match s.agnPlace cl core job r a k write with
      | .error c => .error (c, a.toNat)
      | .ok p => match s.spanAgn cl core job r write fuel (a + k) (n - k) with
        | .error e => .error e
        | .ok ps => .ok ((p, k) :: ps)

/-- A range of bytes of an AGN must be unit-dense (R158): each element it touches follows the one before. -/
def denseRange (r : AgnRec) (off n : Nat) : Bool :=
  let lo := off * 8 / r.ebits
  let hi := (off * 8 + n * 8 + r.ebits - 1) / r.ebits
  (List.range (hi - lo)).all (fun i => r.addr (lo + i) == some ((r.base : Int) + (((lo + i) * r.ebits / 8 : Nat) : Int)))

/-- A byte range of an AGN, checked: the status of a breach (R158, R410), a translation fault, or the places. -/
inductive Span where
  | bad (status : Nat)
  | fault (cause va : Nat)
  | places (ps : List (Place × Nat))

def causeIsXlate (c : Nat) : Bool := c == causeMiss || c == causePerm

def spanOf (x : Except (Nat × Nat) (List (Place × Nat))) : Span :=
  match x with
  | .ok ps => .places ps
  | .error (c, va) => if causeIsXlate c then .fault c va else .bad (causeStatus c)

def State.byteSpan (s : State) (cl core job : Nat) (r : AgnRec) (off n : Nat) (write : Bool) : Span :=
  let c := s.agnCheck cl r (if write then .copyWrite else .copyRead)
  if c != 0 then .bad (causeStatus c)
  else if (off + n) * 8 > r.count * r.ebits then .bad 0x93
  else if !denseRange r off n then .bad 0x9D
  else spanOf (s.spanAgn cl core job r write n ((r.base : Int) + (off : Int)) n)

/-- The places of elements first .. first + m - 1 of an AGN, in order. -/
def State.elemSpan (s : State) (cl core job : Nat) (r : AgnRec) (write : Bool) (first : Nat) :
    Nat → Except (Nat × Nat) (List (Place × Nat))
  | 0 => .ok []
  | m + 1 => match s.elemSpan cl core job r write first m with
    | .error e => .error e
    | .ok ps => match r.addr (first + m) with
      | none => .error (causeBound, 0)
      | some a => match s.pieces cl core job r a r.ebytes write with
        | .error c => .error (c, a.toNat)
        | .ok qs => .ok (ps ++ qs)

/-! ## The work of a copy -/

def copyKey (cl n : Nat) : Nat := cl * 2 ^ 16 + n
def State.copyOp (s : State) (k : Nat) : CopyOp := tget s.acc.copies k
def State.modCopy (s : State) (k : Nat) (f : CopyOp → CopyOp) : State :=
  s.onAcc (fun a => { a with copies := tmod a.copies k f })

/-- A copy ends (R159, R160): its token clears, the copies counter drops, a failure is posted. -/
def State.copyFinish (s : State) (k status cts : Nat) : State :=
  let o := s.copyOp k
  let s1 := if status = 0 then s else s.post o.who status 0 (o.c.seq.toNat % 2 ^ 48)
  let s2 := (s1.clearTk o.who o.c.tk).onContext o.who (fun x => { x with cpc := x.cpc - 1 })
  (s2.opEnd o.who cts).onAcc (fun a => { a with copies := tdel a.copies k })

/-- A copy ends, unless data lost in an activation of a dynamic graph stop it until its colour is purged (R432). -/
def State.copyEnd (s : State) (k status cts : Nat) : State :=
  let o := s.copyOp k
  if status = 0x80 && (match o.c.col with
    | some c => s.inActivation o.who c
    | none => false) then s.modCopy k (fun x => { x with hurt := true, status := 0, data := [], sentTo := 0 })
  else s.copyFinish k status cts

/-- A copy of the cluster's transfer units stops at a page (R159, R277). -/
def State.copyFault (s : State) (k cause va : Nat) : State :=
  let o := s.copyOp k
  let cl := k / 2 ^ 16
  s.faultWait (clusterQuarter cl) o.who.job cause 0 o.who.sid o.c.dag cl va o.c.seq.toNat (waiterCopy k)

/-- A read or write that fails ends its copy with UE. -/
def copyStatus (c : Nat) : Nat := causeStatus c

/-- The AGN of a number under the copy's strand. -/
def State.copyAgn (s : State) (o : CopyOp) (n : Nat) : AgnRec :=
  agnRec (s.agn (s.jobAgn o.who.job (s.placeOf o.who (sidCluster o.who.sid)) n)).words

/-- What has been read: what stands against it, or the data, its timestamp and the state after. -/
inductive Data where
  | bad (status : Nat)
  | fault (cause va : Nat)
  | got (v t : Nat) (s : State)

def dataErr (c va : Nat) : Data := if causeIsXlate c then .fault c va else .bad (causeStatus c)

/-- Read the places of a span. -/
def State.readSpan (s : State) (root p : Nat) (x : Span) : Data :=
  match x with
  | .bad st => .bad st
  | .fault c va => .fault c va
  | .places ps => match s.readPieces root [] p ps with
    | .error c => dataErr c 0
    | .ok (g, s1) => .got g.v g.t s1

/-- The elements of some rows, each `row` elements long. -/
def rowElems (idx : List Nat) (row : Nat) : List (Option Nat) :=
  (idx.map (fun i => (List.range row).map (fun j => some (i * row + j)))).flatten

/-- CPYG reads its indices and then the rows they name (R158). -/
def State.gatherRows (s : State) (cl : Nat) (o : CopyOp) : Data :=
  let job := o.who.job
  let ix := s.copyAgn o (bits o.c.src 52 5)
  let sr0 := s.copyAgn o (bits o.c.src 47 5)
  let sr := if o.c.sna && sr0.port = 4 then { sr0 with port := 5 } else sr0
  let n := bits o.c.src 0 32
  let ci := s.agnCheck cl ix .copyRead
  let cs := s.agnCheck cl sr .copyRead
  if ci != 0 then .bad (causeStatus ci)
  else if cs != 0 then .bad (causeStatus cs)
  else if o.c.len * 8 % sr.ebits != 0 || n * o.c.len > 2 ^ 24 then .bad 0x9D
  else match s.readElems cl o.who.core job 6 ix [] o.stamp ((List.range n).map some) with
    | .error (c, va) => dataErr c va.toNat
    | .ok (idx, g, _, s1) =>
      match s1.readElems cl o.who.core job 6 sr [] o.stamp (rowElems idx (o.c.len * 8 / sr.ebits)) with
      | .error (c, va) => dataErr c va.toNat
      | .ok (vs, h, _, s2) => .got (vs.foldr (fun v acc => v + 2 ^ sr.ebits * acc) 0) (max g.t h.t) s2

/-- What a copy reads. DEDUCED: notes/assumptions/39. -/
def State.copyData (s : State) (cl : Nat) (o : CopyOp) : Data :=
  if o.c.kind = 1 then s.gatherRows cl o
  else s.readSpan (s.partOfCluster cl) o.stamp (spanOf (s.spanVa (clusterQuarter cl) o.who.job false o.c.len o.c.src o.c.len))

/-- Bytes a copy moves. -/
def CopyOp.total (o : CopyOp) : Nat := if o.c.kind = 1 then bits o.c.src 0 32 * o.c.len else o.c.len

/-- Where a copy writes. -/
def State.copyDest (s : State) (cl : Nat) (o : CopyOp) : Span :=
  let d := s.copyAgn o o.c.dag
  if o.c.kind = 2 then
    let c := s.agnCheck cl d .copyWrite
    if c != 0 then .bad (causeStatus c)
    else if o.c.len * 8 % d.ebits != 0 then .bad 0x9D
    else if o.c.doff + o.c.len * 8 / d.ebits > d.count then .bad 0x93
    else spanOf (s.elemSpan cl o.who.core o.who.job d true o.c.doff (o.c.len * 8 / d.ebits))
  else s.byteSpan cl o.who.core o.who.job d o.c.doff o.total true

/-- Where the flag word goes (R159 step 4): the flag AGN serves it as a store. DEDUCED: notes/assumptions/39. -/
def State.copyFlag (s : State) (cl : Nat) (o : CopyOp) : Span :=
  if !o.c.flag then .places []
  else
    let r := s.copyAgn o o.c.fag
    let c := s.agnCheck cl r .store
    if c != 0 then .bad (causeStatus c)
    else match r.addr 0 with
      | none => .bad 0x93
      | some a => spanOf (s.spanAgn cl o.who.core o.who.job r true 8 a 8)

/-- The caches that a copy's pieces meet through a cache window. DESIGN CHOICE: notes/assumptions/27. -/
def State.copyFill (s : State) (cl : Nat) (o : CopyOp) (r : AgnRec) (na : Bool) (ps : List (Place × Nat)) : State :=
  ps.foldl (fun st p => st.engFill cl o.who.job 6 r na p.1) s

/-- Elements first, first + 1, … written with the values packed in v. -/
def State.writeElems (s : State) (cl core job ecls : Nat) (r : AgnRec) (p wid : Nat) (na : Bool) (first v : Nat) :
    Nat → Except Nat (Nat × State)
  | 0 => .ok (p, s)
  | m + 1 => match s.writeElems cl core job ecls r p wid na first v m with
    | .error c => .error c
    | .ok (t, s1) => match s1.writeElem cl core job ecls r p wid (first + m) (bits v (r.ebits * m) r.ebits) na with
      | .error c => .error c
      | .ok (u, s2) => .ok (max t u, s2)

/-- The data in hand are written, then the flag (R159, R317). DEDUCED: notes/assumptions/39. -/
def State.copyPut (s : State) (k cl : Nat) (o : CopyOp) (v t : Nat) : State :=
  let root := s.partOfCluster cl
  let wid := sidAgent o.who.sid
  match s.copyDest cl o, s.copyFlag cl o with
  | .bad st, _ => s.copyEnd k st t
  | .fault c va, _ => s.copyFault k c va
  | _, .bad st => s.copyEnd k st t
  | _, .fault c va => s.copyFault k c va
  | .places ds, .places fs =>
    let d := s.copyAgn o o.c.dag
    let put := if o.c.kind = 2
      then s.writeElems cl o.who.core o.who.job 6 d o.stamp wid o.c.na o.c.doff v (o.c.len * 8 / d.ebits)
      else s.writePieces root o.stamp wid ds v
    match put with
    | .error c => s.copyEnd k (copyStatus c) t
    | .ok (w, s1) =>
      let s2 := if o.c.kind = 2 then s1 else s1.copyFill cl o d o.c.na ds
      match fs with
      | [] => s2.copyEnd k 0 (max t w)
      | _ => match s2.writePieces root w wid fs o.c.seq.toNat with
        | .error c => s2.copyEnd k (copyStatus c) (max t w)
        | .ok (u, s3) => s3.copyEnd k 0 (max t u)

/-- A copy from a peer asks for the next piece of its data, one request at a time (R158, R403). DEDUCED: notes/assumptions/39. -/
def State.copyAsk (s : State) (k cl : Nat) (o : CopyOp) : State :=
  let n := min 192 (o.c.len - o.data.length)
  let addr := s.exportAddr o.who.job (bits o.c.src 0 41 + o.data.length)
  let s1 := s.modCopy k (fun x => { x with sentTo := o.data.length + n })
  s1.askPeer (s.partOfCluster cl) (bits o.c.src 41 16) o.who.job addr n { copy := some k, off := o.data.length }

/-- COPY_COMPLETE: the copy goes as far as it now can. -/
def State.copyStep (s : State) (cl n : Nat) : State :=
  let k := copyKey cl n
  let o := s.copyOp k
  if !o.used || o.hurt then s
  else match s.gate o.who.job (waiterCopy k) with
    | .wait => s
    | .ends st => (s.ungate o.who.job (waiterCopy k)).copyEnd k st o.stamp
    | .go =>
      if o.c.kind = 4 then s.copyEnd k 0x9E o.stamp
      else if o.status != 0 then s.copyEnd k o.status o.stamp
      else if o.c.kind = 3 then
        (if o.data.length = o.c.len then s.copyPut k cl o (leNat o.data) o.stamp
         else if o.sentTo > o.data.length then s
         else s.copyAsk k cl o)
      else match s.copyData cl o with
        | .bad st => s.copyEnd k st o.stamp
        | .fault c va => s.copyFault k c va
        | .got v t s1 => s1.copyPut k cl o v t

/-- COPY_COMPLETE. -/
def execCopyComplete (cl op : Nat) (s : State) : Res := .next (s.copyStep cl op)

end Sys2Proof.Machine
end

