-- ==== Sys2Proof/Machine/QueueWords.lean ====
section
/-! DEFINITION. Machine/QueueWords.lean: LAUNCH, QCLAIM, QPUB, CNTR, CANCEL, CFGL and CFGT as a block fires them (spec/20 R413 to
R421, spec/02 R30, R55). What they do at commit and at release is in Commit and Releases. -/

namespace Sys2Proof.Machine

/-- The words of a packet read through an AGN at an offset are checked when LAUNCH fires (R414). -/
def State.packetCheck (s : State) (ag off : Nat) : Nat × Word :=
  let cl := s.curCluster
  let r := agnRec (s.agn (s.strandAgn s.curSid ag)).words
  let one (i : Nat) : Option (Nat × Word) :=
    match s.reach cl s.fCore r .load (BitVec.ofNat 64 (off + i)) 8 with
    | .fault c a => some (c, a)
    | .home _ => none
    | .virt va => match s.xlate (clusterQuarter cl) s.curJob va false false with
      | .error c => some (c, BitVec.ofNat 64 va)
      | .ok _ => none
  ((List.range 24).findSome? one).getD (0, 0)

/-- LAUNCH (R414). -/
def execLaunch (p : Pr) (ag : BitVec 5) (tk : BitVec 3) (s : State) : Res :=
  fireSide p .lr (fun s =>
    let (c, a) := s.packetCheck ag.toNat s.opL.toNat
    if c != 0 then s.stopAt c a (some ag.toNat)
    else s.resolve (.rel (.launch ag.toNat s.opL.toNat s.opR.toNat tk.toNat) false false)) s

/-- Whether a queue belongs to a job: valid, and its JOB field names it (R413, R415). DEDUCED: notes/assumptions/66. -/
def State.queueOfJob (s : State) (qk job : Nat) : Bool :=
  let q := s.queue qk
  decide (qk < 1024) && q.valid && q.job == job

def Queue.full (q : Queue) : Bool := decide (q.claim - q.head ≥ q.size)

/-- QCLAIM (R415): a reservation, returned if its block aborts. A job that has closed takes no further launch (R51). -/
def execQclaim (p : Pr) (ta : Tgt) (s : State) : Res :=
  fireAct p .l [ta] (fun s =>
    let qk := s.opL.toNat
    if !s.queueOfJob qk s.curJob then s.stopAt causeBadParm
    else
      let q := s.queue qk
      if q.full || s.pmHolds (qk / 256) || (s.job s.curJob).state != 1 then s.finish (.val 0x8000000000000000#64) [ta]
      else
        let s1 := s.modQueue qk (fun x => { x with claim := q.claim + 1, owners := (q.claim, s.curSid) :: x.owners })
        let s2 := s1.modCur (fun f => { f with claims := f.claims ++ [(s.fSlot, qk, q.claim)] })
        s2.finish (.val (BitVec.ofNat 64 (q.claim % 2 ^ 32))) [ta]) s

/-- QPUB (R416). -/
def execQpub (p : Pr) (s : State) : Res :=
  fireSide p .lr (fun s => s.resolve (.rel (.qpub s.opL.toNat s.opR.toNat) false false)) s

/-- CNTR (R417). -/
def execCntr (p : Pr) (s : State) : Res :=
  fireSide p .lr (fun s =>
    if s.opL.toNat ≥ 1024 then s.stopAt causeBadParm
    else if s.opR = 0 then s.resolve .null
    else s.resolve (.rel (.cntr s.opL.toNat s.opR) false false)) s

/-- Level code and identifier width (R30). -/
def levelCode : Level → Nat
  | .strand => 0
  | .launch => 1
  | .graph => 2
  | .phase => 3
  | .job => 4
def levelWidth : Level → Nat
  | .strand => 11
  | .launch => 24
  | .graph => 16
  | .phase => 32
  | .job => 12

/-- CANCEL (R418). -/
def execCancel (p : Pr) (lev : Level) (s : State) : Res :=
  fireSide p .l (fun s =>
    if s.opL.toNat ≥ 2 ^ levelWidth lev then s.stopAt causeBadParm
    else s.resolve (.cancel (levelCode lev) s.opL.toNat)) s

/-- CFGL (R419): the list's address is the left token; the right token is zero, which the release checks. -/
def execCfgl (p : Pr) (n : BitVec 13) (s : State) : Res :=
  fireSide p .lr (fun s =>
    s.resolve (.rel (.cfgl (s.opL.toNat + if s.opR = 0 then 0 else 2 ^ 64) n.toNat) false true)) s

/-- CFGT (R421). -/
def execCfgt (p : Pr) (s : State) : Res :=
  fireSide p .lr (fun s => s.resolve (.rel (.cfgt s.opL s.opR) false true)) s

end Sys2Proof.Machine
end

