-- ==== Sys2Proof/Machine/Commit.lean ====
section
/-! DEFINITION. Machine/Commit.lean: the commit of a block: what it waits for, the check of its loads, and the release of its
effects (spec/02 R34 to R38, spec/05 R105 to R108, spec/06 R146, R149, R150, R154, R159, spec/15 R299, R305, R307, spec/22
R436, R439). -/

namespace Sys2Proof.Machine

/-! ## What a commit waits for -/

/-- Exactly one exit has fired, every side effect and register write has resolved, and no wait, load or answer is pending
(R34, R162, R299, R338). DEDUCED: notes/assumptions/24. -/
def Frame.complete (f : Frame) : Bool :=
  f.used && f.trap.isNone && f.exit.isSome && f.fx.length == hdrNfx f.hdr && f.regw.length == hdrNout f.hdr &&
  f.waits.isEmpty && f.asks.isEmpty && f.loads.all (fun l => l.stage == 2)

/-- The registers that a block may write when it commits (R347). -/
def Frame.writesOf (f : Frame) : List Nat :=
  f.regw.map (fun x => x.2.1) ++
  (match f.exit with
   | some (i, _) => if isCallWord (f.slot i).word then [63] else []
   | none => [])

def effectStores : Effect → Nat
  | .store .. => 1
  | .atom .. => 1
  | .red .. => 1
  | .rel _ stores _ => stores.toNat
  | _ => 0
def effectCopies : Effect → Nat
  | .copy _ => 1
  | .rel _ _ copies => copies.toNat
  | _ => 0
def effectTiles : Effect → Nat
  | .cell _ _ true => 1
  | _ => 0
/-- Cells that an effect puts into the issue buffer. -/
def effectCells : Effect → Nat
  | .cell .. => 1
  | .atom .. => 1
  | .red .. => 1
  | .arrive .. => 1
  | .expect .. => 1
  | _ => 0

def sumOf {α : Type} (f : α → Nat) (l : List α) : Nat := l.foldl (fun n x => n + f x) 0

/-- The class limits of R146. -/
def Strand.countsFit (x : Strand) (fx : List Effect) : Bool :=
  let ok (used lim add : Nat) : Bool := add == 0 || decide (used + add ≤ lim)
  ok x.stc 63 (sumOf effectStores fx) && ok x.cpc 31 (sumOf effectCopies fx) && ok x.tlc 31 (sumOf effectTiles fx)

/-- The cells of a block fit the issue buffer of 16, or find it empty (R149). DEDUCED: notes/assumptions/43. -/
def State.cellsFit (s : State) (core : Nat) (fx : List Effect) : Bool :=
  let n := sumOf effectCells fx
  let q := (s.coreSt core).issue
  n == 0 || q.isEmpty || decide (q.length + n ≤ 16)

/-- The pipes that a block puts to, and the values for each in slot order (R21). -/
def putsByPipe (fx : List Effect) : List (Nat × List Word) :=
  fx.foldl (fun acc e => match e with
    | .put k v =>
      if acc.any (fun p => p.1 == k) then acc.map (fun p => if p.1 == k then (k, p.2 ++ [v]) else p)
      else acc ++ [(k, [v])]
    | _ => acc) []

/-- Declared capacity of a pipe by its key: what the pipe declares, or the shape of a write AGN behind it. -/
def State.pipeCap (s : State) (k : Nat) : Nat :=
  let w := (s.pipe k).words
  if w != 0 then w
  else s.acc.agns.foldl (fun m e =>
    let r := agnRec e.2.words
    if r.port == 3 && fifoKey (agnCl e.1) r == k then max m (s.fifoWords (agnCl e.1) r) else m) 0

def State.putsFit (s : State) (f : Frame) (fx : List Effect) : Bool :=
  (putsByPipe fx).all (fun p =>
    let back := (f.gets.filter (fun g => g.2.1 == p.1)).length
    decide (p.2.length + (s.pipe p.1).q.length ≤ s.pipeCap p.1 + back))

/-- No unfinished stream stands on the AGNs that the block streams on (R150), and their parameter queues have room
(R154). -/
def State.agnsFree (s : State) (fx : List Effect) : Bool :=
  fx.all (fun e => match e with
    | .stream k .. => (s.agn k).stream.isNone
    | .parm k .. => (s.agn k).stream.isNone ||
        decide ((s.agn k).parms.length + (fx.filter (fun d => match d with
          | .parm j .. => j == k
          | _ => false)).length ≤ 4)
    | _ => true)

/-- The tags of the block's cells are live, or stale (R204). -/
def State.tagsFit (s : State) (fx : List Effect) : Bool :=
  fx.all (fun e => match e with
    | .cell c _ _ => s.tagOk c
    | _ => true)

/-! ## Colours (R436) -/


/-- Whether a side effect makes an activation: anything but one that resolved without effect. -/
def isActive : Effect → Bool
  | .null => false
  | _ => true

def isMine (who : Owner) (job g : Nat) : Bool := who.job == job && who.graph == g

/-- Whether a cell, stream or operation of a graph bears a colour. -/
def State.colourInUse (s : State) (job g c : Nat) : Bool :=
  let cell (m : MCell) : Bool := isMine m.who job g && bearsColour m && m.cell.col.toNat == c
  s.allCells.any (fun x => cell x.2) ||
  s.acc.agns.any (fun e => e.2.cellOut.toList.any cell ||
    e.2.streams.any (fun st => isMine st.who job g && wbits st.cdesc 31 8 == c)) ||
  s.mat.ctxs.any (fun e => (match e.2.opn with
    | some o => isMine o.who job g && o.col == c
    | none => false) || e.2.saving.toList.any cell || e.2.loading.toList.any cell ||
    (e.2.drainOp.toList.any (fun d => cell d.2))) ||
  s.eng.ixjobs.any (fun e => e.2.any (fun j => isMine j.who job g && j.col == c)) ||
  s.eng.rows.any (fun e => e.2.any (fun r => isMine r.who job g && r.col == c)) ||
  s.acc.copies.any (fun e => e.2.used && isMine e.2.who job g && e.2.c.col == some c) ||
  s.acc.xfers.any (fun e => e.2.used && cell e.2.cell) ||
  s.ken.engines.any (fun e => e.2.jobs.any (fun j => cell j.cell))

/-- A colour is not free while something bears it, or a strand still holds what a re-issue under it owes (R436, R437). -/
def State.colourBusy (s : State) (job g c : Nat) : Bool :=
  s.colourInUse job g c ||
    (s.graph job g).acts.any (fun a => a.colour == c && !(a.owed.isEmpty && a.owedTk.isEmpty))

/-- The lowest free colour of a graph. -/
def State.freeColour (s : State) (job g : Nat) : Option Nat :=
  (List.range 256).find? (fun c => !s.colourBusy job g c)

/-- Activations of a strand that have not retired. -/
def State.activationsOf (s : State) (who : Owner) : Nat :=
  (((s.graph who.job who.graph).acts.filter (fun a => a.who == who && s.colourBusy who.job who.graph a.colour))).length

/-- The colour that a block of a dynamic graph takes: none where it takes none, some none where it must wait. -/
def State.colourFor (s : State) (who : Owner) (fx : List Effect) : Option (Option Nat) :=
  if !(s.graph who.job who.graph).dynamic || !fx.any isActive then some none
  else if s.activationsOf who ≥ 64 then none
  else match s.freeColour who.job who.graph with
    | none => none
    | some c => some (some c)

def colourDesc (c : Nat) (d : Word) : Word :=
  BitVec.ofNat 64 (d.toNat / 2 ^ 39 * 2 ^ 39 + c % 256 * 2 ^ 31 + d.toNat % 2 ^ 31)
def colourCell (c : Nat) (m : MCell) : MCell := { m with cell := ({ m.cell with col := BitVec.ofNat 8 c } : Cell).seal }

/-- An effect with the activation's colour. -/
def colourFx (c : Nat) : Effect → Effect
  | .cell m p t => .cell (colourCell c m) p t
  | .atom m g => .atom (colourCell c m) g
  | .red m => .red (colourCell c m)
  | .stream k d t tk l p => .stream k (colourDesc c d) t tk l p
  | .copy x => .copy { x with col := some c }
  | .rel (.resc a o l _) st cp => .rel (.resc a o l c) st cp
  | e => e

/-! ## The check of the loads (R299) -/

inductive MemOpn where
  | load (l : LoadRec)
  | store (r : StoreRec)
  deriving DecidableEq, Repr

def MemOpn.isLoad : MemOpn → Bool
  | .load _ => true
  | .store _ => false

def insertOpn (x : Nat × MemOpn) : List (Nat × MemOpn) → List (Nat × MemOpn)
  | [] => [x]
  | y :: ys => if x.1 ≤ y.1 then x :: y :: ys else y :: insertOpn x ys

/-- A block's memory operations in LSID order. -/
def Frame.memOps (f : Frame) : List (Nat × MemOpn) :=
  (f.loads.map (fun l => (l.lsid, MemOpn.load l)) ++ f.stores.map (fun x => (x.1, MemOpn.store x.2))).foldr insertOpn []

/-- A load performed again at its home at commit: it stands there where the value is still what it returned. DEDUCED: notes/assumptions/22. -/
def State.reperform (s : State) (root : Nat) (l : LoadRec) (p : Nat) : Option (Nat × State) :=
  match s.engRead root l.place l.n p with
  | .error _ => none
  | .ok (v, t, s1) => if v % 2 ^ (8 * l.n) = l.v.toNat % 2 ^ (8 * l.n) then some (t, s1) else none

/-- A store that a later load of its own block follows is performed at its home with the commit. DEDUCED: notes/assumptions/22. -/
def State.storeNow (s : State) (root : Nat) (who : Owner) (r : StoreRec) (p : Nat) : Nat × StoreRec × State :=
  match r.place with
  | .home _ =>
    let (r', s1) := s.performStore who p r
    (r'.ack, r', s1)
  | .maj ss a => match s.majWrite root ss (cellAddr a) (a % 64) r.n r.v.toNat p (sidAgent who.sid) with
    | none => (p, r, s)
    | some (t, s1) => (t, { r with sent := true, ack := t }, s1)

/-- The operations take their timestamps in order: the strand's PTS after them, the stores, and the state; none: a load does
not stand. DEDUCED: notes/assumptions/22, 23. -/
def State.standOps (s : State) (root : Nat) (who : Owner) (seen : Bool) (p : Nat) :
    List (Nat × MemOpn) → Option (Nat × List StoreRec × State)
  | [] => some (p, [], s)
  | (_, .store r) :: rest =>
    if rest.any (fun x => x.2.isLoad) then
      let (t, r', s1) := s.storeNow root who r p
      match s1.standOps root who true (max p t) rest with
      | none => none
      | some (u, rs, s2) => some (u, r' :: rs, s2)
    else match s.standOps root who seen p rest with
      | none => none
      | some (u, rs, s2) => some (u, r :: rs, s2)
  | (_, .load l) :: rest =>
    if !l.fwd && decide (max p l.wts ≤ l.rts) then s.standOps root who seen (max p l.wts) rest
    else if seen || l.fwd then match s.reperform root l p with
      | none => none
      | some (t, s1) => s1.standOps root who seen (max p t) rest
    else none

/-- The payload reads of a block's cells stand where their version's lease reaches. DEDUCED: notes/assumptions/23. -/
def standReads (p : Nat) : List CellRead → Option Nat
  | [] => some p
  | r :: rs => if max p r.wts ≤ r.rts then standReads (max p r.wts) rs else none

/-- Every earlier access of the strand has taken its timestamp (R299). DEDUCED: notes/assumptions/23. -/
def State.readsDue (s : State) (sid : Nat) (f : Frame) : Bool :=
  (f.loads.isEmpty && f.reads.isEmpty) || (outStores (s.strand sid).out).isEmpty

/-- DEDUCED: notes/assumptions/22, 23, 24. -/
def State.stand (s : State) (who : Owner) (f : Frame) : Option (Nat × List StoreRec × State) :=
  match standReads (s.strand who.sid).pts f.reads with
  | none => none
  | some p => s.standOps (s.partOfCluster (sidCluster who.sid)) who false p f.memOps

/-! ## Releasing (R34, R305) -/

def State.pushOut (s : State) (sid : Nat) (o : OutItem) : State := s.modStrand sid (fun x => { x with out := x.out ++ [o] })

/-- A cell joins the issue buffer at commit. A release waits there for its strand's stores (R149, R305). -/
def State.issueAt (s : State) (sid core port : Nat) (m : MCell) (held : Bool) : State :=
  let age := s.tickNo
  let c : MCell := { m with stamp := (s.strand sid).pts, age := age }
  let s1 := (s.modCoreSt core (fun k => { k with issue := k.issue ++ [{ cell := c, port := port, held := held }] })).tickUp
  if held then s1.pushOut sid (.rel (.cell age)) else s1

/-- Key of the AGN that stands for another in a twin's second region (R439). DEDUCED: notes/assumptions/88. -/
def State.twinKey (s : State) (who : Owner) (key : Nat) : Option Nat :=
  let g := s.graph who.job who.graph
  if g.img.twin.isNone then none
  else match g.img.clusters.findIdx? (fun c => c == agnCl key) with
    | none => none
    | some i => (g.img.copyClusters[i]?).map (fun c => s.jobAgn who.job c (agnNo key))

/-- The copy of a cell for a twin's second region: one that goes into the first region, its DCL mapped (R439). DEDUCED: notes/assumptions/88. -/
def State.twinCell (s : State) (cl : Nat) (m : MCell) : Option MCell :=
  let g := s.graph m.who.job m.who.graph
  if g.img.twin.isNone || isBarCell m.cell then none
  else match g.img.clusters.findIdx? (fun c => c == m.cell.target cl) with
    | none => none
    | some i => (g.img.copyClusters[i]?).map (fun c =>
        { m with cell := ({ m.cell with dcl := BitVec.ofNat 6 c } : Cell).seal, report := .engine })

/-- A cell descriptor with its DCL mapped, where it names a cluster. -/
def mapDesc (f : Nat → Nat) (d : Word) : Word :=
  let c := wbits d 58 6
  if c < 48 then BitVec.ofNat 64 (f c % 64 * 2 ^ 58 + d.toNat % 2 ^ 58) else d

/-- A cell descriptor as a twin's second region reads it: its DCL mapped (R439). -/
def twinDesc (img : GraphImage) (d : Word) : Word :=
  match img.clusters.findIdx? (fun c => c == wbits d 58 6) with
  | none => d
  | some i => match img.copyClusters[i]? with
    | none => d
    | some c => BitVec.ofNat 64 (c % 64 * 2 ^ 58 + d.toNat % 2 ^ 58)

/-- A strand's stream, as its AGN runs it. -/
def State.newStream (s : State) (sid : Nat) (cdesc ctag : Word) (tk : Option Nat) (last pers : Bool) : Stream :=
  let x := s.strand sid
  { sid := sid, set := x.set, who := x.who, cdesc := cdesc, ctag := ctag, tk := tk, last := last, pers := pers,
    left := if pers || ctagOff ctag = 0 then none else some (ctagOff ctag), stamp := x.pts }

def State.releaseStream (s : State) (sid key : Nat) (cdesc ctag : Word) (tk : Nat) (last pers : Bool) : State :=
  let who := (s.strand sid).who
  let desc := mapDesc (s.placeOf who) cdesc
  let s1 := ((s.setTk sid tk).opStart who).modAgn key (fun a => a.give (s.newStream sid desc ctag (some tk) last pers))
  match s.twinKey who key with
  | none => s1
  | some k => (s1.countUp who).modAgn k (fun a => a.give
      (s1.newStream sid (twinDesc (s.graph who.job who.graph).img desc) ctag none last pers))

def State.bumpStc (s : State) (sid : Nat) : State := s.modStrand sid (fun x => { x with stc := x.stc + 1 })
def State.bumpCpc (s : State) (sid : Nat) : State := s.modStrand sid (fun x => { x with cpc := x.cpc + 1 })

/-- The order number of an ATOM's cell (word 4 of its payload). DESIGN CHOICE: notes/assumptions/45. -/
def atomOrder (m : MCell) : Nat := wbits (m.cell.word 4) 6 48

/-- Release one effect of a block that commits; stores, puts and cancels are released elsewhere. DEDUCED: notes/assumptions/26. -/
def State.releaseFx (s : State) (core sid : Nat) (e : Effect) : State :=
  let who := (s.strand sid).who
  match e with
  | .cell c port tileOp =>
    let s0 := if windowed c
      then s.sourceSent who.job who.graph (s.strand sid).set c.cell.itag.toNat else s
    let s1 := (s0.opStart who).issueAt sid core port c c.cell.cls
    let s2 := if tileOp then s1.modStrand sid (fun x => { x with tlc := x.tlc + 1 }) else s1
    match s.twinCell (coreCluster core) c with
    | none => s2
    | some d => (s2.countUp who).issueAt sid core port d c.cell.cls
  | .stream key cdesc ctag tk last pers => s.releaseStream sid key cdesc ctag tk last pers
  | .parm key sel v => s.modAgn key (fun a =>
      let b := { a with parms := a.parms ++ [(sel, v)] }
      if a.stream.isNone then b.takeParms else b)
  | .copy c => (((s.setTk sid c.tk).bumpCpc sid).opStart who).pushOut sid (.rel (.copy c))
  | .atom c gd =>
    ((s.bumpStc sid).opStart who).issueAt sid core ((c.cell.word 3).toNat / 2) c false
      |>.modStrand sid (fun x => { x with atoms := x.atoms ++ [(gd, atomOrder c)] })
  | .red c => ((s.bumpStc sid).opStart who).issueAt sid core ((c.cell.word 3).toNat / 2) c false
  | .arrive c relaxed => (s.countUp who).issueAt sid core (arrivePort core) c (!relaxed)
  | .expect bar n => (s.countUp who).issueAt sid core (arrivePort core)
      { cell := s.barrierCell who.job bar 0x294 0 sid n, agent := sidAgent sid, who := who, report := .device } false
  | .leash key _ tk gen => s.leaseAsk key who tk gen
  | .lrel key => s.leaseEnd key false
  | .lpri key prio => (s.leasePrio key prio who.job).kServe (slotQuarter key)
  | .rel r stores copies =>
    let s1 := match r with
      | .launch _ _ _ tk => s.setTk sid tk
      | _ => s
    let s2 := if stores then s1.bumpStc sid else s1
    let s3 := if copies then (s2.bumpCpc sid).opStart who else if stores then
      (match r with
       | .resc .. => s2.opStart who
       | _ => s2.countUp who) else s2.countUp who
    s3.pushOut sid (.rel r)
  | .ctxs t =>
    let (u, s1) := s.saveContext t (s.strand sid).pts
    s1.modStrand sid (fun x => { x with fencets := max x.fencets u })
  | .null | .store .. | .put .. | .cancel .. | .ctxr _ => s

/-- Words put into a pipe at commit take their places; they become visible with their release (R21, R305). -/
def State.releasePuts (s : State) (sid : Nat) (fx : List Effect) : State :=
  (putsByPipe fx).foldl (fun st p =>
    let (ids, q) := (st.pipe p.1).put p.2 0 false
    ((st.modPipe p.1 (fun _ => q)).countUp (st.strand sid).who).pushOut sid (.rel (.put p.1 ids))) s

/-- The stores of a block are released in LSID order. -/
def State.releaseStores (s : State) (sid : Nat) (rs : List StoreRec) : State :=
  rs.foldl (fun st r => ((st.bumpStc sid).countUp (st.strand sid).who).pushOut sid (.store r)) s

def insertFx (x : Nat × Effect) : List (Nat × Effect) → List (Nat × Effect)
  | [] => [x]
  | y :: ys => if x.1 ≤ y.1 then x :: y :: ys else y :: insertFx x ys
/-- A block's effects in slot order. -/
def Frame.effects (f : Frame) : List Effect := ((f.fx.foldr insertFx [])).map (fun x => x.2)

/-- An activation of a dynamic graph is recorded for a re-issue (R436, R437). -/
def State.recordActivation (s : State) (who : Owner) (fx : List Effect) : Option Nat → State
  | none => s
  | some c => s.modGraph who.job who.graph (fun g => { g with
      acts := { colour := c, who := who, stamp := (s.strand who.sid).pts, fx := fx } ::
        g.acts.filter (fun a => a.colour != c && s.colourBusy who.job who.graph a.colour) })

/-! ## After the effects -/

/-- An ERET that has committed takes hold once the strand's SWRs have been applied (R271, R457). DEDUCED: notes/assumptions/19. -/
def State.tryEret (s : State) (sid : Nat) : State :=
  let x := s.strand sid
  let swr (o : OutItem) : Bool := match o with
    | .rel (.swr ..) => true
    | _ => false
  match x.eret with
  | none => s
  | some skip => if x.out.any swr then s else s.setStrand sid { x.leaveTrap skip with eret := none }

/-- YIELD fired in a block that commits (R167). DEDUCED: notes/assumptions/21. -/
def Frame.yields (f : Frame) : Bool :=
  f.slots.any (fun sl => opOf sl.word == 0xA9 && sl.fired && sl.pred != some .null)

/-- Contexts of a core, other than one, that have a ready block. DEDUCED: notes/assumptions/21. -/
def State.readyOthers (s : State) (core ctx : Nat) : List Nat :=
  (List.range 4).filter (fun c => c != ctx && s.mapReady (mkSid core c))

/-- CANCEL for a job (R418, R55): of a unit of its own; none: the unit is not live. -/
def State.cancelOf (s : State) (job lev id : Nat) : Option State :=
  let unit := unitOf lev id job
  let holder (sid : Nat) : Option Owner :=
    if (s.strand sid).live then some (s.strand sid).who
    else if thas s.core.holds sid then some (tget s.core.holds sid).who
    else if thas s.core.saved sid then some (tget s.core.saved sid).who
    else none
  let mine := match lev with
    | 0 => (match holder id with
      | some o => o.job == job
      | none => false)
    | 1 => (s.launch id).used && (s.launch id).job == job
    | 4 => id == job
    | _ => true
  if mine && s.cancelable lev unit then some (s.cancelUnit lev unit) else none

/-- CANCEL at commit (R418): NOT_LIVE is posted. -/
def State.cancelBy (s : State) (who : Owner) (lev id : Nat) : State :=
  (s.cancelOf who.job lev id).getD (s.post who 0x30 3 id)

/-- Where the strand goes after its block (R34, R103 to R108, R270, R271). -/
def State.leaveBlock (s : State) (core : Nat) (f : Frame) : State :=
  let sid := f.sid
  let who := (s.strand sid).who
  match f.exit with
  | none => s
  | some (i, next) =>
    let op := opOf (f.slot i).word
    if op = 7 then
      let s1 := s.abortAll sid
      if (s1.strand sid).hmode then s1.killStrand sid statusFaulted
      else
        let p := (s1.strand sid).pts
        let s2 := (s1.retire sid).leaseSweep who
        match f.fx.find? (fun x => match x.2 with
          | .ctxr _ => true
          | _ => false) with
        | some (_, .ctxr t) => s2.restoreContext t p
        | _ => s2
    else if op = 6 then
      (s.modStrand sid (fun x => { x with pc := f.link })).takeTrap sid
        { cause := causeScall, slot := some i, arg := tokVal (f.slot i).left } f.link 0
    else if op = 0xE5 then
      let skip := match slotInstr (f.slot i) with
        | some (.eret _ k) => k
        | _ => false
      (s.modStrand sid (fun x => { x with eret := some skip })).tryEret sid
    else s.modStrand sid (fun x => { x with pc := next.getD x.pc })

/-- Registers after the PUTRs and the link of a call (R34, R105, R113). -/
def Frame.newRegs (f : Frame) (regs : Tab Word) : Tab Word :=
  let r1 := f.regw.foldl (fun r x => match x.2.2 with
    | some v => tset r x.2.1 v
    | none => r) regs
  match f.exit with
  | some (i, _) => if isCallWord (f.slot i).word then tset r1 63 f.link else r1
  | none => r1

/-- Everything but the loads that a commit waits for. DEDUCED: notes/assumptions/24. -/
def State.commitDue (s : State) (core f : Nat) : Bool :=
  let fr := s.frame core f
  let x := s.strand fr.sid
  let fx := fr.effects
  fr.complete && x.live && s.isOldest core f && x.countsFit fx && s.cellsFit core fx && s.putsFit fr fx && s.agnsFree fx &&
  s.tagsFit fx && fr.writesOf.all (fun g => !x.atoms.any (fun a => a.1 == g)) && s.readsDue fr.sid fr &&
  (s.colourFor x.who fx).isSome

/-- A block commits: `p` its strand's PTS after its accesses, `rs` its stores. -/
def State.commitBlock (s : State) (core f p : Nat) (rs : List StoreRec) : State :=
  let fr := s.frame core f
  let sid := fr.sid
  let who := (s.strand sid).who
  let ctx := sid % 4
  let col := (s.colourFor who fr.effects).getD none
  let fx := match col with
    | none => fr.effects
    | some c => fr.effects.map (colourFx c)
  let s1 := s.modStrand sid (fun x => { x with pts := max x.pts p, regs := fr.newRegs x.regs })
  let s2 := fr.gets.foldl (fun st (g : Nat × Nat × Nat) => st.modPipe g.2.1 (fun q => q.drop [g.2.2])) s1
  let s3 := (s2.setFrame core f {}).releaseStores sid rs
  let s4 := (s3.releasePuts sid fx).recordActivation who fx col
  let s5 := fx.foldl (fun st e => st.releaseFx core sid e) s4
  let s6 := if fr.yields then s5.modStrand sid (fun x => { x with yields := s5.readyOthers core ctx }) else s5
  let s7 := s6.leaveBlock core fr
  fx.foldl (fun st e => match e with
    | .cancel lev id => st.cancelBy who lev id
    | _ => st) s7

/-- BLOCK_COMMIT: a block whose loads do not stand is aborted with every younger block of its strand, and re-executes
(R299, R35). -/
def execBlockCommit (core frame : Nat) (s : State) : Res :=
  .next (if !s.commitDue core frame then s
    else
      let fr := s.frame core frame
      match s.stand (s.strand fr.sid).who fr with
      | none => s.abortFrom core frame
      | some (p, rs, s1) => s1.commitBlock core frame p rs)

end Sys2Proof.Machine
end

