-- ==== Sys2Proof/Machine/Integer.lean ====
section
/-! DEFINITION. Machine/Integer.lean: the integer and address forms, the tests and the immediate forms (spec/05 R116 to R120). -/

namespace Sys2Proof.Machine

/-- DIVZ is trap cause 0x06: a division that fires with a zero divisor (R117). -/
def divZero (_l r : Word) : Nat := if r = 0 then 6 else 0

/-- ADD (R116). -/
def execAdd (p : Pr) (ta tb : Tgt) (s : State) : Res := fireWith p .lr [ta, tb] aluAdd s
/-- SUB (R116). -/
def execSub (p : Pr) (ta tb : Tgt) (s : State) : Res := fireWith p .lr [ta, tb] aluSub s
/-- MUL (R116). -/
def execMul (p : Pr) (ta tb : Tgt) (s : State) : Res := fireWith p .lr [ta, tb] aluMul s
/-- MULH (R116). -/
def execMulh (p : Pr) (ta tb : Tgt) (s : State) : Res := fireWith p .lr [ta, tb] aluMulh s
/-- MULHU (R116). -/
def execMulhu (p : Pr) (ta tb : Tgt) (s : State) : Res := fireWith p .lr [ta, tb] aluMulhu s
/-- DIV (R117). -/
def execDiv (p : Pr) (ta tb : Tgt) (s : State) : Res := fireTrap p .lr [ta, tb] divZero aluDiv s
/-- DIVU (R117). -/
def execDivu (p : Pr) (ta tb : Tgt) (s : State) : Res := fireTrap p .lr [ta, tb] divZero aluDivu s
/-- REM (R117). -/
def execRem (p : Pr) (ta tb : Tgt) (s : State) : Res := fireTrap p .lr [ta, tb] divZero aluRem s
/-- REMU (R117). -/
def execRemu (p : Pr) (ta tb : Tgt) (s : State) : Res := fireTrap p .lr [ta, tb] divZero aluRemu s
/-- AND (R116). -/
def execAnd (p : Pr) (ta tb : Tgt) (s : State) : Res := fireWith p .lr [ta, tb] aluAnd s
/-- OR (R116). -/
def execOr (p : Pr) (ta tb : Tgt) (s : State) : Res := fireWith p .lr [ta, tb] aluOr s
/-- XOR (R116). -/
def execXor (p : Pr) (ta tb : Tgt) (s : State) : Res := fireWith p .lr [ta, tb] aluXor s
/-- ANDN (R116). -/
def execAndn (p : Pr) (ta tb : Tgt) (s : State) : Res := fireWith p .lr [ta, tb] aluAndn s
/-- SHL (R116). -/
def execShl (p : Pr) (ta tb : Tgt) (s : State) : Res := fireWith p .lr [ta, tb] aluShl s
/-- SHR (R116). -/
def execShr (p : Pr) (ta tb : Tgt) (s : State) : Res := fireWith p .lr [ta, tb] aluShr s
/-- SAR (R116). -/
def execSar (p : Pr) (ta tb : Tgt) (s : State) : Res := fireWith p .lr [ta, tb] aluSar s
/-- ROTL (R116). -/
def execRotl (p : Pr) (ta tb : Tgt) (s : State) : Res := fireWith p .lr [ta, tb] aluRotl s
/-- MIN (R116). -/
def execMin (p : Pr) (ta tb : Tgt) (s : State) : Res := fireWith p .lr [ta, tb] aluMin s
/-- MAX (R116). -/
def execMax (p : Pr) (ta tb : Tgt) (s : State) : Res := fireWith p .lr [ta, tb] aluMax s
/-- MINU (R116). -/
def execMinu (p : Pr) (ta tb : Tgt) (s : State) : Res := fireWith p .lr [ta, tb] aluMinu s
/-- MAXU (R116). -/
def execMaxu (p : Pr) (ta tb : Tgt) (s : State) : Res := fireWith p .lr [ta, tb] aluMaxu s
/-- ABS (R116). -/
def execAbs (p : Pr) (ta tb : Tgt) (s : State) : Res := fireWith p .l [ta, tb] aluAbs s
/-- NEG (R116). -/
def execNeg (p : Pr) (ta tb : Tgt) (s : State) : Res := fireWith p .l [ta, tb] aluNeg s
/-- CLZ (R116). -/
def execClz (p : Pr) (ta tb : Tgt) (s : State) : Res := fireWith p .l [ta, tb] aluClz s
/-- CTZ (R116). -/
def execCtz (p : Pr) (ta tb : Tgt) (s : State) : Res := fireWith p .l [ta, tb] aluCtz s
/-- POPC (R116). -/
def execPopc (p : Pr) (ta tb : Tgt) (s : State) : Res := fireWith p .l [ta, tb] aluPopc s
/-- BFX (R118). -/
def execBfx (p : Pr) (ta tb : Tgt) (s : State) : Res := fireWith p .lr [ta, tb] aluBfx s
/-- BFI (R118). -/
def execBfi (p : Pr) (ta tb : Tgt) (s : State) : Res := fireWith p .lr [ta, tb] aluBfi s
/-- SEXT (R93, R116). -/
def execSext (p : Pr) (wd : Width) (ta tb : Tgt) (s : State) : Res := fireWith p .l [ta, tb] (aluSext wd) s
/-- ZEXT (R93, R116). -/
def execZext (p : Pr) (wd : Width) (ta tb : Tgt) (s : State) : Res := fireWith p .l [ta, tb] (aluZext wd) s
/-- TEQ (R119). -/
def execTeq (p : Pr) (ta tb : Tgt) (s : State) : Res := fireWith p .lr [ta, tb] testEq s
/-- TNE (R119). -/
def execTne (p : Pr) (ta tb : Tgt) (s : State) : Res := fireWith p .lr [ta, tb] testNe s
/-- TLT (R119). -/
def execTlt (p : Pr) (ta tb : Tgt) (s : State) : Res := fireWith p .lr [ta, tb] testLt s
/-- TLE (R119). -/
def execTle (p : Pr) (ta tb : Tgt) (s : State) : Res := fireWith p .lr [ta, tb] testLe s
/-- TLTU (R119). -/
def execTltu (p : Pr) (ta tb : Tgt) (s : State) : Res := fireWith p .lr [ta, tb] testLtu s
/-- TLEU (R119). -/
def execTleu (p : Pr) (ta tb : Tgt) (s : State) : Res := fireWith p .lr [ta, tb] testLeu s
/-- TBIT (R119). -/
def execTbit (p : Pr) (ta tb : Tgt) (s : State) : Res := fireWith p .lr [ta, tb] testBit s

/-! ## Immediate forms (R120) -/

/-- ADDI (R120). -/
def execAddi (p : Pr) (imm : BitVec 13) (ta : Tgt) (s : State) : Res := fireWith p .l [ta] (fun l _ => aluAdd l (sextImm imm)) s
/-- MULI (R120). -/
def execMuli (p : Pr) (imm : BitVec 13) (ta : Tgt) (s : State) : Res := fireWith p .l [ta] (fun l _ => aluMul l (sextImm imm)) s
/-- ANDI (R120). -/
def execAndi (p : Pr) (imm : BitVec 13) (ta : Tgt) (s : State) : Res := fireWith p .l [ta] (fun l _ => aluAnd l (sextImm imm)) s
/-- ORI (R120). -/
def execOri (p : Pr) (imm : BitVec 13) (ta : Tgt) (s : State) : Res := fireWith p .l [ta] (fun l _ => aluOr l (sextImm imm)) s
/-- XORI (R120). -/
def execXori (p : Pr) (imm : BitVec 13) (ta : Tgt) (s : State) : Res := fireWith p .l [ta] (fun l _ => aluXor l (sextImm imm)) s
/-- TEQI (R120). -/
def execTeqi (p : Pr) (imm : BitVec 13) (ta : Tgt) (s : State) : Res := fireWith p .l [ta] (fun l _ => testEq l (sextImm imm)) s
/-- TNEI (R120). -/
def execTnei (p : Pr) (imm : BitVec 13) (ta : Tgt) (s : State) : Res := fireWith p .l [ta] (fun l _ => testNe l (sextImm imm)) s
/-- TLTI (R120). -/
def execTlti (p : Pr) (imm : BitVec 13) (ta : Tgt) (s : State) : Res := fireWith p .l [ta] (fun l _ => testLt l (sextImm imm)) s
/-- TLEI (R120). -/
def execTlei (p : Pr) (imm : BitVec 13) (ta : Tgt) (s : State) : Res := fireWith p .l [ta] (fun l _ => testLe l (sextImm imm)) s
/-- TLTUI (R120). -/
def execTltui (p : Pr) (imm : BitVec 13) (ta : Tgt) (s : State) : Res := fireWith p .l [ta] (fun l _ => testLtu l (sextImm imm)) s
/-- TLEUI (R120). -/
def execTleui (p : Pr) (imm : BitVec 13) (ta : Tgt) (s : State) : Res := fireWith p .l [ta] (fun l _ => testLeu l (sextImm imm)) s
/-- SHLI (R120). -/
def execShli (p : Pr) (imm : BitVec 13) (ta : Tgt) (s : State) : Res := fireWith p .l [ta] (fun l _ => aluShl l (imm.setWidth 64)) s
/-- SHRI (R120). -/
def execShri (p : Pr) (imm : BitVec 13) (ta : Tgt) (s : State) : Res := fireWith p .l [ta] (fun l _ => aluShr l (imm.setWidth 64)) s
/-- SARI (R120). -/
def execSari (p : Pr) (imm : BitVec 13) (ta : Tgt) (s : State) : Res := fireWith p .l [ta] (fun l _ => aluSar l (imm.setWidth 64)) s
/-- BFXI (R120). -/
def execBfxi (p : Pr) (imm : BitVec 13) (ta : Tgt) (s : State) : Res := fireWith p .l [ta] (aluBfxi imm) s

end Sys2Proof.Machine
end

