-- ==== Sys2Proof/Machine/Intersect.lean ====
section
/-! DEFINITION. Machine/Intersect.lean: the intersection unit (spec/07 R183 to R186). -/

namespace Sys2Proof.Machine

/-- The egress port of the intersection unit. -/
def ixPort : Nat := 9

/-! ## The two sides -/

def cellSeq (c : Cell) : Nat := c.aux.toNat % 4096

/-- A side takes up its next cell in sequence order once it has used its last one. -/
def IxJob.pull (right : Bool) : Nat → IxJob → IxJob
  | 0, j => j
  | n + 1, j =>
    let seq := if right then j.rseq else j.lseq
    let here (m : MCell) : Bool := (m.cell.pos == 1) == right && cellSeq m.cell == seq
    if !(if right then j.rq else j.lq).isEmpty then j
    else match takeFirst here j.cells with
      | none => j
      | some (m, rest) =>
        let c := m.cell
        let es := ((List.range (1024 / j.fmt)).filter (fun i => c.present i)).map (fun i => c.elem j.fmt i)
        let j1 := { j with cells := rest, ends := j.ends ++ [(m.who, m.report, c.itag)] }
        IxJob.pull right n
          (if right then { j1 with rq := es, rseq := seq + 1, rend := c.last }
           else { j1 with
             lq := es, lseq := seq + 1, lend := c.last
             itag := if seq = 0 then some c.itag.toNat else j1.itag
             gate := if seq = 0 then c.gate else j1.gate
             md := if seq = 0 then c.cnt.toNat else j1.md
             who := if seq = 0 then m.who else j1.who
             agent := if seq = 0 then m.agent else j1.agent })

def IxJob.pulls (j : IxJob) : IxJob := (IxJob.pull true (j.cells.length + 1) (IxJob.pull false (j.cells.length + 1) j))

/-- Both sides have ended. -/
def IxJob.over (j : IxJob) : Bool := j.lend && j.rend && j.lq.isEmpty && j.rq.isEmpty

/-- A side's first element does not lie above the one before it. DEDUCED: notes/assumptions/52. -/
def outOfOrder (prev : Option Nat) (q : List Nat) : Bool :=
  match prev, q with
  | some p, x :: _ => decide (x ≤ p)
  | _, _ => false

/-! ## One comparison (R185) -/

def noOrdinal : Nat := 0xFFFFFFFF
def pairOf (l r : Nat) : Nat := l % 2 ^ 32 * 2 ^ 32 + r % 2 ^ 32

def IxJob.emit (j : IxJob) (v pair : Nat) : IxJob := { j with outI := j.outI ++ [v], outP := j.outP ++ [pair] }
def IxJob.dropL (j : IxJob) : IxJob := { j with lprev := j.lq.head?, lq := j.lq.drop 1, lord := j.lord + 1 }
def IxJob.dropR (j : IxJob) : IxJob := { j with rprev := j.rq.head?, rq := j.rq.drop 1, rord := j.rord + 1 }

/-- The left side's element lies below the right's, or the right side has ended. -/
def IxJob.takeLeft (j : IxJob) (v : Nat) : IxJob :=
  let out := match j.cop with
    | 0x201 => j.emit v (pairOf j.lord noOrdinal)
    | 0x202 => j.emit v (pairOf j.lord noOrdinal)
    | 0x203 => j.emit v (j.lord % 2 ^ 32)
    | _ => j
  out.dropL

def IxJob.takeRight (j : IxJob) (v : Nat) : IxJob :=
  let out := match j.cop with
    | 0x201 => j.emit v (pairOf noOrdinal j.rord)
    | 0x203 => j.emit v (2 ^ 63 + j.rord % 2 ^ 32)
    | _ => j
  out.dropR

/-- Equal elements. -/
def IxJob.takeBoth (j : IxJob) (v : Nat) : IxJob :=
  match j.cop with
  | 0x200 => ((j.emit v (pairOf j.lord j.rord)).dropL).dropR
  | 0x201 => ((j.emit v (pairOf j.lord j.rord)).dropL).dropR
  | 0x203 => (j.emit v (j.lord % 2 ^ 32)).dropL
  | 0x204 => (({ j with nmatch := j.nmatch + 1 } : IxJob).dropL).dropR
  | _ => (j.dropL).dropR

/-- Elements of an index cell. -/
def IxJob.cap (j : IxJob) : Nat := 1024 / j.fmt

def IxJob.pairs (j : IxJob) : Bool := j.md % 2 == 1

/-- An output cell is full. -/
def IxJob.full (j : IxJob) : Bool := decide (j.outI.length ≥ j.cap) || (j.pairs && decide (j.outP.length ≥ 16))

/-- Why the comparisons pause. -/
inductive IxStop where
  | wait | full | over | disorder
  deriving DecidableEq, Repr

/-- Compare until a cell is full, a side's next cell is missing, or both sides have ended. DEDUCED: notes/assumptions/52. -/
def IxJob.run : Nat → IxJob → IxStop × IxJob
  | 0, j => (.wait, j)
  | n + 1, j0 =>
    let j := j0.pulls
    if j.over then (.over, j)
    else if j.full then (.full, j)
    else if outOfOrder j.lprev j.lq || outOfOrder j.rprev j.rq then (.disorder, j)
    else match j.lq, j.rq with
      | a :: _, b :: _ =>
        IxJob.run n (if a = b then j.takeBoth a else if a < b then j.takeLeft a else j.takeRight b)
      | a :: _, [] => if j.rend then IxJob.run n (j.takeLeft a) else (.wait, j)
      | [], b :: _ => if j.lend then IxJob.run n (j.takeRight b) else (.wait, j)
      | [], [] => (.wait, j)

/-- Elements that a job holds. -/
def IxJob.size (j : IxJob) : Nat := j.lq.length + j.rq.length + 64 * (j.cells.length + 1)

/-! ## Jobs of a cluster -/

def State.ixJobs (s : State) (cl : Nat) : List IxJob := tget s.eng.ixjobs cl
def State.setIxJobs (s : State) (cl : Nat) (l : List IxJob) : State :=
  s.onEng (fun e => { e with ixjobs := tset e.ixjobs cl l })
/-- Put a job back in its place. -/
def State.putIx (s : State) (cl : Nat) (j : IxJob) : State :=
  s.setIxJobs cl ((s.ixJobs cl).map (fun x => if x.age == j.age then j else x))
def State.dropIx (s : State) (cl : Nat) (j : IxJob) : State :=
  s.setIxJobs cl ((s.ixJobs cl).filter (fun x => x.age != j.age))

/-- The job's cell header, as the route's result cell and CMPL take it. -/
def IxJob.head (j : IxJob) : Cell :=
  { ctx := BitVec.ofNat 6 j.ctx, col := BitVec.ofNat 8 j.col, gate := j.gate }

/-- What ends with a job. -/
def IxJob.prod (j : IxJob) (cl : Nat) (rt : Route) : Prod :=
  let t := j.itag.getD 0
  { key := engCtx cl ixPort j.ctx, num := j.num, cts := j.stamp, cmpl := routeCmpl rt j.head t 0
    ends := (j.who, Report.device, 0#24) :: (j.ends ++ j.cells.map (fun m => (m.who, m.report, m.cell.itag))) }

def State.ixRoute (s : State) (cl : Nat) (j : IxJob) : Route := s.route cl ixPort j.ctx j.route
/-- What the job's output cells are sent for, and as which agent (R294). DEDUCED: notes/assumptions/98. -/
def IxJob.carrier (j : IxJob) : MCell := { who := j.who, agent := j.agent }

/-- A job ends with a failing status and sends nothing further (R183). DEDUCED: notes/assumptions/52. -/
def State.ixFail (s : State) (cl : Nat) (j : IxJob) (status : Nat) : State :=
  let s1 := (s.dropIx cl j).postReport cl j.ctx status 2 (j.itag.getD 0)
  s1.endNow cl (16 + ixPort) j.carrier (j.prod cl (s.ixRoute cl j))

/-- An output cell of a stream: its number in the stream gives its tag. What its AUX holds the spec does not state: a free
value. -/
def State.ixCell (s : State) (rt : Route) (j : IxJob) (no bits : Nat) (vs : List Nat) (last : Bool) : Cell × State :=
  let cap := 1024 / bits
  let lanes : Lanes := (List.range cap).map (fun i => vs[i]?)
  let (aux, s1) := s.freshFree
  let c := routeCell rt j.head ((j.itag.getD 0 + no) % 2 ^ 24) 0 last bits lanes (vs.length < cap)
  (({ c with aux := aux.setWidth 16 } : Cell).seal, s1)

/-- Send the cells that are full; with `fin`, the last cell of each stream, whose admission completes the job. DEDUCED: notes/assumptions/52. -/
def State.ixSend (s : State) (cl : Nat) (j : IxJob) (fin : Bool) : Option (IxJob × State) :=
  let rt := s.ixRoute cl j
  let rp := s.route cl ixPort j.ctx (j.route + 1)
  let m := j.carrier
  let out (st : State) (c : Cell) (p : Option Prod) : State :=
    st.sendOut cl (16 + ixPort) { cell := c, stamp := j.stamp, agent := m.agent, who := m.who, report := .engine, prod := p }
  let vs := if j.cop = 0x204 then (if fin then [j.nmatch] else []) else j.outI.take j.cap
  let bits := if j.cop = 0x204 then 64 else j.fmt
  let (ci, s1) := s.ixCell rt j j.nout bits vs fin
  let (cp, s2) := s1.ixCell rp j j.pout 64 (j.outP.take 16) fin
  let sendI := fin || decide (j.outI.length ≥ j.cap)
  let sendP := j.pairs && (fin || decide (j.outP.length ≥ 16))
  let done (b : Bool) : Option Prod := if fin && b then some (j.prod cl rt) else none
  if (sendI && !s.cellOk cl m.who.job ci) || (sendP && !s.cellOk cl m.who.job cp) then none
  else
    let s3 := if sendI then out s2 ci (done (!j.pairs)) else s
    let s4 := if sendP then out s3 cp (done true) else s3
    some ({ j with
      outI := if sendI then j.outI.drop j.cap else j.outI, nout := if sendI then j.nout + 1 else j.nout
      outP := if sendP then j.outP.drop 16 else j.outP, pout := if sendP then j.pout + 1 else j.pout }, s4)

/-- A side out of order: the cells sent stand, and one last cell with no present element follows (R186). -/
def State.ixDisorder (s : State) (cl : Nat) (j : IxJob) : State :=
  let rt := s.ixRoute cl j
  let m := j.carrier
  let (c, s1) := s.ixCell rt j j.nout j.fmt [] true
  let s2 := (s1.dropIx cl j).postReport cl j.ctx 0x9B 2 (j.itag.getD 0)
  if !s.cellOk cl m.who.job c then s2.endNow cl (16 + ixPort) m (j.prod cl rt)
  else s2.sendOut cl (16 + ixPort) {
    cell := c, stamp := j.stamp, agent := m.agent, who := m.who, report := .engine, prod := some (j.prod cl rt) }

/-- What is wrong with a job's modifier and routes: a status, 0 for nothing (R171, R185, R186). DEDUCED: notes/assumptions/49, 52. -/
def State.ixCheck (s : State) (cl : Nat) (j : IxJob) : Nat :=
  let rt := s.ixRoute cl j
  let rp := s.route cl ixPort j.ctx (j.route + 1)
  let fmtOf (r : Route) : Option EFmt := s.cellFmt j.who.job r.tid
  let want := if j.cop = 0x204 then EFmt.int 64 false else EFmt.int j.fmt false
  if j.md ≥ 2 || (j.pairs && (j.route == 15 || j.cop == 0x204)) then 0x90
  else if !rt.v || (j.pairs && !rp.v) then 0x92
  else if (fmtOf rt).isNone || (j.pairs && (fmtOf rp).isNone) then 0x91
  else if (rndOf rt.rnd).isNone then 0x90
  else if fmtOf rt != some want || (j.pairs && fmtOf rp != some (.int 64 false)) then 0x9A
  else 0

/-- A job goes on (R184 to R186). -/
def State.ixAdvance (s : State) (cl : Nat) (j0 : IxJob) : State :=
  let j := j0.pulls
  if j.itag.isNone then s.putIx cl j
  else
    let bad := s.ixCheck cl j
    if bad != 0 then s.ixFail cl j bad
    else
      let (stop, k) := IxJob.run j.size j
      match stop with
      | .wait => s.putIx cl k
      | .disorder => s.ixDisorder cl k
      | .full => (match s.ixSend cl k false with
        | none => s.ixFail cl k 0x90
        | some (k1, s1) => s1.putIx cl k1)
      | .over => (match s.ixSend cl k true with
        | none => s.ixFail cl k 0x90
        | some (_, s1) => s1.dropIx cl k)

/-- Whether a job can go on. -/
def State.ixMoves (s : State) (cl : Nat) (j : IxJob) : Bool :=
  let k := j.pulls
  if k.itag.isNone then k != j
  else s.ixCheck cl k != 0 || (IxJob.run k.size k).1 != .wait || (IxJob.run k.size k).2 != j

/-! ## Arrival (R184) -/

/-- A new job for a cell's key: its operation starts. DEDUCED: notes/assumptions/52. -/
def State.ixOpen (s : State) (cl : Nat) (m : MCell) (fmt : Nat) : IxJob × State :=
  let c := m.cell
  let key := engCtx cl ixPort c.ctx.toNat
  let (num, s1) := s.timeStart key
  let j : IxJob := {
    ctx := c.ctx.toNat, col := c.col.toNat, cop := c.cop.toNat, route := c.aux.toNat / 4096, who := m.who, agent := m.agent, fmt := fmt
    stamp := s.startStamp key 0, age := s.tickNo, num := num }
  (j, ((s1.setIxJobs cl (s1.ixJobs cl ++ [j])).countUp m.who).tickUp)

/-- The oldest delivered cell of an operation joins its job: at once when it is its side's next and that side has used what
it had, otherwise in a stall. -/
def State.ixAccept (s : State) (cl cop : Nat) : Option State :=
  match s.takeInbox cl ixPort cop with
  | none => none
  | some (m, s1) =>
    let c := m.cell
    match s.cellFmt m.who.job c.tid.toNat with
    | none => some (s1.cellEnd cl m 0x91 m.stamp)
    | some f =>
      if c.pos.toNat > 1 then some (s1.cellEnd cl m 0x90 m.stamp)
      else
        let (j, s2) := match (s1.ixJobs cl).find? (fun j => ixMatches j c) with
          | some j => (j, s1)
          | none => s1.ixOpen cl m f.bits
        let right := c.pos == 1
        let next := cellSeq c == (if right then j.rseq else j.lseq) && (if right then j.rq else j.lq).isEmpty
        let stall := if next then some 0 else if m.stall != 0 then some m.stall else s.takeStall cl ixPort m.who c.itag.toNat 1
        match stall with
        | none => none
        | some k =>
          let j1 : IxJob := { j with cells := j.cells ++ [{ m with stall := k }], stamp := max j.stamp m.stamp }
          if f != .int j.fmt false || !(f.bits == 32 || f.bits == 64) then some (s2.ixFail cl j1 0x9A)
          else some (s2.putIx cl j1)

/-- One act of the intersection unit for an operation: a delivered cell joins its job; otherwise the first of its jobs that
has something to do goes on. -/
def State.ixStep (s : State) (cl cop : Nat) : State :=
  match s.ixAccept cl cop with
  | some s1 => s1
  | none =>
    let s0 := match s.takeInbox cl ixPort cop with
      | some (m, _) => s.countShort cl ixPort m.age
      | none => s
    if s.resultWaits cl ixPort then s0
    else match ((s0.ixJobs cl).filter (fun j => j.cop == cop)).find? (s0.ixMoves cl) with
      | none => s0
      | some j => s0.ixAdvance cl j

/-- XINT (R185). -/
def execXint (cl : Nat) (s : State) : Res := .next (s.ixStep cl 0x200)
/-- XUNI (R185). -/
def execXuni (cl : Nat) (s : State) : Res := .next (s.ixStep cl 0x201)
/-- XDIF (R185). -/
def execXdif (cl : Nat) (s : State) : Res := .next (s.ixStep cl 0x202)
/-- XMRG (R185). -/
def execXmrg (cl : Nat) (s : State) : Res := .next (s.ixStep cl 0x203)
/-- XCNT (R185). -/
def execXcnt (cl : Nat) (s : State) : Res := .next (s.ixStep cl 0x204)

end Sys2Proof.Machine
end

