-- ==== Sys2Proof/Machine/KennelData.lean ====
section
/-! DEFINITION. Machine/KennelData.lean: what the kennel kinds compute (spec/17 R354, R355, spec/18 R360 to R362): from a packet
and a view of memory, the bytes a job reads, the bytes it writes and its status. -/

namespace Sys2Proof.Machine

/-! ## Packets and work -/

/-- A view of memory: address and number of bytes to a little-endian number. -/
abbrev View := Nat → Nat → Nat

/-- A job's work: the ranges it reads, in order, the runs of bytes it writes, its status, and how many free values it has
drawn. -/
structure KWork where
  reads  : List (Nat × Nat) := []
  writes : List (Nat × List Byte) := []
  status : Nat := 0
  frees  : Nat := 0
  deriving DecidableEq, Repr

/-- The words of a packet. -/
abbrev Packet := Nat → Nat

def kKind (w : Packet) : Nat := bits (w 0) 60 4
/-- The count of word 0. -/
def kCount (w : Packet) : Nat := bits (w 0) 32 28
/-- FMT of word 0 [31:24]. -/
def kFmt (w : Packet) : Nat := bits (w 0) 24 8
/-- An address word. -/
def kAddr (w : Packet) (i : Nat) : Nat := bits (w i) 0 57
def kDoneAddr (w : Packet) : Nat := kAddr w 3

def statusKfmt : Nat := 0x63

/-- Whether a format code stands in a list; a code of no format breaks the packet instead (R360, R362). -/
def fmtIn (code : Nat) (l : List Nat) : Bool := l.contains code
def fmtListed (code : Nat) : Bool := (efmt code).isSome

/-- Equal or disjoint ranges (SORT). -/
def rangesOk (a n b m : Nat) : Bool := (a == b && n == m) || decide (a + n ≤ b) || decide (b + m ≤ a) || n == 0 || m == 0

def addrsOk (w : Packet) (is : List Nat) : Bool := is.all (fun i => decide (w i < 2 ^ 57))
def zerosFrom (w : Packet) (i : Nat) : Bool := (List.range 16).all (fun k => decide (k < i) || w k == 0)

/-- Bytes of an element of a kind's formats. -/
def fmtBytes (code : Nat) : Nat :=
  match efmt code with
  | some f => f.bits / 8
  | none => 1

/-- SORT's ranges: keys in and out, values in and out, each with its length in bytes. -/
def sortRanges (w : Packet) : List (Nat × Nat) × List (Nat × Nat) :=
  let n := kCount w
  let e := n * fmtBytes (kFmt w)
  let v := n * bits (w 0) 16 8
  ([(kAddr w 1, e), (kAddr w 5, v)], [(kAddr w 2, e), (kAddr w 6, v)])

/-- Whether a packet stands within its table (R354, R360, R361); formats apart. DEDUCED: notes/assumptions/74. -/
def kjobPacketOk (w : Packet) : Bool :=
  let c := kCount w
  let lo (a n : Nat) : Bool := bits (w 0) a n == 0
  kDoneAddr w % 8 == 0 && addrsOk w [1, 2, 3] && decide (w 4 < 2 ^ 56) &&
  (match kKind w with
   | 0 => zerosFrom w 5 && lo 17 15 && decide (1 ≤ c) && decide (1 ≤ bits (w 0) 0 8 ∧ bits (w 0) 0 8 ≤ 16) &&
          fmtListed (bits (w 0) 8 8)
   | 1 =>
     let (ins, outs) := sortRanges w
     zerosFrom w 7 && addrsOk w [5, 6] && lo 1 15 && decide (1 ≤ c) && [0, 4, 8].contains (bits (w 0) 16 8) &&
     fmtListed (kFmt w) &&
     ins.all (fun (a : Nat × Nat) => outs.all (fun (b : Nat × Nat) => rangesOk a.1 a.2 b.1 b.2))
   | 2 => zerosFrom w 7 && addrsOk w [6] && decide (w 5 < 2 ^ 32) && lo 1 31 && decide (1 ≤ c)
   | 3 => zerosFrom w 7 && addrsOk w [5, 6] && decide (1 ≤ bits (w 0) 0 24) && fmtListed (kFmt w)
   | 4 => zerosFrom w 8 && addrsOk w [5, 6, 7] && lo 2 22 && fmtListed (kFmt w)
   | 5 => zerosFrom w 8 && addrsOk w [5, 6] && decide (w 7 < 2 ^ 32) && lo 2 10 && decide (1 ≤ bits (w 0) 12 12) &&
          decide (bits (w 0) 0 2 < 3) && fmtListed (kFmt w)
   | 6 =>
     let k := bits (w 0) 8 16
     zerosFrom w 9 && addrsOk w [5, 8] && decide (w 7 < 2 ^ 32) && decide (1 ≤ w 6 ∧ w 6 ≤ 2 ^ 24) && lo 1 7 &&
     decide (1 ≤ k ∧ k ≤ 4096 ∧ k ≤ w 6) && fmtListed (kFmt w)
   | 7 => zerosFrom w 7 && addrsOk w [6] && c == 0 && lo 1 15 && decide (1 ≤ bits (w 0) 16 8) && decide (w 5 < 2 ^ 63) &&
          decide (1 ≤ bits (w 5) 42 21 ∧ 1 ≤ bits (w 5) 21 21 ∧ 1 ≤ bits (w 5) 0 21) && fmtListed (kFmt w)
   | _ => false)

/-- Whether a packet's format is one that its kind takes. DEDUCED: notes/assumptions/74. -/
def packetFmtOk (w : Packet) : Bool :=
  match kKind w with
  | 0 => fmtIn (bits (w 0) 8 8) [0x10, 0x11]
  | 1 => fmtIn (kFmt w) [0x03, 0x04, 0x07, 0x08, 0x11, 0x10]
  | 2 => true
  | 5 => fmtIn (kFmt w) [0x11, 0x12, 0x13]
  | 6 => fmtIn (kFmt w) [0x11, 0x13]
  | _ => fmtIn (kFmt w) [0x10, 0x11]

/-! ## Arithmetic with one rounding (R123, R361) -/

def rnd (f : FFmt) (v : FV) : Nat := fround f .rne false 0 v
def kAdd (f : FFmt) (a b : Nat) : Nat := rnd f (fvAdd .rne (fdec f a) (fdec f b))
def kSub (f : FFmt) (a b : Nat) : Nat := rnd f (fvAdd .rne (fdec f a) (fdec f b).neg)
def kMul (f : FFmt) (a b : Nat) : Nat := rnd f (fvMul (fdec f a) (fdec f b))
def kDiv (f : FFmt) (a b : Nat) : Nat := rnd f (fvDiv (fdec f a) (fdec f b))

def kFloat (code : Nat) : FFmt :=
  match efmt code with
  | some (.flt f) => f
  | _ => fp32

/-- Elements i .. i + n - 1 of e bytes from an address. -/
def viewElems (rd : View) (a e i n : Nat) : List Nat := (List.range n).map (fun k => rd (a + e * (i + k)) e)
/-- Elements as bytes. -/
def elemBytes (e : Nat) (vs : List Nat) : List Byte := (vs.map (fun v => leBytes e v)).flatten

/-! ## FFTX (R354, R355) -/

/-- cos (`c`) or sin of 2πm/N, m < N: the angle less the quarter turns before it. -/
def turnEnc (c : Bool) (m n p : Nat) : Enclosure :=
  let k := 4 * m / n
  let r : Int := (piLow p * (4 * m % n) / (2 * n) : Nat)
  let slack : Int := (piErr p : Int) + 64 * p + 64
  let r2 : Int := r * r / 2 ^ p
  let q := if c then k + 1 else k
  let v := if q % 2 = 0 then circleSeries p r2 (2 * p) r 1 0 else circleSeries p r2 (2 * p) (2 ^ p) 0 0
  let v := if q % 4 ≥ 2 then -v else v
  (v - slack, v + slack)

/-- cos or sin of 2πm/N, correctly rounded. At quarter turns it is exact, and its zeros are +0. -/
def turnOf (f : FFmt) (c : Bool) (m n : Nat) : Nat :=
  if 4 * m % n = 0 then
    let q := (4 * m / n + (if c then 1 else 0)) % 4
    rnd f (if q = 1 then .fin false 1 1 0 else if q = 3 then .fin true 1 1 0 else .fin false 0 1 0)
  else settle (rnd f) (turnEnc c m n) [128, 192, 256, 512]

/-- Twiddle factor e^(∓2πi m/N): cosine and sine (the sine is negated unless INV). -/
def twiddle (f : FFmt) (inv : Bool) (m n : Nat) : Nat × Nat :=
  let s := turnOf f false m n
  (turnOf f true m n, if inv || (fdec f s).isZero then s else rnd f (fdec f s).neg)

/-- Bits of i in reverse, of l bits. -/
def bitReverse : Nat → Nat → Nat
  | 0, _ => 0
  | l + 1, i => i % 2 * 2 ^ l + bitReverse l (i / 2)

/-- One butterfly. -/
def butterfly (f : FFmt) (w a b : Nat × Nat) : (Nat × Nat) × (Nat × Nat) :=
  let pr := kSub f (kMul f w.1 b.1) (kMul f w.2 b.2)
  let pi := kAdd f (kMul f w.1 b.2) (kMul f w.2 b.1)
  ((kAdd f a.1 pr, kAdd f a.2 pi), (kSub f a.1 pr, kSub f a.2 pi))

/-- One stage over groups of 2h points. -/
def fftStage (f : FFmt) (inv : Bool) (n h : Nat) (xs : List (Nat × Nat)) : List (Nat × Nat) :=
  ((List.range (n / (2 * h))).map (fun g =>
    let prs := (List.range h).map (fun t =>
      butterfly f (twiddle f inv (t * (n / (2 * h))) n) (xs.getD (g * 2 * h + t) (0, 0)) (xs.getD (g * 2 * h + h + t) (0, 0)))
    prs.map (fun x => x.1) ++ prs.map (fun x => x.2))).flatten

def fftStages (f : FFmt) (inv : Bool) (n : Nat) : Nat → Nat → List (Nat × Nat) → List (Nat × Nat)
  | 0, _, xs => xs
  | l + 1, h, xs => fftStages f inv n l (2 * h) (fftStage f inv n h xs)

def plusZero (f : FFmt) (v : Nat) : Nat := if (fdec f v).isZero then 0 else v

/-- A transform of 2^l points. -/
def fft (f : FFmt) (inv : Bool) (l : Nat) (xs : List (Nat × Nat)) : List (Nat × Nat) :=
  let ys := (List.range (2 ^ l)).map (fun i => xs.getD (bitReverse l i) (0, 0))
  (fftStages f inv (2 ^ l) l 1 ys).map (fun x => (plusZero f x.1, plusZero f x.2))

/-- DEDUCED: notes/assumptions/76. -/
def workFftx (rd : View) (w : Packet) : KWork :=
  let code := bits (w 0) 8 8
  let f := kFloat code
  let e := fmtBytes code
  let l := bits (w 0) 0 8
  let size := 2 * 2 ^ l * e
  let one (b : Nat) : Nat × List Byte :=
    let v := viewElems rd (kAddr w 1 + size * b) e 0 (2 * 2 ^ l)
    let xs := (List.range (2 ^ l)).map (fun i => (v.getD (2 * i) 0, v.getD (2 * i + 1) 0))
    (kAddr w 2 + size * b, elemBytes e ((fft f (bitOf (w 0) 16) l xs).map (fun x => [x.1, x.2])).flatten)
  { reads := [(kAddr w 1, size * kCount w)], writes := (List.range (kCount w)).map one }

/-! ## SORT -/

/-- Rank of a key: integers in order; for floats −0 below +0 and every NaN above +∞. -/
def sortRank (code b : Nat) : Nat :=
  match efmt code with
  | some (.int w true) => (b + 2 ^ (w - 1)) % 2 ^ w
  | some (.int _ false) => b
  | some (.flt f) =>
    let w := f.width
    if (fdec f b).isNan then 2 ^ w
    else if b ≥ 2 ^ (w - 1) then 2 ^ w - 1 - b
    else b + 2 ^ (w - 1)
  | _ => b

/-- Insert before the first item that must come after it. -/
def insertRank (before : Nat → Nat → Bool) (x : Nat × Nat × Nat) : List (Nat × Nat × Nat) → List (Nat × Nat × Nat)
  | [] => [x]
  | y :: ys => if before y.1 x.1 then y :: insertRank before x ys else x :: y :: ys

/-- Items (rank, key, value) in order, equal ranks in their own order. -/
def stableSort (desc : Bool) (xs : List (Nat × Nat × Nat)) : List (Nat × Nat × Nat) :=
  xs.foldr (insertRank (fun a b => if desc then decide (a > b) else decide (a < b))) []

/-- DEDUCED: notes/assumptions/76. -/
def workSort (rd : View) (w : Packet) : KWork :=
  let n := kCount w
  let code := kFmt w
  let e := fmtBytes code
  let z := bits (w 0) 16 8
  let ks := viewElems rd (kAddr w 1) e 0 n
  let vs := if z = 0 then ks else viewElems rd (kAddr w 5) z 0 n
  let out := stableSort (bitOf (w 0) 0) ((ks.zip vs).map (fun x => (sortRank code x.1, x.1, x.2)))
  { reads := [(kAddr w 1, n * e)] ++ (if z = 0 then [] else [(kAddr w 5, n * z)])
    writes := [(kAddr w 2, elemBytes e (out.map (fun x => x.2.1)))] ++
      (if z = 0 then [] else [(kAddr w 6, elemBytes z (out.map (fun x => x.2.2)))]) }

/-! ## SPGA -/

/-- Add a contribution to the entry of its key; entries stand in order of key. -/
def accTriple (f : FFmt) (k v : Nat) : List (Nat × Nat) → List (Nat × Nat)
  | [] => [(k, v)]
  | (a, s) :: xs =>
    if k < a then (k, v) :: (a, s) :: xs
    else if k = a then (a, kAdd f s v) :: xs
    else (a, s) :: accTriple f k v xs

/-- DESIGN CHOICE: notes/assumptions/75; DEDUCED: notes/assumptions/76. -/
def workSpga (rd : View) (fresh : Nat → Nat) (w : Packet) : KWork :=
  let n := kCount w
  let code := kFmt w
  let e := fmtBytes code
  let cap := bits (w 0) 0 24
  let reads := [(kAddr w 1, 16 * n)]
  let triple (i : Nat) : Nat × Nat :=
    let a := kAddr w 1 + 16 * i
    (rd a 4 * 2 ^ 32 + rd (a + 4) 4, rd (a + 8) e)
  let es := (List.range n).foldl (fun acc i => accTriple (kFloat code) (triple i).1 (triple i).2 acc) []
  -- the scratch area holds what the engine has left there
  let scratch := (List.range (4 * cap)).map (fun i => (kAddr w 5 + 8 * i, leBytes 8 (fresh i)))
  if es.length > cap then { reads := reads, writes := scratch, status := 0x66, frees := 4 * cap }
  else
    let entry (x : Nat × (Nat × Nat)) : List Byte :=
      leBytes 4 (x.2.1 / 2 ^ 32) ++ leBytes 4 (x.2.1 % 2 ^ 32) ++ leBytes e x.2.2 ++
        leBytes (8 - e) (fresh (4 * cap + x.1))
    { reads := reads, frees := 4 * cap + es.length
      writes := scratch ++ (((List.range es.length).zip es).map (fun x => (kAddr w 2 + 16 * x.1, entry x))) ++
        [(kAddr w 6, leBytes 8 es.length)] }

/-! ## TRSV -/

/-- Solve rows in the order given: unknowns so far by row; the flag says that a diagonal was missing or zero. -/
def solveRows (rd : View) (w : Packet) : List Nat → List (Nat × Nat) × Bool → List (Nat × Nat) × Bool
  | [], r => r
  | i :: is, (xs, zero) =>
    let e := fmtBytes (kFmt w)
    let f := kFloat (kFmt w)
    let p := rd (kAddr w 1 + 8 * i) 8
    let q := rd (kAddr w 1 + 8 * (i + 1)) 8
    let ents := (List.range (q - p)).map (fun k => (rd (kAddr w 5 + 8 * (p + k)) 8, rd (kAddr w 6 + e * (p + k)) e))
    let off := ents.filter (fun c => if bitOf (w 0) 1 then decide (c.1 > i) else decide (c.1 < i))
    let s := off.foldl (fun s c => kSub f s (kMul f c.2 (((xs.find? (fun y => y.1 == c.1)).getD (0, 0)).2)))
      (rd (kAddr w 7 + e * i) e)
    if bitOf (w 0) 0 then solveRows rd w is ((i, s) :: xs, zero)
    else
      let d := ((ents.find? (fun c => c.1 == i)).getD (i, 0)).2
      let none' := (fdec f d).isZero
      solveRows rd w is ((i, kDiv f s (if none' then 0 else d)) :: xs, zero || none')

/-- DESIGN CHOICE: notes/assumptions/75; DEDUCED: notes/assumptions/76. -/
def workTrsv (rd : View) (fresh : Nat → Nat) (w : Packet) : KWork :=
  let n := kCount w
  let e := fmtBytes (kFmt w)
  let first := rd (kAddr w 1) 8
  let nnz := rd (kAddr w 1 + 8 * n) 8 - first
  let reads := [(kAddr w 1, 8 * (n + 1)), (kAddr w 5 + 8 * first, 8 * nnz), (kAddr w 6 + e * first, e * nnz),
    (kAddr w 7, e * n)]
  let bad := (viewElems rd (kAddr w 5) 8 first nnz).any (fun c => decide (c ≥ n))
  if bad then
    { reads := reads, status := 0x90, frees := n
      writes := (List.range n).map (fun i => (kAddr w 2 + e * i, leBytes e (fresh i))) }
  else
    let rows := if bitOf (w 0) 1 then (List.range n).reverse else List.range n
    let (xs, zero) := solveRows rd w rows ([], false)
    { reads := reads, status := if zero then 0x67 else 0
      writes := xs.reverse.map (fun x => (kAddr w 2 + e * x.1, leBytes e x.2)) }

/-! ## EMBG -/

/-- Combine rows of FP32 values element by element, in order. -/
def bagCombine (op : Nat) (d : Nat) (rows : List (List Nat)) : List Nat :=
  match rows with
  | [] => List.replicate d 0
  | r :: rs =>
    let z := rs.foldl (fun acc row => (acc.zip row).map (fun x =>
      if op = 2 then fminBits fp32 true x.1 x.2 else kAdd fp32 x.1 x.2)) r
    if op = 1 then z.map (fun v => kDiv fp32 v (rnd fp32 (intFV rows.length))) else z

/-- DEDUCED: notes/assumptions/76. -/
def workEmbg (rd : View) (w : Packet) : KWork :=
  let n := kCount w
  let code := kFmt w
  let f := kFloat code
  let e := fmtBytes code
  let d := bits (w 0) 12 12
  let offs := viewElems rd (kAddr w 6) 4 0 (n + 1)
  let first := offs.getD 0 0
  let count := offs.getD n 0 - first
  let bag (b : Nat) : List Nat := viewElems rd (kAddr w 5) 4 (offs.getD b 0) (offs.getD (b + 1) 0 - offs.getD b 0)
  let bags := (List.range n).map bag
  let wide (v : Nat) : Nat := rnd fp32 (fdec f v)
  let row (i : Nat) : List Nat := (viewElems rd (kAddr w 1) e (d * i) d).map wide
  let out (is : List Nat) : List Byte :=
    elemBytes e ((bagCombine (bits (w 0) 0 2) d ((is.filter (fun i => decide (i < w 7))).map row)).map
      (fun v => rnd f (fdec fp32 v)))
  { reads := [(kAddr w 6, 4 * (n + 1)), (kAddr w 5 + 4 * first, 4 * count)] ++
      ((bags.flatten.filter (fun i => decide (i < w 7))).map (fun i => (kAddr w 1 + e * d * i, e * d)))
    writes := ((List.range n).zip bags).map (fun x => (kAddr w 2 + e * d * x.1, out x.2))
    status := if bags.flatten.any (fun i => decide (i ≥ w 7)) then 0x68 else 0 }

/-! ## TOPK -/

/-- Whether value a comes before b: larger first, NaN last. -/
def topBefore (f : FFmt) (a b : Nat) : Bool :=
  let x := fdec f a
  let y := fdec f b
  if x.isNan then false else if y.isNan then true else fvCmp x y == some .gt

/-- Items (index, value) in descending order, equal ones in their own order. -/
def topInsert (f : FFmt) (x : Nat × Nat) : List (Nat × Nat) → List (Nat × Nat)
  | [] => [x]
  | y :: ys => if topBefore f y.2 x.2 then y :: topInsert f x ys else x :: y :: ys

/-- Partial sums c_0, c_1, … -/
def partialSums : Nat → List Nat → List Nat
  | c, x :: xs => kAdd fp32 c x :: partialSums (kAdd fp32 c x) xs
  | _, [] => []

/-- The sample of a row (R361): none where no partial sum passes the draw. -/
def topSample (f : FFmt) (seed row : Nat) (xs : List Nat) : Option Nat :=
  let x0 := fdec f (xs.getD 0 0)
  let ws := xs.map (fun x => fnExp2 (rnd fp32) (fdec fp32 (rnd fp32 (fvAdd .rne (fdec f x) x0.neg))))
  let cs := match ws with
    | [] => []
    | v :: vs => v :: partialSums v vs
  let u := srDraw seed row 0
  let t := rnd fp32 (fvMul (.fin false u 1 (-32)) (fdec fp32 (cs.getLastD 0)))
  cs.findIdx? (fun c => fvCmp (fdec fp32 c) (fdec fp32 t) == some .gt)

/-- DESIGN CHOICE: notes/assumptions/75; DEDUCED: notes/assumptions/76. -/
def workTopk (rd : View) (fresh : Nat → Nat) (w : Packet) : KWork :=
  let n := kCount w
  let f := kFloat (kFmt w)
  let e := fmtBytes (kFmt w)
  let k := bits (w 0) 8 16
  let l := w 6
  let top (r : Nat) : List (Nat × Nat) :=
    let vs := viewElems rd (kAddr w 1) e (l * r) l
    (((List.range l).zip vs).foldr (topInsert f) []).take k
  let row (r : Nat) : List (Nat × List Byte) :=
    let ts := top r
    let xs := ts.map (fun x => x.2)
    [(kAddr w 2 + e * k * r, elemBytes e xs), (kAddr w 5 + 4 * k * r, elemBytes 4 (ts.map (fun x => x.1)))] ++
    (if bitOf (w 0) 0 then [(kAddr w 8 + 4 * r, leBytes 4 ((topSample f (w 7) r xs).getD (fresh r)))] else [])
  { reads := [(kAddr w 1, e * l * n)], writes := ((List.range n).map row).flatten, frees := n }

/-! ## STEN -/

/-- The offsets (dz, dy, dx) of a shape, from −1 upward. -/
def stenOffsets (full : Bool) : List (Int × Int × Int) :=
  let r : List Int := [-1, 0, 1]
  let all := (r.map (fun z => (r.map (fun y => r.map (fun x => (z, y, x)))).flatten)).flatten
  if full then all
  else all.filter (fun o => (o.1 != 0).toNat + (o.2.1 != 0).toNat + (o.2.2 != 0).toNat ≤ 1)

/-- One step over a grid. -/
def stenStep (f : FFmt) (nx ny nz : Nat) (os : List (Int × Int × Int)) (cs g : List Nat) : List Nat :=
  let gv (z y x : Int) : Nat :=
    if z < 0 || y < 0 || x < 0 || z ≥ nz || y ≥ ny || x ≥ nx then 0
    else g.getD ((z * ny + y) * nx + x).toNat 0
  (List.range (nx * ny * nz)).map (fun i =>
    let x : Int := (i % nx : Nat)
    let y : Int := (i / nx % ny : Nat)
    let z : Int := (i / nx / ny : Nat)
    let terms := (os.zip cs).map (fun oc => kMul f oc.2 (gv (z + oc.1.1) (y + oc.1.2.1) (x + oc.1.2.2)))
    match terms with
    | [] => 0
    | t :: ts => ts.foldl (kAdd f) t)

def stenSteps (f : FFmt) (nx ny nz : Nat) (os : List (Int × Int × Int)) (cs : List Nat) : Nat → List Nat → List Nat
  | 0, g => g
  | n + 1, g => stenSteps f nx ny nz os cs n (stenStep f nx ny nz os cs g)

/-- DESIGN CHOICE: notes/assumptions/75; DEDUCED: notes/assumptions/76. -/
def workSten (rd : View) (fresh : Nat → Nat) (w : Packet) : KWork :=
  let f := kFloat (kFmt w)
  let e := fmtBytes (kFmt w)
  let nx := bits (w 5) 42 21
  let ny := bits (w 5) 21 21
  let nz := bits (w 5) 0 21
  let n := nx * ny * nz
  let os := stenOffsets (bitOf (w 0) 0)
  let steps := bits (w 0) 16 8
  let out := stenSteps f nx ny nz os (viewElems rd (kAddr w 6) e 0 os.length) steps (viewElems rd (kAddr w 1) e 0 n)
  { reads := [(kAddr w 6, e * os.length), (kAddr w 1, e * n)]
    writes := (if steps ≥ 2 then (List.range n).map (fun i => (kAddr w 1 + e * i, leBytes e (fresh i))) else []) ++
      [(kAddr w 2, elemBytes e out)]
    frees := if steps ≥ 2 then n else 0 }

end Sys2Proof.Machine
end

