-- ==== Sys2Proof/Machine/Inflate.lean ====
section
/-! DEFINITION. Machine/Inflate.lean: the kennel's INFL: raw DEFLATE (RFC 1951) and zlib (RFC 1950) streams (spec/18 R361). -/

namespace Sys2Proof.Machine

/-- A decoder at work on an input of `len` bits: its position, the bytes put out, newest first, how many there are and
how many there may be; `st` 0 goes on, 1 malformed, 2 more output than there may be, 3 the block has ended. -/
structure Inf where
  v    : Nat
  len  : Nat
  pos  : Nat := 0
  out  : List Nat := []
  n    : Nat := 0
  most : Nat
  st   : Nat := 0

def Inf.bad (x : Inf) : Inf := { x with st := 1 }

/-- The next k bits; none: the input has ended. -/
def Inf.take (x : Inf) (k : Nat) : Option (Nat × Inf) :=
  if x.pos + k ≤ x.len then some (bits x.v x.pos k, { x with pos := x.pos + k }) else none

/-- Put out a byte. -/
def Inf.emit (x : Inf) (b : Nat) : Inf :=
  if x.n = x.most then { x with st := 2 } else { x with out := b :: x.out, n := x.n + 1 }

/-- Put out k bytes again from d back. -/
def Inf.copy (x : Inf) (d : Nat) : Nat → Inf
  | 0 => x
  | k + 1 => if x.st != 0 then x else (x.emit (x.out.getD (d - 1) 0)).copy d k

/-! ## Codes (RFC 1951, 3.2.2) -/

/-- A canonical code: how many symbols have each length from 1 to 15, and the symbols in order. -/
structure Huff where
  counts : List Nat
  syms   : List Nat

def huffOf (ls : List Nat) : Huff :=
  let idx := List.range ls.length
  { counts := (List.range 15).map (fun k => (ls.filter (fun l => l == k + 1)).length)
    syms := ((List.range 15).map (fun k => idx.filter (fun i => ls.getD i 0 == k + 1))).flatten }

/-- Whether there are too many codes of some length. -/
def overfull : List Nat → Nat → Bool
  | [], _ => false
  | c :: cs, left => if c > 2 * left then true else overfull cs (2 * left - c)

def Huff.ok (h : Huff) : Bool := !overfull h.counts 1

/-- Decode one symbol: bit by bit through the lengths; none: no such code, or the input has ended. -/
def huffGo (syms : List Nat) : List Nat → Nat → Nat → Nat → Inf → Option (Nat × Inf)
  | [], _, _, _, _ => none
  | c :: cs, code, first, index, x =>
    match x.take 1 with
    | none => none
    | some (b, x1) =>
      let code := code + b
      if code < first + c then some (syms.getD (index + (code - first)) 0, x1)
      else huffGo syms cs (2 * code) (2 * (first + c)) (index + c) x1

def Huff.decode (h : Huff) (x : Inf) : Option (Nat × Inf) := huffGo h.syms h.counts 0 0 0 x

/-! ## Blocks -/

/-- Base length and extra bits of length symbol 257 + i, and of distance symbol i. -/
def lenBase (i : Nat) : Nat × Nat :=
  if i < 8 then (3 + i, 0) else if i = 28 then (258, 0)
  else (3 + (4 + i % 4) * 2 ^ (i / 4 - 1), i / 4 - 1)
def distBase (i : Nat) : Nat × Nat := if i < 4 then (1 + i, 0) else (1 + (2 + i % 2) * 2 ^ (i / 2 - 1), i / 2 - 1)

/-- A length symbol has been read: its distance, and the copy. -/
def Inf.match' (x : Inf) (hd : Huff) (i : Nat) : Inf :=
  let (lb, le) := lenBase i
  match x.take le with
  | none => x.bad
  | some (a, x1) => match hd.decode x1 with
    | none => x1.bad
    | some (d, x2) =>
      if d ≥ 30 then x2.bad
      else
        let (db, de) := distBase d
        match x2.take de with
        | none => x2.bad
        | some (b, x3) => if db + b > x3.n then x3.bad else x3.copy (db + b) (lb + a)

/-- Symbols until the end of the block. -/
def Inf.codes (hl hd : Huff) : Nat → Inf → Inf
  | 0, x => x.bad
  | n + 1, x =>
    if x.st != 0 then x
    else match hl.decode x with
      | none => x.bad
      | some (s, x1) =>
        if s < 256 then Inf.codes hl hd n (x1.emit s)
        else if s = 256 then { x1 with st := 3 }
        else if s > 285 then x1.bad
        else Inf.codes hl hd n (x1.match' hd (s - 257))

/-- A stored block. -/
def Inf.storedBytes : Nat → Inf → Inf
  | 0, x => { x with st := 3 }
  | n + 1, x =>
    if x.st != 0 then x
    else match x.take 8 with
      | none => x.bad
      | some (b, x1) => Inf.storedBytes n (x1.emit b)

def Inf.stored (x : Inf) : Inf :=
  let x0 := { x with pos := (x.pos + 7) / 8 * 8 }
  match x0.take 32 with
  | none => x0.bad
  | some (w, x1) => if w % 65536 + w / 65536 != 65535 then x1.bad else Inf.storedBytes (w % 65536) x1

def fixedLens : List Nat :=
  List.replicate 144 8 ++ List.replicate 112 9 ++ List.replicate 24 7 ++ List.replicate 8 8

/-- Code lengths, run by run, newest first; `left` are still to come. -/
def Inf.lengths (h : Huff) : Nat → Nat → List Nat → Inf → Option (List Nat × Inf)
  | 0, left, acc, x => if left = 0 then some (acc, x) else none
  | n + 1, left, acc, x =>
    if left = 0 then some (acc, x)
    else match h.decode x with
      | none => none
      | some (s, x1) =>
        if s < 16 then Inf.lengths h n (left - 1) (s :: acc) x1
        else
          let (val, base, k) := if s = 16 then (acc.head?, 3, 2) else if s = 17 then (some 0, 3, 3) else (some 0, 11, 7)
          match val, x1.take k with
          | some v, some (r, x2) =>
            if base + r > left then none
            else Inf.lengths h n (left - (base + r)) (List.replicate (base + r) v ++ acc) x2
          | _, _ => none

/-- The order in which a dynamic block gives the lengths of its code-length code. -/
def clOrder : List Nat := [16, 17, 18, 0, 8, 7, 9, 6, 10, 5, 11, 4, 12, 3, 13, 2, 14, 1, 15]

/-- A dynamic block's codes. -/
def Inf.dynamic (x : Inf) : Option (Huff × Huff × Inf) :=
  match x.take 14 with
  | none => none
  | some (w, x1) =>
    let hlit := w % 32 + 257
    let hdist := w / 32 % 32 + 1
    let hclen := w / 1024 + 4
    if hlit > 286 then none
    else match x1.take (3 * hclen) with
      | none => none
      | some (c, x2) =>
        let cl := (List.range 19).map (fun s => match clOrder.findIdx? (fun o => o == s) with
          | some i => if i < hclen then bits c (3 * i) 3 else 0
          | none => 0)
        let hc := huffOf cl
        if !hc.ok then none
        else match Inf.lengths hc (hlit + hdist) (hlit + hdist) [] x2 with
          | none => none
          | some (acc, x3) =>
            let ls := acc.reverse
            let hl := huffOf (ls.take hlit)
            let hd := huffOf (ls.drop hlit)
            if hl.ok && hd.ok then some (hl, hd, x3) else none

/-- Blocks until the final one. -/
def Inf.blocks : Nat → Inf → Inf
  | 0, x => x.bad
  | n + 1, x =>
    match x.take 3 with
    | none => x.bad
    | some (h, x1) =>
      let y := match h / 2 with
        | 0 => x1.stored
        | 1 => Inf.codes (huffOf fixedLens) (huffOf (List.replicate 30 5)) (x1.len + 1) x1
        | 2 => match x1.dynamic with
          | none => x1.bad
          | some (hl, hd, x2) => Inf.codes hl hd (x2.len + 1) x2
        | _ => x1.bad
      if y.st != 3 then y
      else if h % 2 = 1 then { y with st := 0 }
      else Inf.blocks n { y with st := 0 }

/-- A raw stream. -/
def inflateRaw (x : Inf) : Inf := Inf.blocks (x.len + 1) x

/-- Adler-32 of bytes, oldest first. -/
def adler (bs : List Nat) : Nat :=
  let (a, b) := bs.foldl (fun (s : Nat × Nat) v => ((s.1 + v) % 65521, (s.2 + (s.1 + v) % 65521) % 65521)) (1, 0)
  b * 65536 + a

/-- A zlib stream: two header bytes, a raw stream, and its Adler-32, high byte first. -/
def inflateZlib (x : Inf) : Inf :=
  match x.take 16 with
  | none => x.bad
  | some (w, x1) =>
    let cmf := w % 256
    let flg := w / 256
    if cmf % 16 != 8 || cmf / 16 > 7 || (cmf * 256 + flg) % 31 != 0 || bitOf flg 5 then x1.bad
    else
      let y := inflateRaw x1
      if y.st != 0 then y
      else
        let y0 := { y with pos := (y.pos + 7) / 8 * 8 }
        match y0.take 32 with
        | none => y0.bad
        | some (s, y1) =>
          let sum := bits s 0 8 * 2 ^ 24 + bits s 8 8 * 2 ^ 16 + bits s 16 8 * 256 + bits s 24 8
          if sum = adler y1.out.reverse then y1 else y1.bad

/-- INFL. A job that meets malformed data has written some, all or none of the bytes that it had decompressed (the spec does
not say which): each is written where a free value's bit 0 is set. DEDUCED: notes/assumptions/76. -/
def workInfl (rd : View) (fresh : Nat → Nat) (w : Packet) : KWork :=
  let n := w 5
  let x : Inf := { v := leNat ((viewElems rd (kAddr w 1) 1 0 n).map (fun b => BitVec.ofNat 8 b)), len := 8 * n, most := kCount w }
  let y := if bits (w 0) 0 2 = 0 then inflateRaw x else inflateZlib x
  let bs := y.out.reverse
  let reads := [(kAddr w 1, n)]
  if y.st = 1 then
    { reads := reads, status := 0x64, frees := bs.length
      writes := (((List.range bs.length).zip bs).filter (fun b => fresh b.1 % 2 == 1)).map (fun b =>
        (kAddr w 2 + b.1, [BitVec.ofNat 8 b.2])) }
  else
    { reads := reads, status := if y.st = 2 then 0x65 else 0
      writes := [(kAddr w 2, bs.map (fun b => BitVec.ofNat 8 b))] ++
        (if kAddr w 6 = 0 then [] else [(kAddr w 6, leBytes 8 bs.length)]) }

end Sys2Proof.Machine
end

