-- ==== Sys2Proof/Machine/Transfers.lean ====
section
/-! DEFINITION. Machine/Transfers.lean: transfer cells and XNET in the transfer units (spec/20 R406 to R410, spec/15 R316,
R317). -/

namespace Sys2Proof.Machine

/-! ## The payload (R408, R409) -/

/-- Bits lo .. lo + n - 1 of payload word i. -/
def xbits (c : Cell) (i lo n : Nat) : Nat := bits c.pay.toNat (64 * i + lo) n

def isXnet (c : Cell) : Bool := c.cop == 0x306
def xferNop (c : Cell) : Nat := xbits c 0 36 4
/-- Bytes that a cell moves. -/
def xferLen (c : Cell) : Nat :=
  if isXnet c then xbits c 1 0 32 else if xbits c 0 40 24 = 0 then 2 ^ 24 else xbits c 0 40 24
def xferLagn (c : Cell) : Nat := xbits c 0 35 5
/-- Address of the done word. -/
def xferDoneAddr (c : Cell) : Nat := if isXnet c then xbits c 5 0 57 else xbits c 2 0 57

/-- Whether RADDR has the form that its COP asks for: XRRD and XRWR name a cluster of the partition. -/
def State.raddrOk (s : State) (cl : Nat) (c : Cell) : Bool :=
  if c.cop == 0x302 || c.cop == 0x303 then
    xbits c 1 54 3 == 0 && xbits c 1 45 3 == 0 && xbits c 1 35 5 == 0 && decide (xbits c 1 48 6 < 48) &&
    s.partOfCluster (xbits c 1 48 6) == s.partOfCluster cl
  else true

/-- Whether a transfer cell's header and payload are well formed (R408, R409). DEDUCED: notes/assumptions/80. -/
def State.xferOk (s : State) (cl : Nat) (m : MCell) : Bool :=
  let c := m.cell
  if isXnet c then
    let qp := tget s.lnk.qps (xbits c 0 40 24)
    decide (xferNop c ≤ 2) && decide (1 ≤ xferLen c ∧ xferLen c ≤ 2 ^ 31) && qp.valid && qp.job == m.who.job &&
    xferDoneAddr c % 8 == 0
  else
    c.pos == 0 && c.cnt == 0 && c.side == 0 && c.run == 0 && xbits c 1 57 7 == 0 && xbits c 2 57 7 == 0 &&
    xferDoneAddr c % 8 == 0 && xbits c 3 2 62 == 0 && bits c.pay.toNat 256 768 == 0 && s.raddrOk cl c

/-! ## Operations -/

def xferKey (cl xf n : Nat) : Nat := (cl * 2 + xf) * 2 ^ 16 + n
def State.xferOp (s : State) (k : Nat) : XferOp := tget s.acc.xfers k
/-- Change an operation that is still there. -/
def State.modXfer (s : State) (k : Nat) (f : XferOp → XferOp) : State :=
  s.onAcc (fun a => { a with xfers := tmod a.xfers k (fun o => if o.used then f o else o) })

/-- The timeline of a transfer unit for a context tag (ENG 11, 12 of R167). -/
def xferTime (cl xf : Nat) (m : MCell) : Nat := engCtx cl (11 + xf) m.cell.ctx.toNat

/-- The operation is complete (R410): its number, its counts and its status. -/
def State.xferEnd (s : State) (k cl xf status cts : Nat) : State :=
  let o := s.xferOp k
  let s1 := (s.timeEnd (xferTime cl xf o.cell) o.num cts).onAcc (fun a => { a with xfers := tdel a.xfers k })
  s1.cellEnd cl o.cell status cts

/-- A transfer stops at a page (R277). -/
def State.xferFault (s : State) (k cl agn cause va : Nat) : State :=
  let m := (s.xferOp k).cell
  s.faultWait (clusterQuarter (k / 2 ^ 17)) m.who.job cause 2 (m.agent / 32) agn cl va m.cell.itag.toNat (waiterXfer k)

/-- The done word, then completion (R410). Its accesses are over: status, timestamps and bytes moved stand in the
operation. -/
def State.xferFlag (s : State) (k cl xf : Nat) : State :=
  let o := s.xferOp k
  let c := o.cell.cell
  if xferDoneAddr c = 0 && !isXnet c then s.xferEnd k cl xf o.status o.cts
  else
    let word := o.status * 2 ^ 56 + o.sent % 2 ^ 56
    match s.spanVa (clusterQuarter cl) o.cell.who.job true 8 (xferDoneAddr c) 8 with
    | .error (e, va) => s.xferFault k cl (xferLagn c) e va
    | .ok ps => match s.writePieces (s.partOfCluster cl) o.maxw o.cell.agent ps word with
      | .error e => s.xferEnd k cl xf (if o.status = 0 then causeStatus e else o.status) o.cts
      | .ok (u, s1) => s1.xferEnd k cl xf o.status (max o.cts u)

/-- The accesses of a transfer are over: its status, the P of its done word, its timestamp and the bytes it moved. DEDUCED: notes/assumptions/80. -/
def State.xferDone (s : State) (k cl xf status p cts moved : Nat) : State :=
  (s.modXfer k (fun o => { o with stage := 3, status := status, maxw := p, cts := cts, sent := moved })).xferFlag k cl xf

/-! ## Accesses -/

/-- The bytes of an AGN of a cluster under the job's context tag there. -/
def State.agnSpan (s : State) (cl n job off len : Nat) (write : Bool) : Span :=
  let a := s.agn (s.jobAgn job cl n)
  s.byteSpan cl a.core job (agnRec a.words) off len write

/-- The caches that the places of a span meet through an AGN's window. -/
def State.spanFill (s : State) (cl n job : Nat) (na : Bool) (x : Span) : State :=
  let r := agnRec (s.agn (s.jobAgn job cl n)).words
  match x with
  | .places ps => ps.foldl (fun st p => st.engFill cl job 6 r na p.1) s
  | _ => s

/-- A side of a transfer: the cluster and AGN it goes through (none: a virtual address), and its places. -/
structure XferSide where
  cl   : Nat
  agn  : Option Nat
  span : Span

/-- LAGN's side. -/
def State.localSide (s : State) (cl : Nat) (m : MCell) (write : Bool) : XferSide :=
  let c := m.cell
  { cl := cl, agn := some (xferLagn c)
    span := s.agnSpan cl (xferLagn c) m.who.job (xbits c 0 0 35) (xferLen c) write }

/-- The remote side of XRD, XWR, XRRD and XRWR. -/
def State.remoteSide (s : State) (cl : Nat) (m : MCell) (write : Bool) : XferSide :=
  let c := m.cell
  let job := m.who.job
  if c.cop == 0x302 || c.cop == 0x303 then
    let rc := xbits c 1 48 6
    { cl := rc, agn := some (xbits c 1 40 5), span := s.agnSpan rc (xbits c 1 40 5) job (xbits c 1 0 35) (xferLen c) write }
  else
    { cl := cl, agn := none
      span := spanOf (s.spanVa (clusterQuarter cl) job write (xferLen c) (xbits c 1 0 57) (xferLen c)) }

def State.sideFill (s : State) (job : Nat) (x : XferSide) (na : Bool) : State :=
  match x.agn with
  | none => s
  | some n => s.spanFill x.cl n job na x.span

/-- Move the bytes of one side to the other (R410): read at a timestamp of at least the start stamp, write, and then the
done word. `out`: the destination is the remote side. DEDUCED: notes/assumptions/80. -/
def State.xferMove (s : State) (k cl xf p : Nat) (m : MCell) (src dst : XferSide) (out : Bool) : State :=
  let root := s.partOfCluster cl
  let job := m.who.job
  let n := xferLen m.cell
  let fault (x : XferSide) (e va : Nat) : State := s.xferFault k x.cl (x.agn.getD (xferLagn m.cell)) e va
  match src.span, dst.span with
  | .bad st, _ => s.xferDone k cl xf st p p 0
  | _, .bad st => s.xferDone k cl xf st p p 0
  | .fault e va, _ => fault src e va
  | _, .fault e va => fault dst e va
  | .places ss, .places ds =>
    match s.readSpan root p (.places ss) with
    | .bad st => s.xferDone k cl xf st p p 0
    | .fault e va => fault src e va
    | .got v t s1 =>
      let s2 := s1.sideFill job src (bitOf m.cell.pay.toNat 193)
      match s2.writePieces root p m.agent ds v with
      | .error e => s2.xferDone k cl xf (causeStatus e) t t 0
      | .ok (w, s3) =>
        (s3.sideFill job dst (bitOf m.cell.pay.toNat 192)).xferDone k cl xf 0 (if out then t else w) (max t w) n

/-- Data in hand are written to a side: what a peer or the network has sent (XPRD, an XNET READ). -/
def State.xferStore (s : State) (k cl xf p : Nat) (m : MCell) (dst : XferSide) (bs : List Byte) : State :=
  let root := s.partOfCluster cl
  match dst.span with
  | .bad st => s.xferDone k cl xf st p p 0
  | .fault e va => s.xferFault k dst.cl (dst.agn.getD 0) e va
  | .places ds => match s.writePieces root p m.agent ds (leNat bs) with
    | .error e => s.xferDone k cl xf (causeStatus e) p p 0
    | .ok (w, s1) =>
      (s1.sideFill m.who.job dst (bitOf m.cell.pay.toNat 192)).xferDone k cl xf 0 w (max p w) bs.length

/-- Bytes of a side are read into the operation: what goes to a peer or to the network (XPWR, an XNET WRITE). -/
def State.xferLoad (s : State) (k cl xf p : Nat) (m : MCell) (src : XferSide) (then' : State → List Byte → State) : State :=
  match src.span with
  | .bad st => s.xferDone k cl xf st p p 0
  | .fault e va => s.xferFault k src.cl (src.agn.getD 0) e va
  | .places _ => match s.readSpan (s.partOfCluster cl) p src.span with
    | .bad st => s.xferDone k cl xf st p p 0
    | .fault e va => s.xferFault k src.cl (src.agn.getD 0) e va
    | .got v t s1 =>
      let bs := leBytes (xferLen m.cell) v
      let s2 := s1.sideFill m.who.job src (bitOf m.cell.pay.toNat 193 && !isXnet m.cell)
      then' (s2.modXfer k (fun o => { o with data := bs, maxw := t, cts := t, stage := 2 })) bs

/-- XPRD: the next READ flit, one at a time (R403). -/
def State.xferAsk (s : State) (k cl : Nat) (o : XferOp) : State :=
  let c := o.cell.cell
  let n := min 192 (xferLen c - o.data.length)
  let addr := s.exportAddr o.cell.who.job (xbits c 1 0 41 + o.data.length)
  (s.modXfer k (fun x => { x with stage := 1 })).askPeer (s.partOfCluster cl) (xbits c 1 41 16) o.cell.who.job addr n
    { xfer := some k, off := o.data.length }

/-- XPWR: the next WRITE flit, one at a time (R403). DEDUCED: notes/assumptions/80. -/
def State.xferTell (s : State) (k cl : Nat) : State :=
  let o := s.xferOp k
  let c := o.cell.cell
  let n := min 192 (xferLen c - o.sent)
  let addr := s.exportAddr o.cell.who.job (xbits c 1 0 41 + o.sent)
  (s.modXfer k (fun x => { x with stage := 1 })).tellPeer (s.partOfCluster cl) (xbits c 1 41 16) o.cell.who.job addr
    ((o.data.drop o.sent).take n) { xfer := some k, off := o.sent }

/-- The side that an XNET's local address names. -/
def State.xnetSide (s : State) (cl : Nat) (m : MCell) (len : Nat) (write : Bool) : XferSide :=
  { cl := cl, agn := none
    span := spanOf (s.spanVa (clusterQuarter cl) m.who.job write len (xbits m.cell 2 0 57) len) }

/-- An XNET's request goes out over its queue pair (R407, R408). -/
def State.xnetSend (s : State) (k : Nat) (c : Cell) (bs : List Byte) : State :=
  let msg : EthMsg :=
    { qpn := xbits c 0 40 24, kind := xferNop c, imm := if xferNop c = 1 then xbits c 0 0 32 else 0, len := xferLen c,
      addr := xbits c 3 0 64, rkey := xbits c 4 0 32, data := bs }
  (s.modXfer k (fun x => { x with stage := 1 })).onLnk (fun l => { l with ethOut := l.ethOut ++ [msg] })

/-- XNET goes as far as it now can (R408): stage 1 waits for the network, stage 2 has its answer. DEDUCED: notes/assumptions/80. -/
def State.xnetStep (s : State) (k cl xf p : Nat) (o : XferOp) : State :=
  let m := o.cell
  if o.stage = 1 then s
  else if o.status != 0 then s.xferDone k cl xf o.status (max p o.maxw) (max p o.cts) 0
  else if xferNop m.cell = 2 then
    (if o.stage = 0 then s.xnetSend k m.cell []
     else s.xferStore k cl xf p m (s.xnetSide cl m o.data.length true) o.data)
  else if o.stage = 0 then
    s.xferLoad k cl xf p m (s.xnetSide cl m (xferLen m.cell) false) (fun st bs => st.xnetSend k m.cell bs)
  else s.xferDone k cl xf 0 (max p o.maxw) (max p o.cts) (xferLen m.cell)

/-- A transfer goes as far as it now can (R410). -/
def State.xferGo (s : State) (k cl xf : Nat) (o : XferOp) : State :=
  let m := o.cell
  let c := m.cell
  let p := s.startStamp (xferTime cl xf m) m.stamp
  if o.stage = 3 then s.xferFlag k cl xf
  else if isXnet c then s.xnetStep k cl xf p o
  else if c.cop == 0x300 || c.cop == 0x302 then s.xferMove k cl xf p m (s.remoteSide cl m false) (s.localSide cl m true) false
  else if c.cop == 0x301 || c.cop == 0x303 then s.xferMove k cl xf p m (s.localSide cl m false) (s.remoteSide cl m true) true
  else if o.stage = 1 then s
  else if o.status != 0 then s.xferDone k cl xf o.status (max p o.maxw) (max p o.cts) o.sent
  else if c.cop == 0x304 then
    let dst := s.localSide cl m true
    match dst.span with
    | .places _ => if o.data.length ≥ xferLen c then s.xferStore k cl xf p m dst o.data else s.xferAsk k cl o
    | _ => s.xferStore k cl xf p m dst o.data
  else if o.stage = 2 then
    (if o.sent ≥ xferLen c then s.xferDone k cl xf 0 o.maxw o.cts o.sent else s.xferTell k cl)
  else s.xferLoad k cl xf p m (s.localSide cl m false) (fun st _ => st.xferTell k cl)

/-- TRANSFER_COMPLETE: an operation of a transfer unit goes as far as it now can. -/
def State.xferStep (s : State) (cl xf n : Nat) : State :=
  let k := xferKey cl xf n
  let o := s.xferOp k
  let w := waiterXfer k
  if !o.used then s
  else match s.gate o.cell.who.job w with
    | .wait => s
    | .ends st =>
      let s1 := s.ungate o.cell.who.job w
      if o.stage = 3 then s1.xferEnd k cl xf (if o.status = 0 then st else o.status) o.cts
      else s1.xferDone k cl xf st (max o.cell.stamp o.maxw) (max o.cell.stamp o.cts) 0
    | .go => s.xferGo k cl xf o

/-! ## Arrival -/

/-- A transfer cell is acted on: numbered on arrival (R410), and refused or recorded (R408, R409). DEDUCED: notes/assumptions/80. -/
def State.xferTake (s : State) (cl xf cop : Nat) : State :=
  match s.takeInbox cl (11 + xf) cop with
  | none => s
  | some (m, s1) =>
    let t := xferTime cl xf m
    let (num, s2) := s1.timeStart t
    if !s.xferOk cl m then (s2.timeEnd t num m.stamp).cellEnd cl m 0x90 m.stamp
    else
      let n := s2.acc.nextXfer % 65536
      s2.onAcc (fun a => { a with
        nextXfer := n + 1, xfers := tset a.xfers (xferKey cl xf n) { used := true, cell := m, num := num } })

/-- XRD (R409, R410). -/
def execXrd (cl xf : Nat) (s : State) : Res := .next (s.xferTake cl xf 0x300)
/-- XWR (R409, R410). -/
def execXwr (cl xf : Nat) (s : State) : Res := .next (s.xferTake cl xf 0x301)
/-- XRRD (R409, R410). -/
def execXrrd (cl xf : Nat) (s : State) : Res := .next (s.xferTake cl xf 0x302)
/-- XRWR (R409, R410). -/
def execXrwr (cl xf : Nat) (s : State) : Res := .next (s.xferTake cl xf 0x303)
/-- XPRD (R409, R410). -/
def execXprd (cl xf : Nat) (s : State) : Res := .next (s.xferTake cl xf 0x304)
/-- XPWR (R409, R410). -/
def execXpwr (cl xf : Nat) (s : State) : Res := .next (s.xferTake cl xf 0x305)
/-- XNET (R408). -/
def execXnet (cl xf : Nat) (s : State) : Res := .next (s.xferTake cl xf 0x306)
/-- TRANSFER_COMPLETE. -/
def execTransferComplete (cl xf op : Nat) (s : State) : Res := .next (s.xferStep cl xf op)

end Sys2Proof.Machine
end

