-- ==== Sys2Proof/Machine/Kennels.lean ====
section
/-! DEFINITION. Machine/Kennels.lean: the kennel gateway and a kennel engine's jobs (spec/17 R353 to R357, spec/18 R359 to R364,
R369, R370), and the events of the lease table (R364, R365). -/

namespace Sys2Proof.Machine

/-! ## Memory as a job sees it -/

/-- The current bytes of a place, little-endian. -/
def State.placeNum (s : State) (root : Nat) (pl : Place) (n : Nat) : Nat :=
  match pl with
  | .home a => s.readLE a n
  | .maj _ _ => leNatFrom (s.lineImage root pl) (placeOff pl) n

def State.placesNum (s : State) (root : Nat) : List (Place × Nat) → Nat
  | [] => 0
  | (p, n) :: ps => s.placeNum root p n + 2 ^ (8 * n) * s.placesNum root ps

/-- A view of a job's memory; bytes whose page cannot be read are zero in it (the job then stops at that page). -/
def State.kView (s : State) (q job : Nat) : View := fun va n =>
  match s.spanVa q job false n va n with
  | .error _ => 0
  | .ok ps => s.placesNum (s.partOf q) ps

/-- Read ranges at their homes at a timestamp, in order. -/
def State.kReads (s : State) (q job p : Nat) : List (Nat × Nat) → Data
  | [] => .got 0 p s
  | (va, n) :: rs =>
    match s.spanVa q job false n va n with
    | .error (c, a) => .fault c a
    | .ok ps => match s.readPieces (s.partOf q) [] p ps with
      | .error c => dataErr c va
      | .ok (g, s1) => match s1.kReads q job p rs with
        | .got _ t s2 => .got 0 (max g.t t) s2
        | d => d

/-- Write runs of bytes as an agent; the answer's timestamp is the largest one taken. -/
def State.kWrites (s : State) (q job p wid : Nat) : List (Nat × List Byte) → Data
  | [] => .got 0 p s
  | (va, bs) :: ws =>
    match s.spanVa q job true bs.length va bs.length with
    | .error (c, a) => .fault c a
    | .ok ps => match s.writePieces (s.partOf q) p wid ps (leNat bs) with
      | .error c => .bad (causeStatus c)
      | .ok (t, s1) => match s1.kWrites q job p wid ws with
        | .got _ u s2 => .got 0 (max t u) s2
        | d => d

/-! ## The end of a job -/

def cellPacket (m : MCell) : Packet := fun i => xbits m.cell i 0 64

/-- The gateway's timeline of a context tag (ENG 13, R369). -/
def gateTime (cl : Nat) (m : MCell) : Nat := engCtx cl 13 m.cell.ctx.toNat

/-- A job is over: its gateway operation and its cell complete. Its status is posted to no strand (R356). DEDUCED: notes/assumptions/74. -/
def State.kOver (s : State) (j : KJob) (status cts : Nat) : State :=
  let s1 := (s.timeEnd (gateTime j.cl j.cell) j.num cts).cellEnd j.cl j.cell 0 cts
  if status = 0x60 then
    s1.onKen (fun n => { n with evc := tmod n.evc (clusterQuarter j.cl) (fun c => c + 1) })
  else s1

/-- What writing a done word comes to. -/
inductive DoneWord where
  | fault (cause va : Nat)
  | over (cts : Nat) (s : State)

/-- Write a job's done word (R355, R356): status over JOBNO, at P. -/
def State.kDoneWord (s : State) (j : KJob) (status p cts : Nat) : DoneWord :=
  let w := cellPacket j.cell
  let q := clusterQuarter j.cl
  let d := kDoneAddr w
  if d = 0 || w 3 % 8 != 0 then .over cts s
  else match s.spanVa q j.cell.who.job true 8 d 8 with
    | .error (c, va) => .fault c va
    | .ok ps => match s.writePieces (s.partOf q) p j.cell.agent ps (status * 2 ^ 56 + bits (w 4) 0 56) with
      | .error _ => .over cts s
      | .ok (u, s1) => .over (max cts u) s1

/-- A job's access stops at a page (R359). DEDUCED: notes/assumptions/74. -/
def State.kFault (s : State) (j : KJob) (cause va : Nat) : State :=
  let m := j.cell
  s.faultWait (clusterQuarter j.cl) m.who.job cause 2 (m.agent / 32) 0 j.cl va m.cell.itag.toNat (waiterCell m)

/-- The job no longer waits on a fault record. -/
def State.kUnblock (s : State) (j : KJob) : State :=
  s.modJob j.cell.who.job (fun x => { x with
    blocked := x.blocked.filter (fun b => b.1 != waiterCell j.cell)
    broken := x.broken.filter (fun b => b.1 != waiterCell j.cell) })

/-! ## Running a job -/

/-- DESIGN CHOICE: notes/assumptions/75. -/
def kWork (rd : View) (fresh : Nat → Nat) (w : Packet) : KWork :=
  if !packetFmtOk w then { status := statusKfmt }
  else match kKind w with
    | 0 => workFftx rd w
    | 1 => workSort rd w
    | 2 => workInfl rd fresh w
    | 3 => workSpga rd fresh w
    | 4 => workTrsv rd fresh w
    | 5 => workEmbg rd w
    | 6 => workTopk rd fresh w
    | _ => workSten rd fresh w

/-- DESIGN CHOICE: notes/assumptions/3, 75. -/
def State.freshAt (s : State) (i : Nat) : Nat := (Config.freeValue (s.sched.frees + i)).toNat
def State.freshUp (s : State) (n : Nat) : State := s.onSched (fun c => { c with frees := c.frees + n })

def State.setHeadJob (s : State) (q i : Nat) (j : KJob) : State :=
  s.modKEngine q i (fun e => { e with jobs := j :: e.jobs.drop 1 })

/-- The first job of an engine leaves it. -/
def State.popJob (s : State) (q i : Nat) : State := s.modKEngine q i (fun e => { e with jobs := e.jobs.drop 1 })

/-- The done word of the first job, whose results are in memory; then the job is over. -/
def State.kFinish (s : State) (q i : Nat) (j : KJob) (status p cts : Nat) : State :=
  let s1 := s.setHeadJob q i { j with stat := 0, fin := some (status, p, cts) }
  match s1.kDoneWord j status p cts with
  | .fault c va => s1.kFault j c va
  | .over t s2 => (s2.popJob q i).kOver j status t

/-- KFAULT (R362, R364): the engine drains and goes out of service; its queued jobs end KFAULT too. -/
def State.kFail (s : State) (q i : Nat) (j : KJob) (p : Nat) : State :=
  let s1 := s.kDrain q i false
  let k := (s.kEngine q i).slot
  let s2 := if k = 0 then s1 else s1.modLease (k - 1) (fun y => { y with stat := 0x69 })
  let s3 := s2.modKEngine q i (fun e => { (e.tell 0x69) with out := true })
  s3.kFinish q i { j with live := false } 0x69 p p

def kStart (s : State) (j : KJob) : Nat := s.startStamp (gateTime j.cl j.cell) j.cell.stamp

/-- The first job of an engine runs (R361, R369). DEDUCED: notes/assumptions/74. -/
def State.kRun (s : State) (q i : Nat) (j : KJob) : State :=
  let p := kStart s j
  let job := j.cell.who.job
  let w := kWork (s.kView q job) s.freshAt (cellPacket j.cell)
  match (s.freshUp w.frees).kReads q job p w.reads with
  | .bad _ => s.kFail q i j p
  | .fault c va => s.kFault j c va
  | .got _ t s1 => match s1.kWrites q job p j.cell.agent w.writes with
    | .bad _ => s.kFail q i j p
    | .fault c va => s.kFault j c va
    | .got _ u s2 => s2.kFinish q i j w.status (max p u) (max t u)

/-- Single bytes of some runs. -/
def byteRuns (ws : List (Nat × List Byte)) : List (Nat × List Byte) :=
  (ws.map (fun x => ((List.range x.2.length).zip x.2).map (fun b => (x.1 + b.1, [b.2])))).flatten

/-- A job that was running is told to end (R356): some, all or none of its results are in memory, as free values decide. DEDUCED: notes/assumptions/74. -/
def State.kStopped (s : State) (q i : Nat) (j : KJob) : State :=
  let p := kStart s j
  let job := j.cell.who.job
  let w := kWork (s.kView q job) (fun n => s.freshAt (n + 1)) (cellPacket j.cell)
  let runs := byteRuns w.writes
  let kept := (((List.range runs.length).zip runs).filter (fun r => s.freshAt (1 + w.frees + r.1) % 2 == 1)).map
    (fun (r : Nat × (Nat × List Byte)) => r.2)
  let s0 := (s.kUnblock j).freshUp (1 + w.frees + runs.length)
  let none' := s0.kFinish q i j j.stat p p
  if s.freshAt 0 % 2 = 0 then none'
  else match s0.kReads q job p w.reads with
    | .got _ t s1 => match s1.kWrites q job p j.cell.agent kept with
      | .got _ u s2 => s2.kFinish q i j j.stat (max p u) (max t u)
      | _ => none'
    | _ => none'

/-- KENNEL_JOB_COMPLETE (R369): the first job of an engine goes as far as it now can. DEDUCED: notes/assumptions/74. -/
def State.kStep (s : State) (q i : Nat) : State :=
  let e := s.kEngine q i
  match e.jobs with
  | [] => s
  | j :: _ =>
    if e.state < 3 then s
    else if j.stat != 0 then
      match j.fin with
      | some (_, p, cts) => (s.kUnblock j).kFinish q i j j.stat p cts
      | none => if j.live then s.kStopped q i j else (s.kUnblock j).kFinish q i j j.stat (kStart s j) (kStart s j)
    else match s.gate j.cell.who.job (waiterCell j.cell), j.fin with
      | .wait, _ => s
      | .ends st, none => (s.kUnblock j).kFinish q i j st (kStart s j) (kStart s j)
      | .ends _, some (st, _, cts) => ((s.kUnblock j).popJob q i).kOver j st cts
      | .go, none => s.kRun q i j
      | .go, some (st, p, cts) => s.kFinish q i j st p cts

/-! ## The gateway (R353, R369, R370) -/

/-- A job that ends at the gateway: its done word, and it is over; at a page that faults it waits there. -/
def State.gateOver (s : State) (j : KJob) (status p : Nat) : State :=
  match s.kDoneWord j status p p with
  | .over t s1 => s1.kOver j status t
  | .fault c va =>
    let s1 := s.kFault j c va
    s1.onKen (fun n => { n with ended := tmod n.ended j.cl (fun l => l ++ [{ j with fin := some (status, p, p) }]) })

/-- A job that waits at the gateway for its done word's page goes on. -/
def State.gateRetry (s : State) (j : KJob) : State :=
  let s0 := s.onKen (fun n => { n with ended := tmod n.ended j.cl (fun l => l.filter (fun x => x != j)) })
  let (st, p, _) := j.fin.getD (0, 0, 0)
  match s.gate j.cell.who.job (waiterCell j.cell) with
  | .wait => s
  | .ends _ => (s0.kUnblock j).kOver j st p
  | .go => s0.gateOver j st p

/-- Whether a slot holds its engine under a generation, in HELD or RECALLING (R353). -/
def LeaseSlot.holds (x : LeaseSlot) (gen : Nat) : Bool := x.used && x.lgen == gen && (x.state == 3 || x.state == 4)

/-- A KJOB cell is acted on (R353, R360, R369). -/
def State.kTake (s : State) (cl : Nat) : State :=
  match s.takeInbox cl 13 0x380 with
  | none => s
  | some (m, s1) =>
    let c := m.cell
    let q := clusterQuarter cl
    let n := c.aux.toNat / 4096
    let x := if n < 8 then s.lease (slotKey m.who.launch q n) else {}
    let i := x.kind * 4 + x.eng
    let (num, s2) := s1.timeStart (gateTime cl m)
    let j : KJob := { cell := m, num := num, cl := cl }
    let p := kStart s1 j
    if c.run != 0 || c.pos != 0 then (s2.timeEnd (gateTime cl m) num p).cellEnd cl m 0x90 p
    else if !x.holds (c.aux.toNat % 4096) then s2.gateOver j 0x62 p
    else if kKind (cellPacket m) != x.kind || !kjobPacketOk (cellPacket m) then s2.kOver j 0x90 p
    else if (s.kEngine q i).jobs.length ≥ 16 then s
    else s2.modKEngine q i (fun e => { e with jobs := e.jobs ++ [j] })

/-- KJOB (R353, R360, R369). -/
def execKjob (cl : Nat) (s : State) : Res :=
  match (tget s.ken.ended cl).find? (fun j => s.gate j.cell.who.job (waiterCell j.cell) != .wait) with
  | some j => .next (s.gateRetry j)
  | none => .next (s.kTake cl)

/-- The jobs that a slot's generation has in its quarter's engines: how many, and the one that runs. -/
def State.kJobsOf (s : State) (q launch aux : Nat) : Nat × Nat :=
  let mine (j : KJob) : Bool := j.cell.who.launch == launch && j.cell.cell.aux.toNat == aux
  let lists := (List.range 32).map (fun i => (s.kEngine q i).jobs)
  let heads := (lists.filterMap List.head?).filter mine
  ((lists.flatten.filter mine).length, match heads with
    | [] => 0
    | j :: _ => bits (cellPacket j.cell 4) 0 56)

/-- The word that KQRY writes (R370). DEDUCED: notes/assumptions/74. -/
def State.kqryWord (s : State) (q : Nat) (m : MCell) : Nat :=
  let aux := m.cell.aux.toNat
  let n := aux / 4096
  let x := if n < 8 then s.lease (slotKey m.who.launch q n) else {}
  let dead := x.state == 2 && (s.kEngine q (x.kind * 4 + x.eng)).rel
  let live := x.used && x.lgen == aux % 4096 && !dead
  let (k, no) := s.kJobsOf q m.who.launch aux
  (if live then x.state else 0) * 2 ^ 61 + min k 16 * 2 ^ 56 + no

/-- KQRY (R370). -/
def execKqry (cl : Nat) (s : State) : Res :=
  match s.takeInbox cl 13 0x381 with
  | none => .next s
  | some (m, s1) =>
    let c := m.cell
    let q := clusterQuarter cl
    let (num, s2) := s1.timeStart (gateTime cl m)
    let p := s1.startStamp (gateTime cl m) m.stamp
    let answer (st : State) (status t : Nat) : Res := .next ((st.timeEnd (gateTime cl m) num t).cellEnd cl m status t)
    let a := xbits c 0 0 57
    if c.run != 0 || c.pos != 0 || c.cnt != 0 || a % 8 != 0 then answer s2 0x90 p
    else match s2.spanVa q m.who.job true 8 a 8 with
      | .error (e, _) => answer s2 (causeStatus e) p
      | .ok ps => match s2.writePieces (s2.partOf q) p m.agent ps (s2.kqryWord q m) with
        | .error e => answer s2 (causeStatus e) p
        | .ok (t, s3) => answer s3 0 t

/-- KENNEL_JOB_COMPLETE. -/
def execKennelJobComplete (q eng : Nat) (s : State) : Res := .next (s.kStep q eng)

/-! ## Events of the lease table (R364, R365) -/

/-- LEASE_SERVE (R365). -/
def execLeaseServe (q : Nat) (s : State) : Res := .next (s.kServe q)

/-- LEASE_WAKE_DONE (R364): the lease is HELD and its token clears; an engine whose lease has ended drains. -/
def execLeaseWakeDone (q eng : Nat) (s : State) : Res :=
  let e := s.kEngine q eng
  if e.state != 2 then .next s
  else if e.rel || e.slot = 0 then .next (s.kDrain q eng false)
  else
    let s1 := s.modKEngine q eng (fun x => { x with state := 3, age := s.tickNo })
    .next (((s1.slotState (e.slot - 1) 3).slotReady (e.slot - 1)).tickUp)

/-- GRACE_EXPIRE (R357, R364). DESIGN CHOICE: notes/assumptions/2. -/
def execGraceExpire (q eng : Nat) (s : State) : Res :=
  if (s.kEngine q eng).state = 4 then .next (s.kDrain q eng true) else .next s

/-- LEASE_DRAIN_DONE (R357, R364): once the jobs have ended. -/
def execLeaseDrainDone (q eng : Nat) (s : State) : Res :=
  let e := s.kEngine q eng
  if e.state = 5 && e.jobs.isEmpty then .next (s.kWarmed q eng) else .next s

/-- WARM_TIMEOUT (R364): the engine that has been WARM longest goes to sleep. DESIGN CHOICE: notes/assumptions/2; DEDUCED: notes/assumptions/73. -/
def execWarmTimeout (q eng : Nat) (s : State) : Res :=
  let e := s.kEngine q eng
  let oldest := (List.range 32).all (fun i => (s.kEngine q i).state != 1 || decide (e.age ≤ (s.kEngine q i).age))
  if e.state = 1 && oldest then .next (s.modKEngine q eng (fun x => { x with state := 0 })) else .next s

end Sys2Proof.Machine
end

