-- ==== Sys2Proof/Machine/Launches.lean ====
section
/-! DEFINITION. Machine/Launches.lean: launch packets, the queue controllers' picks, and the start of strands (spec/02 R38, R40 to
R45, R49, R52, R57 to R60, spec/20 R412, R413). -/

namespace Sys2Proof.Machine

/-! ## Packets (R40, R412) -/

def pktKind (w : List Word) : Nat := wbits (w.getD 0 0) 58 2
def pktClose (w : List Word) : Bool := bitOf (w.getD 0 0).toNat 57
def pktNdep (w : List Word) : Nat := wbits (w.getD 0 0) 53 3
def pktJob (w : List Word) : Nat := wbits (w.getD 0 0) 32 12
def zeroWords (w : List Word) (lo hi : Nat) : Bool := (List.range (hi - lo)).all (fun i => w.getD (lo + i) 0 == 0)

/-- The fields of a job card, or of a pack's body. -/
structure Card where
  entry  : Nat
  base   : Nat
  size   : Nat
  tid    : Nat
  range  : Nat
  minchk : Nat
  strands : Nat
  deriving DecidableEq, Repr

def cardOf (w : List Word) : Card :=
  if pktKind w = 1 then
    { entry := (w.getD 15 0).toNat, base := (w.getD 14 0).toNat, size := wbits (w.getD 13 0) 48 16,
      tid := wbits (w.getD 13 0) 36 12, range := wbits (w.getD 13 0) 0 32, minchk := wbits (w.getD 12 0) 32 32,
      strands := wbits (w.getD 12 0) 20 12 }
  else
    { entry := 0, base := (w.getD 9 0).toNat, size := 0, tid := wbits (w.getD 10 0) 0 12,
      range := wbits (w.getD 8 0) 32 32, minchk := wbits (w.getD 8 0) 0 32, strands := 0 }

/-- A job card keeps R40. DEDUCED: notes/assumptions/66. -/
def cardOk (w : List Word) : Bool :=
  let c := cardOf w
  zeroWords w 8 12 && decide (c.entry < 2 ^ 57) && c.entry % 4 == 0 && decide (c.base < 2 ^ 57) && c.base % 256 == 0 &&
  decide (8 ≤ c.size ∧ c.size ≤ 4096) && c.size % 8 == 0 && decide (c.tid ≥ 1) && wbits (w.getD 13 0) 32 4 == 0 &&
  decide (c.range ≥ 1) && decide (c.minchk ≥ 1) && decide (1 ≤ c.strands ∧ c.strands ≤ 1536) &&
  wbits (w.getD 12 0) 16 4 == 0 && wbits (w.getD 12 0) 0 16 == pktGraph w

/-- A pack's body keeps R412. DEDUCED: notes/assumptions/66. -/
def packOk (w : List Word) : Bool :=
  let c := cardOf w
  zeroWords w 11 16 && decide (c.base < 2 ^ 57) && c.base % 256 == 0 && wbits (w.getD 10 0) 12 52 == 0 &&
  (c.range == 0 || decide (c.minchk ≥ 1))

/-- The header of a packet keeps R412. -/
def packetOk (w : List Word) (job : Nat) : Bool :=
  let w0 := w.getD 0 0
  wbits w0 60 4 == 0xC && pktKind w != 3 && wbits w0 56 1 == 0 && wbits w0 44 9 == 0 && wbits w0 0 16 == 0 &&
  decide (pktNdep w ≤ 4) && pktJob w == job && wbits (w.getD 1 0) 0 22 == 0 && wbits (w.getD 2 0) 57 7 == 0 &&
  wbits (w.getD 2 0) 0 3 == 0 && zeroWords w 3 8 && zeroWords w (16 + 2 * pktNdep w) 24 &&
  (if pktKind w = 0 then zeroWords w 8 16 else if pktKind w = 1 then cardOk w else packOk w)

def statusBadCard : Nat := 0x10
def statusTooBig : Nat := 0x11
def statusClosed : Nat := 0x12
def statusBadWait : Nat := 0x13

def packetDeps (w : List Word) : List (Nat × Word) :=
  (List.range (pktNdep w)).map (fun i => ((w.getD (16 + 2 * i) 0).toNat, w.getD (17 + 2 * i) 0))

/-- What refuses a packet whatever its dependences: a status, 0 for nothing. DEDUCED: notes/assumptions/66. -/
def packetBad (w : List Word) (job : Nat) : Nat :=
  if !packetOk w job then statusBadCard
  else if (packetDeps w).any (fun d => decide (d.1 ≥ 1024)) then statusBadWait
  else 0

/-! ## Eligible heads (R49, R57, R58) -/

def State.headPacket (s : State) (qk : Nat) : List Word :=
  let q := s.queue qk
  s.sysReadWords (qk / 256) q.job (q.slotAddr q.head) 24

def State.depsMet (s : State) (job : Nat) (w : List Word) : Bool :=
  (packetDeps w).all (fun d => decide ((tget (s.job job).ctr d.1).toNat ≥ d.2.toNat))

/-- Phase p may dispatch once phase p − 1 has terminated. -/
def State.phaseMay (s : State) (job p : Nat) : Bool := p == 0 || (s.job job).phaseEnded.contains (p - 1)

def State.eligible (s : State) (qk : Nat) : Bool :=
  let q := s.queue qk
  let w := s.headPacket qk
  q.valid && decide (q.head < q.pub) && !s.pmHolds (qk / 256) && (s.job q.job).state != 0 &&
  (packetBad w q.job != 0 || (s.depsMet q.job w && s.phaseMay q.job (pktPhase w)))

/-! ## The pick (R59) -/

/-- Order in which a queue's head was published. -/
def Queue.headTime (q : Queue) : Nat := ((q.times.find? (fun t => t.1 == q.head)).map (fun t => t.2)).getD 0

def State.oldestHead (s : State) (qs : List Nat) : Option Nat :=
  qs.foldl (fun (b : Option Nat) k => match b with
    | none => some k
    | some j => if (s.queue k).headTime < (s.queue j).headTime then some k else some j) none

def creditKey (q p job : Nat) : Nat := (q * 8 + p) * 4096 + job

/-- Credit that a job has left at a priority; the table holds what has been spent since the last refill. -/
def State.creditLeft (s : State) (q p job : Nat) : Nat := (s.job job).weight - tgetD 0 s.work.credit (creditKey q p job)

/-- The next job after the last one picked, in rising order and around. DEDUCED: notes/assumptions/66. -/
def nextJob (last : Nat) (jobs : List Nat) : Option Nat :=
  let least (l : List Nat) : Option Nat := l.foldl (fun (b : Option Nat) j => match b with
    | none => some j
    | some k => some (min j k)) none
  match least (jobs.filter (fun j => decide (j ≥ last))) with
  | some j => some j
  | none => least jobs

/-- The queue picked among the eligible ones, and the state with the credit taken. -/
def State.pickQueue (s : State) (q : Nat) : Option (Nat × State) :=
  let es := ((List.range 256).map (fun k => q * 256 + k)).filter s.eligible
  match s.oldestHead (es.filter (fun k => (s.queue k).aged)) with
  | some k => some (k, s)
  | none =>
    let p := es.foldl (fun m k => max m (s.queue k).prio) 0
    let top := es.filter (fun k => (s.queue k).prio == p)
    let jobs := (top.map (fun k => (s.queue k).job)).eraseDups
    let s1 := if jobs.any (fun j => decide (s.creditLeft q p j > 0)) then s
      else s.onWork (fun w => { w with credit := w.credit.filter (fun e => e.1 / 4096 != q * 8 + p) })
    match nextJob (tgetD 0 s1.work.lastJob (q * 8 + p)) (jobs.filter (fun j => decide (s1.creditLeft q p j > 0))) with
    | none => none
    | some j => match s.oldestHead (top.filter (fun k => (s.queue k).job == j)) with
      | none => none
      | some k => some (k, s1.onWork (fun w => { w with
          credit := tset w.credit (creditKey q p j) (tgetD 0 w.credit (creditKey q p j) + 1),
          lastJob := tset w.lastJob (q * 8 + p) (j + 1) }))

/-! ## Dispatch -/

/-- A phase's arming count stands from its first packet (R52). -/
def State.phaseArm (s : State) (job p : Nat) : State :=
  let u := phaseUnit job p
  if thas s.work.counts (countKey 3 u 3 0) then s else s.setCount 3 u 3 0 1

/-- A phase is closed: its arming count goes (R49, R52). -/
def State.phaseClose (s : State) (job p : Nat) : State :=
  let s1 := s.modJob job (fun j => { j with closed := p :: j.closed })
  (s1.countDownFrom 3 (phaseUnit job p) 0 0).endUpper 3 (phaseUnit job p)

/-- A launch of a well-formed packet (R30, R38): it counts in its graph, phase and job, and holds its own arming count. -/
def State.newLaunch (s : State) (q job : Nat) (w : List Word) : State :=
  let n := tgetD 0 s.work.launchNo q
  let l := q * 2 ^ 22 + n % 2 ^ 22
  let c := cardOf w
  let x : Launch := {
    used := true, job := job, graph := pktGraph w, phase := pktPhase w, kind := pktKind w, quarter := q,
    stamp := s.maxStamp (s.partOf q), packet := w, cctr := pktCctr w, cwaddr := BitVec.ofNat 64 (pktCw w),
    range := if c.range = 0 then none else some { size := c.range, minchk := c.minchk }, left := c.strands }
  let s1 := s.onWork (fun k => { k with
    launchNo := tset k.launchNo q (n + 1), launches := tset k.launches l x, claims1 := k.claims1 ++ [l] })
  (launchUnits x).foldl (fun st u => st.countUpFrom u.1 u.2 q 1) (s1.setCount 1 l 3 0 1)

/-- HEAD moves past the packet that has been dispatched. -/
def State.takeHead (s : State) (qk : Nat) : State :=
  s.modQueue qk (fun x =>
    let h := skipGone x.gone x.gone.length (x.head + 1)
    { x with head := h, gone := x.gone.filter (fun c => decide (c ≥ h)), aged := false,
             times := x.times.filter (fun t => decide (t.1 ≥ h)) })

/-- Dispatch the head of a queue (R40, R49, R54, R412). DEDUCED: notes/assumptions/65. -/
def State.dispatch (s : State) (qk : Nat) : State :=
  let q := s.queue qk
  let w := s.headPacket qk
  let job := q.job
  let p := pktPhase w
  let bad := packetBad w job
  let status := if bad != 0 then bad else if (s.job job).closed.contains p then statusClosed
    else if (s.job job).phaseDead.contains p then statusCancelled else 0
  let s1 := s.takeHead qk
  let s2 :=
    if status != 0 then
      let e := s1.packetEnd (qk / 256) job w status
      if status = statusCancelled && pktClose w then (e.phaseArm job p).phaseClose job p else e
    else
      let t1 := s1.phaseArm job p
      let t2 := if pktKind w = 0 then t1 else t1.newLaunch (qk / 256) job w
      let t3 := if pktClose w then t2.phaseClose job p else t2
      if pktKind w = 0 then t3.packetEnd (qk / 256) job w 0 else t3
  (s2.countDownFrom 4 job (qk / 256) 1).endUpper 4 job

/-! ## Starting strands (R38, R43, R60) -/

/-- A strand context that can take a new strand: free, and not one that a pre-empted job has left (R281). -/
def State.contextFree (s : State) (sid : Nat) : Bool :=
  !(s.strand sid).live && tgetD 0 s.core.outs sid == 0 && !thas s.core.holds sid && !thas s.core.saved sid

/-- The contexts of a cluster. -/
def clusterSids (cl : Nat) : List Nat := (List.range 32).map (fun i => mkSid (cl * 8 + i % 8) (i / 8))

/-- Clusters that a set's strands may stand in (R424). -/
def setClusters (img : GraphImage) (d : SetDecl) : List Nat := if d.clusters.isEmpty then img.clusters else d.clusters

/-- The first strand of a graph's first strand set receives what its engines, barriers and matrix contexts post (R153, R171,
R241, R329). DEDUCED: notes/assumptions/65. -/
def State.setReport (s : State) (job g sid : Nat) : State :=
  let x := s.graph job g
  let s1 := (imageClusters x.img).foldl (fun st cl => match st.ctxTag job cl with
    | none => st
    | some c => st.onWork (fun w => { w with reports := tset w.reports (cl * 64 + c) (sid + 1) })) s
  let s2 := x.img.matrices.foldl (fun st m => if x.config then st else
    st.modMat (matKey m.1 m.2.1 m.2.2.1) (fun k => { k with
      cfg1 := BitVec.ofNat 64 (k.cfg1.toNat / 2 ^ 32 * 2 ^ 32 + sid * 2 ^ 21) })) s1
  (List.range x.img.bars.length).foldl (fun st i =>
    let b := tgetD 0 x.bars i
    if b = 0 || (x.img.bars.getD i {}).report.isSome then st
    else st.modBarrier (b - 1) (fun o => { o with report := sid })) s2

/-- The barriers that name a strand's set gain it as a member (R328). -/
def State.joinBarriers (s : State) (job g set sid : Nat) : State :=
  let x := s.graph job g
  (List.range x.img.bars.length).foldl (fun st i =>
    let b := tgetD 0 x.bars i
    if b != 0 && (x.img.bars.getD i {}).members.contains set then
      st.modBarrier (b - 1) (fun o => { o with nmem := o.nmem + 1, members := o.members ++ [{ id := sid }] })
    else st) s

/-- Number of the set whose first strand is the report strand: the first that is no handler's. -/
def reportSet (img : GraphImage) : Nat := (img.sets.findIdx? (fun d => !d.handler)).getD 0

/-- Start a strand of a set in a context (R38). -/
def State.startStrand (s : State) (l set : Nat) (d : SetDecl) (sid : Nat) : State :=
  let x := s.launch l
  let who : Owner := { sid := sid, launch := l, graph := x.graph, phase := x.phase, job := x.job, core := sidCore sid }
  let first := set == reportSet (s.graph x.job x.graph).img && tgetD 0 x.setLive set == 0
  let s1 := s.setStrand sid { live := true, who := who, set := set, pc := d.entry, pts := x.stamp, privs := d.priv }
  let s2 := s1.modLaunch l (fun y => { y with setLive := tset y.setLive set (tgetD 0 y.setLive set + 1) })
  let s3 := (s2.countUp who).joinBarriers x.job x.graph set sid
  if first then s3.setReport x.job x.graph sid else s3

/-- Every strand of a launch has been started: its arming count goes (R52). -/
def State.allStarted (s : State) (l : Nat) : State :=
  let x := s.launch l
  let s1 := s.onWork (fun w => { w with claims1 := w.claims1.filter (· != l) })
  let s2 := s1.modLaunch l (fun y => { y with started := true, left := 0 })
  (s2.disarm l).drainCheck x.job x.graph

/-- No earlier launch that still waits for contexts has a claim on these clusters (R60). -/
def State.contextsUnclaimed (s : State) (l : Nat) (cls : List Nat) : Bool :=
  (s.work.claims1.takeWhile (· != l)).all (fun k =>
    let x := s.launch k
    !x.bound || x.started || !((s.graph x.job x.graph).img.clusters.any (fun c => cls.contains c)))

/-- The strands of a bound job card start as contexts of its region come free, the lowest first. DEDUCED: notes/assumptions/66. -/
def State.startCard (s : State) (l : Nat) : State :=
  let x := s.launch l
  let img := (s.graph x.job x.graph).img
  let d : SetDecl := { entry := BitVec.ofNat 64 (cardOf x.packet).entry, priv := (img.sets.getD 0 {}).priv }
  let cls := setClusters img (img.sets.getD 0 {})
  if x.kind != 1 || !x.bound || x.started || x.cancelled || s.pmHolds x.quarter || !s.contextsUnclaimed l cls then s
  else
    let free := ((cls.map clusterSids).flatten.filter s.contextFree).take x.left
    let s1 := free.foldl (fun st sid => st.startStrand l 0 d sid) s
    let s2 := s1.modLaunch l (fun y => { y with left := y.left - free.length })
    if free.length = x.left then s2.allStarted l else s2

/-- LAUNCH_PICK (R57 to R60): the queue controller starts what its job cards still wait for, and dispatches one packet. -/
def State.launchPick (s : State) (q : Nat) : State :=
  let s1 := (s.work.claims1.filter (fun l => l / 2 ^ 22 == q)).foldl (fun st l => st.startCard l) s
  match s1.pickQueue q with
  | none => s1
  | some (k, s2) => s2.dispatch k

def execLaunchPick (q : Nat) (s : State) : Res := .next (s.launchPick q)

/-- LAUNCH_AGED (R59): a queue's head has waited longer than QAGELIM. DESIGN CHOICE: notes/assumptions/2. -/
def execLaunchAged (q queue : Nat) (s : State) : Res :=
  .next (s.modQueue (q * 256 + queue) (fun x => if x.head < x.pub then { x with aged := true } else x))

/-! ## Argument arrays (R41) -/

/-- The tensor entry of a job card's argument array: int64, shape (RANGE, ARGSIZE / 8), streamed (R41, R140). -/
def argEntry (c : Card) : BitVec 256 :=
  BitVec.ofNat 256 (fmtInt64 * 2 ^ 250 + 1 * 2 ^ 248 + c.base * 2 ^ 175 + 1 * 2 ^ 90 + 1 * 2 ^ 62 + c.range % 2 ^ 28 * 2 ^ 34 +
    c.size / 8 * 2 ^ 6)
where
  fmtInt64 : Nat := 4

/-- An AGN record bound to the argument array. -/
def argRecord (c : Card) (ws : List Word) : List Word :=
  let w0 := ws.getD 0 0
  let base := BitVec.ofNat 64 c.base
  if c.size = 0 then listSet ws 1 base
  else [ BitVec.ofNat 64 (w0.toNat / 2 ^ 52 * 2 ^ 52 + 1 * 2 ^ 50 + 4 * 2 ^ 47 + w0.toNat % 2 ^ 47), base,
         BitVec.ofNat 64 (2 ^ 36), BitVec.ofNat 64 (2 ^ 36), BitVec.ofNat 64 (c.range % 2 ^ 28 * 2 ^ 36 + c.size),
         BitVec.ofNat 64 (c.size / 8 * 2 ^ 36 + 8) ]

/-- The image with the launch's argument array: its tensor, and the AGNs bound to it. DEDUCED: notes/assumptions/65. -/
def argImage (c : Card) (img : GraphImage) : GraphImage :=
  if c.tid = 0 then img
  else { img with
    agns := img.agns.map (fun a => if (agnRec a.2.2).tid == c.tid then (a.1, a.2.1, argRecord c a.2.2) else a)
    tensors := if c.size = 0 then img.tensors.map (fun t =>
        if t.1 == c.tid then (t.1, BitVec.ofNat 256 (t.2.toNat / 2 ^ 232 * 2 ^ 232 + c.base * 2 ^ 175 + t.2.toNat % 2 ^ 175)) else t)
      else putItem (fun t => t.1 == c.tid) img.tensors (c.tid, argEntry c) }

/-! ## GRAPH_BIND and PACK_START -/

/-- Strands that a pack starts on this device: set number and declaration, once for each strand (R13, R43, R381). -/
def packStrands (img : GraphImage) (rank : Nat) : List (Nat × SetDecl) :=
  ((List.range img.sets.length).map (fun i =>
    let d := img.sets.getD i {}
    if d.handler || !(d.rank.getD rank == rank) then [] else List.replicate d.count (i, d))).flatten

def State.launchRank (s : State) (l : Nat) (img : GraphImage) : Nat := s.rankOf (s.partOf (s.launch l).quarter) img.nodes

/-- A launch is refused at dispatch with a status (R54). -/
def State.refuseLaunch (s : State) (l status : Nat) : State :=
  let s1 := s.onWork (fun w => { w with claims1 := w.claims1.filter (· != l) })
  (s1.modLaunch l (fun x => { x with status := status })).disarm l

/-- Every stack of a partition has calibrated (R325). -/
def State.allCalibrated (s : State) (root : Nat) : Bool :=
  (List.range 12).all (fun k => s.partOf (k / 3) != root || s.sys.caldone.getLsbD k)

/-- GRAPH_BIND: the image is what the loader and the mapper have made of the graph's source file. A pack with more strands
than its region has contexts is refused (R43), and so is a graph with a region of class M3 or M5 before every stack of the
partition has calibrated (R325). -/
def State.loaderBind (s : State) (l : Nat) (img0 : GraphImage) : State :=
  let x := s.launch l
  let img := argImage (cardOf x.packet) (s.launchImage l img0)
  if !x.used || x.ended || x.bound || x.cancelled then s
  else if img.majority && !s.allCalibrated (s.partOf x.quarter) then s.refuseLaunch l statusBadCard
  else if x.kind = 2 && decide ((packStrands img (s.launchRank l img)).length > 32 * img.clusters.length) then
    s.refuseLaunch l statusTooBig
  else s.graphBind l img

/-- DESIGN CHOICE: notes/assumptions/9. -/
def execGraphBind (launch : Nat) (img : GraphImage) (s : State) : Res := .next (s.loaderBind launch img)

/-- PACK_START (R43): the contexts for every strand of every set are free at one time, and every strand starts. -/
def State.packStart (s : State) (l : Nat) (places : List Nat) : State :=
  let x := s.launch l
  let img := (s.graph x.job x.graph).img
  let all := packStrands img (s.launchRank l img)
  let ok := x.used && !x.ended && x.kind == 2 && x.bound && !x.started && !x.cancelled && !s.pmHolds x.quarter &&
    places.length == all.length && places.Nodup && s.contextsUnclaimed l img.clusters &&
    (places.zip all).all (fun e => decide (e.1 < 2048) && decide (e.1 / 32 % 16 < 12) && s.contextFree e.1 &&
      (setClusters img e.2.2).contains (sidCluster e.1))
  if !ok then s
  else ((places.zip all).foldl (fun st e => st.startStrand l e.2.1 e.2.2 e.1) s).allStarted l

/-- DESIGN CHOICE: notes/assumptions/9, 11. -/
def execPackStart (launch : Nat) (places : List Nat) (s : State) : Res := .next (s.packStart launch places)

end Sys2Proof.Machine
end

