-- ==== Sys2Proof/Machine/Releases.lean ====
section
/-! DEFINITION. Machine/Releases.lean: what a strand has released takes effect once its earlier stores have been acknowledged
(spec/15 R305, spec/06 R159, spec/16 R348, spec/19 R385, spec/20 R414 to R421, spec/23 R455, R457). -/

namespace Sys2Proof.Machine

/-- What comes of a release: it waits, it stays with a state that records why, or it is done. -/
inductive RelOut where
  | wait
  | keep (s : State)
  | done (s : State)

/-- Numbers under which a strand's launches and lists wait on a fault record: the token of a LAUNCH, 15 for a list. -/
def waiterRel (sid n : Nat) : Nat := 2 ^ 59 + sid * 16 + n

/-- A system operation of a strand completes with a status (R418): 0 posts nothing. -/
def State.postSys (s : State) (who : Owner) (status id : Nat) : State := if status = 0 then s else s.post who status 3 id

/-- An operation of the copies class is over (R146, R419, R455). -/
def State.copiesDone (s : State) (who : Owner) (t : Nat) : State :=
  (s.onContext who (fun x => { x with cpc := x.cpc - 1 })).opEnd who t

/-! ## Puts, cells, exit-arrivals -/

/-- The words of a PUTP become visible (R21, R305). -/
def State.relPut (s : State) (who : Owner) (p pipe : Nat) (ids : List Nat) : State :=
  (s.modPipe pipe (fun q => { q with q := q.q.map (fun w =>
    if ids.contains w.id then { w with vis := true, stamp := p } else w) })).countDown who p

/-- A cell of the issue buffer that has waited for its strand's stores may leave (R149, R305). DEDUCED: notes/assumptions/48. -/
def State.relCell (s : State) (who : Owner) (p age : Nat) : State :=
  s.modCoreSt who.core (fun k => { k with issue := k.issue.map (fun i =>
    if i.cell.age = age then { i with held := false, cell := { i.cell with stamp := p } } else i) })

/-- The exit-arrivals of a retired strand leave (R38, R330). -/
def State.relExit (s : State) (who : Owner) (p : Nat) (bars : List Nat) : State :=
  bars.foldl (fun st b => st.issue who.core (arrivePort who.core)
    { cell := st.barrierCell who.job b 0x292 0 who.sid 0, stamp := p, agent := sidAgent who.sid, who := who }) s

/-! ## LAUNCH, QPUB (R414, R416) -/

/-- LAUNCH: the packet is read, a slot claimed, written and published as one operation; none while the queue is full. -/
def State.relLaunch (s : State) (who : Owner) (p ag off qk tk : Nat) : RelOut :=
  let done (st : State) (status t : Nat) : State := ((st.postSys who status qk).clearTk who tk).countDown who t
  let cl := sidCluster who.sid
  let q := s.queue qk
  if !s.queueOfJob qk who.job || (s.job who.job).state != 1 then .done (done s 0x35 p)
  else if q.full || s.pmHolds (qk / 256) then .wait
  else match s.gate who.job (waiterRel who.sid tk) with
    | .wait => .wait
    | .ends st => .done (done (s.ungate who.job (waiterRel who.sid tk)) st p)
    | .go =>
      let r := agnRec (s.agn (s.jobAgn who.job cl ag)).words
      match s.readElems cl who.core who.job 6 r [] p ((List.range 24).map (fun i => some (off + i))) with
      | .error (c, va) =>
        if c = causeWait then .wait
        else if c = causeMiss || c = causePerm then
          .keep (s.faultWait (clusterQuarter cl) who.job c 3 who.sid ag cl va.toNat qk (waiterRel who.sid tk))
        else .done (done s (causeStatus c) p)
      | .ok (ws, g, _, s1) =>
        let s2 := s1.modQueue qk (fun x => { x with claim := q.claim + 1 })
        let (t, s3) := s2.sysWrite (qk / 256) who.job (q.slotAddr q.claim) g.t (sidAgent who.sid) ws
        .done (done (s3.queuePublish qk q.claim) 0 t)

/-- QPUB: a claim that the strand holds is published. -/
def State.relQpub (s : State) (who : Owner) (p qk claim : Nat) : State :=
  let q := s.queue qk
  let mine := q.owners.find? (fun o => o.2 == who.sid && o.1 % 2 ^ 32 == claim)
  match (if s.queueOfJob qk who.job then mine else none) with
  | none => (s.postSys who 0x34 qk).countDown who p
  | some o => (s.queuePublish qk o.1).countDown who p

/-! ## SWR (R457, R278) -/

/-- Whether a system register is FRESUME. -/
def isFresume (n : Nat) : Bool :=
  match sysReg n with
  | some (.fresume, _) => true
  | _ => false

/-- SWR is applied, and leaves the stores class. A register that by now refuses the value stays as it is. -/
def State.relSwr (s : State) (who : Owner) (p : Nat) (h : Holder) (n : Nat) (sel v : Word) : RelOut :=
  if isFresume n && (h = .hold || h = .saved) then .wait
  else
    let i : Issuer := { strand := true, who := who, root := s.partOfCluster (sidCluster who.sid), hmode := true }
    let s1 := (s.regWrite i n sel v).state s
    let s2 := (s1.onContext who (fun x => { x with stc := x.stc - 1 })).countDown who p
    .done (if h = .ctx then s2.tryEret who.sid else s2)

/-! ## Configuration (R419, R421) -/

/-- A configuration finishes with a status, or waits. -/
def State.relConfig (s : State) (who : Owner) (o : CfgOut) : RelOut :=
  let cl := sidCluster who.sid
  match o with
  | .wait => .wait
  | .fault c va =>
    if c = causeMiss || c = causePerm then
      .keep (s.faultWait (clusterQuarter cl) who.job c 3 who.sid 0 cl va 0 (waiterRel who.sid 15))
    else .done ((s.postSys who (causeStatus c) 0).copiesDone who 0)
  | .finish st idx t s1 => .done ((s1.postSys who st idx).copiesDone who t)

/-- CFGL: its list is read as a copy reads. -/
def State.relCfgl (s : State) (who : Owner) (p addr n : Nat) : RelOut :=
  match s.gate who.job (waiterRel who.sid 15) with
  | .wait => .wait
  | .ends st => .done (((s.ungate who.job (waiterRel who.sid 15)).postSys who st 0).copiesDone who p)
  | .go => s.relConfig who (s.cfglRun (clusterQuarter (sidCluster who.sid)) who.job addr n p)

/-! ## RESC (R344, R348, R385) -/

/-- The vector-form RESC cell of a RED: 32 elements of payload, m and s in the sidecar. -/
def rescCell (ctx tid col : Nat) (left : Word) (vs : List Nat) : Cell :=
  ({ dcl := 63, dport := 10, cop := 0x28A, ctx := BitVec.ofNat 6 ctx, col := BitVec.ofNat 8 col, itag := left.extractLsb' 24 24,
     cnt := left.extractLsb' 16 8, aux := left.extractLsb' 0 16, tid := BitVec.ofNat 12 tid,
     pay := packElems 32 (vs.take 32),
     car := BitVec.ofNat 128 (vs.getD 32 0 % 2 ^ 32 + vs.getD 33 0 % 2 ^ 32 * 2 ^ 32) } : Cell).seal

def State.relResc (s : State) (who : Owner) (p ag off : Nat) (left : Word) (col : Nat) : RelOut :=
  let cl := s.placeOf who (sidCluster who.sid)
  let r := agnRec (s.agn (s.jobAgn who.job cl ag)).words
  match s.readElems cl who.core who.job 5 r [] p ((List.range 40).map (fun i => some (off + i))) with
  | .error (c, _) =>
    if c = causeWait then .wait
    else .done (s.cellEnd cl { cell := rescCell 0 0 col left [], who := who, report := .strandOp true } (causeStatus c) p)
  | .ok (vs, g, _, s1) =>
    let c := rescCell ((s.ctxTag who.job cl).getD 0) r.tid col left vs
    .done (s1.issue who.core (ag / 2)
      { cell := c, stamp := g.t, agent := sidAgent who.sid, who := who, report := .strandOp true })

/-! ## RELEASE_TAKE_EFFECT -/

/-- A copy enters the transfer units of its cluster (R159). -/
def State.relCopy (s : State) (who : Owner) (p : Nat) (c : Copy) : State :=
  let k := copyKey (sidCluster who.sid) s.acc.nextCopy
  s.onAcc (fun a => { a with
    copies := tset a.copies k { used := true, c := c, who := who, stamp := p }, nextCopy := a.nextCopy + 1 })

/-- What a release does. -/
def State.relEffect (s : State) (who : Owner) (p : Nat) (h : Holder) : Release → RelOut
  | .put pipe ids => .done (s.relPut who p pipe ids)
  | .cell age => .done (s.relCell who p age)
  | .exitArrive bars => .done (s.relExit who p bars)
  | .qpub q claim => .done (s.relQpub who p q claim)
  | .cntr c n => .done ((s.counterAdd who.job c n.toNat).countDown who p)
  | .launch ag off q tk => s.relLaunch who p ag off q tk
  | .swr n sel v => s.relSwr who p h n sel v
  | .tlbi form va asid n =>
    .done ((s.tlbDrop (s.partOfCluster (sidCluster who.sid)) form va asid n).copiesDone who p)
  | .copy c => .done (s.relCopy who p c)
  | .cfgl addr n => s.relCfgl who p addr n
  | .cfgt l r => s.relConfig who (s.cfgtRun l r p)
  | .resc ag off left col => s.relResc who p ag off left col

/-- Releases of a list with no store before them, with their positions. -/
def freeReleases : List OutItem → Nat → List (Nat × Release)
  | [], _ => []
  | .store _ :: _, _ => []
  | .rel r :: xs, i => (i, r) :: freeReleases xs (i + 1)

/-- SWRs are applied in order. -/
def inOrder (rs : List (Nat × Release)) (x : Nat × Release) : Bool :=
  match x.2 with
  | .swr .. => !(rs.any (fun y => decide (y.1 < x.1) && (match y.2 with
      | .swr .. => true
      | _ => false)))
  | _ => true

/-- The first release of a holder that can take effect does. -/
def State.releaseFrom (s : State) (sid : Nat) (h : Holder) : Option State :=
  let x := s.heldBy sid h
  let rs := freeReleases x.out 0
  (rs.filter (inOrder rs)).findSome? (fun e =>
    match (s.onHolder sid h (fun y => { y with out := listDrop y.out e.1 })).relEffect x.who x.pts h e.2 with
    | .wait => none
    | .done s1 => some (s1.tidyGhost h)
    | .keep _ => match s.relEffect x.who x.pts h e.2 with
      | .keep s1 => if s1 = s then none else some s1
      | _ => none)

/-- RELEASE_TAKE_EFFECT. DEDUCED: notes/assumptions/19. -/
def State.releaseTakeEffect (s : State) (sid : Nat) : State := s.firstHolder sid (s.releaseFrom sid)

def execReleaseTakeEffect (sid : Nat) (s : State) : Res := .next (s.releaseTakeEffect sid)

end Sys2Proof.Machine
end

