-- ==== Sys2Proof/Machine/Links.lean ====
section
/-! DEFINITION. Machine/Links.lean: what arrives over Tsuax and Ethernet: flits and their link ends, cells, accesses from outside,
launches and management requests, RoCEv2 (spec/15 R311, R312, spec/20 R402 to R408, R411, R412, R422, spec/23 R457). -/

namespace Sys2Proof.Machine

/-! ## The receiving link end (R402 to R404) -/

/-- Whether SEQ a is at or before SEQ b, modulo 4,096. -/
def seqUpTo (a b : Nat) : Bool := decide ((b + (4096 - a % 4096)) % 4096 < 2048)

/-- What a header tells the sender at this end: credits, and flits that the far end has. A CTRL flit that repeats the last
ACK asks for a replay: what is unacknowledged is sent again. DEDUCED: notes/assumptions/82. -/
def TsPort.heard (t : TsPort) (f : Flit) : TsPort :=
  let ack := flitAck f
  let left := t.replay.filter (fun x => !seqUpTo (flitSeq x) ack)
  let again := flitType f == 7 && ack == t.lastAck && !left.isEmpty
  let credit := (List.range 7).foldl (fun (c : Tab Nat) v =>
    if bitOf (flitCvl f) v then tset c v (min 32 (tgetD 32 c v + flitCrn f)) else c) t.credit
  TsPort.pump (t.out.length + 1) { t with
    replay := left, lastAck := ack, credit := credit, sent := if again then left.reverse ++ t.sent else t.sent }

/-- A CTRL flit that only acknowledges. -/
def State.ackFlit (s : State) (port node : Nat) : State := s.queueFlit port (mkFlit node 0 6 7 0 0)

/-- The partition that a node identifier names. -/
def State.rootOfNode (s : State) (node : Nat) : Option Nat :=
  (List.range 4).find? (fun r => s.partOf r == r && s.nodeOf r == node)

/-- A flit that is discarded and counted (R403). DEDUCED: notes/assumptions/82. -/
def State.badFlit (s : State) : State := s.onLnk (fun l => { l with badflit := l.badflit + 1 })

/-- Whether a flit's lane suits its type (R403). -/
def laneOk (f : Flit) : Bool :=
  if flitType f = 0 then flitVl f == (if (cellOfNumber (flitBits f 128 1280)).cls then 0 else 1)
  else decide (flitType f ≤ 7) && flitVl f == typeLane (flitType f)

/-- A flit of a type arrives at a port. One that fails its CRC is discarded, and what the link has is acknowledged again; so
is one out of order; one that has been executed is dropped and acknowledged again (R404). Otherwise it is taken, and `act`
gets the partition it is for; where it cannot be acted on yet (none) it waits in front of the link end. DEDUCED: notes/assumptions/82. -/
def State.recvFlit (s : State) (port typ : Nat) (f : Flit) (act : State → Nat → Option State) : State :=
  if !flitCrcOk f then
    ((s.bumpCrc 0).errRecord 0 3 7 63 port 0 0).ackFlit port 0
  else if flitType f != typ && flitType f ≤ 7 then s
  else
    let t := s.tsPort port
    let heard (st : State) : State := st.modTs port (fun x => x.heard f)
    if flitSeq f != (t.rxSeq + 1) % 4096 then (heard s).ackFlit port (flitSnode f)
    else
      let v := flitVl f
      let taken := (heard s).modTs port (fun x => { x with
        rxSeq := flitSeq f, owed := if v < 7 then tset x.owed v (tgetD 0 x.owed v + 1) else x.owed })
      if !laneOk f then taken.badFlit
      else match s.rootOfNode (flitDnode f) with
        | none => taken.badFlit
        | some root => (act taken root).getD s

/-! ## Access control (R411) -/

def rightLaunch : Nat := 46
def rightCancel : Nat := 45
def rightRead : Nat := 44
def rightWrite : Nat := 43
def rightCfg : Nat := 42
def rightMgmt : Nat := 41

/-- Whether an entry of the table lets a node use a right for a job; `queue`: and launch into that queue. DEDUCED: notes/assumptions/82. -/
def State.allowed (s : State) (node right job : Nat) (queue : Option Nat) : Bool :=
  s.lnk.ace.any (fun e =>
    let w := e.2.toNat
    bitOf w 47 && bits w 48 16 == node && bitOf w right && (bits w 26 12 == 0xFFF || bits w 26 12 == job) &&
    (match queue with
     | none => true
     | some q => decide (bits w 16 10 ≤ q ∧ q ≤ bits w 6 10)))

/-- A host's entry: it may write the registers marked Host (R457). -/
def State.hostEntry (s : State) (node : Nat) : Bool :=
  s.lnk.ace.any (fun e =>
    let w := e.2.toNat
    bitOf w 47 && bits w 48 16 == node && bitOf w rightMgmt && bits w 26 12 == 0xFFF)

def State.countRefused (s : State) : State := s.onLnk (fun l => { l with refused := l.refused + 1 })

/-! ## Answers -/

def State.hwmOf (s : State) (root node : Nat) : Nat := tgetD 0 s.mem.hwm (root * 65536 + node)

/-- CPLT: a tag, a status and the node's high-water stamp (R403, R312). -/
def State.sendCplt (s : State) (root : Nat) (f : Flit) (tag status : Nat) : State :=
  s.sendFlit root (flitSnode f) 3 4 (flitJob f)
    (bodyWords [tag % 65536 + status % 256 * 2 ^ 56, s.hwmOf root (flitSnode f) % 2 ^ 48])

/-- RDATA: a tag, a status and data (R403). -/
def State.sendRdata (s : State) (root : Nat) (f : Flit) (tag status : Nat) (bs : List Byte) : State :=
  s.sendFlit root (flitSnode f) 3 3 (flitJob f) (bodyWords [tag % 65536 + status % 256 * 2 ^ 56] + at' 64 (leNat bs))

/-! ## Cells from other devices (R405) -/

/-- The graph of a job that a cell from outside belongs to: one whose collective it names, whose barrier object it arrives
at, or that stands in its cluster. DEDUCED: notes/assumptions/82. -/
def State.graphFor (s : State) (job : Nat) (c : Cell) (node : Nat) : Option Graph :=
  let cop := c.cop.toNat
  let coll := isCollCop cop || cop == 0x3F3
  (s.liveGraphs.find? (fun e => decide (e.1 / 65536 = job) &&
    (if coll then e.2.img.nodes.contains node && thas e.2.colls (collNo c)
     else if isBarrierCop cop then e.2.bars.any (fun b => b.2 == c.dcl.toNat * 256 + c.aux.toNat % 256 + 1)
     else e.2.img.clusters.contains c.dcl.toNat))).map (fun e => e.2)

/-- A cell enters the destination at ingress 30 of its cluster: CTX, CHK, stamp and source node are set here (R405, R312,
R335). One that names no cluster of the partition, or no graph of its job there, is refused. DEDUCED: notes/assumptions/82. -/
def State.cellIn (s : State) (root : Nat) (f : Flit) : State :=
  let c := cellOfNumber (flitBits f 128 1280)
  let cl := c.dcl.toNat
  let job := flitJob f
  let node := flitSnode f
  if cl ≥ 48 || s.partOfCluster cl != root then s.badFlit
  else match s.ctxTag job cl, s.graphFor job c node with
    | some t, some g =>
      let who : Owner := { launch := g.launch, graph := (s.launch g.launch).graph, phase := (s.launch g.launch).phase,
                           job := job, core := cl * 8 }
      let m : MCell := { cell := ({ c with ctx := BitVec.ofNat 6 t } : Cell).seal, stamp := s.hwmOf root node, snode := node,
                         agent := outsideAgent, who := who, age := s.tickNo }
      ((s.onLnk (fun l => { l with mesh := tmod l.mesh cl (fun x => x ++ [m]) })).countUp who).tickUp
    | _, _ => s.badFlit

/-- TSUAX_CELL (R405). -/
def execTsuaxCell (port : Nat) (flit : BitVec 2048) (s : State) : Res :=
  .next (s.recvFlit port 0 flit (fun st root => some (st.cellIn root flit)))

/-! ## Accesses from outside (R311, R406) -/

/-- The place of an address for an access from outside; the error is its status. -/
def State.outPlace (s : State) (root job va : Nat) (write : Bool) : Except Nat Place :=
  let leaf : Option (Nat × Word) := match s.tlbFind root job va with
    | some e => some (e.bits, e.leaf)
    | none => s.walk root job va
  match leaf with
  | none => .error 0x22
  | some (b, w) =>
    if !bitOf w.toNat 57 then .error 0x20
    else if write && wbits w 60 2 != 0 then .error 0x21
    else match s.leafAccess root b va w write false with
      | .error _ => .error 0x22
      | .ok p => .ok p

/-- The places of n bytes, in pieces that cross no line. -/
def State.outPieces (s : State) (root job : Nat) (write : Bool) : Nat → Nat → Nat → Except Nat (List (Place × Nat))
  | 0, _, _ => .ok []
  | fuel + 1, va, n =>
    if n = 0 then .ok []
    else
      let k := min n (64 - va % 64)
      match s.outPlace root job va write with
      | .error e => .error e
      | .ok p => match s.outPieces root job write fuel (va + k) (n - k) with
        | .error e => .error e
        | .ok ps => .ok ((p, k) :: ps)

/-- Whether n bytes lie in a job's export window (R406, R459). -/
def State.inWindow (s : State) (job va n : Nat) : Bool :=
  let j := s.job job
  let b := j.jexpb.toNat
  decide (va < 2 ^ 57 ∧ b ≤ va ∧ va + n ≤ b + j.jexpl.toNat * 65536)

/-- DEDUCED: notes/assumptions/82. -/
def State.outSpan (s : State) (root job va n : Nat) (write : Bool) : Except Nat (List (Place × Nat)) :=
  if !s.inWindow job va n then .error 0x20 else s.outPieces root job write n va n

/-- An outside write (R311): an ordinary store with P = 0 as agent 0x0002. The largest timestamp, a status and the state. DEDUCED: notes/assumptions/82. -/
def State.outWrite (s : State) (root job va : Nat) (bs : List Byte) : Nat × Nat × State :=
  match s.outSpan root job va bs.length true with
  | .error e => (0, e, s)
  | .ok ps => match s.writePieces root 0 outsideAgent ps (leNat bs) with
    | .error c => (0, causeStatus c, s)
    | .ok (t, s1) => (t, 0, s1)

/-- An outside read (R311): the home's current image, with no lease and no timestamp. -/
def State.outRead (s : State) (root job va n : Nat) : Except Nat (List Byte) :=
  match s.outSpan root job va n false with
  | .error e => .error e
  | .ok ps =>
    if ps.any (fun p => s.linePoisoned p.1) then .error 0x80
    else .ok ((ps.map (fun p => ((s.lineImage root p.1).drop (placeOff p.1)).take p.2)).flatten)

/-- Length and request tag of a WRITE or READ (R403). -/
def flitLen (f : Flit) : Nat := flitWord f 1 % 256
def flitTag (f : Flit) : Nat := bits (flitWord f 1) 16 16
def lenOk (f : Flit) : Bool := decide (1 ≤ flitLen f ∧ flitLen f ≤ 192)

/-- A WRITE is checked, performed and answered; the node's high-water stamp rises (R406, R312). DEDUCED: notes/assumptions/82. -/
def State.writeIn (s : State) (root : Nat) (f : Flit) : State :=
  let job := flitJob f
  let node := flitSnode f
  if !lenOk f then s.badFlit
  else if !s.allowed node rightWrite job none then (s.sendCplt root f (flitTag f) 0x20).countRefused
  else
    let (t, st, s1) := s.outWrite root job (flitWord f 0) (flitBytes f 16 (flitLen f))
    let s2 := if st = 0 then s1.onMem (fun m => { m with
      hwm := tset m.hwm (root * 65536 + node) (max (s1.hwmOf root node) t) }) else s1
    s2.sendCplt root f (flitTag f) st

/-- TSUAX_WRITE (R311, R403, R406, R411). -/
def execTsuaxWrite (port : Nat) (flit : BitVec 2048) (s : State) : Res :=
  .next (s.recvFlit port 1 flit (fun st root => some (st.writeIn root flit)))

/-- A READ is checked, served and answered (R406). -/
def State.readIn (s : State) (root : Nat) (f : Flit) : State :=
  let job := flitJob f
  if !lenOk f then s.badFlit
  else if !s.allowed (flitSnode f) rightRead job none then (s.sendRdata root f (flitTag f) 0x20 []).countRefused
  else match s.outRead root job (flitWord f 0) (flitLen f) with
    | .error e => s.sendRdata root f (flitTag f) e []
    | .ok bs => s.sendRdata root f (flitTag f) 0 bs

/-- TSUAX_READ (R311, R403, R406, R411). -/
def execTsuaxRead (port : Nat) (flit : BitVec 2048) (s : State) : Res :=
  .next (s.recvFlit port 2 flit (fun st root => some (st.readIn root flit)))

/-! ## Answers to this device's own requests (R403, R410) -/

/-- The operation that waits for an answer hears of it: data or an acknowledgement, and a status. -/
def State.answered (s : State) (tag status : Nat) (f : Flit) (data : Bool) : State :=
  match s.lnk.reqs.find? (fun r => r.tag == tag) with
  | none => s
  | some r =>
    let s1 := s.onLnk (fun l => { l with reqs := l.reqs.filter (fun x => x.tag != tag) })
    let bs := if data && status = 0 then flitBytes f 8 r.len else []
    let s2 := match r.copy with
      | some k => if !(s1.copyOp k).used then s1 else s1.modCopy k (fun o => { o with
          data := if r.off = o.data.length then o.data ++ bs else o.data, status := status })
      | none => s1
    match r.xfer with
    | none => s2
    | some k => s2.modXfer k (fun o =>
        if status != 0 then { o with status := status, stage := 2 }
        else if data then { o with data := o.data ++ bs, stage := 0 }
        else { o with sent := o.sent + r.len, stage := 2 })

/-- TSUAX_RDATA (R403). -/
def execTsuaxRdata (port : Nat) (flit : BitVec 2048) (s : State) : Res :=
  .next (s.recvFlit port 3 flit (fun st _ =>
    some (st.answered (flitWord flit 0 % 65536) (bits (flitWord flit 0) 56 8) flit true)))

/-- TSUAX_CPLT (R403). -/
def execTsuaxCplt (port : Nat) (flit : BitVec 2048) (s : State) : Res :=
  .next (s.recvFlit port 4 flit (fun st _ =>
    some (st.answered (flitWord flit 0 % 65536) (bits (flitWord flit 0) 56 8) flit false)))

/-- TSUAX_CTRL (R403, R404): credits and acknowledgement only. -/
def execTsuaxCtrl (port : Nat) (flit : BitVec 2048) (s : State) : Res :=
  .next (s.recvFlit port 7 flit (fun st _ => some st))

/-! ## Launches from outside (R403, R411 to R413) -/

/-- A packet goes into a queue: a slot is claimed, written and published as one operation; none while the queue is full.
The status comes with the state (R414). -/
def State.packetIn (s : State) (qk job p wid : Nat) (ws : List Nat) : Option (Nat × State) :=
  let q := s.queue qk
  if !s.queueOfJob qk job || (s.job job).state != 1 then some (0x35, s)
  else if q.full || s.pmHolds (qk / 256) then none
  else
    let s1 := s.modQueue qk (fun x => { x with claim := q.claim + 1 })
    let (_, s2) := s1.sysWrite (qk / 256) job (q.slotAddr q.claim) p wid ws
    some (0, s2.queuePublish qk q.claim)

/-- The tag of the CPLT that answers a flit without a request tag: the flit's SEQ. -/
def ansTag (f : Flit) : Nat := flitSeq f

/-- Refused by the table, and counted (R411). -/
def State.refuse (s : State) (root : Nat) (f : Flit) : State := (s.sendCplt root f (ansTag f) 0x20).countRefused

def State.launchIn (s : State) (root : Nat) (f : Flit) : Option State :=
  let qk := flitWord f 0 % 1024
  if !s.allowed (flitSnode f) rightLaunch (flitJob f) (some qk) then some (s.refuse root f)
  else match s.packetIn qk (flitJob f) 0 outsideAgent ((List.range 24).map (fun i => flitWord f (1 + i))) with
    | none => none
    | some (st, s1) => some (s1.sendCplt root f (ansTag f) st)

/-- LAUNCH_FLIT (R403, R411 to R413). -/
def execLaunchFlit (port : Nat) (flit : BitVec 2048) (s : State) : Res :=
  .next (s.recvFlit port 5 flit (fun st root => st.launchIn root flit))

/-! ## Management requests (R403, R422, R457) -/

def mgmtLeft (f : Flit) : Word := BitVec.ofNat 64 (flitWord f 1)
def mgmtRight (f : Flit) : Word := BitVec.ofNat 64 (flitWord f 2)

/-- An MGMT flit of a request: checked against the table, performed, answered by CPLT with its status; another request's
event does nothing with it. DESIGN CHOICE: notes/assumptions/83. -/
def State.mgmtIn (s : State) (port req right : Nat) (f : Flit) (queue : Option Nat)
    (act : State → Nat → Option (Nat × State)) : State :=
  let n := flitWord f 0 % 16
  if flitCrcOk f && flitType f = 6 && n != req && n ≤ 6 then s
  else s.recvFlit port 6 f (fun st root =>
    if n != req then some st.badFlit
    else if !st.allowed (flitSnode f) right (flitJob f) queue then some (st.refuse root f)
    else match act st root with
      | none => none
      | some (status, s1) => some (s1.sendCplt root f (ansTag f) status))

/-- MGMT LAUNCH: the left token is the packet's virtual address, the right one the queue. DESIGN CHOICE: notes/assumptions/83. -/
def State.mgmtLaunchAct (s : State) (root : Nat) (f : Flit) : Option (Nat × State) :=
  let qk := (mgmtRight f).toNat
  let job := flitJob f
  match s.cfgWordsFrom root job (mgmtLeft f).toNat 0 24 with
  | .error (c, _) => some (if causeIsXlate c then 0x22 else causeStatus c, s)
  | .ok (ws, t, s1) => s1.packetIn qk job t outsideAgent (ws.map (fun w => w.toNat))

/-- MGMT_LAUNCH (R422). -/
def execMgmtLaunch (port : Nat) (flit : BitVec 2048) (s : State) : Res :=
  .next (s.mgmtIn port 0 rightLaunch flit (some (mgmtRight flit).toNat) (fun st root => st.mgmtLaunchAct root flit))

/-- MGMT_CNTR (R417, R422). -/
def execMgmtCntr (port : Nat) (flit : BitVec 2048) (s : State) : Res :=
  .next (s.mgmtIn port 1 rightLaunch flit none (fun st _ =>
    let c := (mgmtLeft flit).toNat
    some (if c ≥ 1024 then (0x35, st) else (0, st.counterAdd (flitJob flit) c (mgmtRight flit).toNat))))

/-- MGMT CANCEL: word 3 is the level code. DESIGN CHOICE: notes/assumptions/83. -/
def State.mgmtCancelAct (s : State) (f : Flit) : Nat × State :=
  let lev := flitWord f 3
  let id := (mgmtLeft f).toNat
  let width := match lev with
    | 0 => 11
    | 1 => 24
    | 2 => 16
    | 3 => 32
    | _ => 12
  if lev > 4 || id ≥ 2 ^ width then (0x35, s)
  else match s.cancelOf (flitJob f) lev id with
    | none => (0x30, s)
    | some s1 => (0, s1)

/-- MGMT_CANCEL (R418, R422). -/
def execMgmtCancel (port : Nat) (flit : BitVec 2048) (s : State) : Res :=
  .next (s.mgmtIn port 2 rightCancel flit none (fun st _ => some (st.mgmtCancelAct flit)))

/-- What a configuration comes to for an outside requester: it waits, or its status. DESIGN CHOICE: notes/assumptions/83. -/
def cfgAnswer (o : CfgOut) (s : State) : Option (Nat × State) :=
  match o with
  | .wait => none
  | .fault c _ => some (if causeIsXlate c then 0x22 else causeStatus c, s)
  | .finish st _ _ s1 => some (st, s1)

/-- MGMT_CFGL (R419, R422): the entry count is SYSNUM13. -/
def execMgmtCfgl (port : Nat) (flit : BitVec 2048) (s : State) : Res :=
  .next (s.mgmtIn port 3 rightCfg flit none (fun st root =>
    cfgAnswer (st.cfglRun root (flitJob flit)
      ((mgmtLeft flit).toNat + if mgmtRight flit = 0 then 0 else 2 ^ 64) (flitWord flit 3 % 8192) 0) st))

/-- MGMT_CFGT (R421, R422): of a cluster of the partition. -/
def execMgmtCfgt (port : Nat) (flit : BitVec 2048) (s : State) : Res :=
  .next (s.mgmtIn port 4 rightCfg flit none (fun st root =>
    let cl := wbits (mgmtLeft flit) 0 6
    if cl < 48 && st.partOfCluster cl != root then some (cfgBad, st)
    else cfgAnswer (st.cfgtRun (mgmtLeft flit) (mgmtRight flit) 0) st))

/-- The issuer that an MGMT flit is (R457). -/
def State.flitIssuer (s : State) (root : Nat) (f : Flit) : Issuer :=
  { strand := false, who := { job := flitJob f }, root := root, host := s.hostEntry (flitSnode f) }

/-- MGMT SRD: answered by RDATA with the value in bytes 8 to 15. The status of a refused register is stated nowhere: it is a
free value. DESIGN CHOICE: notes/assumptions/83. -/
def State.srdIn (s : State) (root : Nat) (f : Flit) : State :=
  if !s.allowed (flitSnode f) rightMgmt (flitJob f) none then s.refuse root f
  else match s.regRead (s.flitIssuer root f) (flitWord f 3) (mgmtLeft f) with
    | some v => s.sendRdata root f (ansTag f) 0 (leBytes 8 v.toNat)
    | none =>
      let (st, s1) := s.freshFree
      s1.sendRdata root f (ansTag f) st.toNat []

/-- MGMT_SRD (R457). -/
def execMgmtSrd (port : Nat) (flit : BitVec 2048) (s : State) : Res :=
  let n := flitWord flit 0 % 16
  .next (if flitCrcOk flit && flitType flit = 6 && n != 5 && n ≤ 6 then s
    else s.recvFlit port 6 flit (fun st root => some (if n = 5 then st.srdIn root flit else st.badFlit)))

/-- MGMT SWR: a status, and the state (R51, R457). DESIGN CHOICE: notes/assumptions/83. -/
def State.mgmtSwrAct (s : State) (root : Nat) (f : Flit) : Nat × State :=
  match s.regWrite (s.flitIssuer root f) (flitWord f 3) (mgmtLeft f) (mgmtRight f) with
  | .done s1 => (0, s1)
  | .badparm => (0x35, s)
  | .badsys =>
    let (st, s1) := s.freshFree
    (st.toNat % 256, s1)

/-- MGMT_SWR (R457). -/
def execMgmtSwr (port : Nat) (flit : BitVec 2048) (s : State) : Res :=
  .next (s.mgmtIn port 6 rightMgmt flit none (fun st root => some (st.mgmtSwrAct root flit)))

/-! ## Ethernet (R407, R408) -/

/-- UNVERIFIED: notes/assumptions/81; DESIGN CHOICE: notes/assumptions/96. -/
def State.ethSend (s : State) (m : EthMsg) : State := s.onLnk (fun l => { l with ethOut := l.ethOut ++ [m] })

/-- A request on a queue pair: performed under the pair's job as an access from outside, or answered with a NAK. UNVERIFIED: notes/assumptions/81. -/
def State.roceDo (s : State) (r : RoceReq) (act : State → Qp → Except Nat State) : State :=
  let qp := tget s.lnk.qps r.qpn
  if !qp.valid then s
  else match (if Config.rkeyOk r.qpn r.rkey then act s qp else .error 0x20) with
    | .error _ => s.ethSend { qpn := r.qpn, kind := 4 }
    | .ok s1 => s1

/-- UNVERIFIED: notes/assumptions/81. -/
def State.roceWrite (s : State) (r : RoceReq) : State :=
  s.roceDo r (fun st qp =>
    let (_, e, s1) := st.outWrite qp.part qp.job r.va.toNat r.data
    if e = 0 then .ok (s1.ethSend { qpn := r.qpn, kind := 3 }) else .error e)

/-- ROCE_RDMA_WRITE (R311, R407). -/
def execRoceRdmaWrite (r : RoceReq) (s : State) : Res := .next (s.roceWrite r)
/-- ROCE_RDMA_WRITE_IMM (R311, R407). -/
def execRoceRdmaWriteImm (r : RoceReq) (s : State) : Res := .next (s.roceWrite r)

/-- ROCE_RDMA_READ (R311, R407). -/
def execRoceRdmaRead (r : RoceReq) (s : State) : Res :=
  .next (s.roceDo r (fun st qp => match st.outRead qp.part qp.job r.va.toNat r.len with
    | .error e => .error e
    | .ok bs => .ok (st.ethSend { qpn := r.qpn, kind := 5, len := bs.length, data := bs })))

/-- ROCE_UNSUPPORTED (R407): answered with a NAK. -/
def execRoceUnsupported (r : RoceReq) (s : State) : Res :=
  .next (if (tget s.lnk.qps r.qpn).valid then s.ethSend { qpn := r.qpn, kind := 4 } else s)

/-- An answer for an XNET transfer (R408): a remote access error, the next data of a READ, or an acknowledgement; the last
one lets the done word be written. -/
def State.roceAnswer (s : State) (cl xf n : Nat) (data : List Byte) (err : Bool) : State :=
  let k := xferKey cl xf n
  let o := s.xferOp k
  if !o.used || !isXnet o.cell.cell || o.stage != 1 then s
  else if err then (s.modXfer k (fun x => { x with status := 0x7B, stage := 2 })).xferStep cl xf n
  else if xferNop o.cell.cell = 2 then
    let all := (o.data ++ data).take (xferLen o.cell.cell)
    if all.length ≥ xferLen o.cell.cell then (s.modXfer k (fun x => { x with data := all, stage := 2 })).xferStep cl xf n
    else s.modXfer k (fun x => { x with data := all })
  else (s.modXfer k (fun x => { x with stage := 2 })).xferStep cl xf n

/-- ROCE_RESPONSE (R407, R408). -/
def execRoceResponse (cl xf op : Nat) (data : List Byte) (err : Bool) (s : State) : Res :=
  .next (s.roceAnswer cl xf op data err)

/-- A transfer's timer runs out: how often it is retried the spec does not say, so a free value decides whether it is sent
again or ends with NET_RETRY (R408). UNVERIFIED: notes/assumptions/81. -/
def State.roceTimeout (s : State) (cl xf n : Nat) : State :=
  let k := xferKey cl xf n
  let o := s.xferOp k
  if !o.used || !isXnet o.cell.cell || o.stage != 1 then s
  else
    let (v, s1) := s.freshFree
    if v.toNat % 2 = 0 then
      (if xferNop o.cell.cell = 2 then (s1.modXfer k (fun x => { x with data := [] })).xnetSend k o.cell.cell []
       else s1.xnetSend k o.cell.cell o.data)
    else (s1.modXfer k (fun x => { x with status := 0x7A, stage := 2 })).xferStep cl xf n

/-- ROCE_RETRY_TIMEOUT (R407, R408). -/
def execRoceRetryTimeout (cl xf op : Nat) (s : State) : Res := .next (s.roceTimeout cl xf op)

/-- PFC_PAUSE (R407): sending on a port's priority stops or goes on. -/
def execPfcPause (port prio : Nat) (on : Bool) (s : State) : Res :=
  .next (s.onLnk (fun l => { l with pfc := tset l.pfc (port * 8 + prio) on }))

/-- CONGESTION_NOTIFICATION (R407): a queue pair's rate is reduced. -/
def execCongestionNotification (qpn : Nat) (s : State) : Res :=
  .next (if (tget s.lnk.qps qpn).valid then s.onLnk (fun l => { l with
    qps := tmod l.qps qpn (fun (q : Qp) => { q with rate := q.rate + 1 }) }) else s)

end Sys2Proof.Machine
end

