-- ==== Sys2Proof/Machine/Market.lean ====
section
/-! DEFINITION. Machine/Market.lean: a cluster's market: admission, the auction, crossings, egress buffers, ageing and purges
(spec/09 R191 to R206, spec/03 R79, spec/22 R433, R437, R439). -/

namespace Sys2Proof.Machine

/-! ## Exit cells of a twin (R439) -/

/-- A write-port cell in either region of a twinned graph, or a cell that an engine or AGN of it sends out of the region,
goes to the comparator of the first copy's cluster. -/
def State.exitMark (s : State) (cl ingress : Nat) (m : MCell) : MCell :=
  let g := s.graph m.who.job m.who.graph
  if g.img.twin.isNone || ingress = 31 || m.passed || m.cmp != 0 || m.cell.cls then m
  else
    let t := m.cell.target cl
    let strand := match m.report with
      | .strandCell _ => true
      | .again _ => true
      | _ => false
    let out := (decide (m.cell.cop.toNat / 128 = 0) && t == cl) ||
      (!strand && !g.img.clusters.contains t && !g.img.copyClusters.contains t)
    if !out then m
    else match g.img.clusters.findIdx? (fun c => c == cl), g.img.copyClusters.findIdx? (fun c => c == cl) with
      | some _, _ => { m with cmp := 1 + 2 * cl }
      | none, some i => { m with cmp := 2 + 2 * g.img.clusters.getD i cl }
      | none, none => m

/-! ## Admission (R79, R193 to R195, R204) -/

/-- A purged colour of a graph has not become free again (R437). -/
def State.colourPurged (s : State) (m : MCell) : Bool :=
  let g := s.graph m.who.job m.who.graph
  g.dynamic && g.acts.any (fun a => a.purged && a.colour == m.cell.col.toNat)

/-- A cell is discarded at ingress: what it was the result of completes, and its own operation with it. -/
def State.discard (s : State) (cl : Nat) (m : MCell) (status : Nat) : State :=
  (s.prodEnd cl m).cellEnd cl m status m.stamp

/-- A cell asks to enter a market at an ingress port; none: it stays at its source. -/
def State.enterMarket (s : State) (cl ingress : Nat) (m0 : MCell) : Option State :=
  let root := s.partOfCluster cl
  let g := s.graph m0.who.job m0.who.graph
  if m0.cell.chk != m0.cell.crc then
    let s1 := (s.bumpCrc root).errRecord root 3 5 cl ingress m0.cell.itag.toNat 0
    some (s1.discard cl m0 0x81)
  else if windowed m0 && g.bound && g.stale m0.cell.itag.toNat then
    some ((s.modMarket cl (fun k => { k with stale := k.stale + 1 })).discard cl m0 0x9C)
  else if s.colourPurged m0 then some ((s.bumpCrc root).discard cl m0 0)
  else if !s.tagOk m0 then none
  else
    let m := s.exitMark cl ingress m0
    let q := queueOf cl ingress m
    let mk := s.market cl
    if !mk.admits cl q m.cell.cls.toNat then none
    else
      let x := { m with
        shared := !mk.ownFree cl q, origin := if ingress = 31 then m.origin else ingress, stall := 0, prod := none }
      let s1 := (s.prodEnd cl m).modMarket cl (fun k => { k with queues := tset k.queues q (k.queue q ++ [x]) })
      some (s1.settleQueue cl q 2)

/-- A completed operation's CMPL token follows its result (R203). -/
def State.admitResult (s : State) (cl ingress : Nat) (m : MCell) : Option State :=
  match s.enterMarket cl ingress m with
  | none => none
  | some s1 => match m.prod with
    | some p => match p.cmpl with
      | some c => some (s1.sendOut cl ingress { cell := c, stamp := p.cts, who := m.who })
      | none => some s1
    | none => some s1

/-- The first waiting cell of class 1, or else of class 0, that an ingress port admits. -/
def State.admitFrom (s : State) (cl ingress : Nat) (l : List MCell) (set : List MCell → State → State) : Option State :=
  let try1 (k : Bool) : Option State :=
    match takeFirst (fun m => m.cell.cls == k) l with
    | none => none
    | some (m, rest) => (set rest s).admitResult cl ingress m
  match try1 true with
  | some s1 => some s1
  | none => try1 false

/-- A streaming AGN is a source node of its own where the graph declares a stream node (R153); the cells of a strand's stream are
not cells of the strand's own (R204, and the trace of spec/10). DEDUCED: notes/assumptions/64. -/
def State.nodeStream (s : State) (key : Nat) (st : Stream) : Bool :=
  (s.graph st.who.job st.who.graph).img.streams.any (fun d => s.jobAgn st.who.job d.cluster d.agn == key)

/-- CELL_ADMIT: the next cell of a source enters its ingress queue, or is discarded there, or stays (R192, R195). -/
def State.cellAdmit (s : State) : CellSource → State
  | .core core =>
    match (s.coreSt core).issue with
    | [] => s
    | i :: rest =>
      if i.held then s
      else ((s.modCoreSt core (fun k => { k with issue := rest })).enterMarket (coreCluster core) i.port i.cell).getD s
  | .agn key =>
    let a := s.agn key
    match a.cellOut, a.stream with
    | some m, some st =>
      let s1 := (match m.report with
        | .stream _ => s.opStart m.who
        | _ => s.countUp m.who).streamSent key
      let s2 := if windowed m && s.nodeStream key st
        then s1.sourceSent st.who.job st.who.graph (nodeSource key) m.cell.itag.toNat else s1
      (s2.enterMarket (agnCl key) (agnNo key / 2) m).getD s
    | _, _ => s
  | .engine cl port =>
    (s.admitFrom cl port (tget s.eng.outs (cl * 32 + port))
      (fun l st => st.onEng (fun e => { e with outs := tset e.outs (cl * 32 + port) l }))).getD s
  | .mesh cl =>
    if s.retained cl then s
    else (s.admitFrom cl 30 (tget s.lnk.mesh cl)
      (fun l st => st.onLnk (fun x => { x with mesh := tset x.mesh cl l }))).getD s

/-- CELL_ADMIT (R195). -/
def execCellAdmit (src : CellSource) (s : State) : Res := .next (s.cellAdmit src)

/-! ## The auction (R196 to R200) -/

/-- A head that bids: its queue, ingress port, level, order of becoming head, cell, and the egress ports it wants. -/
structure Bidder where
  q : Nat
  ingress : Nat
  level : Nat
  order : Nat
  cell : MCell
  wants : List Nat
  deriving DecidableEq, Repr

/-- Slots that a queue's head has waited. -/
def Market.waited (m : Market) (q : Nat) : Nat := m.slot + 1 - tgetD (m.slot + 1) m.since q
/-- A head that has waited AGELIM slots is aged. -/
def Market.headAged (m : Market) (q : Nat) : Bool := decide (m.waited q ≥ m.agelim)

/-- The heads of a market. -/
def Market.bidders (m : Market) : List Bidder :=
  m.queues.filterMap (fun e => match e.2 with
    | [] => none
    | c :: _ => some {
        q := e.1, ingress := queueIngress e.1, level := 2 * (m.headAged e.1).toNat + queueClass e.1,
        order := (tget m.heads e.1).2, cell := c
        wants := if queueIsMc e.1 then setBits (tget m.left e.1).toNat 32 else [queueEgress e.1] })

/-- The candidate H(i, e): the head of highest level, the earlier between equals (R197). -/
def candidate (bs : List Bidder) (i e : Nat) : Option Bidder :=
  bs.foldl (fun (o : Option Bidder) b =>
    if b.ingress != i || !b.wants.contains e then o
    else match o with
      | none => some b
      | some c => if b.level > c.level || (b.level == c.level && decide (b.order < c.order)) then some b else o) none

/-- Entries of an egress port's input buffer, and those taken at the start of the slot (R200). -/
def bufferSize (k : Nat) : Nat := if k = 1 then 1 else 4
/-- DEDUCED: notes/assumptions/46. -/
def Market.credit (m : Market) (e k : Nat) : Nat :=
  bufferSize k - tget m.used0 (2 * e + k) -
    (m.matched.filter (fun x => x.egress == e && x.cell.cell.cls.toNat == k && decide (x.slot + 2 ≥ m.slot))).length

/-- Whether an egress port takes no class-0 cell for now: the cell at the head of its buffer finds no stall (R204). -/
def State.portBlocked (s : State) (cl e : Nat) : Bool :=
  match tget (s.market cl).buf0 e with
  | [] => false
  | m :: _ => (s.port cl e).shorts.contains m.age

/-- Whether a candidate bids at an egress port (R198, R200, R202, R204). -/
def State.bids (s : State) (cl e : Nat) (b : Bidder) : Bool :=
  let m := s.market cl
  let k := b.cell.cell.cls.toNat
  let gated := b.cell.cell.gate && k == 0 && !isRendezvous e && !(e == 14 && b.cell.target cl != cl) &&
    decide ((s.port cl e).gates.length ≥ gateStore)
  decide (m.credit e k > 0) && !(k == 0 && s.portBlocked cl e) && !gated &&
    !(e == 9 && k == 0 && b.cell.target cl == cl && s.ixFull cl b.cell.cell)

/-- Where a port stands when the scan starts at a pointer. -/
def scanRank (p x : Nat) : Nat := (x + 32 - p % 32) % 32

/-- The element of a list that ranks lowest. -/
def lowest {α : Type} (rank : α → Nat) : List α → Option α
  | [] => none
  | x :: xs => match lowest rank xs with
    | none => some x
    | some y => if rank x ≤ rank y then some x else some y

def topLevel (l : List Bidder) : Nat := l.foldl (fun n b => max n b.level) 0

/-- Round two: an egress port's offer (R198). DEDUCED: notes/assumptions/46. -/
def State.offer (s : State) (cl e : Nat) (bs : List Bidder) : Option Bidder :=
  let cs := (List.range 32).filterMap (fun i => match candidate bs i e with
    | none => none
    | some b => if s.bids cl e b then some b else none)
  lowest (fun b => scanRank (tget (s.market cl).op e) b.ingress) (cs.filter (fun b => b.level == topLevel cs))

/-- Round three: the head that an ingress port accepts offers for, the port it accepts first, and all that it accepts. DEDUCED: notes/assumptions/46. -/
def Market.accepts (m : Market) (i : Nat) (offers : List (Nat × Bidder)) : Option (Bidder × Nat × List Nat) :=
  let mine := offers.filter (fun o => o.2.ingress == i)
  let top := topLevel (mine.map (fun o => o.2))
  match lowest (fun o => scanRank (tget m.ap i) o.1) (mine.filter (fun o => o.2.level == top)) with
  | none => none
  | some (f, b) =>
    some (b, f, if queueIsMc b.q then (mine.filter (fun o => o.2.q == b.q)).map (fun o => o.1) else [f])

/-- A member's copy of a multicast cell: it counts on its own (R148). -/
def State.memberCopy (s : State) (m : MCell) : MCell × State :=
  let s1 := match m.report with
    | .strandCopy _ id => s.onEng (fun e => { e with mcasts := tset e.mcasts id (tget e.mcasts id + 1) })
    | .stream _ => s.opStart m.who
    | _ => s.countUp m.who
  ({ m with age := s.tickNo }, s1.tickUp)

/-- A head is matched to a set of egress ports (R196, R199): its crossing is fixed, and a unicast head, or a multicast head
whose remaining set is empty, leaves its queue. -/
def State.matchHead (s : State) (cl : Nat) (b : Bidder) (es : List Nat) : State :=
  let m := s.market cl
  let pop (st : State) : State := st.modMarket cl (fun k => { k with queues := tset k.queues b.q ((k.queue b.q).drop 1) })
  let add (st : State) (c : MCell) (e : Nat) (free : Bool) : State := st.modMarket cl (fun k => { k with
    matched := k.matched ++ [{ slot := m.slot, cell := c, ingress := b.ingress, egress := e, free := free }] })
  if queueIsMc b.q then
    let rest := tget m.left b.q &&& ~~~(BitVec.ofNat 32 (es.foldl (fun n e => n + 2 ^ e) 0))
    let done := rest == 0
    let s1 := es.foldl (fun st e =>
      let (c, st1) := st.memberCopy b.cell
      add st1 c e (done && es.head? == some e)) s
    let s2 := s1.modMarket cl (fun k => { k with left := tset k.left b.q rest })
    if done then ((pop s2).cellEnd cl b.cell 0 b.cell.stamp).settleQueue cl b.q (((m.queue b.q).length) + 1) else s2
  else ((add (pop s) b.cell (queueEgress b.q) true)).settleQueue cl b.q 2

/-- Heads that have become aged are counted once (R206). DEDUCED: notes/assumptions/46. -/
def Market.countAged (m : Market) : Market :=
  let new := (m.queues.filter (fun e => !e.2.isEmpty && m.headAged e.1 && !m.agedQ.contains e.1)).map (fun e => e.1)
  { m with aged := m.aged + BitVec.ofNat 64 new.length, agedQ := m.agedQ ++ new }

/-- The next slot starts: buffer entries that it finds taken, and the matches that still hold credit. -/
def Market.nextSlot (m : Market) : Market :=
  let taken (t : Tab (List MCell)) (k : Nat) : Tab Nat :=
    t.filterMap (fun e => if e.2.isEmpty then none else some (2 * e.1 + k, e.2.length))
  { m with
    slot := m.slot + 1
    used0 := (taken m.buf0 0 ++ taken m.buf1 1).foldl (fun (t : Tab Nat) e => tset t e.1 e.2) []
    matched := m.matched.filter (fun x => !x.crossed || decide (x.slot + 1 ≥ m.slot)) }

/-- AUCTION (R198). It runs once the crossings of the slots before its own have been made. -/
def State.auction (s : State) (cl : Nat) : State :=
  let m := s.market cl
  if m.matched.any (fun x => !x.crossed && decide (x.slot + 3 ≤ m.slot)) then s
  else
    let s1 := s.modMarket cl Market.countAged
    let bs := (s1.market cl).bidders
    let offers : List (Nat × Bidder) := (List.range 32).filterMap (fun e => (s1.offer cl e bs).map (fun b => (e, b)))
    let acc : List (Nat × Bidder × Nat × List Nat) := (List.range 32).filterMap (fun i =>
      ((s1.market cl).accepts i offers).map (fun a => (i, a)))
    let s2 := acc.foldl (fun st a => st.modMarket cl (fun k => { k with
      op := a.2.2.2.foldl (fun t e => tset t e ((a.1 + 1) % 32)) k.op
      ap := tset k.ap a.1 ((a.2.2.1 + 1) % 32) })) s1
    let s3 := acc.foldl (fun st a => st.matchHead cl a.2.1 a.2.2.2) s2
    s3.modMarket cl Market.nextSlot

/-- AUCTION (R196 to R200). DEDUCED: notes/assumptions/46. -/
def execAuction (cl : Nat) (s : State) : Res := .next (s.auction cl)

/-- HEAD_AGED (R197, R206): a head that has waited AGELIM slots is counted. DESIGN CHOICE: notes/assumptions/2. -/
def execHeadAged (cl queue : Nat) (s : State) : Res :=
  let m := s.market cl
  .next (if (m.queue queue).isEmpty || !m.headAged queue || m.agedQ.contains queue then s
    else s.modMarket cl (fun k => { k with aged := k.aged + 1, agedQ := k.agedQ ++ [queue] }))

/-! ## Crossings and egress buffers -/

/-- CELL_CROSS (R196): the cells matched two slots before cross to their egress ports' input buffers. DEDUCED: notes/assumptions/46. -/
def State.cellCross (s : State) (cl : Nat) : State :=
  let m := s.market cl
  let due (x : Matched) : Bool := !x.crossed && decide (x.slot + 2 ≤ m.slot)
  s.modMarket cl (fun k =>
    let go := k.matched.filter due
    let push (t : Tab (List MCell)) (c : Bool) : Tab (List MCell) :=
      (go.filter (fun x => x.cell.cell.cls == c)).foldl (fun u x => tset u x.egress (tget u x.egress ++ [x.cell])) t
    { k with
      buf0 := push k.buf0 false, buf1 := push k.buf1 true
      matched := k.matched.map (fun x => if due x then { x with crossed := true } else x) })

/-- CELL_CROSS (R196, R199). -/
def execCellCross (cl : Nat) (s : State) : Res := .next (s.cellCross cl)

/-- The cell at the head of an egress buffer is delivered, or stays; a want of a stall is counted (R200, R204). -/
def State.drainHead (s : State) (cl e : Nat) (one : Bool) : Option State :=
  let pop (st : State) : State := st.modMarket cl (fun k =>
    if one then { k with buf1 := tset k.buf1 e ((tget k.buf1 e).drop 1) }
    else { k with buf0 := tset k.buf0 e ((tget k.buf0 e).drop 1) })
  match (if one then tget (s.market cl).buf1 e else tget (s.market cl).buf0 e) with
  | [] => none
  | m :: _ => match s.deliver cl e m with
    | .took s1 => some ((pop s1).clearShort cl e m.age)
    | .noStall => if (s.port cl e).shorts.contains m.age then none else some (s.countShort cl e m.age)
    | .busy => none

/-- EGRESS_DRAIN (R200): class 1 first. -/
def State.egressDrain (s : State) (cl e : Nat) : State :=
  match s.drainHead cl e true with
  | some s1 => s1
  | none => (s.drainHead cl e false).getD s

/-- EGRESS_DRAIN (R172, R173, R200, R202, R204). -/
def execEgressDrain (cl port : Nat) (s : State) : Res := .next (s.egressDrain cl port)

end Sys2Proof.Machine
end

