-- ==== Sys2Proof/Machine/MatrixOps.lean ====
section
/-! DEFINITION. Machine/MatrixOps.lean: what a row of the matrix engine computes: format classes, the latch, scaled blocks, group sums,
row faults and operation faults, and the expansion of sparse rows (spec/12 R237 to R254, spec/11 R223 to R229, R234). -/

namespace Sys2Proof.Machine

/-! ## Classes (R237) -/

/-- The class of a format, by its element width; none: an integer format. -/
def matClass (f : EFmt) : Option Nat := if f.isInt then none else some f.bits

/-- K elements per A cell. -/
def matKmax (cls : Nat) : Nat := 1024 / cls

/-- A format with its scaling, as an operation reads it from a tensor entry; none: FMT or BLK is reserved. -/
def State.matFmt (s : State) (job tid : Nat) : Option (EFmt × Bool) :=
  (s.cellFmt job tid).map (fun f => (f, tblk (s.tensor job tid) != 0))

/-- Formats by their codes, as LFMT holds them. -/
def lfmtOf (x : MatCtx) : EFmt := (efmt x.lfmt).getD (.flt bf16)

/-- Rows of the accumulator in its mode. -/
def MatCtx.rows (x : MatCtx) : Nat := if x.fp64 then 64 else 128
def MatCtx.accFmt (x : MatCtx) : FFmt := if x.fp64 then Sys2Proof.Machine.fp64 else fp32

/-- Columns of the array. -/
def matCols : Nat := 256

/-- Row q of the accumulator. -/
def MatCtx.accRow (x : MatCtx) (q : Nat) : List Word :=
  match tget x.acc q with
  | [] => List.replicate matCols 0
  | l => l

/-! ## Elements under block headers (R223 to R229) -/

/-- Values of the first K of a list of codes: block h under header h. The error is a status. -/
def blockVals (f : EFmt) (scaled : Bool) (hdr : Nat → Nat) (k : Nat) (codes : List Nat) : Except Nat (List FV) :=
  if !scaled then .ok ((codes.take k).map f.exact)
  else
    (List.range ((k + 31) / 32)).foldl (fun (acc : Except Nat (List FV)) h =>
      match acc with
      | .error e => .error e
      | .ok vs =>
        let blk := (codes.drop (32 * h)).take 32
        let n := min 32 (k - 32 * h)
        match f with
        | .q4x => match q4xBlock (hdr h) blk n with
          | none => .error 0x45
          | some us => .ok (vs ++ us)
        | f =>
          let us := (blk.take n).map (e8m0Elem (floatOf f) (hdr h))
          if us.any Option.isNone then .error 0x46 else .ok (vs ++ us.filterMap id)) (.ok [])

/-- Element codes of a cell. -/
def cellCodes (c : Cell) (f : EFmt) : List Nat := (List.range (1024 / f.bits)).map (fun j => c.elem f.bits j)

/-- Latch codes of column n (R238): a cell of its own for a format of 8 bits or less, otherwise one element of each row. -/
def MatCtx.latchCodes (x : MatCtx) (n k : Nat) : List Nat :=
  let b := (lfmtOf x).bits
  if b ≤ 8 then (List.range (1024 / b)).map (fun j => bits (tgetD 0 x.latch n).toNat (b * j) b)
  else (List.range k).map (fun i =>
    let at0 := (256 * i + n) * (b / 8)
    bits (tgetD 0 x.latch (at0 / 128)).toNat (8 * (at0 % 128)) b)

def MatCtx.latchCol (x : MatCtx) (k n : Nat) : Except Nat (List FV) :=
  blockVals (lfmtOf x) x.lscl (fun h => (tget x.scl (n * 8 + h)).toNat) k (x.latchCodes n k)

/-- Every column, or the first fault. -/
def MatCtx.latchCols (x : MatCtx) (k : Nat) : List Nat → Except Nat (List (List FV))
  | [] => .ok []
  | n :: ns => match x.latchCol k n with
    | .error e => .error e
    | .ok c => match x.latchCols k ns with
      | .error e => .error e
      | .ok cs => .ok (c :: cs)

/-! ## Sums (R234) -/

/-- One accumulator element: groups of 32 products in increasing K order, each added with one RNE rounding. -/
def accElem (f : FFmt) : Nat → Nat → List FV → List FV → Nat
  | 0, acc, _, _ => acc
  | n + 1, acc, as, bs =>
    if as.isEmpty then acc
    else
      let p := groupSum (List.zipWith fvMul (as.take 32) (bs.take 32))
      accElem f n (fround f .rne false 0 (fvAdd .rne (fdec f acc) p)) (as.drop 32) (bs.drop 32)

/-! ## A row (R246, R249 to R251) -/

/-- What a row leaves: the context; a status, 0 for an applied row; whether the status rolls the operation back; whether
it had more headers than it needs. -/
structure RowEnd where
  ctx    : MatCtx
  status : Nat := 0
  undo   : Bool := false
  extra  : Bool := false

/-- Whether some column has fewer, or more, valid headers than `need`. -/
def MatCtx.hcBelow (x : MatCtx) (need : Nat) : Bool := (List.range matCols).any (fun n => decide (tgetD 0 x.hc n < need))
def MatCtx.hcAbove (x : MatCtx) (need : Nat) : Bool := (List.range matCols).any (fun n => decide (tgetD 0 x.hc n > need))

/-- Checks and decoding of an A row against the latch: its values and the latch's columns, with the mark of extra headers;
the error is a status and whether it is an operation fault. -/
def MatCtx.operands (x : MatCtx) (scaled : Bool) (k heads : Nat) (as : Except Nat (List FV)) :
    Except (Nat × Bool) (List FV × List (List FV) × Bool) :=
  let need := (k + 31) / 32
  if scaled && (decide (heads < need) || x.hcBelow need) then .error (0x44, true)
  else match as, x.latchCols k (List.range matCols) with
    | .error e, _ => .error (e, true)
    | _, .error e => .error (e, true)
    | .ok a, .ok b => .ok (a, b, scaled && (decide (heads > need) || x.hcAbove need))

/-- Whether a row's format suits the latch. -/
def MatCtx.suits (x : MatCtx) (f : EFmt) (scaled : Bool) : Bool :=
  (matClass f).isSome && matClass f == matClass (lfmtOf x) && scaled == x.lscl

/-- An MMA row: values `as` of K elements with `heads` headers at accumulator row q. -/
def MatCtx.applyRow (x : MatCtx) (f : EFmt) (scaled : Bool) (k q heads : Nat) (as : Except Nat (List FV)) : RowEnd :=
  let wide := matClass f == some 64
  if !x.suits f scaled then { ctx := x, status := 0x40 }
  else if wide != x.fp64 && !x.aclean then { ctx := x, status := 0x43 }
  else
    let y := { x with fp64 := wide }
    if q ≥ y.rows then { ctx := y, status := 0x41 }
    else match y.operands scaled k heads as with
      | .error (e, u) => { ctx := y, status := e, undo := u }
      | .ok (a, cols, extra) =>
        let old := y.accRow q
        let new := List.zipWith (fun (w : Word) b => (BitVec.ofNat 64 (accElem y.accFmt k w.toNat a b) : Word)) old cols
        let jrn := if scaled && !y.jrn.any (fun j => j.1 == q) then y.jrn ++ [(q, old)] else y.jrn
        { ctx := { y with acc := tset y.acc q new, jrn := jrn, aclean := false,
                          opn := y.opn.map (fun o => { o with prog := (o.prog + 1) % 2 ^ 64 }) }
          extra := extra }

/-- Journalled rows are restored (R250). -/
def MatCtx.rollBack (x : MatCtx) : MatCtx :=
  { x with acc := x.jrn.foldl (fun a j => tset a j.1 j.2) x.acc, jrn := [] }

/-- K of a cell's CNT in a class; none: CNT is too large. -/
def rowK (cnt cls : Nat) : Option Nat :=
  if cnt = 0 then some (matKmax cls) else if cnt > matKmax cls then none else some cnt

/-- Valid headers of a cell. -/
def cellHeads (c : Cell) : Nat := if c.side.toNat ≤ 8 then c.side.toNat else 0

/-- MMA (R249). -/
def MatCtx.mmaRow (x : MatCtx) (f : Option (EFmt × Bool)) (c : Cell) : RowEnd :=
  match f with
  | none => { ctx := x, status := 0x91 }
  | some (f, scaled) => match matClass f with
    | none => { ctx := x, status := 0x40 }
    | some cls => match rowK c.cnt.toNat cls with
      | none => { ctx := x, status := 0x90 }
      | some k => x.applyRow f scaled k c.aux.toNat (cellHeads c) (blockVals f scaled c.hdr k (cellCodes c f))

/-! ## Sparse rows (R253, R254) -/

/-- Formats that a values cell may have. -/
def sparseFmt (f : EFmt) (scaled : Bool) : Bool := !scaled && !f.isInt && decide (f.bits ≥ 8)
def indexFmt (f : EFmt) : Bool := f == .int 16 false || f == .int 32 false

/-- A dense row from its entries: duplicates add exactly, every other element is zero. DEDUCED: notes/assumptions/61. -/
def denseRow (k : Nat) (es : List (Nat × FV)) : List FV :=
  (List.range k).map (fun i => match (es.filter (fun e => e.1 == i)).map (fun e => e.2) with
    | [] => .fin false 0 1 0
    | v :: vs => vs.foldl (fvAdd .rne) v)

/-- MCSR and MBSR: a pair of values and indices. -/
def MatCtx.sparseRow (x : MatCtx) (fv fi : Option (EFmt × Bool)) (cv ci : Cell) : RowEnd :=
  match fv, fi with
  | some (f, scaled), some (g, _) =>
    if !sparseFmt f scaled || !indexFmt g then { ctx := x, status := 0x40 }
    else
      let nv := 1024 / f.bits
      let ni := 1024 / g.bits
      let val (j : Nat) : FV := f.exact (cv.elem f.bits j)
      let go (k : Nat) (es : List (Nat × FV)) : RowEnd :=
        if es.any (fun e => decide (e.1 ≥ k)) then { ctx := x, status := 0x42 }
        else x.applyRow f false k cv.aux.toNat 0 (.ok (denseRow k es))
      if cv.cop.toNat = 0x083 then
        match rowK cv.cnt.toNat f.bits with
        | none => { ctx := x, status := 0x90 }
        | some k => go k ((List.range (min nv ni)).filterMap (fun j =>
            if cv.present j && ci.present j then some (ci.elem g.bits j, val j) else none))
      else
        let w := cv.cnt.toNat
        if !(w = 4 || w = 8 || w = 16 || w = 32) then { ctx := x, status := 0x90 }
        else
          let k := matKmax f.bits
          let segs := (List.range (min (nv / w) ni)).filter (fun i => ci.present i)
          if segs.any (fun i => decide (ci.elem g.bits i * w + w > k)) then { ctx := x, status := 0x42 }
          else go k ((segs.map (fun i => (List.range w).filterMap (fun t =>
            if cv.present (i * w + t) then some (ci.elem g.bits i * w + t, val (i * w + t)) else none))).flatten)
  | _, _ => { ctx := x, status := 0x91 }

/-! ## The latch (R248) -/

/-- One MLDB cell; `first`: it opens the operation. -/
def MatCtx.load (x : MatCtx) (code : Nat) (f : Option (EFmt × Bool)) (first : Bool) (c : Cell) : RowEnd :=
  match f with
  | none => { ctx := x, status := 0x91 }
  | some (f, scaled) => match matClass f with
    | none => { ctx := x, status := 0x40 }
    | some cls =>
      let y := if first then { x with lfmt := code, lscl := scaled } else x
      let j := c.aux.toNat
      if c.cnt != 0 then { ctx := x, status := 0x90 }
      else if !y.suits f scaled then { ctx := y, status := 0x40 }
      else if j > 255 then { ctx := y, status := 0x41 }
      else if cls ≥ 16 && c.side != 0 then { ctx := y, status := 0x90 }
      else if scaled && c.side.toNat = 63 then { ctx := y, status := 0x90 }
      else
        let z := { y with latch := tset y.latch j c.pay }
        { ctx := if !scaled then z else
            { z with hc := tset z.hc j c.side.toNat,
                     scl := (List.range c.side.toNat).foldl (fun t h => tset t (j * 8 + h) (BitVec.ofNat 16 (c.hdr h))) z.scl } }

/-- MCHK: the checks of an A row, without touching ACC (R257): a status, and the mark of extra headers. -/
def MatCtx.checkRow (x : MatCtx) (f : Option (EFmt × Bool)) (c : Cell) : Nat × Bool :=
  match f with
  | none => (0x91, false)
  | some (f, scaled) => match matClass f with
    | none => (0x40, false)
    | some cls => match rowK c.cnt.toNat cls with
      | none => (0x90, false)
      | some k =>
        if c.aux != 0 then (0x90, false)
        else if !x.suits f scaled then (0x40, false)
        else match x.operands scaled k (cellHeads c) (blockVals f scaled c.hdr k (cellCodes c f)) with
          | .error (e, _) => (e, false)
          | .ok (_, _, extra) => (0, extra)

end Sys2Proof.Machine
end

