-- ==== Sys2Proof/Machine/Matrix.lean ====
section
/-! DEFINITION. Machine/Matrix.lean: the matrix engines: which cell is served next, what each operation does, draining, the self-check
and quarantine, parking and restoring (spec/12 R239 to R263). -/

namespace Sys2Proof.Machine

/-! ## What is served next (R242, R244) -/

/-- Operations that use the array, in turns between contexts. -/
def usesArray (cop : Nat) : Bool := cop == 0x081 || cop == 0x082 || cop == 0x083 || cop == 0x084 || cop == 0x087
/-- Operations that periodic checks count (R257). -/
def isCounted (cop : Nat) : Bool := cop == 0x081 || cop == 0x082 || cop == 0x083 || cop == 0x084
/-- Operations of several cells. -/
def isMulti (cop : Nat) : Bool := decide (0x080 ≤ cop ∧ cop ≤ 0x084)

/-- The cell that a context would serve now: of the open operation, or the first to wait. -/
def MatCtx.nextCell (x : MatCtx) : Option MCell :=
  if x.halted || x.drainOp.isSome then none
  else match x.opn with
    | none => x.queue.head?
    | some o => x.queue.find? (fun q => q.cell.cop.toNat == o.cop && q.cell.col.toNat == o.col)

def MatCtx.nextCop (x : MatCtx) : Nat := match x.nextCell with
  | some m => m.cell.cop.toNat
  | none => 0

/-- The context whose cell is served when an operation code acts: for rows, the next in turn with a row ready, if its
operation is that one. -/
def State.matPick (s : State) (cl me cop : Nat) : Option Nat :=
  let x (k : Nat) : MatCtx := s.matCtx (matKey cl me k)
  if usesArray cop then
    let last := (s.matEng (cl * 4 + me)).last
    let turn := [1, 2, 3, 4].map (fun i => (last + i) % 4)
    match turn.find? (fun k => usesArray (x k).nextCop) with
    | none => none
    | some k => if (x k).nextCop = cop then some k else none
  else (List.range 4).find? (fun k => (x k).nextCop == cop)

/-! ## Opening and closing (R245, R249) -/

/-- A cell opens an operation: it takes the next number, and a periodic check may cover it. -/
def State.matOpen (s : State) (cl me n : Nat) (m : MCell) : State :=
  let c := m.cell
  let key := engCtx cl me n
  let (num, s1) := s.timeStart key
  let k := cl * 4 + me
  let eng := s1.matEng k
  let counted := isCounted c.cop.toNat
  let nops := eng.nops + 1
  let o : OpenOp := {
    cop := c.cop.toNat, col := c.col.toNat, tag := c.itag.toNat, num := num, last := c.itag.toNat
    chk := counted && eng.mchkn != 0 && nops % eng.mchkn == 0, stamp := s.startStamp key m.stamp, who := m.who }
  let s2 := if counted then s1.modMatEng k (fun e => { e with nops := nops }) else s1
  (s2.modMat (matKey cl me n) (fun x => { x with opn := some o, jrn := [] })).countUp m.who

/-- The CMPL token of a completed operation (R203, R240). -/
def State.matCmpl (s : State) (cl me n : Nat) (o : OpenOp) (cts : Nat) : State :=
  let w := (s.matCtx (matKey cl me n)).cfg0
  if !bitOf w.toNat 18 then s
  else
    let c : Cell := ({ dcl := w.extractLsb' 58 6, dport := w.extractLsb' 13 5, cls := true, cop := 0x3F0,
                       ctx := w.extractLsb' 1 6, col := BitVec.ofNat 8 o.col, itag := BitVec.ofNat 24 o.last } : Cell).seal
    s.sendOut cl (16 + me) { cell := c, stamp := cts, who := o.who }

/-- The open operation completes with a status: its number, its cells' operations and its count go (R245). -/
def State.matFinish (s : State) (cl me n status : Nat) : State :=
  let k := matKey cl me n
  match (s.matCtx k).opn with
  | none => s
  | some o =>
    let s1 := (s.modMat k (fun x => { x with opn := none, jrn := [], drainOp := none })).timeEnd (engCtx cl me n) o.num o.stamp
    let s2 := if o.scx then s1.modMatEng (cl * 4 + me) (fun e => { e with scx := e.scx + 1 }) else s1
    let lost := status = 0x80 && s.inActivation o.who o.col
    let s3 := (if lost then s2.hurtMark cl o.who o.col else s2.postMat k status o.last).matCmpl cl me n o o.stamp
    let s4 := o.ends.foldl (fun st e =>
      st.cellEnd cl { who := e.1, report := e.2.1, cell := { itag := e.2.2 } } 0 o.stamp) s3
    s4.countDown o.who o.stamp

/-- Change the open operation. -/
def State.modOpen (s : State) (k : Nat) (f : OpenOp → OpenOp) : State :=
  s.modMat k (fun x => { x with opn := x.opn.map f })

/-- A cell leaves the queue for the open operation. -/
def State.matTake (s : State) (k : Nat) (m : MCell) : State :=
  (s.modMat k (fun x => { x with queue := x.queue.filter (fun q => q.age != m.age) })).modOpen k (fun o => { o with
    last := m.cell.itag.toNat, stamp := max o.stamp m.stamp, ends := o.ends ++ [(m.who, m.report, m.cell.itag)] })

/-- What a row leaves is taken over: a row fault is kept if it is the first, an operation fault rolls back (R246, R250). -/
def State.rowEnd (s : State) (k : Nat) (e : RowEnd) : State :=
  let x := if e.undo then e.ctx.rollBack else e.ctx
  (s.modMat k (fun _ => x)).modOpen k (fun o => { o with
    stat := if e.undo then e.status else if o.stat = 0 then e.status else o.stat
    dead := o.dead || e.undo, scx := o.scx || e.extra })

/-! ## The self-check (R257, R258) -/

/-- CHKCNT after one check. DEDUCED: notes/assumptions/61. -/
def nextCheck (n : Nat) : Nat := if (n + 1) % 128 = 0 then n + 2 else n + 1

/-- Every cell that waits in a context is discarded. -/
def State.matDiscard (s : State) (cl k : Nat) : State :=
  let x := s.matCtx k
  let s1 := s.modMat k (fun y => { y with queue := [], pend := [] })
  (x.queue ++ x.pend).foldl (fun st m => st.matRefuse cl k m 0x48) s1

/-- A mismatch at the physical element (row, column): the engine is quarantined. DESIGN CHOICE: notes/assumptions/62. -/
def State.quarantine (s : State) (cl me : Nat) (at0 : Nat × Nat) : State :=
  let s1 := s.modMatEng (cl * 4 + me) (fun e => { e with quar := true, qrow := at0.1 % 128, qcol := at0.2 % 256 })
  (List.range 4).foldl (fun st n => (st.matFinish cl me n 0x48).matDiscard cl (matKey cl me n)) s1

/-- A row has been checked, when the operation is covered: its second pass runs under the next rotation. Whether the two
passes differ is the hardware's: the element at fault comes with the step. DESIGN CHOICE: notes/assumptions/62. -/
def State.rowCheck (s : State) (cl me n : Nat) (bad : BadElement) : Bool × State :=
  match (s.matCtx (matKey cl me n)).opn with
  | some o =>
    if !o.chk then (false, s)
    else (bad.isSome, s.modMatEng (cl * 4 + me) (fun e => { e with chkc := nextCheck e.chkc }))
  | none => (false, s)

/-- The operation completes with ME_CHKFAIL; ACC holds no defined value. DESIGN CHOICE: notes/assumptions/62. -/
def State.checkFails (s : State) (cl me n : Nat) (at0 : Nat × Nat) : State :=
  ((s.modMat (matKey cl me n) (fun x => { x with accUndef := true })).matFinish cl me n 0x47).quarantine cl me at0

/-! ## Rows -/

/-- After a cell of a multi-cell operation has fired. -/
def State.matClose (s : State) (cl me n : Nat) (last : Bool) : State :=
  match (s.matCtx (matKey cl me n)).opn with
  | some o => if last then s.matFinish cl me n o.stat else s
  | none => s

/-- One row of a cell, unless its operation has been rolled back; a mismatch ends the operation. DEDUCED: notes/assumptions/61. -/
def State.matRow (s : State) (cl me n : Nat) (bad : BadElement) (row : MatCtx → RowEnd) : State :=
  let k := matKey cl me n
  let x := s.matCtx k
  if (match x.opn with
      | some o => o.dead
      | none => true) then s
  else
    let e := row x
    let s1 := s.rowEnd k e
    if e.status != 0 then s1
    else match s1.rowCheck cl me n bad with
      | (true, s2) => s2.checkFails cl me n (bad.getD (0, 0))
      | (false, s2) => s2

/-- The operation is opened if none is, the cell taken, and its context becomes the last served. -/
def State.matStart (s : State) (cl me n : Nat) (m : MCell) : State :=
  let k := matKey cl me n
  let s1 := if (s.matCtx k).opn.isNone then s.matOpen cl me n m else s
  let s2 := s1.matTake k m
  if usesArray m.cell.cop.toNat then s2.modMatEng (cl * 4 + me) (fun e => { e with last := n }) else s2

/-- MMA (R249). -/
def State.mmaStep (s : State) (cl me n : Nat) (m : MCell) (bad : BadElement) : State :=
  let f := s.matFmt m.who.job m.cell.tid.toNat
  ((s.matStart cl me n m).matRow cl me n bad (fun x => x.mmaRow f m.cell)).matClose cl me n m.cell.last

/-- MLDB (R248). -/
def State.mldbStep (s : State) (cl me n : Nat) (m : MCell) : State :=
  let k := matKey cl me n
  let first := (s.matCtx k).opn.isNone
  let code := tfmt (s.tensor m.who.job m.cell.tid.toNat)
  let f := s.matFmt m.who.job m.cell.tid.toNat
  let s1 := s.matStart cl me n m
  (s1.rowEnd k ((s1.matCtx k).load code f first m.cell)).matClose cl me n m.cell.last

/-- MCSR and MBSR (R253, R254): the values cell and its partner. -/
def State.pairStep (s : State) (cl me n : Nat) (m : MCell) (bad : BadElement) : State :=
  let k := matKey cl me n
  match (s.matCtx k).queue.find? (fun q => q.age != m.age && q.cell.pos == 2 && pairsWith q.cell m.cell) with
  | none => (s.modMat k (fun x => { x with queue := x.queue.filter (fun q => q.age != m.age) })).cellEnd cl m 0 m.stamp
  | some p =>
    let fv := s.matFmt m.who.job m.cell.tid.toNat
    let fi := s.matFmt p.who.job p.cell.tid.toNat
    let s1 := (s.matStart cl me n m).matTake k p
    (s1.matRow cl me n bad (fun x => x.sparseRow fv fi m.cell p.cell)).matClose cl me n (m.cell.last || p.cell.last)

/-- The AGN that a context gathers through, with the ports it may have (R252): 0, or a status. -/
def State.gatherCheck (s : State) (cl : Nat) (r : AgnRec) : Nat :=
  let tile := r.port == 3 && r.trole == 0 && s.tileRole cl r.tile == 1
  if !(r.role == 1 || r.role == 3) || !(r.port == 0 || r.port == 1 || tile) then causeStatus causePort else 0

/-- The rows of an MGTH cell, in increasing element order; the pairs are element and index. An address that faults stops
it: cause, address and element. DEDUCED: notes/assumptions/63. -/
def State.gatherCell (s : State) (cl me n : Nat) (m : MCell) (bad : BadElement) :
    List (Nat × Nat) → Option (Nat × Nat × Nat) × State
  | [] => (none, s)
  | (j, i) :: rest =>
    let k := matKey cl me n
    let x := s.matCtx k
    let ag := s.agn (agnKey cl m.cell.ctx.toNat (wbits x.cfg0 23 5))
    let r := agnRec ag.words
    let f := s.matFmt m.who.job r.tid
    let go (status : Nat) : Option (Nat × Nat × Nat) × State :=
      (s.matRow cl me n bad (fun y => { ctx := y, status := status })).gatherCell cl me n m bad rest
    let ck := s.gatherCheck cl r
    if x.opn.isNone then (none, s)
    else if ck != 0 then go ck
    else match f with
      | none => go 0x91
      | some (g, scaled) =>
        let kk := (rowK m.cell.cnt.toNat g.bits).getD (matKmax g.bits)
        let side := if scaled then (kk + 31) / 32 else 0
        let c : Cell := { m.cell with side := BitVec.ofNat 6 side, car := 0, aux := BitVec.ofNat 16 (m.cell.aux.toNat + j) }
        let start := match x.opn with
          | some o => o.stamp
          | none => 0
        match s.fillCell cl ag.core m.who.job r [] start (i * r.perCell) c false with
        | .error (d, va) =>
          if d = causeMiss || d = causePerm then (some (d, va.toNat, j), s)
          else go (causeStatus d)
        | .ok (c1, got, _, s1) =>
          let s2 := s1.modOpen k (fun o => { o with stamp := max o.stamp got.t })
          (s2.matRow cl me n bad (fun y => y.mmaRow f c1)).gatherCell cl me n m bad rest

/-- MGTH (R252). A gather that faults keeps the rows applied and waits with the cell. -/
def State.gatherStep (s : State) (cl me n : Nat) (m : MCell) (bad : BadElement) : State :=
  let k := matKey cl me n
  let c := m.cell
  match s.gate m.who.job (waiterCell m) with
  | .wait => s
  | .ends status =>
    (((s.ungate m.who.job (waiterCell m)).matStart cl me n m).matRow cl me n none (fun y =>
      { ctx := y, status := status })).matClose cl me n c.last
  | .go =>
    let s1 := if (s.matCtx k).opn.isNone then s.matOpen cl me n m else s
    let done := match (s1.matCtx k).opn with
      | some o => o.gidx
      | none => 0
    match s.cellFmt m.who.job c.tid.toNat with
    | none => ((s1.matStart cl me n m).matRow cl me n none (fun y => { ctx := y, status := 0x91 })).matClose cl me n c.last
    | some g =>
      if !indexFmt g then
        ((s1.matStart cl me n m).matRow cl me n none (fun y => { ctx := y, status := 0x40 })).matClose cl me n c.last
      else
        let es := ((List.range 32).filter (fun j => c.present j && decide (j ≥ done))).map (fun j => (j, c.elem g.bits j))
        let s2 := s1.modOpen k (fun o => { o with stamp := max o.stamp m.stamp })
        match s2.gatherCell cl me n m bad es with
        | (some (d, va, j), s3) =>
          let w := wbits (s3.matCtx k).cfg0 23 5
          (s3.modOpen k (fun o => { o with gidx := j })).faultWait (clusterQuarter cl) m.who.job d 2
            (m.agent / 32) w cl va c.itag.toNat (waiterCell m)
        | (none, s3) =>
          if (s3.matCtx k).opn.isNone then s3
          else ((s3.modOpen k (fun o => { o with gidx := 0 })).matStart cl me n m).matClose cl me n c.last

/-- MZERO (R255). -/
def State.mzeroStep (s : State) (cl me n : Nat) (m : MCell) : State :=
  let k := matKey cl me n
  let s1 := s.matStart cl me n m
  if m.cell.cnt != 0 || m.cell.aux != 0 then s1.matFinish cl me n 0x90
  else (s1.modMat k (fun x => { x with acc := [], aclean := true, accUndef := false })).matFinish cl me n 0

/-- MCHK (R257). DEDUCED: notes/assumptions/61. -/
def State.mchkStep (s : State) (cl me n : Nat) (m : MCell) (bad : BadElement) : State :=
  let k := matKey cl me n
  let f := s.matFmt m.who.job m.cell.tid.toNat
  let s1 := s.matStart cl me n m
  let (status, extra) := (s1.matCtx k).checkRow f m.cell
  let s2 := s1.modOpen k (fun o => { o with scx := extra })
  if status != 0 then s2.matFinish cl me n status
  else
    let s3 := s2.modMatEng (cl * 4 + me) (fun e => { e with chkc := nextCheck e.chkc })
    match bad with
    | none => s3.matFinish cl me n 0
    | some at0 => (s3.matFinish cl me n 0x47).quarantine cl me at0

/-! ## Draining (R256) -/

/-- Cells per row of a drain to a format; none: not allowed. -/
def drainCells (wide : Bool) (f : EFmt) : Option Nat :=
  match f with
  | .int _ _ => none
  | f => if wide && f.bits < 32 then none else some (f.bits / 4)

/-- Values that a drain of an undefined accumulator sends: free, in the drain format. DEDUCED: notes/assumptions/63. -/
def State.freeCell (s : State) (c : Cell) (q4 : Bool) : Cell × State :=
  let (ws, s1) := (List.range 20).foldl (fun (acc : List Word × State) _ =>
    let (w, st) := acc.2.freshFree
    (acc.1 ++ [w], st)) ([], s)
  let hs := (List.range c.side.toNat).map (fun h => (ws.getD (16 + h / 2) 0).toNat / 2 ^ (32 * (h % 2)) % (if q4 then 8192 else 256))
  ({ c with pay := packElems 64 ((ws.take 16).map BitVec.toNat), car := if c.side.toNat ≤ 8 then headerCar hs else c.car }, s1)

/-- Drain cell i of an accumulator. -/
def drainCell (x : MatCtx) (m : Cell) (code : Nat) (f : EFmt) (scaled : Bool) (mode : Rnd) (i total cr : Nat) : Cell :=
  let w := x.cfg0
  let q := i / cr
  let n := matCols / cr
  let c0 := i % cr * n
  let src := x.accFmt
  let vs := (((x.accRow q).drop c0).take n).map BitVec.toNat
  let seed := wbits x.cfg1 32 32
  let draw (j : Nat) : Nat := srDraw seed m.itag.toNat (q * 256 + c0 + j)
  let base : Cell := {
    dcl := w.extractLsb' 58 6, dport := w.extractLsb' 53 5, mc := w.getLsbD 52, cop := w.extractLsb' 42 10,
    pos := w.extractLsb' 40 2, tid := w.extractLsb' 28 12, ctx := m.ctx, itag := m.itag, col := m.col,
    aux := BitVec.ofNat 16 (m.aux.toNat + i), last := decide (i + 1 = total) }
  if scaled then
    let blocks := (List.range (n / 32)).map (fun h =>
      encodeBlock code mode ((List.range 32).map (fun j => draw (32 * h + j)))
        (((vs.drop (32 * h)).take 32).map (fdec src)))
    { base with side := BitVec.ofNat 6 (n / 32), car := headerCar (blocks.map Prod.fst)
                pay := packElems f.bits ((blocks.map Prod.snd).flatten) }
  else
    let g := floatOf f
    let es := (List.range n).map (fun j =>
      let v := vs.getD j 0
      if g = src then v else fround g mode (bitOf w.toNat 19) (draw j) (fdec src v))
    { base with side := 63, car := maskCar (List.replicate n true), pay := packElems f.bits es }

/-- Send cells i of a list through the engine's ingress port, counted as drain or image cells of the context. DEDUCED:
notes/assumptions/98. -/
def State.sendDrains (s : State) (cl me n : Nat) (image : Bool) (m : MCell) (stamp : Nat) (cs : List Cell) : State :=
  cs.foldl (fun st c => st.sendOut cl (16 + me) {
    cell := c.seal, stamp := stamp, agent := m.agent, who := m.who
    report := .drain (cl * 4 + me) (if image then n + 4 else n) }) s

/-- MDRN (R256). DEDUCED: notes/assumptions/61, 63. -/
def State.mdrnStep (s : State) (cl me n : Nat) (m : MCell) : State :=
  let k := matKey cl me n
  let c := m.cell
  let s1 := s.matStart cl me n m
  let x := s1.matCtx k
  let w := x.cfg0
  let code := tfmt (s.tensor m.who.job (wbits w 28 12))
  let keep := c.cnt.getLsbD 0
  let fails (status : Nat) : State := s1.matFinish cl me n status
  if c.cnt.toNat ≥ 2 then fails 0x90
  else if !bitOf w.toNat 0 then fails 0x92
  else match s.matFmt m.who.job (wbits w 28 12), rndOf (wbits w 20 3) with
    | none, _ => fails 0x91
    | _, none => fails 0x90
    | some (f, scaled), some mode => match drainCells x.fp64 f with
      | none => fails 0x40
      | some cr =>
        let total := x.rows * cr
        let cells := (List.range total).map (fun i => drainCell x c code f scaled mode i total cr)
        if !(cells.take 1).all (fun d => s.cellOk cl m.who.job d) then fails 0x90
        else
          let (out, s2) := if x.accUndef then cells.foldl (fun (acc : List Cell × State) d =>
              let (d1, st) := acc.2.freeCell d (f == .q4x)
              (acc.1 ++ [d1], st)) ([], s1) else (cells, s1)
          let stamp := match x.opn with
            | some o => o.stamp
            | none => m.stamp
          let s3 := s2.modMat k (fun y => { y with
            drains := total, dstat := 0, dcts := stamp, drainOp := some (0, m)
            acc := if keep then y.acc else [], aclean := y.aclean || !keep, accUndef := y.accUndef && keep })
          s3.sendDrains cl me n false m stamp out

/-- MDRN_COMPLETE: the last drain cell has been acknowledged. DEDUCED: notes/assumptions/61. -/
def execMdrnComplete (cl me ctx : Nat) (s : State) : Res :=
  let k := matKey cl me ctx
  let x := s.matCtx k
  .next (if x.drainOp.isNone || x.drains != 0 then s
    else ((s.modOpen k (fun o => { o with stamp := max o.stamp x.dcts })).matFinish cl me ctx x.dstat).modMat k
      (fun y => { y with drainOp := none }))

/-! ## The operations -/

/-- One cell of an operation is served. DESIGN CHOICE: notes/assumptions/40. -/
def State.matStep (s : State) (cl me cop : Nat) (f : Nat → MCell → State) : State :=
  match s.matPick cl me cop with
  | none => s
  | some n => match (s.matCtx (matKey cl me n)).nextCell with
    | none => s
    | some m => f n m

/-- MLDB (R248). -/
def execMldb (cl me : Nat) (s : State) : Res := .next (s.matStep cl me 0x080 (s.mldbStep cl me))
/-- MMA (R249). DESIGN CHOICE: notes/assumptions/11. -/
def execMma (cl me : Nat) (bad : BadElement) (s : State) : Res :=
  .next (s.matStep cl me 0x081 (fun n m => s.mmaStep cl me n m bad))
/-- MGTH (R252). -/
def execMgth (cl me : Nat) (bad : BadElement) (s : State) : Res :=
  .next (s.matStep cl me 0x082 (fun n m => s.gatherStep cl me n m bad))
/-- MCSR (R253). -/
def execMcsr (cl me : Nat) (bad : BadElement) (s : State) : Res :=
  .next (s.matStep cl me 0x083 (fun n m => s.pairStep cl me n m bad))
/-- MBSR (R254). -/
def execMbsr (cl me : Nat) (bad : BadElement) (s : State) : Res :=
  .next (s.matStep cl me 0x084 (fun n m => s.pairStep cl me n m bad))
/-- MZERO (R255). -/
def execMzero (cl me : Nat) (s : State) : Res := .next (s.matStep cl me 0x085 (s.mzeroStep cl me))
/-- MDRN (R256). -/
def execMdrn (cl me : Nat) (s : State) : Res := .next (s.matStep cl me 0x086 (s.mdrnStep cl me))
/-- MCHK (R257). -/
def execMchk (cl me : Nat) (bad : BadElement) (s : State) : Res :=
  .next (s.matStep cl me 0x087 (fun n m => s.mchkStep cl me n m bad))

end Sys2Proof.Machine
end

