-- ==== Sys2Proof/Machine/MatrixPark.lean ====
section
/-! DEFINITION. Machine/MatrixPark.lean: parking and restoring a matrix context: MSAVE, MLOAD and the image (spec/12 R259 to R263). -/

namespace Sys2Proof.Machine

/-! ## The AGN of a cell (R259) -/

/-- The AGN of the cell's ingress stream port whose record holds its TID; none: both or neither do. -/
def State.imageAgn (s : State) (cl : Nat) (m : MCell) : Option Nat :=
  if m.origin ≥ 16 then none
  else
    let holds (n : Nat) : Bool :=
      let r := agnRec (s.agn (agnKey cl m.cell.ctx.toNat n)).words
      r.bound && r.tid == m.cell.tid.toNat
    match holds (2 * m.origin), holds (2 * m.origin + 1) with
    | true, false => some (2 * m.origin)
    | false, true => some (2 * m.origin + 1)
    | _, _ => none

/-! ## The image (R261, R262) -/

/-- Bits set of the journalled rows. -/
def jrowBits (x : MatCtx) : Nat := (x.jrn.map (fun j => 2 ^ j.1)).foldl (fun a b => Nat.lor a b) 0

/-- The state cell's words. -/
def stateWords (x : MatCtx) (tl : Nat) : List Nat :=
  let o := x.opn.getD {}
  let js := jrowBits x
  [ 0x4D49 * 2 ^ 48 + 1 * 2 ^ 40, tl % 2 ^ 64,
    o.cop * 2 ^ 54 + o.col * 2 ^ 46 + o.tag * 2 ^ 22 + o.stat * 2 ^ 6,
    x.lfmt * 2 ^ 56 + x.fp64.toNat * 2 ^ 55 + x.aclean.toNat * 2 ^ 54 + o.scx.toNat * 2 ^ 53 + x.lscl.toNat * 2 ^ 52,
    js % 2 ^ 64, js / 2 ^ 64, o.prog % 2 ^ 64 ]

/-- Words of an accumulator row: 256 elements of 4 or 8 bytes, as cells of 1,024 bits. -/
def rowCells (wide : Bool) (ws : List Word) : List (BitVec 1024) :=
  let b := if wide then 64 else 32
  let per := 1024 / b
  (List.range (matCols / per)).map (fun i => packElems b (((ws.drop (per * i)).take per).map BitVec.toNat))

/-- Journalled rows in increasing row number. -/
def sortedJournal (x : MatCtx) : List (Nat × List Word) :=
  (List.range 128).filterMap (fun q => x.jrn.find? (fun j => j.1 == q))

/-- The payloads of the image. -/
def imageCells (x : MatCtx) (tl : Nat) : List (BitVec 1024) :=
  [packElems 64 (stateWords x tl)] ++
  (List.range 256).map (fun j => tgetD 0 x.latch j) ++
  (if x.lscl then
    (List.range 32).map (fun i => packElems 16 ((List.range 64).map (fun h => (tget x.scl (64 * i + h)).toNat))) ++
    [packElems 4 ((List.range 256).map (fun n => tgetD 0 x.hc n))]
   else []) ++
  ((List.range x.rows).map (fun q => rowCells x.fp64 (x.accRow q))).flatten ++
  ((sortedJournal x).map (fun j => rowCells false j.2)).flatten

/-- First cell and number of the accumulator's cells. -/
def accCells (x : MatCtx) : Nat × Nat := (257 + (if x.lscl then 33 else 0), 1024)

/-! ## MSAVE (R259) -/

/-- MSAVE is served: the context applies no further row, and its image goes out as WR cells. -/
def State.msaveStep (s : State) (cl me : Nat) : State :=
  match s.takeInbox cl me 0x088 with
  | none => s
  | some (m, s1) =>
    let c := m.cell
    match s.matBound cl me c.ctx.toNat with
    | none => s1.cellEnd cl m 0x49 m.stamp
    | some n =>
      let k := matKey cl me n
      let x := s.matCtx k
      if (s.matEng (cl * 4 + me)).quar then s1.matRefuse cl k m 0x48
      else if x.saving.isSome || x.loading.isSome then s
      else if c.cnt != 0 then s1.matRefuse cl k m 0x90
      else match s.imageAgn cl m with
        | none => s1.matRefuse cl k m 0x90
        | some ag =>
          let r := agnRec (s.agn (agnKey cl c.ctx.toNat ag)).words
          let pays := imageCells x (s.timeline (engCtx cl me n)).tl
          let (a0, an) := accCells x
          let mk (i : Nat) (p : BitVec 1024) : Cell := {
            dcl := 63, dport := BitVec.ofNat 5 (16 + ag / 2), pos := BitVec.ofNat 2 (ag % 2), tid := BitVec.ofNat 12 r.tid
            ctx := c.ctx, col := c.col, itag := c.itag, aux := BitVec.ofNat 16 (c.aux.toNat + i), side := 63
            car := maskCar (List.replicate 128 true), pay := p }
          let cells := (List.range pays.length).map (fun i => mk i (pays.getD i 0))
          -- an accumulator without defined values gives an image without
          let (out, s2) := if !x.accUndef then (cells, s1) else
            (List.range cells.length).foldl (fun (acc : List Cell × State) i =>
              let d := cells.getD i {}
              if i < a0 || i ≥ a0 + an then (acc.1 ++ [d], acc.2)
              else
                let (d1, st) := acc.2.freeCell d false
                (acc.1 ++ [d1], st)) ([], s1)
          let stamp := s.startStamp (engCtx cl me n) m.stamp
          (s2.modMat k (fun y => { y with saving := some m, saves := cells.length, sstat := 0, scts := stamp })).sendDrains
            cl me n true m stamp out

/-- MSAVE (R259). -/
def execMsave (cl me : Nat) (s : State) : Res := .next (s.msaveStep cl me)

/-- MSAVE_COMPLETE: the last image cell has been acknowledged or has failed: the context is parked. -/
def execMsaveComplete (cl me ctx : Nat) (s : State) : Res :=
  let k := matKey cl me ctx
  let x := s.matCtx k
  .next (match x.saving with
    | none => s
    | some m =>
      if x.saves != 0 then s
      else
        let s1 := s.modMat k (fun y => { y with saving := none, parked := true })
        (s1.postMat k x.sstat m.cell.itag.toNat).cellEnd cl m 0 (max m.stamp x.scts))

/-! ## MLOAD (R260) -/

/-- MLOAD is served: from here on the context applies no row and opens no operation. -/
def State.mloadStep (s : State) (cl me : Nat) : State :=
  match s.takeInbox cl me 0x089 with
  | none => s
  | some (m, s1) =>
    let c := m.cell
    match s.matBound cl me c.ctx.toNat with
    | none => s1.cellEnd cl m 0x49 m.stamp
    | some n =>
      let k := matKey cl me n
      let x := s.matCtx k
      if (s.matEng (cl * 4 + me)).quar then s1.matRefuse cl k m 0x48
      else if x.saving.isSome || x.loading.isSome then s
      else if c.cnt != 0 then s1.matRefuse cl k m 0x90
      else match s.imageAgn cl m with
        | none => s1.matRefuse cl k m 0x90
        | some ag =>
          let r := agnRec (s.agn (agnKey cl c.ctx.toNat ag)).words
          if r.role != 3 then s1.matRefuse cl k m (causeStatus causeRole)
          else if !x.parked && x.opn.isSome then s1.matRefuse cl k m 0x4B
          else s1.modMat k (fun y => { y with loading := some m })

/-- MLOAD (R260). DEDUCED: notes/assumptions/61. -/
def execMload (cl me : Nat) (s : State) : Res := .next (s.mloadStep cl me)

/-- Image cells i, i + 1, … read through an AGN at timestamp p: their payloads; the error is a cause and its address. -/
def State.readImage (s : State) (cl job : Nat) (ag : Agn) (m : Cell) (p i : Nat) :
    Nat → Except (Nat × Nat) (List (BitVec 1024) × Nat × State)
  | 0 => .ok ([], p, s)
  | n + 1 =>
    let r := agnRec ag.words
    let off := (m.aux.toNat + i) % 65536 * r.perCell
    match s.fillCell cl ag.core job r [] p off { m with side := 0 } false with
    | .error (d, va) => .error (d, va.toNat)
    | .ok (c, g, _, s1) => match s1.readImage cl job ag m p (i + 1) n with
      | .error e => .error e
      | .ok (ps, t, s2) => .ok (c.pay :: ps, max t g.t, s2)

def pwords (p : BitVec 1024) : List Word := (List.range 16).map (fun i => BitVec.ofNat 64 (bits p.toNat (64 * i) 64))

/-- Words of a row from its cells. -/
def rowWords (wide : Bool) (ps : List (BitVec 1024)) : List Word :=
  let b := if wide then 64 else 32
  (ps.map (fun p => (List.range (1024 / b)).map (fun j => (BitVec.ofNat 64 (bits p.toNat (b * j) b) : Word)))).flatten

/-- What a state cell says. -/
structure ImageHead where
  tl   : Nat
  ocop : Nat
  ocol : Nat
  otag : Nat
  ostat : Nat
  lfmt : Nat
  fp64 : Bool
  aclean : Bool
  scx  : Bool
  lscl : Bool
  rows : List Nat
  prog : Nat
  deriving DecidableEq, Repr

/-- The state cell; none: its IMAGIC or VERS is wrong. -/
def imageHead (p : BitVec 1024) : Option ImageHead :=
  let w (i : Nat) : Word := (pwords p).getD i 0
  let js := (w 4).toNat + (w 5).toNat * 2 ^ 64
  if wbits (w 0) 48 16 != 0x4D49 || wbits (w 0) 40 8 != 1 then none
  else some {
    tl := (w 1).toNat, ocop := wbits (w 2) 54 10, ocol := wbits (w 2) 46 8, otag := wbits (w 2) 22 24
    ostat := wbits (w 2) 6 8, lfmt := wbits (w 3) 56 8, fp64 := bitOf (w 3).toNat 55, aclean := bitOf (w 3).toNat 54
    scx := bitOf (w 3).toNat 53, lscl := bitOf (w 3).toNat 52
    rows := (List.range 128).filter (fun q => bitOf js q), prog := (w 6).toNat }

/-- Cells of the image after its state cell. -/
def ImageHead.cells (h : ImageHead) : Nat := 256 + (if h.lscl then 33 else 0) + 1024 + 8 * h.rows.length

/-- A context that has taken an image. -/
def MatCtx.takeImage (x : MatCtx) (h : ImageHead) (ps : List (BitVec 1024)) : MatCtx :=
  let a := if h.lscl then 289 else 256
  let per := if h.fp64 then 16 else 8
  let table {α : Type} [DecidableEq α] [Inhabited α] (n : Nat) (f : Nat → α) : Tab α :=
    (List.range n).foldl (fun t i => tset t i (f i)) []
  { x with
    latch := (List.range 256).foldl (fun t j => tset t j (ps.getD j 0)) []
    scl := if h.lscl then table 2048 (fun i => BitVec.ofNat 16 (bits (ps.getD (256 + i / 64) 0).toNat (16 * (i % 64)) 16)) else []
    hc := if h.lscl then table 256 (fun i => bits (ps.getD 288 0).toNat (4 * i) 4) else []
    acc := (List.range (1024 / per)).foldl (fun t q => tset t q (rowWords h.fp64 ((ps.drop (a + per * q)).take per))) []
    jrn := (List.range h.rows.length).map (fun i =>
      (h.rows.getD i 0, rowWords false ((ps.drop (a + 1024 + 8 * i)).take 8)))
    lfmt := h.lfmt, lscl := h.lscl, fp64 := h.fp64, aclean := h.aclean, accUndef := false, parked := false, frozen := false
    loading := none }

/-- An open operation that the image does not carry is dropped: it takes no number. -/
def State.matDropOpen (s : State) (cl k : Nat) : State :=
  match (s.matCtx k).opn with
  | none => s
  | some o =>
    let s1 := s.modMat k (fun x => { x with opn := none, drainOp := none })
    let s2 := o.ends.foldl (fun st e =>
      st.cellEnd cl { who := e.1, report := e.2.1, cell := { itag := e.2.2 } } 0 o.stamp) s1
    s2.countDown o.who o.stamp

/-- The image's state becomes the context's: timeline, then the open operation under the number TL + 1. -/
def State.matRestore (s : State) (cl me n : Nat) (m : MCell) (h : ImageHead) (ps : List (BitVec 1024)) (t : Nat) : State :=
  let k := matKey cl me n
  let key := engCtx cl me n
  let same := match (s.matCtx k).opn with
    | some o => h.ocop != 0 && o.cop == h.ocop && o.tag == h.otag
    | none => false
  let s1 := if same then s else s.matDropOpen cl k
  let s2 := (s1.modMat k (fun x => x.takeImage h ps)).modTimeline key (fun y => { y with
    next := h.tl + 1, tl := h.tl, done := [], ctss := y.ctss.filter (fun e => decide (e.1 ≤ h.tl)) })
  if h.ocop = 0 then s2
  else
    let (num, s3) := s2.timeStart key
    let dead := h.ostat = 0x44 || h.ostat = 0x45 || h.ostat = 0x46
    let put (o : OpenOp) : OpenOp := { o with
      num := num, stat := h.ostat, prog := h.prog, scx := h.scx, dead := o.dead || dead, stamp := max o.stamp t }
    let s4 := if same then s3.modOpen k put
      else (s3.modMat k (fun x => { x with opn := some (put {
        cop := h.ocop, col := h.ocol, tag := h.otag, last := h.otag, who := m.who }) })).countUp m.who
    -- a drain that was under way has sent its cells
    if h.ocop = 0x086 then s4.modMat k (fun x => { x with drainOp := some (0, m) }) else s4

/-- MLOAD_COMPLETE: the AGN has streamed the image, and the context has consumed it. -/
def State.mloadDone (s : State) (cl me n : Nat) : State :=
  let k := matKey cl me n
  let x := s.matCtx k
  match x.loading with
  | none => s
  | some m =>
    let ends (st : State) (status : Nat) : State :=
      (st.modMat k (fun y => { y with loading := none })).matRefuse cl k m status
    match s.gate m.who.job (waiterCell m) with
    | .wait => s
    | .ends status => ends (s.ungate m.who.job (waiterCell m)) status
    | .go => match s.imageAgn cl m with
      | none => ends s 0x90
      | some n0 =>
        let ag := s.agn (agnKey cl m.cell.ctx.toNat n0)
        let r := agnRec ag.words
        let ck := s.agnCheck cl r .cells
        let stamp := s.startStamp (engCtx cl me n) m.stamp
        let fails (d va : Nat) : State :=
          if d = causeBound then ends s 0x4A
          else if d = causeMiss || d = causePerm then
            s.faultWait (clusterQuarter cl) m.who.job d 2 (m.agent / 32) n0 cl va m.cell.itag.toNat (waiterCell m)
          else if d = causeWait then s
          else ends s (causeStatus d)
        if ck != 0 then ends s (causeStatus ck)
        else match s.readImage cl m.who.job ag m.cell stamp 0 1 with
          | .error (d, va) => fails d va
          | .ok (hd, t0, s1) => match imageHead (hd.headD 0) with
            | none => ends s1 0x4A
            | some h => match s1.readImage cl m.who.job ag m.cell stamp 1 h.cells with
              | .error (d, va) => fails d va
              | .ok (ps, t1, s2) =>
                let t := max t0 t1
                (s2.matRestore cl me n m h ps t).cellEnd cl m 0 t

/-- MLOAD_COMPLETE. -/
def execMloadComplete (cl me ctx : Nat) (s : State) : Res := .next (s.mloadDone cl me ctx)

end Sys2Proof.Machine
end

