-- ==== Sys2Proof/Machine/Purge.lean ====
section
/-! DEFINITION. Machine/Purge.lean: purges: of cancelled work (spec/09 R205), and of a colour of a dynamic graph with the re-issue of
its activation (spec/22 R432, R436 to R438). -/

namespace Sys2Proof.Machine

/-! ## Purges of cancelled work (R205) -/

/-- Whether the work that an owner belongs to has been cancelled (R55). -/
def State.cancelledWork (s : State) (w : Owner) : Bool := (s.launch w.launch).cancelled || (s.job w.job).cancelled

/-- The cells of a market and its engines that carry a context tag, or a tag and a colour, and belong to work that has been
cancelled. -/
def State.purgeCancelled (s : State) (cl ctx : Nat) (col : Option Nat) : State :=
  s.purgeCells (fun c m => c == cl && m.cell.ctx.toNat == ctx && s.cancelledWork m.who && !m.cell.cls &&
    (match col with
     | none => true
     | some k => m.cell.col.toNat == k))

/-! ## What an activation of a strand still holds (R437) -/

/-- What a purge leaves owing: operations of the strand's classes with their clusters, and scoreboard tokens. -/
structure Owed where
  cells : List (Nat × MCell) := []
  toks  : List (Owner × Nat) := []
  deriving DecidableEq, Repr

/-- Whether an operation counts in its strand's classes. -/
def holdsClass : Report → Bool
  | .strandCell _ => true
  | .strandCopy _ _ => true
  | .strandOp b => b
  | _ => false

/-- A purged operation: one that its strand counts is owed until the re-issue completes, another one is over. DEDUCED: notes/assumptions/86. -/
def State.owe (s : State) (cl : Nat) (m : MCell) (o : Owed) : State × Owed :=
  if holdsClass m.report then (s, { o with cells := o.cells ++ [(cl, m)] })
  else (s.cellEnd cl m 0 m.stamp, o)

/-- The operations of operand cells that have fired. -/
def State.oweEnds (s : State) (cl : Nat) (ends : List (Owner × Report × BitVec 24)) (cts : Nat) (o : Owed) : State × Owed :=
  ends.foldl (fun (a : State × Owed) e =>
    a.1.owe cl { who := e.1, report := e.2.1, cell := { itag := e.2.2 }, stamp := cts } a.2) (s, o)

/-- A purged cell; where it is the result of an operation, that operation completes. -/
def State.oweCell (s : State) (x : Nat × MCell) (o : Owed) : State × Owed :=
  match x.2.prod with
  | none => s.owe x.1 x.2 o
  | some p =>
    let (s1, o1) := (s.timeEnd p.key p.num p.cts).oweEnds x.1 p.ends p.cts o
    s1.owe x.1 x.2 o1

/-! ## The purge (R437 steps 1 to 3) -/

/-- An ATOM's reply is here or its strand is gone: nothing waits for it. -/
def State.atomOver (s : State) (who : Owner) (m : MCell) : Bool :=
  let held := (s.core.strands.map (fun e => e.2)) ++ (s.core.holds.map (fun e => e.2)) ++ (s.core.saved.map (fun e => e.2))
  !held.any (fun x => x.who == who && x.atoms.any (fun a => a.2 == atomOrder m) &&
    !x.replies.any (fun r => r.2.2.2 == atomOrder m))

/-- Step 1: queued cells, stalls and held merges. A re-issued ATOM goes on under its first count (R347). -/
def State.purgeColourCells (s : State) (p : MCell → Bool) : State × Owed :=
  let gone := s.allCells.filter (fun x => p x.2 && x.2.age != 0)
  let marks := s.allCells.filter (fun x => p x.2 && x.2.age == 0)
  let s1 := (s.dropCells (fun _ => p)).dropFlits (fun _ => p)
  let s2 := marks.foldl (fun st x => st.cellEnd x.1 x.2 0 x.2.stamp) s1
  gone.foldl (fun (a : State × Owed) x => if isAtomCell x.2 && !s.atomOver x.2.who x.2 then a else a.1.oweCell x a.2) (s2, {})

/-- Intersection jobs and normaliser rows in progress. -/
def State.purgeColourJobs (s : State) (p : Owner → Nat → Bool) (o : Owed) : State × Owed :=
  let ixs := (s.eng.ixjobs.map (fun e => (e.2.filter (fun j => p j.who j.col)).map (fun j => (e.1, j)))).flatten
  let (s1, o1) := ixs.foldl (fun (a : State × Owed) x =>
    let (st, o') := (a.1.timeEnd (engCtx x.1 9 x.2.ctx) x.2.num x.2.stamp).oweEnds x.1 x.2.ends x.2.stamp a.2
    (st.countDown x.2.who x.2.stamp, o')) (s, o)
  let rows := (s1.eng.rows.map (fun e => (e.2.filter (fun r => p r.who r.col)).map (fun r => (e.1, r)))).flatten
  let s2 := rows.foldl (fun st x => if x.2.dead then st
    else (st.timeEnd (engCtx x.1 8 x.2.ctx) x.2.num 0).countDown x.2.who 0) s1
  (s2.onEng (fun e => { e with
    ixjobs := e.ixjobs.map (fun x => (x.1, x.2.filter (fun j => !p j.who j.col))),
    rows := e.rows.map (fun x => (x.1, x.2.filter (fun r => !p r.who r.col))) }), o1)

/-- Step 2: a matrix context with an operation open under the colour discards it: ACC holds zeros, ACLEAN is set, LATCH stays,
and the operation's number completes with UE. An image that the colour saves or loads is given up. -/
def State.purgeColourMats (s : State) (p : Owner → Nat → Bool) (o : Owed) : State × Owed :=
  let opens := s.mat.ctxs.filterMap (fun e => match e.2.opn with
    | some q => if p q.who q.col then some (e.1, q) else none
    | none => none)
  let (s1, o1) := opens.foldl (fun (a : State × Owed) x =>
    let k := x.1
    let st1 := ((a.1.modMat k (fun c => { c with
      opn := none, jrn := [], drainOp := none, acc := [], accUndef := false, aclean := true })).timeEnd
        (engCtx (k / 16) (k / 4 % 4) (k % 4)) x.2.num x.2.stamp).postMat k 0x80 x.2.last
    let (st2, o') := st1.oweEnds (k / 16) x.2.ends x.2.stamp a.2
    (st2.countDown x.2.who x.2.stamp, o')) (s, o)
  let mine (m : MCell) : Bool := p m.who m.cell.col.toNat
  s1.mat.ctxs.foldl (fun (a : State × Owed) e =>
    let gone := e.2.saving.toList.filter mine ++ e.2.loading.toList.filter mine
    if gone.isEmpty then a
    else
      let st := a.1.modMat e.1 (fun c => { c with saving := c.saving.filter (fun m => !mine m), loading := c.loading.filter (fun m => !mine m) })
      gone.foldl (fun b m => b.1.owe (e.1 / 16) m b.2) (st, a.2)) (s1, o1)

/-! ## The re-issue (R437 step 4) -/

/-- A stream of the colour that an AGN still runs starts again in its place. -/
def restartStream (c : Nat) (st : Stream) : Stream :=
  { st with cdesc := colourDesc c st.cdesc, sent := 0, hold := true, hurt := false }

/-- What a stream that has not ended owes. -/
def streamOwes (key : Nat) (st : Stream) : List (Nat × MCell) × List (Owner × Nat) :=
  if st.hold then ([], [])
  else match st.tk with
    | some k => ([(agnCl key, { who := st.who, report := .stream k })], [(st.who, k)])
    | none => ([(agnCl key, { who := st.who, report := .device })], [])

/-- Streams of the colour: those in progress start again where they started first, and those that have ended are given to their
AGNs again. -/
def State.reissueStreams (s : State) (p : Owner → Nat → Bool) (c : Nat) (ran : List (Nat × Stream)) (o : Owed) : State × Owed :=
  let mine (st : Stream) : Bool := p st.who (wbits st.cdesc 31 8)
  let now := (s.acc.agns.map (fun e => (e.2.streams.filter mine).map (fun st => (e.1, st)))).flatten
  let o1 := now.foldl (fun (a : Owed) x =>
    let w := streamOwes x.1 x.2
    { cells := a.cells ++ w.1, toks := a.toks ++ w.2 }) o
  let again (st : Stream) : Stream := if mine st then restartStream c st else st
  let s1 := s.onAcc (fun a => { a with agns := a.agns.map (fun e => (e.1, { e.2 with
    cellOut := if e.2.stream.toList.any mine then none else e.2.cellOut
    stream := e.2.stream.map again, later := e.2.later.map again })) })
  ran.foldl (fun (a : State × Owed) x =>
    let st : Stream := { restartStream c x.2 with place := some x.2.startPos, again := true, hold := true }
    let started := match st.tk with
      | some _ => a.1.opStart st.who
      | none => a.1.countUp st.who
    let owes := (streamOwes x.1 { st with hold := false }).1
    (started.modAgn x.1 (fun y => y.give st), { a.2 with cells := a.2.cells ++ owes })) (s1, o1)

/-- A recorded cell goes into its core's issue buffer again. DEDUCED: notes/assumptions/86. -/
def State.issueAgain (s : State) (core port : Nat) (m : MCell) : State := (s.countUp m.who).issue core port m

/-- A recorded cell's DCL, where the graph has been re-placed since (R444). -/
def State.relocated (s : State) (who : Owner) (c : Cell) : Cell :=
  if (s.graph who.job who.graph).moved.isEmpty then c
  else ({ c with dcl := BitVec.ofNat 6 (s.placeOf who (c.target (coreCluster who.core))) } : Cell).seal

/-- One recorded side effect under a fresh colour. What bears no colour was not purged, and is not released again. DEDUCED: notes/assumptions/86. -/
def State.reissueFx (s : State) (a : Activation) (c : Nat) (e : Effect) : State :=
  let core := a.who.core
  let cl := s.placeOf a.who (coreCluster core)
  match colourFx c e with
  | .cell m port _ =>
    if !bearsColour m then s
    else
      let x : MCell := { m with stamp := a.stamp, report := .again false, cell := s.relocated a.who m.cell }
      let s1 := s.issueAgain core port x
      (match s.twinCell cl x with
       | none => s1
       | some d => s1.issueAgain core port d)
  | .atom m _ =>
    let port := (m.cell.word 3).toNat / 2
    if s.atomOver a.who m then s.issueAgain core port { m with stamp := a.stamp, report := .again true, cell := s.relocated a.who m.cell }
    else s.issue core port { m with stamp := a.stamp, cell := s.relocated a.who m.cell }
  | .red m => s.issueAgain core ((m.cell.word 3).toNat / 2) { m with stamp := a.stamp, report := .again true, cell := s.relocated a.who m.cell }
  | .rel (.resc ag off left col) _ _ =>
    let r := agnRec (s.agn (s.jobAgn a.who.job cl ag)).words
    (match s.readElems cl core a.who.job 5 r [] a.stamp ((List.range 40).map (fun i => some (off + i))) with
     | .error _ => s
     | .ok (vs, g, _, s1) => s1.issueAgain core (ag / 2)
        { cell := rescCell ((s.ctxTag a.who.job cl).getD 0) r.tid col left vs, stamp := g.t
          agent := sidAgent a.who.sid, who := a.who, report := .again true })
  | _ => s

/-- A RESC that has not left its strand is no part of the purge: it takes the fresh colour. -/
def recolourOut (c0 c : Nat) : OutItem → OutItem
  | .rel (.resc a o l x) => .rel (.resc a o l (if x = c0 then c else x))
  | y => y

def isResc : Effect → Bool
  | .rel (.resc ..) _ _ => true
  | _ => false

/-- Whether a strand still holds a RESC of a colour. -/
def Strand.rescWaits (x : Strand) (c0 : Nat) : Bool :=
  x.out.any (fun y => match y with
    | .rel (.resc _ _ _ k) => k == c0
    | _ => false)

/-- The copies of a colour start again (R432). -/
def State.recolourCopies (s : State) (p : Owner → Nat → Bool) (c : Nat) : State :=
  s.onAcc (fun a => { a with copies := a.copies.map (fun e =>
    if e.2.used && (match e.2.c.col with
      | some k => p e.2.who k
      | none => false) then (e.1, { e.2 with hurt := false, c := { e.2.c with col := some c } }) else e) })

/-- The activation of a colour of a graph. -/
def State.activation (s : State) (job g c : Nat) : Option Activation :=
  (s.graph job g).acts.find? (fun a => a.colour == c && !a.purged)

/-- Purge of colour c of a dynamic graph with the re-issue of its activation (R437), one step. Without a fresh colour it waits:
the state is unchanged. DEDUCED: notes/assumptions/86. -/
def State.purgeColour (s : State) (job g c : Nat) : State :=
  match (List.range 256).find? (fun k => k != c && !s.colourBusy job g k) with
  | none => s
  | some fresh =>
    let mineCell (m : MCell) : Bool := isMine m.who job g && bearsColour m && m.cell.col.toNat == c
    let mine (w : Owner) (k : Nat) : Bool := isMine w job g && k == c
    let act := s.activation job g c
    let (s1, o1) := s.purgeColourCells mineCell
    let (s2, o2) := s1.purgeColourJobs mine o1
    let (s3, o3) := s2.purgeColourMats mine o2
    let s4 := (s3.eng.markets.map (fun e => e.1)).foldl (fun st cl => st.settleHeads cl) s3
    match act with
    | none => s4.modGraph job g (fun y => { y with
        acts := { colour := c, purged := true } :: y.acts.filter (fun a => a.colour != c) })
    | some a =>
      let (s5, o4) := s4.reissueStreams mine fresh a.ran o3
      let s6 := s5.recolourCopies mine fresh
      let waits := (s6.strand a.who.sid).who == a.who && (s6.strand a.who.sid).rescWaits c
      let s7 := if waits then s6.modStrand a.who.sid (fun x => { x with out := x.out.map (recolourOut c fresh) }) else s6
      let s8 := a.fx.foldl (fun st e => if isResc e && waits then st else st.reissueFx a fresh e) s7
      let b : Activation := {
        colour := fresh, who := a.who, stamp := a.stamp, fx := a.fx.map (colourFx fresh), again := true
        owed := a.owed ++ o4.cells, owedTk := a.owedTk ++ o4.toks }
      s8.modGraph job g (fun y => { y with
        acts := b :: { colour := c, purged := true } :: y.acts.filter (fun x => x.colour != c && x.colour != fresh) })

/-! ## The end of a re-issued activation -/

/-- Once nothing bears the fresh colour, the strand's tokens clear and its classes drop. DEDUCED: notes/assumptions/86. -/
def State.settleActivation (s : State) (job g : Nat) (a : Activation) : State :=
  if (a.owed.isEmpty && a.owedTk.isEmpty) || s.colourInUse job g a.colour then s
  else
    let s1 := s.modGraph job g (fun y => { y with
      acts := y.acts.map (fun x => if x.colour == a.colour && !x.purged then { x with owed := [], owedTk := [] } else x) })
    let s2 := a.owedTk.foldl (fun st t => st.clearTk t.1 t.2) s1
    a.owed.foldl (fun st x => st.cellEnd x.1 x.2 0 x.2.stamp) s2

/-- Colours of a graph under which an operation has met lost data (R432). -/
def State.hurtColour (s : State) (job g c : Nat) : Bool :=
  let mine (w : Owner) (k : Nat) : Bool := isMine w job g && k == c
  (s.eng.hurt.any (fun e => e.2.any (fun m => mine m.who m.cell.col.toNat))) ||
  (s.acc.agns.any (fun e => e.2.stream.toList.any (fun st => st.hurt && mine st.who (wbits st.cdesc 31 8)))) ||
  (s.acc.copies.any (fun e => e.2.used && e.2.hurt && isMine e.2.who job g && e.2.c.col == some c))

/-- The dynamic graphs of a job that are bound. -/
def State.dynamicGraphs (s : State) (job : Nat) : List Nat :=
  (s.liveGraphs.filter (fun e => e.1 / 65536 == job && e.2.dynamic)).map (fun e => e.1 % 65536)

/-- PURGE of a context tag or a colour of it (R205, R432, R437): cells of cancelled work go; a colour under which data were lost is
purged and its activation issued again; a re-issued activation that has completed gives back what its strand holds. -/
def State.purge (s : State) (cl ctx : Nat) (col : Option Nat) : State :=
  let s1 := s.purgeCancelled cl ctx col
  match s1.tagJob cl ctx, col with
  | some job, some c =>
    (s1.dynamicGraphs job).foldl (fun st g =>
      let st1 := if st.hurtColour job g c then st.purgeColour job g c else st
      match st1.activation job g c with
      | some a => st1.settleActivation job g a
      | none => st1) s1
  | _, _ => s1

/-- PURGE (R205, R437). -/
def execPurge (cl ctx : Nat) (col : Option Nat) (s : State) : Res := .next (s.purge cl ctx col)

end Sys2Proof.Machine
end

