-- ==== Sys2Proof/Machine/Reliability.lean ====
section
/-! DEFINITION. Machine/Reliability.lean: twins and their comparators, and the cold restart of a cluster (spec/22 R439 to R444). -/

namespace Sys2Proof.Machine

/-! ## The comparator (R440) -/

/-- Which copy of a twin an exit cell comes from: 0 the first. -/
def twinCopyOf (m : MCell) : Nat := (m.cmp - 1) % 2

/-- An exit cell that a write port waits for, as against one that leaves the region. -/
def isWriteExit (m : MCell) : Bool := decide (m.cell.cop.toNat / 128 = 0)

/-- The key on which exit cells pair: the graph pair, COP, write port or DCL and DPORT, ITAG, AUX, COL. DEDUCED: notes/assumptions/88. -/
def pairKey (a b : MCell) : Bool :=
  isMine b.who a.who.job a.who.graph && a.cell.cop == b.cell.cop && a.cell.itag == b.cell.itag && a.cell.aux == b.cell.aux &&
  a.cell.col == b.cell.col && a.cell.dport == b.cell.dport &&
  (if isWriteExit a then a.cell.pos == b.cell.pos else a.cell.dcl == b.cell.dcl)

/-- Two exit cells agree: every header field but CTX, DCL and CHK, the payload and the sidecar. DEDUCED: notes/assumptions/88. -/
def exitEqual (a b : Cell) : Bool :=
  a.dport == b.dport && a.mc == b.mc && a.cls == b.cls && a.cop == b.cop && a.itag == b.itag && a.run == b.run &&
  a.pos == b.pos && a.col == b.col && a.cnt == b.cnt && a.last == b.last && a.gate == b.gate && a.tid == b.tid &&
  a.aux == b.aux && a.side == b.side && a.pay == b.pay && a.car == b.car

/-- The first waiting cell of the first copy that has a partner, and the partner. -/
def findPair (l : List MCell) : Option (MCell × MCell) :=
  (l.filter (fun a => twinCopyOf a == 0)).findSome? (fun a =>
    (l.find? (fun b => twinCopyOf b == 1 && pairKey a b)).map (fun b => (a, b)))

def State.takeComps (s : State) (cl : Nat) (ages : List Nat) : State :=
  s.onEng (fun e => { e with comps := tmod e.comps cl (fun (l : List MCell) => l.filter (fun m => !ages.contains m.age)) })

def graphSdc : Nat := 4

/-- A mismatch: the colour is purged and issued again; the third one cancels the graph, whose units report GRAPH_SDC. Without a
fresh colour it waits. DEDUCED: notes/assumptions/88. -/
def State.mismatch (s : State) (cl : Nat) (m : MCell) : State :=
  let job := m.who.job
  let g := m.who.graph
  let root := s.partOfCluster cl
  let n := (s.graph job g).mism + 1
  let count (st : State) : State :=
    ((st.modGraph job g (fun x => { x with mism := n })).bumpSdc root).errRecord root 4 3 cl 15 g n
  if n ≥ 3 then ((count s).noteEnd m.who graphSdc 0).cancelUnit 2 (graphKey job g)
  else if (List.range 256).all (fun k => k == m.cell.col.toNat || s.colourBusy job g k) then s
  else (count s).purgeColour job g m.cell.col.toNat

/-- The first copy's cell goes on to its write port or egress through ingress 31; the other is discarded. DEDUCED: notes/assumptions/88. -/
def State.exitPass (s : State) (cl : Nat) (a b : MCell) : State :=
  let s1 := s.takeComps cl [a.age, b.age]
  let x : MCell := { a with cmp := 0, passed := true, stall := 0 }
  let s2 := s1.onEng (fun e => { e with outs := tmod e.outs (cl * 32 + 31) (fun (l : List MCell) => l ++ [x]) })
  s2.cellEnd cl b 0 b.stamp

/-- COMPARATOR_PAIR (R440). -/
def execComparatorPair (cl : Nat) (s : State) : Res :=
  .next (match findPair (tget s.eng.comps cl) with
    | none => s
    | some (a, b) => if exitEqual a.cell b.cell then s.exitPass cl a b else s.mismatch cl a)

/-- TWIN_TIMEOUT (R440): the cell that has waited longest without a partner counts as a mismatch. DESIGN CHOICE: notes/assumptions/2. -/
def execTwinTimeout (cl : Nat) (s : State) : Res :=
  let l := tget s.eng.comps cl
  .next (match l.find? (fun a => !l.any (fun b => twinCopyOf a != twinCopyOf b && pairKey a b)) with
    | none => s
    | some a => s.mismatch cl a)

/-! ## Cold restart (R442 to R444) -/

/-- Column and row of a cluster on the device's mesh of 8 columns and 6 rows (spec/00 R2). -/
def clusterX (cl : Nat) : Nat := clusterQuarter cl % 2 * 4 + cl % 12 % 4
def clusterY (cl : Nat) : Nat := clusterQuarter cl / 2 * 3 + cl % 12 / 4

/-- Two lists of clusters have one shape: each stands at one distance from its counterpart. -/
def sameShape (a b : List Nat) : Bool :=
  a.length == b.length && (match a, b with
    | x :: _, y :: _ => (a.zip b).all (fun p =>
        (clusterX p.1 : Int) - clusterX p.2 == (clusterX x : Int) - clusterX y &&
        (clusterY p.1 : Int) - clusterY p.2 == (clusterY x : Int) - clusterY y)
    | _, _ => true)

/-- An AGN of the image in a cluster is bound to a buffer or tile there. -/
def boundToSram (img : GraphImage) (cl : Nat) : Bool :=
  img.agns.any (fun a => a.1 == cl && (agnRec a.2.2).bound && decide ((agnRec a.2.2).port ≤ 3))

/-- The region of a graph that holds a cluster: the first copy's or the twin's second. -/
def regionWith (img : GraphImage) (cl : Nat) : List Nat :=
  if img.clusters.contains cl then img.clusters else img.copyClusters

/-- What the mapper has found for a graph: a free region of the same shape in the same partition; none: the graph is lost. DEDUCED: notes/assumptions/89. -/
def State.newRegion (s : State) (cl : Nat) (key : Nat) (g : Graph) (found : List (Nat × List Nat)) : Option (List Nat) :=
  match found.find? (fun f => f.1 == key) with
  | none => none
  | some (_, cls) =>
    let free (c : Nat) : Bool := decide (c < 48) && s.partOfCluster c == s.partOfCluster cl &&
      !s.liveGraphs.any (fun e => (imageClusters e.2.img).contains c)
    if g.dynamic && sameShape (regionWith g.img cl) cls && cls.all free && !boundToSram g.img cl then some cls else none

/-- An image in its new place. -/
def moveImage (f : Nat → Nat) (i : GraphImage) : GraphImage :=
  { i with
    clusters := i.clusters.map f
    copyClusters := i.copyClusters.map f
    sets := i.sets.map (fun d => { d with clusters := d.clusters.map f })
    agns := i.agns.map (fun a => (f a.1, a.2))
    froms := i.froms.map (fun a => (f a.1, a.2))
    data := []
    structData := []
    routes := i.routes.map (fun r => (f r.1, r.2.1, r.2.2.1, mapDesc f r.2.2.2))
    seeds := i.seeds.map (fun r => (f r.1, r.2))
    matrices := i.matrices.map (fun m => (f m.1, m.2.1, m.2.2.1, mapDesc f m.2.2.2.1, m.2.2.2.2))
    demands := i.demands.map (fun d => (f d.1, d.2))
    tiles := i.tiles.map (fun t => (f t.1, t.2))
    pipes := i.pipes.map (fun p => { p with cluster := f p.cluster })
    streams := i.streams.map (fun d => { d with cluster := f d.cluster, cdesc := mapDesc f d.cdesc })
    taps := i.taps.map (fun t => { t with cluster := f t.cluster })
    wbases := i.wbases.map (fun w => (f w.1, f (w.2 / 8) * 8 + w.2 % 8)) }

/-- Nodes of the moved clusters are written in their new place, as the loader writes them at binding; the tensors' data and the
barrier objects stay where they are. -/
def State.placeNodes (s : State) (job g : Nat) (moved : Nat → Bool) (img : GraphImage) : State :=
  let part : GraphImage := { img with
    agns := img.agns.filter (fun a => moved a.1), routes := img.routes.filter (fun r => moved r.1)
    tiles := img.tiles.filter (fun t => moved t.1), pipes := img.pipes.filter (fun p => moved p.cluster)
    streams := img.streams.filter (fun d => moved d.cluster) }
  let cls := (imageClusters img).filter moved
  let s1 := cls.foldl (fun st cl => st.modMarket cl (fun m => { m with opened := st.openFor img cl })) s
  let s2 := s1.modGraph job g (fun y => { y with img := img })
  let s3 := ((s2.writeTiles part).bindAgns job part).writePipes part
  let s4 := part.routes.foldl (fun st r => st.writeRoute job r.1 r.2.1 r.2.2.1 r.2.2.2) s3
  let s5 := (img.seeds.filter (fun r => moved r.1)).foldl (fun st r => st.writeSeed job r.1 r.2.1 r.2.2) s4
  (img.matrices.filter (fun m => moved m.1)).foldl (fun st m =>
    st.writeMatrix job m.1 m.2.1 m.2.2.1 m.2.2.2.1 m.2.2.2.2) s5

/-- The streams that AGNs of the old region run go to their activations, as streams to be given again in the new place; a stream node
goes on there. -/
def State.moveStreams (s : State) (job g : Nat) (old : List Nat) (f : Nat → Nat) : State :=
  let keyOf (k : Nat) : Nat := if old.contains (agnCl k) then s.jobAgn job (f (agnCl k)) (agnNo k) else k
  let run := (s.graphStreams job g).filter (fun e => old.contains (agnCl e.1))
  let s1 := s.onAcc (fun a => { a with agns := a.agns.map (fun e =>
    if run.any (fun r => r.1 == e.1) then (e.1, { e.2 with stream := none, later := [], cellOut := none }) else e) })
  let s2 := s1.modGraph job g (fun y => { y with acts := y.acts.map (fun a =>
    let mine := run.filter (fun r => !a.purged && wbits r.2.cdesc 31 8 == a.colour)
    let owes := mine.map (fun r => streamOwes r.1 r.2)
    { a with
      ran := (a.ran ++ mine).map (fun r => (keyOf r.1, r.2))
      owed := a.owed ++ (owes.map (fun o => o.1)).flatten
      owedTk := a.owedTk ++ (owes.map (fun o => o.2)).flatten }) })
  (run.filter (fun r => !s.inActivation r.2.who (wbits r.2.cdesc 31 8))).foldl (fun st r =>
    st.modAgn (keyOf r.1) (fun y => y.give { r.2 with place := some r.2.startPos })) s2

/-- A graph moves to a new region: its nodes are bound there, and every activation not yet retired is issued again there. DEDUCED: notes/assumptions/89. -/
def State.replaceGraph (s : State) (key cl : Nat) (cls : List Nat) : State :=
  let job := key / 65536
  let g := key % 65536
  let x := s.graph job g
  let old := regionWith x.img cl
  let pairs := old.zip cls
  let f (c : Nat) : Nat := match pairs.find? (fun p => p.1 == c) with
    | some p => p.2
    | none => c
  match s.takeTags job cls with
  | none => s.graphLost job g
  | some s1 =>
    let s2 := (s1.placeNodes job g cls.contains (moveImage f x.img)).moveStreams job g old f
    let s3 := (s2.countNodes x.launch (s2.launch x.launch) old false).countNodes x.launch (s2.launch x.launch) cls true
    let now (l : List (Nat × Nat)) : List (Nat × Nat) :=
      if x.img.clusters.contains cl then l.map (fun m => (m.1, f m.2)) ++ pairs.filter (fun p => !l.any (fun m => m.1 == p.1))
      else l
    let s4 := s3.modGraph job g (fun y => { y with moved := now y.moved })
    ((x.acts.filter (fun a => !a.purged && s.colourBusy job g a.colour)).map (fun a => a.colour)).foldl (fun st c =>
      st.purgeColour job g c) s4

/-- Home addresses of a cluster's core buffers and tiles. -/
def inCluster (cl a : Nat) : Bool :=
  decide (2 ^ 60 + cl * 8 * 2 ^ 20 ≤ a ∧ a < 2 ^ 60 + (cl + 1) * 8 * 2 ^ 20) ||
  decide (2 ^ 61 + cl * 16 * 2 ^ 19 ≤ a ∧ a < 2 ^ 61 + (cl + 1) * 16 * 2 ^ 19)

/-- The cluster's SRAM holds zero with WTS 0, as after reset (R442, R443). DEDUCED: notes/assumptions/89. -/
def State.zeroSram (s : State) (cl : Nat) : State :=
  let s1 := s.onMem (fun m => { m with
    bytes := m.bytes.filter (fun e => !inCluster cl e.1)
    lines := m.lines.filter (fun e => !inCluster cl (64 * e.1))
    swrit := m.swrit.filter (fun e => !inCluster cl (8 * e.1))
    roles := m.roles.filter (fun e => e.1 / 16 != cl)
    lease := m.lease.filter (fun e => e.1 / 8 != cl)
    banks := m.banks.filter (fun e => e.1 / 384 != cl) })
  s1.onAcc (fun a => { a with pipes := a.pipes.filter (fun e => e.1 / 2 ^ 19 / 16 != cl) })

/-- The cluster's configuration is void: AGNs, routes, seeds, matrix contexts, open queues and multicast groups; every market pointer
is reset. -/
def State.voidConfig (s : State) (cl : Nat) : State :=
  let s1 := s.onAcc (fun a => { a with agns := a.agns.filter (fun e => agnCl e.1 != cl) })
  let s2 := s1.onEng (fun e => { e with
    routes := e.routes.filter (fun r => r.1 / 16 / 64 / 32 != cl)
    seeds := e.seeds.filter (fun r => r.1 / 64 / 32 != cl)
    bars := e.bars.filter (fun b => b.1 / 256 != cl) })
  let s3 := s2.onMat (fun m => { m with ctxs := m.ctxs.filter (fun e => e.1 / 16 != cl) })
  s3.modMarket cl (fun (m : Market) => {
    slot := m.slot, matched := m.matched.filter (fun x => x.crossed), cfg := ({} : Market).cfg
    aged := m.aged, short := m.short, stale := m.stale })

/-- What lies in the cluster and belongs to no activation of a graph that lives on ends: cells and stalls with their operations,
intersection jobs, rows, matrix operations and transfers. Cells from `tick` on have been issued since. -/
def State.dropCluster (s : State) (cl tick : Nat) : State :=
  let ixs := tget s.eng.ixjobs cl
  let s1 := ixs.foldl (fun st j => st.prodEnd cl { prod := some {
    key := engCtx cl 9 j.ctx, num := j.num, cts := j.stamp, ends := (j.who, Report.device, 0#24) :: j.ends } }) s
  let s2 := (tget s1.eng.rows cl).foldl (fun st r => if r.dead then st
    else (st.timeEnd (engCtx cl 8 r.ctx) r.num 0).countDown r.who 0) s1
  let s3 := s2.onEng (fun e => { e with ixjobs := tdel e.ixjobs cl, rows := tdel e.rows cl })
  let s4 := (List.range 16).foldl (fun st i => match (st.matCtx (cl * 16 + i)).opn with
    | none => st
    | some o =>
      let st1 := ((st.modMat (cl * 16 + i) (fun c => { c with opn := none })).timeEnd
        (engCtx cl (i / 4) (i % 4)) o.num o.stamp).countDown o.who o.stamp
      o.ends.foldl (fun a e => a.cellEnd cl { who := e.1, report := e.2.1 } 0 o.stamp) st1) s3
  let s5 := s4.purgeCells (fun c m => c == cl && decide (m.age < tick))
  let xs := s5.acc.xfers.filter (fun e => e.2.used && e.1 / 2 ^ 17 == cl)
  xs.foldl (fun st e =>
    ((st.timeEnd (engCtx cl (11 + e.1 / 2 ^ 16 % 2) e.2.cell.cell.ctx.toNat) e.2.num e.2.cts).onAcc (fun a =>
      { a with xfers := tdel a.xfers e.1 })).cellEnd cl e.2.cell 0 e.2.cts) s5

/-- Strands whose contexts lie in the cluster, its cores' hold stores among them, are killed (R39). -/
def State.killCluster (s : State) (cl : Nat) : State :=
  let ctx := (s.core.strands.filter (fun e => e.2.live && sidCluster e.1 == cl)).map (fun e => e.1)
  let held := (s.core.holds.filter (fun e => sidCluster e.1 == cl)).map (fun e => e.1)
  held.foldl (fun st sid => st.killAway sid .hold) (ctx.foldl (fun st sid => st.killStrand sid 0) s)

/-- A cold restart of a cluster. `found` is what the mapper offers: for a graph, by its key, the clusters of a new region. DESIGN CHOICE: notes/assumptions/31; DEDUCED: notes/assumptions/89. -/
def State.coldRestart (s : State) (cl : Nat) (found : List (Nat × List Nat)) : State :=
  let root := s.partOfCluster cl
  let (loc, s0) := s.freeNumber 1
  let (det, s0a) := s0.freeNumber 1
  let s1 := s0a.errRecord root 6 0 cl 0 loc det
  let gs := s1.liveGraphs.filter (fun e => (imageClusters e.2.img).contains cl)
  let plan := gs.map (fun e => (e.1, s1.newRegion cl e.1 e.2 found))
  let s2 := plan.foldl (fun st p => match p.2 with
    | some _ => st
    | none => st.graphLost (p.1 / 65536) (p.1 % 65536)) s1
  let s3 := plan.foldl (fun st p => match p.2 with
    | some cls => st.replaceGraph p.1 cl cls
    | none => st) s2
  let s4 := (s3.dropCluster cl s.tickNo).killCluster cl
  ((s4.voidConfig cl).zeroSram cl).settleHeads cl

/-- COLD_RESTART (R442 to R444). DESIGN CHOICE: notes/assumptions/11. -/
def execColdRestart (cl : Nat) (found : List (Nat × List Nat)) (s : State) : Res := .next (s.coldRestart cl found)

end Sys2Proof.Machine
end

