-- ==== Sys2Proof/Machine/Power.lean ====
section
/-! DEFINITION. Machine/Power.lean: the power controller, level hops, droops and retention (spec/18 R371 to R377). What is
measured (draw, voltage, parity) comes with the event. -/

namespace Sys2Proof.Machine

/-! ## The power controller (R375) -/

/-- Jobs that have nodes bound in a region of a quarter. -/
def State.regionJobs (s : State) (q region : Nat) : List Nat :=
  ((s.liveGraphs.filter (fun e => (imageClusters e.2.img).any (fun c =>
    clusterQuarter c == q && s.regionOf c == region))).map (fun e => e.1 / 65536)).eraseDups

def preq (w : Word) : Nat := wbits w 0 3
def lsfloor (w : Word) : Nat := wbits w 8 8

/-- The lowest LSCALE that the controller may set for a region. -/
def State.scaleFloor (s : State) (q region : Nat) : Nat :=
  (s.regionJobs q region).foldl (fun m j => max m (lsfloor (s.job j).jpwr)) 0

/-- The highest level that a job bound in a region requests; none: no job has nodes there (R372). DEDUCED: notes/assumptions/77. -/
def State.regionRequest (s : State) (q region : Nat) : Option Nat :=
  match s.regionJobs q region with
  | [] => none
  | js => some (js.foldl (fun m j => max m (preq (s.job j).jpwr)) 0)

/-- The regions of a quarter. -/
def State.regionsOf (s : State) (q : Nat) : List Nat := ((List.range 12).map (fun i => s.regionOf (q * 12 + i))).eraseDups

def State.dropOf (s : State) (q region : Nat) : Nat := tgetD 0 s.ken.drops (q * 16 + region)
def State.setDrop (s : State) (q region n : Nat) : State :=
  s.onKen (fun k => { k with drops := tset k.drops (q * 16 + region) n })
def State.setLscale (s : State) (q region n : Nat) : State :=
  s.onKen (fun k => { k with lscale := tset k.lscale (q * 16 + region) n })

/-- Under pressure: LSCALE of the region with the greatest draw falls by one, not below its floor; with every region at its floor
the region's level falls by one, to no less than level 1. DEDUCED: notes/assumptions/77. -/
def State.scaleDown (s : State) (q region : Nat) : State :=
  if s.lscaleOf q region > s.scaleFloor q region then s.setLscale q region (s.lscaleOf q region - 1)
  else if (s.regionsOf q).all (fun r => decide (s.lscaleOf q r ≤ s.scaleFloor q r)) &&
      decide (s.dropOf q region + 1 < (s.regionRequest q region).getD 1) then
    s.setDrop q region (s.dropOf q region + 1)
  else s

/-- The pressure has gone: levels rise back to their requests first, and then LSCALE. DEDUCED: notes/assumptions/77. -/
def State.scaleUp (s : State) (q region : Nat) : State :=
  if s.dropOf q region > 0 then s.setDrop q region (s.dropOf q region - 1)
  else if (s.regionsOf q).any (fun r => decide (s.dropOf q r > 0)) then s
  else s.setLscale q region (min 255 (s.lscaleOf q region + 1))

/-- LSCALE_STEP (R375). DESIGN CHOICE: notes/assumptions/11. -/
def execLscaleStep (q region : Nat) (up : Bool) (s : State) : Res :=
  .next (if up then s.scaleUp q region else s.scaleDown q region)

/-! ## Level hops (R371 to R374) -/

/-- The level an island is to run at; none: nothing asks for one. A region runs at one level: its highest request, lowered by the
controller, and not below the host's floor on any of its islands. Islands other than the clusters' stay at level 7. DESIGN CHOICE: notes/assumptions/8; DEDUCED: notes/assumptions/77. -/
def State.levelTarget (s : State) (q i : Nat) : Option Nat :=
  if i ≥ 12 || (q = 0 && s.sys.bustate != buFull) then none
  else
    let r := s.regionOf (q * 12 + i)
    match s.regionRequest q r with
    | none => none
    | some n =>
      let floor := (List.range 12).foldl (fun m k => if s.regionOf (q * 12 + k) = r then max m (s.island q k).floor else m) 0
      some (min 7 (max floor (max 1 (n - s.dropOf q r))))

/-- VF_HOP (R373): the idle clock generator is set to the new level. -/
def execVfHop (q island : Nat) (s : State) : Res :=
  let x := s.island q island
  .next (match s.levelTarget q island with
    | none => s
    | some n =>
      if x.ret || x.str || x.hop.isSome || n == x.cur then s
      else s.setIsland q island { x with hop := some n, retry := none })

/-- VF_HOP_DONE (R373). -/
def execVfHopDone (q island : Nat) (s : State) : Res :=
  let x := s.island q island
  .next (match x.hop with
    | none => s
    | some n => s.setIsland q island { x with cur := n, hop := none })

/-- DROOP (R374): the clock stretches; a hop in progress is abandoned and counted. -/
def execDroop (q island : Nat) (s : State) : Res :=
  let x := s.island q island
  .next (match x.hop with
    | none => s.setIsland q island { x with str := true }
    | some n => (s.setIsland q island { x with str := true, hop := none, retry := some n }).onKen (fun k =>
        { k with hopabort := tmod k.hopabort q (fun c => c + 1) }))

/-- DROOP_CLEAR (R374): an abandoned hop is tried again. -/
def execDroopClear (q island : Nat) (s : State) : Res :=
  let x := s.island q island
  .next (if x.str then s.setIsland q island { x with str := false, hop := x.retry, retry := none } else s)

/-! ## Retention (R377) -/

/-- An engine operation in progress in a cluster. -/
def State.engineBusy (s : State) (cl : Nat) : Bool :=
  s.eng.times.any (fun e => e.1 / 64 / 32 == cl && decide (e.2.next > e.2.tl + 1)) ||
  s.acc.copies.any (fun e => e.2.used && e.1 / 2 ^ 16 == cl) || s.acc.xfers.any (fun e => e.2.used && e.1 / 2 ^ 17 == cl) ||
  s.acc.agns.any (fun e => agnCl e.1 == cl && !e.2.streams.isEmpty) ||
  (List.range 16).any (fun i => let x := s.matCtx (cl * 16 + i)
    x.opn.isSome || x.saving.isSome || x.loading.isSome) ||
  !(tget s.eng.ixjobs cl).isEmpty || !(tget s.eng.rows cl).isEmpty

/-- An island holds nothing that keeps it awake: no resident strand, live tag, queued cell or operation in progress. -/
def State.clusterIdle (s : State) (cl : Nat) : Bool :=
  !s.core.strands.any (fun e => e.2.live && sidCluster e.1 == cl) &&
  !s.liveGraphs.any (fun e => (imageClusters e.2.img).contains cl && decide (e.2.adm > e.2.lo)) &&
  !s.allCells.any (fun x => x.1 == cl) && !s.engineBusy cl

/-- RETENTION_ENTER (R377). -/
def execRetentionEnter (cl : Nat) (s : State) : Res :=
  let q := clusterQuarter cl
  let x := s.island q (cl % 12)
  .next (if x.ret || x.hop.isSome || !s.clusterIdle cl then s
    else s.setIsland q (cl % 12) { x with ret := true, wake := false })

/-- RETENTION_EXIT (R377): a bind, a cell from the mesh or a write of the island's register has come, or a strand has been given a
context there. A parity error of the retained state restarts the cluster (R442). -/
def execRetentionExit (cl : Nat) (parityOk : Bool) (found : List (Nat × List Nat)) (s : State) : Res :=
  let q := clusterQuarter cl
  let x := s.island q (cl % 12)
  let due := x.wake || !(tget s.lnk.mesh cl).isEmpty || s.core.strands.any (fun e => e.2.live && sidCluster e.1 == cl)
  .next (if !x.ret || !due then s
    else
      let s1 := s.setIsland q (cl % 12) { x with ret := false, wake := false }
      if parityOk then s1 else s1.coldRestart cl found)

end Sys2Proof.Machine
end

