-- ==== Sys2Proof/Machine/Scalar.lean ====
section
/-! DEFINITION. Machine/Scalar.lean: the scalar floating-point forms (spec/05 R121 to R128). -/

namespace Sys2Proof.Machine

/-- FADD (R121 to R123). -/
def execFadd (p : Pr) (q : Prec) (r : Rnd) (ta tb : Tgt) (s : State) : Res := fireWith p .lr [ta, tb] (aluFadd q r) s
/-- FSUB (R121 to R123). -/
def execFsub (p : Pr) (q : Prec) (r : Rnd) (ta tb : Tgt) (s : State) : Res := fireWith p .lr [ta, tb] (aluFsub q r) s
/-- FMUL (R121 to R123). -/
def execFmul (p : Pr) (q : Prec) (r : Rnd) (ta tb : Tgt) (s : State) : Res := fireWith p .lr [ta, tb] (aluFmul q r) s
/-- FDIV (R121 to R123). -/
def execFdiv (p : Pr) (q : Prec) (r : Rnd) (ta tb : Tgt) (s : State) : Res := fireWith p .lr [ta, tb] (aluFdiv q r) s
/-- FSQRT (R123). -/
def execFsqrt (p : Pr) (q : Prec) (r : Rnd) (ta tb : Tgt) (s : State) : Res := fireWith p .l [ta, tb] (aluFsqrt q r) s
/-- FCVT between floats (R127). -/
def execFcvtFF (p : Pr) (q : Prec) (r : Rnd) (ta tb : Tgt) (s : State) : Res := fireWith p .l [ta, tb] (aluFcvtFF q r) s
/-- FCVT to int64 (R127). -/
def execFcvtFI (p : Pr) (q : Prec) (r : Rnd) (ta tb : Tgt) (s : State) : Res := fireWith p .l [ta, tb] (aluFcvtFI q r) s
/-- FCVT from int64 (R127). -/
def execFcvtIF (p : Pr) (q : Prec) (r : Rnd) (ta tb : Tgt) (s : State) : Res := fireWith p .l [ta, tb] (aluFcvtIF q r) s
/-- FMIN (R124). -/
def execFmin (p : Pr) (q : Prec) (ta tb : Tgt) (s : State) : Res := fireWith p .lr [ta, tb] (aluFmin q) s
/-- FMAX (R124). -/
def execFmax (p : Pr) (q : Prec) (ta tb : Tgt) (s : State) : Res := fireWith p .lr [ta, tb] (aluFmax q) s
/-- FTEQ (R125). -/
def execFteq (p : Pr) (q : Prec) (ta tb : Tgt) (s : State) : Res := fireWith p .lr [ta, tb] (ftestEq q) s
/-- FTLT (R125). -/
def execFtlt (p : Pr) (q : Prec) (ta tb : Tgt) (s : State) : Res := fireWith p .lr [ta, tb] (ftestLt q) s
/-- FTLE (R125). -/
def execFtle (p : Pr) (q : Prec) (ta tb : Tgt) (s : State) : Res := fireWith p .lr [ta, tb] (ftestLe q) s
/-- FCLASS (R126). -/
def execFclass (p : Pr) (q : Prec) (ta tb : Tgt) (s : State) : Res :=
  fireWith p .l [ta, tb] (fun l _ => fclassWord q l) s

end Sys2Proof.Machine
end

