-- ==== Sys2Proof/Machine/SpecialRows.lean ====
section
/-! DEFINITION. Machine/SpecialRows.lean: the special-function engine: elementwise cells and the row normaliser (spec/20 R386 to
R391). -/

namespace Sys2Proof.Machine

/-- The egress port of the special-function engine. -/
def sfPort : Nat := 8

/-- The formats that it reads and writes (R386). -/
def sfFmt : EFmt → Bool
  | .flt f => f == fp32 || f == fp16 || f == bf16
  | _ => false

/-! ## Elementwise (R387) -/

/-- What is wrong with an elementwise cell when it arrives (R169, R386). DEDUCED: notes/assumptions/49. -/
def State.sfCellBad (s : State) (m : MCell) : Nat :=
  let c := m.cell
  let side := c.side.toNat
  if c.pos != 0 then 0x90
  else match s.cellFmt m.who.job c.tid.toNat with
    | none => 0x91
    | some f =>
      if !sfFmt f then 0x98
      else if decide (1 ≤ side ∧ side ≤ 8) || c.run.toNat + 1 > min 32 (1024 / f.bits) ||
        decide (c.itag.toNat + c.run.toNat > 2 ^ 24 - 1) then 0x90
      else 0

/-- What is wrong with a route that a result of the engine takes: a status, 0 for nothing. -/
def State.sfRouteBad (s : State) (job : Nat) (rt : Route) : Nat :=
  if !rt.v then 0x92
  else match s.cellFmt job rt.tid with
    | none => 0x91
    | some f => if !sfFmt f then 0x98 else if (rndOf rt.rnd).isNone then 0x90 else 0

/-- One operation of one operand is applied to the oldest delivered cell of its code. -/
def State.sfStep (s : State) (cl cop : Nat) (f : (FV → Nat) → FV → Nat) : State :=
  if s.resultWaits cl sfPort then s
  else match s.takeInbox cl sfPort cop with
    | none => s
    | some (m, s1) =>
      let bad := s.sfCellBad m
      if bad != 0 then s1.cellEnd cl m bad m.stamp
      else
        let c := m.cell
        let ctx := c.ctx.toNat
        let key := engCtx cl sfPort ctx
        let rt := s.route cl sfPort ctx (c.aux.toNat / 4096)
        let t := s.startStamp key m.stamp
        let (num, s2) := s1.timeStart key
        let p : Prod := { key := key, num := num, cts := t, cmpl := routeCmpl rt c c.itag.toNat c.run.toNat
                          ends := [(m.who, m.report, c.itag)] }
        let fails (status : Nat) : State := (s2.postReport cl ctx status 2 c.itag.toNat).endNow cl (16 + sfPort) m p
        let wrong := if c.cnt != 0 then 0x90 else s.sfRouteBad m.who.job rt
        if wrong != 0 then fails wrong
        else
          let src := floatOf ((s.cellFmt m.who.job c.tid.toNat).getD (.flt fp32))
          let dst := floatOf ((s.cellFmt m.who.job rt.tid).getD (.flt fp32))
          let q : Rounding := { mode := (rndOf rt.rnd).getD .rne, sat := false, seed := tgetD 0 s.eng.seeds key }
          let lanes : Lanes := (List.range (c.run.toNat + 1)).map (fun j =>
            if c.present j then some (f (q.round dst (c.itag.toNat + j) 0) (fdec src (c.elem src.width j))) else none)
          let x := routeCell rt c c.itag.toNat c.run.toNat c.last dst.width lanes (lanes.any Option.isNone)
          if !s.cellOk cl m.who.job x || decide (lanes.length * dst.width > 1024) then fails 0x90
          else s2.sendResult cl (16 + sfPort) m x p

/-- SEXP2 (R387). -/
def execSexp2 (cl : Nat) (s : State) : Res := .next (s.sfStep cl 0x180 fnExp2)
/-- SLOG2 (R387). -/
def execSlog2 (cl : Nat) (s : State) : Res := .next (s.sfStep cl 0x181 fnLog2)
/-- SRCP (R387). -/
def execSrcp (cl : Nat) (s : State) : Res := .next (s.sfStep cl 0x182 fnRcp)
/-- SRSQ (R387). -/
def execSrsq (cl : Nat) (s : State) : Res := .next (s.sfStep cl 0x183 fnRsqrt)
/-- STANH (R387). -/
def execStanh (cl : Nat) (s : State) : Res := .next (s.sfStep cl 0x184 fnTanh)
/-- SSIN (R387). -/
def execSsin (cl : Nat) (s : State) : Res := .next (s.sfStep cl 0x185 fnSin)
/-- SCOS (R387). -/
def execScos (cl : Nat) (s : State) : Res := .next (s.sfStep cl 0x186 fnCos)
/-- SGELU (R387). -/
def execSgelu (cl : Nat) (s : State) : Res := .next (s.sfStep cl 0x187 fnGelu)

/-! ## The arithmetic of a row (R390) -/

/-- Rounded once to FP32 with RNE, as a code and as a value. -/
def cr (v : FV) : Nat := fround fp32 .rne false 0 v
def rne32 (v : FV) : FV := fdec fp32 (cr v)

/-- S(f): each cell's sum by the tree of R176, the cells in increasing index. Absent lanes take 0. DEDUCED: notes/assumptions/53. -/
def rowSum (cells : List (List (Option FV))) : FV :=
  let add (_ a b : Nat) : Nat := cr (fvAdd .rne (fdec fp32 a) (fdec fp32 b))
  cells.foldl (fun acc l =>
    let v := treeReduce add l.length 0 (l.map (fun x => cr (x.getD (.fin false 0 1 0))))
    rne32 (fvAdd .rne acc (fdec fp32 v))) (.fin false 0 1 0)

def mapRow (f : FV → FV) (cells : List (List (Option FV))) : List (List (Option FV)) :=
  cells.map (fun l => l.map (fun x => x.map f))

/-- Present elements of a row, in order. -/
def rowPresent (cells : List (List (Option FV))) : List FV := cells.flatten.filterMap id

/-- ROWSM: the exact values that OUT rounds. -/
def rowSoftmax (base2 : Bool) (cells : List (List (Option FV))) : List (List (Option FV)) :=
  let xs := rowPresent cells
  let m := fdec fp32 (xs.foldl (fun a x => fminBits fp32 true a (cr x)) (infCode fp32 true false))
  let wild := xs.any FV.isNan || (match m with
    | .inf _ => true
    | _ => false)
  if wild then mapRow (fun _ => .nan) cells
  else
    let d := mapRow (fun x => rne32 (fvAdd .rne x m.neg)) cells
    let e := mapRow (fun v => fdec fp32 (if base2 then fnExp2 cr v else fnExpNeg cr v)) d
    let s := rowSum e
    mapRow (fun v => fvDiv v s) e

/-- eps of MOD [5:0]. -/
def rowEps (k : Nat) : FV := if k = 0 then .fin false 0 1 0 else .fin false 1 1 (-(k : Int))

/-- LNORM (`centre`) and RMSN. -/
def rowNorm (centre : Bool) (k : Nat) (cells : List (List (Option FV))) : List (List (Option FV)) :=
  let len := intFV (rowPresent cells).length
  let mu := rne32 (fvDiv (rowSum cells) len)
  let c := if centre then mapRow (fun x => rne32 (fvAdd .rne x mu.neg)) cells else cells
  let v := rne32 (fvDiv (rowSum (mapRow (fun x => rne32 (fvMul x x)) c)) len)
  let r := fdec fp32 (fnRsqrt cr (rne32 (fvAdd .rne v (rowEps k))))
  mapRow (fun x => fvMul x r) c

/-- Whether a row operation takes a modifier (R390). DEDUCED: notes/assumptions/49. -/
def rowModOk (cop mod : Nat) : Bool := if cop = 0x188 then decide (mod < 2) else decide (mod < 64)

def rowValues (cop mod : Nat) (cells : List (List (Option FV))) : List (List (Option FV)) :=
  if cop = 0x188 then rowSoftmax (mod == 1) cells else rowNorm (cop == 0x189) mod cells

/-! ## Rows in progress (R388, R389) -/

def rowOf (r : SfRow) (c : Cell) : Bool :=
  r.ctx == c.ctx.toNat && r.col == c.col.toNat && r.cop == c.cop.toNat && r.itag == c.itag.toNat

def State.sfRows (s : State) (cl : Nat) : List SfRow := tget s.eng.rows cl
def State.setRows (s : State) (cl : Nat) (l : List SfRow) : State := s.onEng (fun e => { e with rows := tset e.rows cl l })
def State.putRow (s : State) (cl : Nat) (r : SfRow) : State :=
  s.setRows cl ((s.sfRows cl).filter (fun x => !(x.ctx == r.ctx && x.col == r.col && x.cop == r.cop && x.itag == r.itag)) ++
    [r])
def State.dropRow (s : State) (cl : Nat) (r : SfRow) : State :=
  s.setRows cl ((s.sfRows cl).filter (fun x => !(x.ctx == r.ctx && x.col == r.col && x.cop == r.cop && x.itag == r.itag)))

/-- Cells of 128 bytes that the delay buffer of 64 KiB holds. DEDUCED: notes/assumptions/53. -/
def delayCells : Nat := 512

/-- Present elements of a cell of k elements. -/
def cellCount (c : Cell) (k : Nat) : Nat := ((List.range k).filter (fun j => c.present j)).length

/-- What ends with a row: its cells' operations. -/
def SfRow.prod (r : SfRow) (cl t : Nat) (rt : Route) (lead : Cell) : Prod :=
  { key := engCtx cl sfPort r.ctx, num := r.num, cts := t, cmpl := routeCmpl rt lead r.itag 0
    ends := (r.who, Report.device, 0#24) :: r.cells.map (fun m => (m.who, m.report, m.cell.itag)) }

/-- A row fails with a status: it produces no result, and what is still to come of it is discarded up to its LAST. -/
def State.rowFail (s : State) (cl : Nat) (r : SfRow) (m : MCell) (status : Nat) : State :=
  let lead := (r.cells.headD m).cell
  let rt := s.route cl sfPort r.ctx (lead.aux.toNat / 4096)
  let t := s.startStamp (engCtx cl sfPort r.ctx) (r.cells.foldl (fun n x => max n x.stamp) m.stamp)
  let s1 := (s.dropRow cl r).postReport cl r.ctx status 2 r.itag
  let s2 := s1.endNow cl (16 + sfPort) m (({ r with cells := r.cells ++ [m] } : SfRow).prod cl t rt lead)
  if m.cell.last then s2 else s2.putRow cl { r with cells := [], dead := true }

/-- The draws of stochastic rounding toward a row's results, which the spec does not state: a free value each. DEDUCED: notes/assumptions/53. -/
def State.rowDraw (s : State) (m : Rnd) : Nat × State :=
  if m = .sr then
    let (v, s1) := s.freshFree
    (v.toNat % 2 ^ 32, s1)
  else (0, s)

/-- One result lane after another. DEDUCED: notes/assumptions/53. -/
def State.rowLanes (s : State) (f : FFmt) (m : Rnd) : List (Option FV) → Lanes × State
  | [] => ([], s)
  | o :: rest =>
    let (u, s1) := if o.isSome then s.rowDraw m else (0, s)
    let (ls, s2) := s1.rowLanes f m rest
    (o.map (fun v => fround f m false u v) :: ls, s2)

/-- The row's last cell has come: its results leave in increasing index, one for each of its cells (R389, R390). DEDUCED: notes/assumptions/53. -/
def State.rowFinish (s : State) (cl : Nat) (r : SfRow) : State :=
  let m := r.cells.headD {}
  let lead := m.cell
  let job := m.who.job
  let rt := s.route cl sfPort r.ctx (lead.aux.toNat / 4096)
  let mod := lead.cnt.toNat
  let last := (r.cells.getLast?).getD {}
  let src := floatOf ((s.cellFmt job lead.tid.toNat).getD (.flt fp32))
  let wrong := if !rowModOk r.cop mod then 0x90 else s.sfRouteBad job rt
  if wrong != 0 then s.rowFail cl { r with cells := r.cells.dropLast } last wrong
  else
    let dst := floatOf ((s.cellFmt job rt.tid).getD (.flt fp32))
    let k := 1024 / src.width
    let t := s.startStamp (engCtx cl sfPort r.ctx) (r.cells.foldl (fun n x => max n x.stamp) 0)
    let xs := r.cells.map (fun x => (List.range k).map (fun j =>
      if x.cell.present j then some (fdec src (x.cell.elem src.width j)) else none))
    let ys := rowValues r.cop mod xs
    let cells := (r.cells.zip ys).foldl (fun (acc : List Cell × State) x =>
      let (ls, st) := acc.2.rowLanes dst ((rndOf rt.rnd).getD .rne) x.2
      let c := routeCell rt { lead with aux := x.1.cell.aux } r.itag 0 x.1.cell.last dst.width ls (ls.any Option.isNone)
      (acc.1 ++ [c], st)) ([], s)
    if !(cells.1.all (fun c => s.cellOk cl job c)) || decide (k * dst.width > 1024)
    then s.rowFail cl { r with cells := r.cells.dropLast } last 0x90
    else
      let n := cells.1.length
      (List.range n).foldl (fun st i =>
        st.sendOut cl (16 + sfPort) {
          cell := cells.1.getD i {}, stamp := t, agent := m.agent, who := m.who, report := .engine
          prod := if i + 1 = n then some (r.prod cl t rt lead) else none }) (cells.2.dropRow cl r)

/-- The oldest delivered cell of a row operation joins its row (R388). DEDUCED: notes/assumptions/53. -/
def State.rowStep (s : State) (cl cop : Nat) : State :=
  match s.takeInbox cl sfPort cop with
  | none => s
  | some (m, s1) =>
    let c := m.cell
    let index := c.aux.toNat % 4096
    let old := (s.sfRows cl).find? (fun r => rowOf r c)
    let fmt := s.cellFmt m.who.job c.tid.toNat
    let opened : SfRow × State :=
      match old with
      | some r => (r, s1)
      | none =>
        let (num, s2) := s1.timeStart (engCtx cl sfPort c.ctx.toNat)
        ({ ctx := c.ctx.toNat, col := c.col.toNat, cop := cop, itag := c.itag.toNat, num := num, who := m.who },
         s2.countUp m.who)
    if c.pos != 0 || c.run != 0 then s1.cellEnd cl m 0x90 m.stamp
    else if (old.map (fun r => r.dead)).getD false then
      let s2 := s1.cellEnd cl m 0 m.stamp
      if c.last then s2.dropRow cl opened.1 else s2
    else match fmt with
      | none => opened.2.rowFail cl opened.1 m 0x91
      | some f =>
        let r := opened.1
        let k := 1024 / f.bits
        let count := (r.cells.map (fun x => cellCount x.cell k)).foldl (· + ·) (cellCount c k)
        let same := r.cells.all (fun x => s.cellFmt x.who.job x.cell.tid.toNat == some f)
        let stall := if old.isSome || c.last then some 0
          else if m.stall != 0 then some m.stall else s.takeStall cl sfPort m.who c.itag.toNat 1
        if !sfFmt f || !same then opened.2.rowFail cl r m 0x98
        else if index != r.cells.length then opened.2.rowFail cl r m 0x51
        else if index ≥ 8192 / k || count > 8192 then opened.2.rowFail cl r m 0x50
        else if ((s.sfRows cl).map (fun x => x.cells.length)).foldl (· + ·) 0 ≥ delayCells then s
        else match stall with
          | none => s.countShort cl sfPort m.age
          | some z =>
            let r1 : SfRow := { r with cells := r.cells ++ [{ m with stall := z }] }
            if !c.last then (opened.2.putRow cl r1).clearShort cl sfPort m.age
            else if s.resultWaits cl sfPort then s
            else (opened.2.putRow cl r1).rowFinish cl r1

/-- ROWSM (R388 to R390). -/
def execRowsm (cl : Nat) (s : State) : Res := .next (s.rowStep cl 0x188)
/-- LNORM (R388 to R390). -/
def execLnorm (cl : Nat) (s : State) : Res := .next (s.rowStep cl 0x189)
/-- RMSN (R388 to R390). -/
def execRmsn (cl : Nat) (s : State) : Res := .next (s.rowStep cl 0x18A)

end Sys2Proof.Machine
end

