-- ==== Sys2Proof/Machine/Ucie.lean ====
section
/-! DEFINITION. Machine/Ucie.lean: what arrives at a die over its modules: replay, retrains, the windows of remote combining cells, and
the other flits (spec/21 R426 to R430, spec/22 R445 to R448). -/

namespace Sys2Proof.Machine

/-! ## Acknowledgements (R427, R428) -/

/-- SEQ a is at or before SEQ b, modulo 256. -/
def ucUpTo (a b : Nat) : Bool := decide ((b + (256 - a % 256)) % 256 < 128)

/-- Both ends of a module change alike. -/
def State.modUcBoth (s : State) (die m : Nat) (f : UcMod → UcMod) : State :=
  let (d, k) := ucFar die m
  (s.modUc die m f).modUc d k f

/-- An ACK that the far end can have sent: of a flit that it has taken. -/
def ackKnown (far : UcMod) (f : Flit) : Bool :=
  ucAv f && (match far.rxLast with
    | none => false
    | some r => ucUpTo (ucAck f) r)

/-- A header's ACK and NAK reach the sender at this end: what is acknowledged leaves its replay buffer; a NAK has the rest
replayed, which is one retry. DEDUCED: notes/assumptions/84. -/
def State.ucHeard (s : State) (die m : Nat) (f : Flit) : State :=
  let (d, k) := ucFar die m
  let far := s.ucMod d k
  let nak := ucNak f && far.nakked
  let s1 := s.modUc die m (fun x => { x with
    replay := if ackKnown far f then x.replay.filter (fun y => !ucUpTo (ucSeq y) (ucAck f)) else x.replay
    retry := if nak then x.retry + 1 else x.retry })
  (if nak then s1.modUc d k (fun x => { x with nakked := false }) else s1).pumpUc die m

/-! ## A failing CRC (R428, R429) -/

/-- A flit that fails its CRC is discarded and counted. Behind a NAK that is still on its way nothing more follows;
otherwise the failure asks for a replay, or for a retrain where that would be the RETRAIN_LIM-th retry within the window.
Time is no part of the state: a free value says how many of the retries still lie within the window. DEDUCED: notes/assumptions/84. -/
def State.ucCrc (s : State) (die m : Nat) : State :=
  let root := if die < 4 then s.partOf die else 0
  let s1 := (s.bumpCrc root).errRecord root 3 6 63 m 0 0
  let u := s.ucMod die m
  if u.nakked then s1
  else
    let (v, s2) := s1.freshFree
    let n := v.toNat % (u.retries + 1)
    if n + 1 ≥ u.lim then (s2.modUcBoth die m (fun x => { x with retries := n })).ucRetrain die m false
    else (s2.modUcBoth die m (fun x => { x with retries := n + 1 })).modUc die m (fun x => { x with nakked := true })

/-! ## Windows (R430, R446) -/

def ucWinKey (die rk p d : Nat) : Nat := ((die * 4 + rk) * 64 + p) * 64 + d

/-- A window takes a number: none where it drops it. DEDUCED: notes/assumptions/84. -/
def Window.take (w : Window) (n : Nat) : Option Window :=
  let d := (n + (65536 - w.h % 65536)) % 65536
  let i := (w.h + (65535 - n % 65536)) % 65536
  if 1 ≤ d ∧ d ≤ 32767 then
    some { h := n, bits := BitVec.ofNat 64 (w.bits.toNat * 2 ^ d + 2 ^ (d - 1)) }
  else if i < 64 ∧ !w.bits.getLsbD i then some { w with bits := w.bits ||| (1#64 <<< i) }
  else none

def State.winTake (s : State) (key n : Nat) : Option State :=
  match (tget s.lnk.wins key).take n with
  | none => none
  | some w => some (s.onLnk (fun l => { l with wins := tset l.wins key w }))

def State.ucDrop (s : State) (die m : Nat) : State := s.modUc die m (fun x => { x with drop := x.drop + 1 })

/-! ## Taking a flit in SEQ order (R428) -/

/-- The next SEQ that an end takes. -/
def UcMod.expects (u : UcMod) : Nat := match u.rxLast with
  | none => 0
  | some r => (r + 1) % 256

/-- The far end has the flit in its replay buffer. DEDUCED: notes/assumptions/84. -/
def State.ucHas (s : State) (die m : Nat) (f : Flit) : Bool :=
  let (d, k) := ucFar die m
  (s.ucMod d k).replay.contains f

/-- The far end sends a flit of its die at the moment it arrives: everything it has sent before has been taken. -/
def State.ucFresh (s : State) (die m : Nat) (f : Flit) : Option State :=
  let (d, k) := ucFar die m
  let u := s.ucMod d k
  if u.out.isEmpty && decide (u.replay.length < 64) && ucSeq f == u.txSeq && u.txSeq == (s.ucMod die m).expects then
    some (s.modUc d k (fun x => { x with txSeq := (x.txSeq + 1) % 256, replay := x.replay ++ [f] }))
  else none

/-- A flit of a type arrives at an end of a module that is up. `act`: what becomes of one taken in order; none: it stays
with the far end. A type that is reserved is discarded and counted. `own`: the far end's die may send it now. DEDUCED: notes/assumptions/84. -/
def State.ucRecv (s : State) (die m typ : Nat) (f : Flit) (own : Bool) (act : State → Option State) : State :=
  let u := s.ucMod die m
  if u.state ≥ 2 then s
  else if !ucCrcOk f then s.ucCrc die m
  else if ucType f != typ && ucType f != 7 then s
  else
    let base := if s.ucHas die m f then some s else if own || ucType f = 7 then s.ucFresh die m f else none
    match base with
    | none => s
    | some s0 =>
      if ucSeq f != u.expects then s
      else
        let s1 := (s0.ucHeard die m f).modUc die m (fun x => { x with rxLast := some (ucSeq f), nakked := false })
        if ucType f = 7 then s1.ucDrop die m else (act s1).getD s

/-! ## Cells (R426, R430) -/

/-- The cell that a CELL flit brings from the far end: none, where it has been delivered before or taken away. -/
def State.ucTakeCell (s : State) (die m : Nat) (f : Flit) : Option MCell × State :=
  let (d, k) := ucFar die m
  match takeFirst (fun (x : MCell) => x.cell == ucCell f && x.stamp % 2 ^ 48 == ucStamp f && x.rk == ucRk f && x.rseq == ucRseq f)
    (s.ucMod d k).cells with
  | none => (none, s)
  | some (x, rest) => (some x, s.modUc d k (fun y => { y with cells := rest }))

/-- A cell goes on: into its cluster, or over the next module. -/
def State.ucOnward (s : State) (die : Nat) (f : Flit) (x : MCell) : Option State :=
  let dst := x.cell.dcl.toNat
  if clusterQuarter dst = die then some (s.onLnk (fun l => { l with mesh := tmod l.mesh dst (fun y => y ++ [x]) }))
  else s.sendHop die (clusterQuarter dst) (ucPcl f) x

/-- A CELL flit taken in order. One of a remote combining request or reply passes its window, or is dropped and counted; any
other one that has been delivered is not delivered again. -/
def State.ucCellIn (s : State) (die m : Nat) (f : Flit) : Option State :=
  let rk := ucRk f
  let (o, s1) := s.ucTakeCell die m f
  let go (st : State) : Option State := match o with
    | none => some st
    | some x => st.ucOnward die f x
  if rk = 0 then go s1
  else if rk = 3 then some (s.ucDrop die m)
  else match s1.winTake (ucWinKey die rk (ucPcl f) (ucCell f).dcl.toNat) (ucRseq f) with
    | none => some (s.ucDrop die m)
    | some s2 => go s2

/-- UCIE_CELL (R426 to R430). -/
def execUcieCell (die modl : Nat) (flit : BitVec 2048) (s : State) : Res :=
  .next (s.ucRecv die modl 1 flit false (fun st => st.ucCellIn die modl flit))

/-- UCIE_CTRL (R427, R428): ACK and NAK. -/
def execUcieCtrl (die modl : Nat) (flit : BitVec 2048) (s : State) : Res :=
  .next (if (s.ucMod die modl).state ≥ 2 then s
    else if !ucCrcOk flit then s.ucCrc die modl
    else if ucType flit != 0 then s
    else s.ucHeard die modl flit)

/-! ## Memory, translation, registers, time (R446) -/

def ucWord (f : Flit) (i : Nat) : Nat := flitWord f i

/-- A request or response tag of a pair of dies: duplicates are dropped and counted. -/
def State.ucTag (s : State) (die m rk tag : Nat) (act : State → State) : State :=
  match s.winTake (ucWinKey die rk (ucFar die m).1 0) tag with
  | none => s.ucDrop die m
  | some s1 => act s1

/-- MREQ: the access at its home, and the MRSP that answers it. A probe or a repair meets the copy of one of the die's
stacks, which the flit does not name: a free value does. How MRSP packs WTS and RTS into one word is not given either: the
word is free. DEDUCED: notes/assumptions/84; DESIGN CHOICE: notes/assumptions/85. -/
def State.ucMreq (s : State) (die m : Nat) (f : Flit) : State :=
  let root := if die < 4 then s.partOf die else 0
  let pa := ucWord f 0 % 2 ^ 52
  let p := ucWord f 1 / 65536
  let wid := ucWord f 1 % 65536
  let op := ucWord f 2 % 16
  let n := min 64 (bits (ucWord f 2) 8 8)
  let tag := bits (ucWord f 2) 16 16
  let data := flitBytes f 24 64
  let k := min n (64 - pa % 64)
  let (v, s0) := s.freshFree
  let stack := 3 * (die % 4) + v.toNat % 3
  let c := s0.majCopy root stack (cellAddr pa)
  let home : Place := .home (s0.physHome root pa)
  let (status, bs, s1) : Nat × List Byte × State := match op with
    | 0 => match s0.engRead root home k p with
      | .error e => (causeStatus e, [], s0)
      | .ok (x, _, st) => (0, leBytes k x, st)
    | 1 => match s0.engWrite root home k (leNat (data.take k)) p wid with
      | .error e => (causeStatus e, [], s0)
      | .ok (_, st) => (0, [], st)
    | 2 => (if c.poison then 0x80 else 0, leBytes 64 c.img.toNat, s0)
    | 3 => (0, [], s0.setCopy stack (cellAddr pa) (copyTakesRepair c p wid (BitVec.ofNat 512 (leNat data))))
    | _ => (0, [], s0)
  let (w, s2) := s1.freshFree
  if op > 3 then s1.ucDrop die m
  else s2.sendUc die m (mkUcFlit 3 0 0 0
    (bodyWords [tag + status % 256 * 2 ^ 56, w.toNat] + at' 128 (leNat bs))) none

/-- UCIE_MREQ (R446). -/
def execUcieMreq (die modl : Nat) (flit : BitVec 2048) (s : State) : Res :=
  .next (s.ucRecv die modl 2 flit true (fun st =>
    some (st.ucTag die modl 0 (bits (ucWord flit 2) 16 16) (fun u => u.ucMreq die modl flit))))

/-- UCIE_MRSP (R446): a response ends its request, whose access the step that made it has performed. -/
def execUcieMrsp (die modl : Nat) (flit : BitVec 2048) (s : State) : Res :=
  .next (s.ucRecv die modl 3 flit true (fun st => some (st.ucTag die modl 3 (ucWord flit 0 % 65536) (fun u => u))))

/-- A shoot-down reaches a die (R446, R455): its caches drop what the tokens name, laid out as TLBI's, with the form after
them. DEDUCED: notes/assumptions/84. -/
def State.ucXlat (s : State) (die : Nat) (f : Flit) : State :=
  let r := BitVec.ofNat 64 (ucWord f 1)
  let form := ucWord f 2 % 8192
  let hit (e : TlbEntry) : Bool := form == 2 || (e.asid == wbits r 52 12 && (form == 1 ||
    decide (e.base * 2 ^ e.bits < ucWord f 0 % 2 ^ 57 + 65536 * wbits r 0 41 ∧ ucWord f 0 % 2 ^ 57 < (e.base + 1) * 2 ^ e.bits)))
  s.onAcc (fun a => { a with tlb := a.tlb.map (fun e => if e.1 = die then (e.1, e.2.filter (fun x => !hit x)) else e) })

/-- UCIE_XLAT (R446, R455). -/
def execUcieXlat (die modl : Nat) (flit : BitVec 2048) (s : State) : Res :=
  .next (s.ucRecv die modl 4 flit true (fun st => some (st.ucXlat die flit)))

/-- UCIE_SYS (R446, R457): the flit of an SRD or SWR, whose access the step of the instruction makes; it does not say which
of the two it is, nor the selector. -/
def execUcieSys (die modl : Nat) (flit : BitVec 2048) (s : State) : Res :=
  .next (s.ucRecv die modl 5 flit true (fun st => some st))

/-- UCIE_TIME (R300, R301, R446): the flit of a rebase step or liveness tick, each of which is a step of its own; it has no
stated body. -/
def execUcieTime (die modl : Nat) (flit : BitVec 2048) (s : State) : Res :=
  .next (s.ucRecv die modl 6 flit true (fun st => some st))

/-! ## Training (R429, R447, R448) -/

/-- An end starts anew: SEQ from 0, its whole replay buffer before anything new. -/
def UcMod.restart (u : UcMod) : UcMod :=
  let fs := (List.range u.replay.length).map (fun i => finishUc (u.replay.getD i 0) i none)
  { u with replay := fs, txSeq := fs.length % 256, rxLast := none, nakked := false }

/-- Training ends at ×64, at ×32 on the half that passes, or fails; a new degradation and a failure are recorded. DEDUCED: notes/assumptions/84. -/
def State.ucTrained (s : State) (die m : Nat) (lo hi : Bool) (repaired : Nat) : State :=
  let u := s.ucMod die m
  if u.state != 2 then s
  else
    let root := if die < 4 then s.partOf die else 0
    let (d, k) := ucFar die m
    if !lo && !hi then
      (s.modUcBoth die m (fun x => { x with state := 3, repaired := repaired % 256 })).errRecord root 8 6 63 m 0 0
    else
      let full := lo && hi && u.try64
      let half := if full then 0 else if lo && hi then u.half else if lo then 0 else 1
      let s1 := s.modUcBoth die m (fun x =>
        { x.restart with state := if full then 0 else 1, half := half, wide := full, repaired := repaired % 256 })
      let s2 := if u.wide && !full then s1.errRecord root 7 6 63 m 0 0 else s1
      (s2.pumpUc die m).pumpUc d k

/-- UCIE_RETRAIN_DONE (R429, R433, R447). DESIGN CHOICE: notes/assumptions/11. -/
def execUcieRetrainDone (die modl : Nat) (lo hi : Bool) (repaired : Nat) (s : State) : Res :=
  .next (s.ucTrained die modl lo hi repaired)

/-- UCCMD_RETRAIN (R447, R448): ignored while the module is training. -/
def execUccmdRetrain (die modl : Nat) (s : State) : Res := .next (s.ucRetrain die modl true)

end Sys2Proof.Machine
end

