-- ==== Sys2Proof/Machine/Window.lean ====
section
/-! DEFINITION. Machine/Window.lean: the window of live tags, drain tokens and the return of a graph's nodes (spec/02 R47, R48,
spec/09 R204, spec/15 R320, spec/16 R336, spec/18 R375). -/

namespace Sys2Proof.Machine

def ownedBy (job g : Nat) (w : Owner) : Bool := w.job == job && w.graph == g

/-- Whether the n tags from a hold tag t. -/
def spans (t a n : Nat) : Bool := decide ((t + (2 ^ 24 - a % 2 ^ 24)) % 2 ^ 24 < n)

/-- A graph's work in queues, stalls and engines: each item's cell, or the tag of an operation, as first tag and count. -/
def State.graphHolds (s : State) (job g : Nat) (cell : MCell → Bool) : List (Nat × Nat) :=
  let mine (m : MCell) : Bool := ownedBy job g m.who && cell m
  let whole (m : MCell) : Nat × Nat := (m.cell.itag.toNat, m.cell.run.toNat + 1)
  let bare := s.onEng (fun e => { e with ports := e.ports.map (fun p => (p.1, { p.2 with stalls := [] })) })
  let waiting : List (Nat × Nat) := (s.eng.ports.map (fun p =>
    (p.2.stalls.filter (fun t => mine t.cell)).map (fun t => (t.t0, t.n)))).flatten
  let queued : List (Nat × Nat) := (bare.allCells.filter (fun x => mine x.2)).map (fun x => whole x.2)
  let mats : List (Nat × Nat) := (s.mat.ctxs.map (fun e =>
    (e.2.opn.toList.filter (fun o => ownedBy job g o.who)).map (fun o => (o.tag, 1)) ++
    ((e.2.drainOp.toList.map (fun d => d.2) ++ e.2.saving.toList ++ e.2.loading.toList).filter mine).map whole)).flatten
  let ixs : List (Nat × Nat) := (s.eng.ixjobs.map (fun e =>
    (e.2.filter (fun j => ownedBy job g j.who)).map (fun j => (j.itag.getD 0, if j.itag.isSome then 1 else 0)))).flatten
  let others : List (Nat × Nat) :=
    (((s.acc.xfers.filter (fun e => e.2.used)).map (fun e => e.2.cell) ++
      (s.ken.engines.map (fun e => e.2.jobs.map (fun j => j.1))).flatten ++
      (s.work.graphs.map (fun e => (e.2.colls.map (fun c => c.2.held ++ c.2.top ++ c.2.waits)).flatten)).flatten).filter mine).map whole
  waiting ++ queued ++ mats ++ ixs ++ others

/-- Cells that name a tag: those of the window, and CMPL tokens. -/
def namesTag (m : MCell) : Bool := windowed m || m.cell.cop == 0x3F0

/-- A stall, queued cell or engine operation of the graph holds a tag. -/
def State.tagHeld (s : State) (job g t : Nat) : Bool := (s.graphHolds job g namesTag).any (fun x => spans t x.1 x.2)

/-- No stall and no queued cell of the graph is left, and no tag is live (R48). -/
def State.graphQuiet (s : State) (job g : Nat) : Bool :=
  let x := s.graph job g
  decide (x.adm ≤ x.lo) && (s.graphHolds job g (fun m => !m.cell.cls)).isEmpty

/-- Whether a stream may still send a tag: what it sends next is that tag, or is not known yet. -/
def State.streamMaySend (s : State) (g : Graph) (t : Nat) (e : Nat × Stream) : Bool :=
  match s.streamTag e.1 e.2 with
  | some u => u == t % 2 ^ 24 || g.stale u
  | none => e.2.pers && !e.2.ended

/-- Every source of the graph has gone past tag LO, or has ended. A strand set that has retired lets the streams it leaves
speak for it. DEDUCED: notes/assumptions/64. -/
def State.sourcesPast (s : State) (job g : Nat) : Bool :=
  let x := s.graph job g
  (s.sources job g).all (fun src => decide (tgetD 0 x.srcTop src > x.lo + 1) || s.sourceDone job g src ||
    (decide (src < 65536) && s.setGone job g src)) &&
  !(s.graphStreams job g).any (s.streamMaySend x x.lo)

/-- A graph whose tokens have all drained returns its nodes. DEDUCED: notes/assumptions/64. -/
def State.tryRetire (s : State) (job g : Nat) : State :=
  let x := s.graph job g
  if x.live && x.closedAdm && s.graphQuiet job g &&
     (s.drainAgns job g).all (fun a => x.drained.contains (s.jobAgn job a.1 a.2))
  then s.retireGraph job g else s

/-- Another live graph of the job, with a cluster in common, holds the tag (R47). -/
def State.tagElsewhere (s : State) (job g t : Nat) : Bool :=
  let mine := imageClusters (s.graph job g).img
  s.liveGraphs.any (fun e => e.1 / 65536 == job && e.1 % 65536 != g &&
    (imageClusters e.2.img).any (fun c => mine.contains c) && decide (e.2.ahead t < e.2.adm - e.2.lo))

/-- The loader admits the lowest tag not yet live (R204 steps 1, 2, R375). DEDUCED: notes/assumptions/64. -/
def State.tagAdmit (s : State) (job g : Nat) : State :=
  let x := s.graph job g
  let room := (imageClusters x.img).all (fun cl =>
    (tagDemand x.img cl).all (fun d => decide (d.2 ≤ s.unreserved cl d.1)))
  if x.live && !x.closedAdm && decide (x.adm - x.lo < s.liveEff x) && room && !s.tagElsewhere job g x.adm
  then s.modGraph job g (fun y => { y with adm := y.adm + 1 }) else s

/-- TAG_ADMIT (R204). -/
def execTagAdmit (job graph : Nat) (s : State) : Res := .next (s.tagAdmit job graph)

/-- Tag LO retires (R204 step 4). A graph with no live tag, no work left and no write port to drain returns its nodes. -/
def State.tagRetire (s : State) (job g : Nat) : State :=
  let x := s.graph job g
  if !x.live then s
  else if x.adm ≤ x.lo then s.tryRetire job g
  else if s.tagHeld job g x.lo || !s.sourcesPast job g then s
  else (s.modGraph job g (fun y => { y with lo := y.lo + 1 })).tryRetire job g

/-- TAG_RETIRE (R204). -/
def execTagRetire (job graph : Nat) (s : State) : Res := .next (s.tagRetire job graph)

/-! ## Drain tokens (R48) -/

/-- A write-role AGN returns to the free pool: it flushes, and its member taps send their exit-arrivals (R320, R336). -/
def State.agnReturn (s : State) (job g key : Nat) : State :=
  let s1 := s.flushAll key
  let taps := (s1.tapsOf key).filter (fun x => x.1 == g && !x.2.2.count && !(s1.tap (tapKey job g x.2.1)).exited)
  let s2 := taps.foldl (fun st x =>
    let k := tapKey job g x.2.1
    let t := max (st.tap k).stamp (st.agn key).stamp
    (st.modTap k (fun y => { y with exited := true })).tapSend job g x.2.1 x.2.2 0x292 0 t) s1
  (s2.modGraph job g (fun y => { y with drained := key :: y.drained })).tryRetire job g

/-- A drain token at a port that can act: at a write port one waits until its graph holds no stall, no queued cell and no
live tag; elsewhere it ends at once. -/
def State.drainToken (s : State) (cl e : Nat) : State :=
  let ready (m : MCell) : Bool := m.cell.cop == 0x3F2 &&
    (decide (e < 16) || !(s.graph m.who.job m.who.graph).live || s.graphQuiet m.who.job m.who.graph)
  match takeFirst ready (s.port cl e).inbox with
  | none => s
  | some (m, rest) =>
    let job := m.who.job
    let g := m.who.graph
    let s1 := (s.modPort cl e (fun p => { p with inbox := rest })).cellEnd cl m 0 m.stamp
    if e < 16 || !(s.graph job g).live then s1
    else s1.agnReturn job g (agnKey cl m.cell.ctx.toNat m.cell.aux.toNat)

/-- DRAIN (R48). -/
def execDrain (cl port : Nat) (s : State) : Res := .next (s.drainToken cl port)

end Sys2Proof.Machine
end

