-- ==== Sys2Proof/Machine/Dispatch.lean ====
section
/-! DEFINITION. Machine/Dispatch.lean: one arm per constructor of Instr: a direct call of its meaning, or a rejection by
name. -/

namespace Sys2Proof.Machine

/-- What an instruction does to the state. -/
def exec (i : Instr) (s : State) : Host.Outcome State Fault Refusal :=
  match i with
  | .bro p ex off => Sys2Proof.Machine.execBro p ex off s
  | .bri p ex => Sys2Proof.Machine.execBri p ex s
  | .callo p ex off => Sys2Proof.Machine.execCallo p ex off s
  | .calli p ex => Sys2Proof.Machine.execCalli p ex s
  | .ret p ex => Sys2Proof.Machine.execRet p ex s
  | .scall p ex => Sys2Proof.Machine.execScall p ex s
  | .exit p ex => Sys2Proof.Machine.execExit p ex s
  | .null p ta tb => Sys2Proof.Machine.execNull p ta tb s
  | .mov p ta tb => Sys2Proof.Machine.execMov p ta tb s
  | .sel p ta tb => Sys2Proof.Machine.execSel p ta tb s
  | .getr p g ta => Sys2Proof.Machine.execGetr p g ta s
  | .putr p g => Sys2Proof.Machine.execPutr p g s
  | .const p imm ta => Sys2Proof.Machine.execConst p imm ta s
  | .consth p imm ta => Sys2Proof.Machine.execConsth p imm ta s
  | .add p ta tb => Sys2Proof.Machine.execAdd p ta tb s
  | .sub p ta tb => Sys2Proof.Machine.execSub p ta tb s
  | .mul p ta tb => Sys2Proof.Machine.execMul p ta tb s
  | .mulh p ta tb => Sys2Proof.Machine.execMulh p ta tb s
  | .mulhu p ta tb => Sys2Proof.Machine.execMulhu p ta tb s
  | .div p ta tb => Sys2Proof.Machine.execDiv p ta tb s
  | .divu p ta tb => Sys2Proof.Machine.execDivu p ta tb s
  | .rem p ta tb => Sys2Proof.Machine.execRem p ta tb s
  | .remu p ta tb => Sys2Proof.Machine.execRemu p ta tb s
  | .and p ta tb => Sys2Proof.Machine.execAnd p ta tb s
  | .or p ta tb => Sys2Proof.Machine.execOr p ta tb s
  | .xor p ta tb => Sys2Proof.Machine.execXor p ta tb s
  | .andn p ta tb => Sys2Proof.Machine.execAndn p ta tb s
  | .shl p ta tb => Sys2Proof.Machine.execShl p ta tb s
  | .shr p ta tb => Sys2Proof.Machine.execShr p ta tb s
  | .sar p ta tb => Sys2Proof.Machine.execSar p ta tb s
  | .rotl p ta tb => Sys2Proof.Machine.execRotl p ta tb s
  | .min p ta tb => Sys2Proof.Machine.execMin p ta tb s
  | .max p ta tb => Sys2Proof.Machine.execMax p ta tb s
  | .minu p ta tb => Sys2Proof.Machine.execMinu p ta tb s
  | .maxu p ta tb => Sys2Proof.Machine.execMaxu p ta tb s
  | .abs p ta tb => Sys2Proof.Machine.execAbs p ta tb s
  | .neg p ta tb => Sys2Proof.Machine.execNeg p ta tb s
  | .clz p ta tb => Sys2Proof.Machine.execClz p ta tb s
  | .ctz p ta tb => Sys2Proof.Machine.execCtz p ta tb s
  | .popc p ta tb => Sys2Proof.Machine.execPopc p ta tb s
  | .bfx p ta tb => Sys2Proof.Machine.execBfx p ta tb s
  | .bfi p ta tb => Sys2Proof.Machine.execBfi p ta tb s
  | .sext p wd ta tb => Sys2Proof.Machine.execSext p wd ta tb s
  | .zext p wd ta tb => Sys2Proof.Machine.execZext p wd ta tb s
  | .teq p ta tb => Sys2Proof.Machine.execTeq p ta tb s
  | .tne p ta tb => Sys2Proof.Machine.execTne p ta tb s
  | .tlt p ta tb => Sys2Proof.Machine.execTlt p ta tb s
  | .tle p ta tb => Sys2Proof.Machine.execTle p ta tb s
  | .tltu p ta tb => Sys2Proof.Machine.execTltu p ta tb s
  | .tleu p ta tb => Sys2Proof.Machine.execTleu p ta tb s
  | .tbit p ta tb => Sys2Proof.Machine.execTbit p ta tb s
  | .addi p imm ta => Sys2Proof.Machine.execAddi p imm ta s
  | .muli p imm ta => Sys2Proof.Machine.execMuli p imm ta s
  | .andi p imm ta => Sys2Proof.Machine.execAndi p imm ta s
  | .ori p imm ta => Sys2Proof.Machine.execOri p imm ta s
  | .xori p imm ta => Sys2Proof.Machine.execXori p imm ta s
  | .shli p k ta => Sys2Proof.Machine.execShli p k ta s
  | .shri p k ta => Sys2Proof.Machine.execShri p k ta s
  | .sari p k ta => Sys2Proof.Machine.execSari p k ta s
  | .teqi p imm ta => Sys2Proof.Machine.execTeqi p imm ta s
  | .tnei p imm ta => Sys2Proof.Machine.execTnei p imm ta s
  | .tlti p imm ta => Sys2Proof.Machine.execTlti p imm ta s
  | .tlei p imm ta => Sys2Proof.Machine.execTlei p imm ta s
  | .tltui p imm ta => Sys2Proof.Machine.execTltui p imm ta s
  | .tleui p imm ta => Sys2Proof.Machine.execTleui p imm ta s
  | .bfxi p imm ta => Sys2Proof.Machine.execBfxi p imm ta s
  | .fadd p q r ta tb => Sys2Proof.Machine.execFadd p q r ta tb s
  | .fsub p q r ta tb => Sys2Proof.Machine.execFsub p q r ta tb s
  | .fmul p q r ta tb => Sys2Proof.Machine.execFmul p q r ta tb s
  | .fdiv p q r ta tb => Sys2Proof.Machine.execFdiv p q r ta tb s
  | .fsqrt p q r ta tb => Sys2Proof.Machine.execFsqrt p q r ta tb s
  | .fmin p q ta tb => Sys2Proof.Machine.execFmin p q ta tb s
  | .fmax p q ta tb => Sys2Proof.Machine.execFmax p q ta tb s
  | .fcvtFF p q r ta tb => Sys2Proof.Machine.execFcvtFF p q r ta tb s
  | .fcvtFI p q r ta tb => Sys2Proof.Machine.execFcvtFI p q r ta tb s
  | .fcvtIF p q r ta tb => Sys2Proof.Machine.execFcvtIF p q r ta tb s
  | .fteq p q ta tb => Sys2Proof.Machine.execFteq p q ta tb s
  | .ftlt p q ta tb => Sys2Proof.Machine.execFtlt p q ta tb s
  | .ftle p q ta tb => Sys2Proof.Machine.execFtle p q ta tb s
  | .fclass p q ta tb => Sys2Proof.Machine.execFclass p q ta tb s
  | .ld p lsid ag sz sx ta => Sys2Proof.Machine.execLd p lsid ag sz sx ta s
  | .st p lsid ag sz na => Sys2Proof.Machine.execSt p lsid ag sz na s
  | .pref p lsid ag => Sys2Proof.Machine.execPref p lsid ag s
  | .enq p ag => Sys2Proof.Machine.execEnq p ag s
  | .enqm p ag => Sys2Proof.Machine.execEnqm p ag s
  | .strm p ag tk f => Sys2Proof.Machine.execStrm p ag tk f s
  | .strms p ag tk f => Sys2Proof.Machine.execStrms p ag tk f s
  | .parm p ag => Sys2Proof.Machine.execParm p ag s
  | .rngp p ta => Sys2Proof.Machine.execRngp p ta s
  | .getp p ag ta => Sys2Proof.Machine.execGetp p ag ta s
  | .putp p ag => Sys2Proof.Machine.execPutp p ag s
  | .cpy p ag tk f ta => Sys2Proof.Machine.execCpy p ag tk f ta s
  | .cpyg p ag tk f ta => Sys2Proof.Machine.execCpyg p ag tk f ta s
  | .cpys p ag tk f ta => Sys2Proof.Machine.execCpys p ag tk f ta s
  | .cpyr p ag tk f ta => Sys2Proof.Machine.execCpyr p ag tk f ta s
  | .waitn p ld st cp tl => Sys2Proof.Machine.execWaitn p ld st cp tl s
  | .waitt p eng ctx ta => Sys2Proof.Machine.execWaitt p eng ctx ta s
  | .waita p ag cmp ta => Sys2Proof.Machine.execWaita p ag cmp ta s
  | .waitb p bs ta => Sys2Proof.Machine.execWaitb p bs ta s
  | .tbp p bs ta => Sys2Proof.Machine.execTbp p bs ta s
  | .arv p bs => Sys2Proof.Machine.execArv p bs s
  | .arvx p bs => Sys2Proof.Machine.execArvx p bs s
  | .expt p bs => Sys2Proof.Machine.execExpt p bs s
  | .fence p e s1 => Sys2Proof.Machine.execFence p e s1 s
  | .yield p => Sys2Proof.Machine.execYield p s
  | .tlrd p eng ctx ta => Sys2Proof.Machine.execTlrd p eng ctx ta s
  | .atom p op ag gd => Sys2Proof.Machine.execAtom p op ag gd s
  | .red p op ag => Sys2Proof.Machine.execRed p op ag s
  | .leash p k slot tk ta => Sys2Proof.Machine.execLeash p k slot tk ta s
  | .lrel p slot => Sys2Proof.Machine.execLrel p slot s
  | .lqry p slot ta => Sys2Proof.Machine.execLqry p slot ta s
  | .lpri p slot => Sys2Proof.Machine.execLpri p slot s
  | .launch p ag tk => Sys2Proof.Machine.execLaunch p ag tk s
  | .qclaim p ta => Sys2Proof.Machine.execQclaim p ta s
  | .qpub p => Sys2Proof.Machine.execQpub p s
  | .cntr p => Sys2Proof.Machine.execCntr p s
  | .cancel p lev => Sys2Proof.Machine.execCancel p lev s
  | .cfgl p n => Sys2Proof.Machine.execCfgl p n s
  | .cfgt p => Sys2Proof.Machine.execCfgt p s
  | .srd p sys ta => Sys2Proof.Machine.execSrd p sys ta s
  | .swr p sys => Sys2Proof.Machine.execSwr p sys s
  | .tlbi p form ta => Sys2Proof.Machine.execTlbi p form ta s
  | .ctxs p => Sys2Proof.Machine.execCtxs p s
  | .ctxr p => Sys2Proof.Machine.execCtxr p s
  | .eret p skip => Sys2Proof.Machine.execEret p skip s
  | .trap p c => Sys2Proof.Machine.execTrap p c s
  | .pwrq p q ta => Sys2Proof.Machine.execPwrq p q ta s
  | .wr cl port => Sys2Proof.Machine.execWr cl port s
  | .wrm cl port => Sys2Proof.Machine.execWrm cl port s
  | .wacc cl port => Sys2Proof.Machine.execWacc cl port s
  | .mldb cl me => Sys2Proof.Machine.execMldb cl me s
  | .mma cl me bad => Sys2Proof.Machine.execMma cl me bad s
  | .mgth cl me bad => Sys2Proof.Machine.execMgth cl me bad s
  | .mcsr cl me bad => Sys2Proof.Machine.execMcsr cl me bad s
  | .mbsr cl me bad => Sys2Proof.Machine.execMbsr cl me bad s
  | .mzero cl me => Sys2Proof.Machine.execMzero cl me s
  | .mdrn cl me => Sys2Proof.Machine.execMdrn cl me s
  | .mchk cl me bad => Sys2Proof.Machine.execMchk cl me bad s
  | .msave cl me => Sys2Proof.Machine.execMsave cl me s
  | .mload cl me => Sys2Proof.Machine.execMload cl me s
  | .vadd cl ve => Sys2Proof.Machine.execVadd cl ve s
  | .vsub cl ve => Sys2Proof.Machine.execVsub cl ve s
  | .vmul cl ve => Sys2Proof.Machine.execVmul cl ve s
  | .vfadd cl ve => Sys2Proof.Machine.execVfadd cl ve s
  | .vfsub cl ve => Sys2Proof.Machine.execVfsub cl ve s
  | .vfmul cl ve => Sys2Proof.Machine.execVfmul cl ve s
  | .vfma cl ve => Sys2Proof.Machine.execVfma cl ve s
  | .vmin cl ve => Sys2Proof.Machine.execVmin cl ve s
  | .vmax cl ve => Sys2Proof.Machine.execVmax cl ve s
  | .vfmin cl ve => Sys2Proof.Machine.execVfmin cl ve s
  | .vfmax cl ve => Sys2Proof.Machine.execVfmax cl ve s
  | .vabs cl ve => Sys2Proof.Machine.execVabs cl ve s
  | .vfabs cl ve => Sys2Proof.Machine.execVfabs cl ve s
  | .vcmp cl ve => Sys2Proof.Machine.execVcmp cl ve s
  | .vfcmp cl ve => Sys2Proof.Machine.execVfcmp cl ve s
  | .vsel cl ve => Sys2Proof.Machine.execVsel cl ve s
  | .vcvt cl ve => Sys2Proof.Machine.execVcvt cl ve s
  | .vshl cl ve => Sys2Proof.Machine.execVshl cl ve s
  | .vshr cl ve => Sys2Proof.Machine.execVshr cl ve s
  | .vsar cl ve => Sys2Proof.Machine.execVsar cl ve s
  | .vand cl ve => Sys2Proof.Machine.execVand cl ve s
  | .vor cl ve => Sys2Proof.Machine.execVor cl ve s
  | .vxor cl ve => Sys2Proof.Machine.execVxor cl ve s
  | .vrred cl ve => Sys2Proof.Machine.execVrred cl ve s
  | .vsred cl ve => Sys2Proof.Machine.execVsred cl ve s
  | .vscan cl ve => Sys2Proof.Machine.execVscan cl ve s
  | .vgth cl ve => Sys2Proof.Machine.execVgth cl ve s
  | .vscat cl ve => Sys2Proof.Machine.execVscat cl ve s
  | .vscatc cl ve => Sys2Proof.Machine.execVscatc cl ve s
  | .vperm cl ve => Sys2Proof.Machine.execVperm cl ve s
  | .vbcst cl ve => Sys2Proof.Machine.execVbcst cl ve s
  | .sexp2 cl => Sys2Proof.Machine.execSexp2 cl s
  | .slog2 cl => Sys2Proof.Machine.execSlog2 cl s
  | .srcp cl => Sys2Proof.Machine.execSrcp cl s
  | .srsq cl => Sys2Proof.Machine.execSrsq cl s
  | .stanh cl => Sys2Proof.Machine.execStanh cl s
  | .ssin cl => Sys2Proof.Machine.execSsin cl s
  | .scos cl => Sys2Proof.Machine.execScos cl s
  | .sgelu cl => Sys2Proof.Machine.execSgelu cl s
  | .rowsm cl => Sys2Proof.Machine.execRowsm cl s
  | .lnorm cl => Sys2Proof.Machine.execLnorm cl s
  | .rmsn cl => Sys2Proof.Machine.execRmsn cl s
  | .xint cl => Sys2Proof.Machine.execXint cl s
  | .xuni cl => Sys2Proof.Machine.execXuni cl s
  | .xdif cl => Sys2Proof.Machine.execXdif cl s
  | .xmrg cl => Sys2Proof.Machine.execXmrg cl s
  | .xcnt cl => Sys2Proof.Machine.execXcnt cl s
  | .cadd cl => Sys2Proof.Machine.execCadd cl s
  | .cfadd cl => Sys2Proof.Machine.execCfadd cl s
  | .cmax cl => Sys2Proof.Machine.execCmax cl s
  | .cmin cl => Sys2Proof.Machine.execCmin cl s
  | .cand cl => Sys2Proof.Machine.execCand cl s
  | .cor cl => Sys2Proof.Machine.execCor cl s
  | .cxor cl => Sys2Proof.Machine.execCxor cl s
  | .cxch cl => Sys2Proof.Machine.execCxch cl s
  | .ccas cl => Sys2Proof.Machine.execCcas cl s
  | .cfaa cl => Sys2Proof.Machine.execCfaa cl s
  | .resc cl => Sys2Proof.Machine.execResc cl s
  | .barv cl => Sys2Proof.Machine.execBarv cl s
  | .barx cl => Sys2Proof.Machine.execBarx cl s
  | .bexa cl => Sys2Proof.Machine.execBexa cl s
  | .bkil cl => Sys2Proof.Machine.execBkil cl s
  | .bexp cl => Sys2Proof.Machine.execBexp cl s
  | .xrd cl xf => Sys2Proof.Machine.execXrd cl xf s
  | .xwr cl xf => Sys2Proof.Machine.execXwr cl xf s
  | .xrrd cl xf => Sys2Proof.Machine.execXrrd cl xf s
  | .xrwr cl xf => Sys2Proof.Machine.execXrwr cl xf s
  | .xprd cl xf => Sys2Proof.Machine.execXprd cl xf s
  | .xpwr cl xf => Sys2Proof.Machine.execXpwr cl xf s
  | .xnet cl xf => Sys2Proof.Machine.execXnet cl xf s
  | .kjob cl => Sys2Proof.Machine.execKjob cl s
  | .kqry cl => Sys2Proof.Machine.execKqry cl s
  | .csend cl => Sys2Proof.Machine.execCsend cl s
  | .crecv cl => Sys2Proof.Machine.execCrecv cl s
  | .cred cl => Sys2Proof.Machine.execCred cl s
  | .cbcst cl => Sys2Proof.Machine.execCbcst cl s
  | .cmpl cl port => Sys2Proof.Machine.execCmpl cl port s
  | .rcll cl port => Sys2Proof.Machine.execRcll cl port s
  | .drain cl port => Sys2Proof.Machine.execDrain cl port s
  | .abrt cl port => Sys2Proof.Machine.execAbrt cl port s
  | .frameTurn core => Sys2Proof.Machine.execFrameTurn core s
  | .blockCommit core frame => Sys2Proof.Machine.execBlockCommit core frame s
  | .trapTake sid => Sys2Proof.Machine.execTrapTake sid s
  | .loadReturn core frame slot => Sys2Proof.Machine.execLoadReturn core frame slot s
  | .storeAck sid => Sys2Proof.Machine.execStoreAck sid s
  | .releaseTakeEffect sid => Sys2Proof.Machine.execReleaseTakeEffect sid s
  | .livenessTick core => Sys2Proof.Machine.execLivenessTick core s
  | .waitConditionMet core frame slot => Sys2Proof.Machine.execWaitConditionMet core frame slot s
  | .atomReply sid => Sys2Proof.Machine.execAtomReply sid s
  | .blockFetchReturn sid addr => Sys2Proof.Machine.execBlockFetchReturn sid addr s
  | .launchPick q => Sys2Proof.Machine.execLaunchPick q s
  | .launchAged q queue => Sys2Proof.Machine.execLaunchAged q queue s
  | .packStart launch places => Sys2Proof.Machine.execPackStart launch places s
  | .graphBind launch img => Sys2Proof.Machine.execGraphBind launch img s
  | .rangeClaim c => Sys2Proof.Machine.execRangeClaim c s
  | .tagAdmit job graph => Sys2Proof.Machine.execTagAdmit job graph s
  | .tagRetire job graph => Sys2Proof.Machine.execTagRetire job graph s
  | .jobCreate job weight => Sys2Proof.Machine.execJobCreate job weight s
  | .jobClose job cctr => Sys2Proof.Machine.execJobClose job cctr s
  | .jobWeight job weight => Sys2Proof.Machine.execJobWeight job weight s
  | .cellAdmit src => Sys2Proof.Machine.execCellAdmit src s
  | .auction cl => Sys2Proof.Machine.execAuction cl s
  | .headAged cl queue => Sys2Proof.Machine.execHeadAged cl queue s
  | .cellCross cl => Sys2Proof.Machine.execCellCross cl s
  | .egressDrain cl port => Sys2Proof.Machine.execEgressDrain cl port s
  | .purge cl ctx col => Sys2Proof.Machine.execPurge cl ctx col s
  | .agnFlush key line => Sys2Proof.Machine.execAgnFlush key line s
  | .mdrnComplete cl me ctx => Sys2Proof.Machine.execMdrnComplete cl me ctx s
  | .msaveComplete cl me ctx => Sys2Proof.Machine.execMsaveComplete cl me ctx s
  | .mloadComplete cl me ctx => Sys2Proof.Machine.execMloadComplete cl me ctx s
  | .exptReserve core frame slot => Sys2Proof.Machine.execExptReserve core frame slot s
  | .transferComplete cl xf op => Sys2Proof.Machine.execTransferComplete cl xf op s
  | .kennelJobComplete q eng => Sys2Proof.Machine.execKennelJobComplete q eng s
  | .collPlace job graph coll others => Sys2Proof.Machine.execCollPlace job graph coll others s
  | .homeRead core frame slot => Sys2Proof.Machine.execHomeRead core frame slot s
  | .homeWrite sid => Sys2Proof.Machine.execHomeWrite sid s
  | .copyProbe op copy => Sys2Proof.Machine.execCopyProbe op copy s
  | .copyWrite op copy => Sys2Proof.Machine.execCopyWrite op copy s
  | .copyRead op copy => Sys2Proof.Machine.execCopyRead op copy s
  | .copyRepair op copy => Sys2Proof.Machine.execCopyRepair op copy s
  | .majAnswer op copy => Sys2Proof.Machine.execMajAnswer op copy s
  | .houndVisit q => Sys2Proof.Machine.execHoundVisit q s
  | .rebase part => Sys2Proof.Machine.execRebase part s
  | .rebaseWalkerDone part => Sys2Proof.Machine.execRebaseWalkerDone part s
  | .streamCell key => Sys2Proof.Machine.execStreamCell key s
  | .copyComplete cl op => Sys2Proof.Machine.execCopyComplete cl op s
  | .pageWalkDone q walk => Sys2Proof.Machine.execPageWalkDone q walk s
  | .fresumeRetry job tag => Sys2Proof.Machine.execFresumeRetry job tag s
  | .fresumeAbort job tag => Sys2Proof.Machine.execFresumeAbort job tag s
  | .preemptRequest job clusters => Sys2Proof.Machine.execPreemptRequest job clusters s
  | .handlerStart sid => Sys2Proof.Machine.execHandlerStart sid s
  | .jobRestore job => Sys2Proof.Machine.execJobRestore job s
  | .leaseServe q => Sys2Proof.Machine.execLeaseServe q s
  | .leaseWakeDone q eng => Sys2Proof.Machine.execLeaseWakeDone q eng s
  | .graceExpire q eng => Sys2Proof.Machine.execGraceExpire q eng s
  | .leaseDrainDone q eng => Sys2Proof.Machine.execLeaseDrainDone q eng s
  | .warmTimeout q eng => Sys2Proof.Machine.execWarmTimeout q eng s
  | .lscaleStep q region up => Sys2Proof.Machine.execLscaleStep q region up s
  | .vfHop q island => Sys2Proof.Machine.execVfHop q island s
  | .vfHopDone q island => Sys2Proof.Machine.execVfHopDone q island s
  | .droop q island => Sys2Proof.Machine.execDroop q island s
  | .droopClear q island => Sys2Proof.Machine.execDroopClear q island s
  | .retentionEnter cl => Sys2Proof.Machine.execRetentionEnter cl s
  | .retentionExit cl parityOk found => Sys2Proof.Machine.execRetentionExit cl parityOk found s
  | .tsuaxCell port flit => Sys2Proof.Machine.execTsuaxCell port flit s
  | .tsuaxWrite port flit => Sys2Proof.Machine.execTsuaxWrite port flit s
  | .tsuaxRead port flit => Sys2Proof.Machine.execTsuaxRead port flit s
  | .tsuaxRdata port flit => Sys2Proof.Machine.execTsuaxRdata port flit s
  | .tsuaxCplt port flit => Sys2Proof.Machine.execTsuaxCplt port flit s
  | .launchFlit port flit => Sys2Proof.Machine.execLaunchFlit port flit s
  | .mgmtLaunch port flit => Sys2Proof.Machine.execMgmtLaunch port flit s
  | .mgmtCntr port flit => Sys2Proof.Machine.execMgmtCntr port flit s
  | .mgmtCancel port flit => Sys2Proof.Machine.execMgmtCancel port flit s
  | .mgmtCfgl port flit => Sys2Proof.Machine.execMgmtCfgl port flit s
  | .mgmtCfgt port flit => Sys2Proof.Machine.execMgmtCfgt port flit s
  | .mgmtSrd port flit => Sys2Proof.Machine.execMgmtSrd port flit s
  | .mgmtSwr port flit => Sys2Proof.Machine.execMgmtSwr port flit s
  | .tsuaxCtrl port flit => Sys2Proof.Machine.execTsuaxCtrl port flit s
  | .roceRdmaWrite r => Sys2Proof.Machine.execRoceRdmaWrite r s
  | .roceRdmaWriteImm r => Sys2Proof.Machine.execRoceRdmaWriteImm r s
  | .roceRdmaRead r => Sys2Proof.Machine.execRoceRdmaRead r s
  | .roceUnsupported r => Sys2Proof.Machine.execRoceUnsupported r s
  | .roceResponse cl xf op data err => Sys2Proof.Machine.execRoceResponse cl xf op data err s
  | .roceRetryTimeout cl xf op => Sys2Proof.Machine.execRoceRetryTimeout cl xf op s
  | .pfcPause port prio on => Sys2Proof.Machine.execPfcPause port prio on s
  | .congestionNotification qpn => Sys2Proof.Machine.execCongestionNotification qpn s
  | .rankLeftFabric job graph rank => Sys2Proof.Machine.execRankLeftFabric job graph rank s
  | .ucieCell die modl flit => Sys2Proof.Machine.execUcieCell die modl flit s
  | .ucieMreq die modl flit => Sys2Proof.Machine.execUcieMreq die modl flit s
  | .ucieMrsp die modl flit => Sys2Proof.Machine.execUcieMrsp die modl flit s
  | .ucieXlat die modl flit => Sys2Proof.Machine.execUcieXlat die modl flit s
  | .ucieSys die modl flit => Sys2Proof.Machine.execUcieSys die modl flit s
  | .ucieTime die modl flit => Sys2Proof.Machine.execUcieTime die modl flit s
  | .ucieCtrl die modl flit => Sys2Proof.Machine.execUcieCtrl die modl flit s
  | .ucieRetrainDone die modl lo hi repaired => Sys2Proof.Machine.execUcieRetrainDone die modl lo hi repaired s
  | .uccmdRetrain die modl => Sys2Proof.Machine.execUccmdRetrain die modl s
  | .comparatorPair cl => Sys2Proof.Machine.execComparatorPair cl s
  | .twinTimeout cl => Sys2Proof.Machine.execTwinTimeout cl s
  | .coldRestart cl found => Sys2Proof.Machine.execColdRestart cl found s
  | .pmQuiesce qmask => Sys2Proof.Machine.execPmQuiesce qmask s
  | .pmResume qmask => Sys2Proof.Machine.execPmResume qmask s
  | .pcfgWrite v => Sys2Proof.Machine.execPcfgWrite v s
  | .aceWrite entry v => Sys2Proof.Machine.execAceWrite entry v s
  | .pnodeWrite q v => Sys2Proof.Machine.execPnodeWrite q v s
  | .mestatWrite cl me v => Sys2Proof.Machine.execMestatWrite cl me v s
  | .knoutWrite q v => Sys2Proof.Machine.execKnoutWrite q v s
  | .jpwrWrite job v => Sys2Proof.Machine.execJpwrWrite job v s
  | .vfislWrite q island v => Sys2Proof.Machine.execVfislWrite q island v s
  | .registerWrite w => Sys2Proof.Machine.execRegisterWrite w s
  | .powerGood => Sys2Proof.Machine.execPowerGood s
  | .firmwareVerified imgs => Sys2Proof.Machine.execFirmwareVerified imgs s
  | .stackCalibrated stack => Sys2Proof.Machine.execStackCalibrated stack s
  | .quarterInService q => Sys2Proof.Machine.execQuarterInService q s
  | .deviceReset => Sys2Proof.Machine.execDeviceReset s
  | .loaderImageOffer img => Sys2Proof.Machine.execLoaderImageOffer img s
  | .attReport => Sys2Proof.Machine.execAttReport s
  | .attExtend => Sys2Proof.Machine.execAttExtend s
  | .attCert => Sys2Proof.Machine.execAttCert s

end Sys2Proof.Machine
end

