-- ==== Sys2Proof/WellFormed.lean ====
section
/-! DEFINITION. WellFormed.lean: which terms of Instr are instructions: an instruction word's fields hold what the encoding
admits (spec/04 R92, R96, R97, spec/05 R120, spec/06 R158, R166, R167), and a cell operation or event names a unit that the
device has (spec/00 R2). -/

namespace Sys2Proof

/-- A scalar form takes no stochastic rounding (R92). -/
def Rnd.scalar (r : Rnd) : Bool := r != .sr

/-- A register number or shift amount of an I word (R97). -/
def imm63 (i : BitVec 13) : Bool := decide (i.toNat < 64)

def clOk (cl : Nat) : Bool := decide (cl < 48)
def coreOk (c : Nat) : Bool := decide (c < 384)
def frameOk (f : Nat) : Bool := decide (f < 8)
def slotOk (i : Nat) : Bool := decide (i < 128)
/-- A strand identifier of 11 bits whose cluster field is one of 12 (R30). -/
def sidOk (s : Nat) : Bool := decide (s < 2048) && decide (s / 32 % 16 < 12)
def quarterOk (q : Nat) : Bool := decide (q < 4)
def jobOk (j : Nat) : Bool := decide (j < 4096)

/-- Well-formedness of an instruction. DEDUCED: notes/assumptions/12. -/
def Instr.wf : Instr → Bool
  | .getr _ g _ => imm63 g
  | .putr _ g => imm63 g
  | .shli _ k _ => imm63 k
  | .shri _ k _ => imm63 k
  | .sari _ k _ => imm63 k
  | .bfxi _ i _ => decide (i.toNat < 4096)
  | .fadd _ _ r _ _ => r.scalar
  | .fsub _ _ r _ _ => r.scalar
  | .fmul _ _ r _ _ => r.scalar
  | .fdiv _ _ r _ _ => r.scalar
  | .fsqrt _ _ r _ _ => r.scalar
  | .fcvtFF _ _ r _ _ => r.scalar
  | .fcvtFI _ _ r _ _ => r.scalar
  | .fcvtIF _ _ r _ _ => r.scalar
  | .cpy _ ag _ f _ => f || ag == 0#5
  | .cpyg _ ag _ f _ => f || ag == 0#5
  | .cpys _ ag _ f _ => f || ag == 0#5
  | .cpyr _ ag _ f _ => f || ag == 0#5
  | .waitt _ e c _ => engOk e c false
  | .tlrd _ e c _ => engOk e c true
  | .fence _ e s => e || s
  | .wr cl p => clOk cl && decide (p < 16)
  | .wrm cl p => clOk cl && decide (p < 16)
  | .wacc cl p => clOk cl && decide (p < 16)
  | .mldb cl m => clOk cl && decide (m < 4)
  | .mma cl m _ => clOk cl && decide (m < 4)
  | .mgth cl m _ => clOk cl && decide (m < 4)
  | .mcsr cl m _ => clOk cl && decide (m < 4)
  | .mbsr cl m _ => clOk cl && decide (m < 4)
  | .mzero cl m => clOk cl && decide (m < 4)
  | .mdrn cl m => clOk cl && decide (m < 4)
  | .mchk cl m _ => clOk cl && decide (m < 4)
  | .msave cl m => clOk cl && decide (m < 4)
  | .mload cl m => clOk cl && decide (m < 4)
  | .vadd cl v | .vsub cl v | .vmul cl v | .vfadd cl v | .vfsub cl v | .vfmul cl v | .vfma cl v | .vmin cl v
  | .vmax cl v | .vfmin cl v | .vfmax cl v | .vabs cl v | .vfabs cl v | .vcmp cl v | .vfcmp cl v | .vsel cl v
  | .vcvt cl v | .vshl cl v | .vshr cl v | .vsar cl v | .vand cl v | .vor cl v | .vxor cl v | .vrred cl v
  | .vsred cl v | .vscan cl v | .vgth cl v | .vscat cl v | .vscatc cl v | .vperm cl v | .vbcst cl v =>
    clOk cl && decide (v < 4)
  | .sexp2 cl | .slog2 cl | .srcp cl | .srsq cl | .stanh cl | .ssin cl | .scos cl | .sgelu cl | .rowsm cl
  | .lnorm cl | .rmsn cl => clOk cl
  | .xint cl | .xuni cl | .xdif cl | .xmrg cl | .xcnt cl => clOk cl
  | .cadd cl | .cfadd cl | .cmax cl | .cmin cl | .cand cl | .cor cl | .cxor cl | .cxch cl | .ccas cl | .cfaa cl
  | .resc cl | .barv cl | .barx cl | .bexa cl | .bkil cl | .bexp cl => clOk cl
  | .xrd cl x | .xwr cl x | .xrrd cl x | .xrwr cl x | .xprd cl x | .xpwr cl x | .xnet cl x =>
    clOk cl && decide (x < 2)
  | .kjob cl | .kqry cl | .csend cl | .crecv cl | .cred cl | .cbcst cl => clOk cl
  | .cmpl cl p | .rcll cl p | .drain cl p | .abrt cl p => clOk cl && decide (p < 32)
  | .frameTurn c => coreOk c
  | .blockCommit c f => coreOk c && frameOk f
  | .trapTake s => sidOk s
  | .loadReturn c f i => coreOk c && frameOk f && slotOk i
  | .storeAck s => sidOk s
  | .releaseTakeEffect s => sidOk s
  | .livenessTick c => coreOk c
  | .waitConditionMet c f i => coreOk c && frameOk f && slotOk i
  | .atomReply s => sidOk s
  | .blockFetchReturn s a => sidOk s && decide (a.toNat < 2 ^ 57) && decide (a.toNat % 4 = 0)
  | .launchPick q => quarterOk q
  | .launchAged q k => quarterOk q && decide (k < 256)
  | .tagAdmit j g => jobOk j && decide (g < 65536)
  | .tagRetire j g => jobOk j && decide (g < 65536)
  | .jobCreate j w => jobOk j && decide (w < 256)
  | .jobClose j c => jobOk j && decide (c < 1024)
  | .jobWeight j w => jobOk j && decide (w < 256)
  | .auction cl => clOk cl
  | .headAged cl _ => clOk cl
  | .cellCross cl => clOk cl
  | .egressDrain cl p => clOk cl && decide (p < 32)
  | .purge cl c _ => clOk cl && decide (c < 64)
  | .mdrnComplete cl m c => clOk cl && decide (m < 4) && decide (c < 4)
  | .msaveComplete cl m c => clOk cl && decide (m < 4) && decide (c < 4)
  | .mloadComplete cl m c => clOk cl && decide (m < 4) && decide (c < 4)
  | .exptReserve c f i => coreOk c && frameOk f && slotOk i
  | .transferComplete cl x _ => clOk cl && decide (x < 2)
  | .kennelJobComplete q e => quarterOk q && decide (e < 32)
  | .homeRead c f i => coreOk c && frameOk f && slotOk i
  | .homeWrite s => sidOk s
  | .houndVisit q => quarterOk q
  | .rebase q => quarterOk q
  | .rebaseWalkerDone q => quarterOk q
  | .copyComplete cl _ => clOk cl
  | .pageWalkDone q _ => quarterOk q
  | .fresumeRetry j _ => jobOk j
  | .fresumeAbort j _ => jobOk j
  | .preemptRequest j cls => jobOk j && cls.all clOk
  | .handlerStart s => sidOk s
  | .jobRestore j => jobOk j
  | .leaseServe q => quarterOk q
  | .leaseWakeDone q e => quarterOk q && decide (e < 32)
  | .graceExpire q e => quarterOk q && decide (e < 32)
  | .leaseDrainDone q e => quarterOk q && decide (e < 32)
  | .warmTimeout q e => quarterOk q && decide (e < 32)
  | .lscaleStep q r _ => quarterOk q && decide (r < 16)
  | .vfHop q i => quarterOk q && decide (i < 16)
  | .vfHopDone q i => quarterOk q && decide (i < 16)
  | .droop q i => quarterOk q && decide (i < 16)
  | .droopClear q i => quarterOk q && decide (i < 16)
  | .retentionEnter cl => clOk cl
  | .retentionExit cl _ found => clOk cl && found.all (fun f => f.2.all clOk)
  | .tsuaxCell p _ | .tsuaxWrite p _ | .tsuaxRead p _ | .tsuaxRdata p _ | .tsuaxCplt p _ | .launchFlit p _
  | .mgmtLaunch p _ | .mgmtCntr p _ | .mgmtCancel p _ | .mgmtCfgl p _ | .mgmtCfgt p _ | .mgmtSrd p _
  | .mgmtSwr p _ | .tsuaxCtrl p _ => decide (p < 18)
  | .ucieCell d m _ | .ucieMreq d m _ | .ucieMrsp d m _ | .ucieXlat d m _ | .ucieSys d m _ | .ucieTime d m _
  | .ucieCtrl d m _ => decide (d < 6) && decide (m < 32)
  | .ucieRetrainDone d m _ _ _ => decide (d < 6) && decide (m < 32)
  | .uccmdRetrain d m => decide (d < 6) && decide (m < 32)
  | .roceResponse cl x _ _ _ => clOk cl && decide (x < 2)
  | .roceRetryTimeout cl x _ => clOk cl && decide (x < 2)
  | .comparatorPair cl => clOk cl
  | .twinTimeout cl => clOk cl
  | .coldRestart cl found => clOk cl && found.all (fun f => f.2.all clOk)
  | .pmQuiesce m => decide (m < 16)
  | .pmResume m => decide (m < 16)
  | .aceWrite e _ => decide (e < 256)
  | .pnodeWrite q _ => quarterOk q
  | .mestatWrite cl m _ => clOk cl && decide (m < 4)
  | .knoutWrite q _ => quarterOk q
  | .jpwrWrite j _ => jobOk j
  | .vfislWrite q i _ => quarterOk q && decide (i < 16)
  | .stackCalibrated k => decide (k < 12)
  | .quarterInService q => quarterOk q
  | _ => true

/-- Whether a term is an instruction word (it has an encoding) rather than a cell operation or an event. -/
def Instr.isWord (i : Instr) : Bool := (encode i).isSome

end Sys2Proof
end

