-- ==== Sys2Proof/Machine/Step.lean ====
section
/-! DEFINITION. Machine/Step.lean: one step of the device: the next pick of the agenda runs, or, with none, the one that the
free order picks. An instruction word is read from its slot of a mapped block; an event is one of the machine's own. -/

namespace Sys2Proof.Machine

/-- Run the instruction in a slot of a mapped block, with that slot in focus. DESIGN CHOICE: notes/assumptions/97. -/
def runSlot (core f i : Nat) (s : State) : Host.Outcome State Fault Refusal :=
  if (s.frame core f).used && decide (i < (s.frame core f).slots.length) then
    match decode ((s.frame core f).slot i).word with
    | .ok w => exec w (s.onSched (fun c => { c with focus := (core, f, i) }))
    | .error _ => .refused (.notAnInstruction ((s.frame core f).slot i).word.toNat)
  else .next s

/-- Run a pick. A pick that names no mapped slot, or no event of the device, changes nothing. DESIGN CHOICE: notes/assumptions/1, 10. -/
def runPick (p : Pick) (s : State) : Host.Outcome State Fault Refusal :=
  match p with
  | .slot core f i => runSlot core f i s
  | .event i => if i.isWord || !i.wf then .next s else exec i s

/-- One step. DESIGN CHOICE: notes/assumptions/1. -/
def step (s : State) : Host.Outcome State Fault Refusal :=
  match s.sched.agenda with
  | p :: ps => runPick p (s.onSched (fun c => { c with agenda := ps }))
  | [] => runPick (Config.pick s.sched.picks) (s.onSched (fun c => { c with picks := c.picks + 1 }))

/-- A frame of core 0 that holds one word in slot 0 with its operand tokens and a predicate that matches, for the
privileged strand 0 in handler mode: the word is what the next step runs (notes/assumptions). DESIGN CHOICE: notes/assumptions/9. -/
def placedFrame (w : IWord) : Frame :=
  { used := true, sid := 0, addr := 0x1000, hdr := 0xB0000200,
    slots := [{ word := w, left := some (.val 1), right := some (.val 1),
                pred := some (.val (if fld w 22 2 = 2#2 then 0 else 1)) }] }

/-- The state with an instruction's word stored where the next step fetches it. DESIGN CHOICE: notes/assumptions/9. -/
def State.withFetchWord (s : State) (_nbits w : Nat) : State :=
  ((s.onSched (fun c => { c with agenda := [.slot 0 0 0] })).setStrand 0
    { s.strand 0 with live := true, privs := true, hmode := true }).setFrame 0 0 (placedFrame (BitVec.ofNat 32 w))

end Sys2Proof.Machine
end

