-- ==== Sys2Proof/Safety.lean ====
section
/-! DEFINITION. Safety.lean: what counts as a safe run, and the terms that claims are stated in. Every fault the spec describes
is a trap, a status or a completion, each a next state; so a step is safe where it answers a next state, and a state is sound
where its memory has the canonical form. -/

namespace Sys2Proof

/-- A predicate token agrees with PR: no predicate; a value other than zero; zero (R17). -/
def Pr.agrees (p : Pr) (t : Option Token) : Prop :=
  match p with
  | .always => True
  | .onTrue => ∃ v, v ≠ 0 ∧ t = some (.val v)
  | .onFalse => t = some (.val 0)

namespace Machine

/-- A step that neither faults nor is refused. -/
def State.stepsOn (s : State) : Prop := ∃ t, step s = .next t

/-- A run of k steps, each safe. -/
def SafeRun : Nat → State → Prop
  | 0, _ => True
  | k + 1, s => ∃ t, step s = .next t ∧ SafeRun k t

/-- A state whose memory has its canonical form: equal memories are equal data. -/
def State.Sound (s : State) : Prop := s.mem.wf = true

/-- The slot in focus has not fired, its predicate agrees, and the positions it uses hold the values l and r (R15). -/
def State.ready (s : State) (p : Pr) (u : Uses) (l r : Word) : Prop :=
  s.curSlot.fired = false ∧ p.agrees s.curSlot.pred ∧ (u ≠ .none → s.curSlot.left = some (.val l)) ∧
  (u = .lr → s.curSlot.right = some (.val r))

/-- The slot in focus has not fired, every position it uses is filled, its predicate agrees or is null, and one of these
tokens is null (R74). -/
def State.nulled (s : State) (p : Pr) (u : Uses) : Prop :=
  s.curSlot.fired = false ∧ (p.agrees s.curSlot.pred ∨ (p ≠ .always ∧ s.curSlot.pred = some .null)) ∧
  (u ≠ .none → s.curSlot.left ≠ none) ∧ (u = .lr → s.curSlot.right ≠ none) ∧
  ((p ≠ .always ∧ s.curSlot.pred = some .null) ∨ (u ≠ .none ∧ s.curSlot.left = some .null) ∨
    (u = .lr ∧ s.curSlot.right = some .null))

/-! ## The computing words, by the positions they use (R100) -/

/-- The words that use their left and right positions. -/
def wordsLR (p : Pr) (q : Prec) (m : Rnd) (ta tb : Tgt) : List Instr :=
  [.add p ta tb, .sub p ta tb, .mul p ta tb, .mulh p ta tb, .mulhu p ta tb, .div p ta tb, .divu p ta tb, .rem p ta tb,
   .remu p ta tb, .and p ta tb, .or p ta tb, .xor p ta tb, .andn p ta tb, .shl p ta tb, .shr p ta tb, .sar p ta tb,
   .rotl p ta tb, .min p ta tb, .max p ta tb, .minu p ta tb, .maxu p ta tb, .bfx p ta tb, .bfi p ta tb, .teq p ta tb,
   .tne p ta tb, .tlt p ta tb, .tle p ta tb, .tltu p ta tb, .tleu p ta tb, .tbit p ta tb, .fadd p q m ta tb,
   .fsub p q m ta tb, .fmul p q m ta tb, .fdiv p q m ta tb, .fmin p q ta tb, .fmax p q ta tb, .fteq p q ta tb,
   .ftlt p q ta tb, .ftle p q ta tb]

/-- The words of two targets that use their left position. -/
def wordsL (p : Pr) (q : Prec) (m : Rnd) (wd : Width) (ta tb : Tgt) : List Instr :=
  [.mov p ta tb, .abs p ta tb, .neg p ta tb, .clz p ta tb, .ctz p ta tb, .popc p ta tb, .sext p wd ta tb,
   .zext p wd ta tb, .fsqrt p q m ta tb, .fcvtFF p q m ta tb, .fcvtFI p q m ta tb, .fcvtIF p q m ta tb,
   .fclass p q ta tb]

/-- The immediate words, which use their left position and name one target. -/
def wordsI (p : Pr) (i : BitVec 13) (ta : Tgt) : List Instr :=
  [.consth p i ta, .addi p i ta, .muli p i ta, .andi p i ta, .ori p i ta, .xori p i ta, .shli p i ta, .shri p i ta,
   .sari p i ta, .teqi p i ta, .tnei p i ta, .tlti p i ta, .tlei p i ta, .tltui p i ta, .tleui p i ta, .bfxi p i ta]

/-- The plumbing words. -/
def wordsPlumb (p : Pr) (i : BitVec 13) (ta tb : Tgt) : List Instr :=
  [.null p ta tb, .sel p ta tb, .getr p i ta, .putr p i, .const p i ta]

/-! ## Firings of a vector engine (R171, R172) -/

/-- The next firing of a vector engine is `f`, of an operation: no result waits at its port, of what can fire `f` is the one
whose newest operand arrived first, it waits on no fault, and every part of its operands that stays gets a stall; `s2` is the
state with its operands taken. -/
def State.vecNext (s s2 : State) (cl e cop : Nat) (f : Firing) : Prop :=
  s.resultWaits cl e = false ∧
  (∃ rest, (s.port cl e).firings.filter (fun g => s.gate g.lead.who.job (waiterCell g.lead) != .wait) = f :: rest) ∧
  f.cop = cop ∧ s.gate f.lead.who.job (waiterCell f.lead) = .go ∧ s.splitFiring cl e f = some s2

/-- The state that a firing computes in: its operands have left the store, and it has its number. -/
def State.vecFrom (s2 : State) (cl e : Nat) (f : Firing) : State :=
  ((s2.clearShort cl e f.newestCell).timeStart (engCtx cl e f.lead.cell.ctx.toNat)).2

/-- The route a firing follows is valid, with a format and a rounding (R183, R230). -/
def State.vecRoute (s s2 : State) (cl e : Nat) (f : Firing) (rt : Route) (g : EFmt) (q : Rounding) : Prop :=
  rt = s.route cl e f.lead.cell.ctx.toNat (f.lead.cell.aux.toNat / 4096) ∧ rt.v = true ∧
  (s2.vecFrom cl e f).cellFmt f.lead.who.job rt.tid = some g ∧ g.bits ≠ 4 ∧ rndOf rt.rnd = some q.mode ∧ q.sat = rt.sat ∧
  q.seed = tgetD 0 (s2.vecFrom cl e f).eng.seeds (engCtx cl e f.lead.cell.ctx.toNat)

/-- The cell of a result. -/
def vecCell (f : Firing) (rt : Route) (r : VecOut) : Cell :=
  routeCell rt f.lead.cell f.t0 r.run f.last r.fmt.bits r.lanes (r.masked || r.lanes.any Option.isNone)

/-- The route takes the cell of a result, and its payload holds the lanes. -/
def State.vecFits (st : State) (cl : Nat) (f : Firing) (rt : Route) (r : VecOut) : Prop :=
  st.cellOk cl f.lead.who.job (vecCell f rt r) = true ∧ r.lanes.length * r.fmt.bits ≤ 1024

/-- What a firing leaves to complete: its number, its timestamp, its CMPL token and its operands' operations. -/
def State.vecProd (s s2 : State) (cl e : Nat) (f : Firing) (rt : Route) (t : Nat) : Prod :=
  { key := engCtx cl e f.lead.cell.ctx.toNat,
    num := ((s2.clearShort cl e f.newestCell).timeline (engCtx cl e f.lead.cell.ctx.toNat)).next, cts := t,
    cmpl := routeCmpl rt f.lead.cell f.t0 (f.t1 - f.t0), ends := (s2.clearShort cl e f.newestCell).firingEnds cl e f }

/-- A firing sends its result from a state. -/
def State.vecSend (s s2 st : State) (cl e : Nat) (f : Firing) (rt : Route) (r : VecOut) (t : Nat) : State :=
  st.sendResult cl (16 + e) f.lead (vecCell f rt r) (s.vecProd s2 cl e f rt t)

/-- The timestamp a firing starts at (R316). -/
def State.vecStart (s : State) (cl e : Nat) (f : Firing) : Nat :=
  s.startStamp (engCtx cl e f.lead.cell.ctx.toNat) f.start

def lanesOf (os : List Operand) (i : Nat) : Lanes := (os.getD i { fmt := .q4x, lanes := [] }).lanes

/-- Lane by lane results: a lane where every operand is present has a value, the others are absent (R173). -/
def laneResults (f : Firing) (os : List Operand) (lane : Nat → Nat → Nat → Nat → Nat) : Lanes :=
  (List.range (f.t1 + 1 - f.t0)).map (fun j =>
    if os.all (fun o => (o.lanes.getD j none).isSome)
    then some (lane (f.t0 + j) (laneOr 0 (lanesOf os 0) j) (laneOr 0 (lanesOf os 1) j) (laneOr 0 (lanesOf os 2) j))
    else none)

/-! ## Flits (R402 to R404, R427, R428) -/

/-- The state of a Tsuax port once a flit that is next on its link has been taken: what its header acknowledges and credits has
been heard, its SEQ is the last one taken, and its buffer is owed a credit. -/
def State.flitTaken (s : State) (port : Nat) (f : Flit) : State :=
  (s.modTs port (fun x => x.heard f)).modTs port (fun x => { x with
    rxSeq := flitSeq f, owed := if flitVl f < 7 then tset x.owed (flitVl f) (tgetD 0 x.owed (flitVl f) + 1) else x.owed })

/-- A flit is the next of its link: its CRC holds, it has a type, a SEQ one after the last, the lane of its type, and it is for a
partition of this device. -/
def State.flitNext (s : State) (port typ : Nat) (f : Flit) (root : Nat) : Prop :=
  flitCrcOk f = true ∧ flitType f = typ ∧ flitSeq f = ((s.tsPort port).rxSeq + 1) % 4096 ∧ laneOk f = true ∧
  s.rootOfNode (flitDnode f) = some root

/-- The state of a module's end once a flit, held by the far end, has been taken. -/
def State.ucTaken (s : State) (die m : Nat) (f : Flit) : State :=
  (s.ucHeard die m f).modUc die m (fun x => { x with rxLast := some (ucSeq f), nakked := false })

/-- A flit is the next of its module: the module is up, the CRC holds, it has a type, the far end holds it, or sends it now
(`base` is the state in which it holds it), and its SEQ is the one that this end takes next. -/
def State.ucNext (s base : State) (die m typ : Nat) (f : Flit) (own : Bool) : Prop :=
  (s.ucMod die m).state < 2 ∧ ucCrcOk f = true ∧ ucType f = typ ∧ ucSeq f = (s.ucMod die m).expects ∧
  ((s.ucHas die m f = true ∧ base = s) ∨ (s.ucHas die m f = false ∧ own = true ∧ s.ucFresh die m f = some base))

end Machine
end Sys2Proof
end

