-- ==== Sys2Proof/Certificates/Slice0/Obligations.lean ====
section
/-! DEFINITION. Certificates/Slice0/Obligations.lean: the statements for the provers. -/

open Sys2Proof Sys2Proof.Machine


/-! ## Instruction words that compute (spec/05) -/

/-- R116: the integer forms from 0x10 to 0x2D, each on the 64 bits of its tokens, wrapping modulo 2^64; a divisor is not zero
here (the next statement says what zero does). R116: the integer forms with one operand. The counts are said by the bits
themselves. -/
def Obligations.IntegerForms : Prop :=
  (∀ (s : State) (p : Pr) (ta tb : Tgt) (l r : Word), s.ready p .lr l r →
     exec (.add p ta tb) s = .next (s.finish (.val (l + r)) [ta, tb]) ∧
     exec (.sub p ta tb) s = .next (s.finish (.val (l - r)) [ta, tb]) ∧
     exec (.mul p ta tb) s = .next (s.finish (.val (l * r)) [ta, tb]) ∧
     exec (.mulh p ta tb) s = .next (s.finish (.val (BitVec.ofInt 64 (l.toInt * r.toInt / 2 ^ 64))) [ta, tb]) ∧
     exec (.mulhu p ta tb) s = .next (s.finish (.val (BitVec.ofNat 64 (l.toNat * r.toNat / 2 ^ 64))) [ta, tb]) ∧
     (r ≠ 0 → exec (.div p ta tb) s = .next (s.finish (.val (BitVec.ofInt 64 (l.toInt.tdiv r.toInt))) [ta, tb])) ∧
     (r ≠ 0 → exec (.divu p ta tb) s = .next (s.finish (.val (BitVec.ofNat 64 (l.toNat / r.toNat))) [ta, tb])) ∧
     (r ≠ 0 → exec (.rem p ta tb) s =
       .next (s.finish (.val (l - r * BitVec.ofInt 64 (l.toInt.tdiv r.toInt))) [ta, tb])) ∧
     (r ≠ 0 → exec (.remu p ta tb) s = .next (s.finish (.val (BitVec.ofNat 64 (l.toNat % r.toNat))) [ta, tb])) ∧
     exec (.and p ta tb) s = .next (s.finish (.val (l &&& r)) [ta, tb]) ∧
     exec (.or p ta tb) s = .next (s.finish (.val (l ||| r)) [ta, tb]) ∧
     exec (.xor p ta tb) s = .next (s.finish (.val (l ^^^ r)) [ta, tb]) ∧
     exec (.andn p ta tb) s = .next (s.finish (.val (l &&& ~~~r)) [ta, tb]) ∧
     exec (.shl p ta tb) s = .next (s.finish (.val (l <<< (r.toNat % 64))) [ta, tb]) ∧
     exec (.shr p ta tb) s = .next (s.finish (.val (l >>> (r.toNat % 64))) [ta, tb]) ∧
     exec (.sar p ta tb) s = .next (s.finish (.val (l.sshiftRight (r.toNat % 64))) [ta, tb]) ∧
     exec (.rotl p ta tb) s = .next (s.finish
       (.val ((l <<< (r.toNat % 64)) ||| (l >>> ((64 - r.toNat % 64) % 64)))) [ta, tb]) ∧
     exec (.min p ta tb) s = .next (s.finish (.val (if l.toInt ≤ r.toInt then l else r)) [ta, tb]) ∧
     exec (.max p ta tb) s = .next (s.finish (.val (if r.toInt ≤ l.toInt then l else r)) [ta, tb]) ∧
     exec (.minu p ta tb) s = .next (s.finish (.val (if l.toNat ≤ r.toNat then l else r)) [ta, tb]) ∧
     exec (.maxu p ta tb) s = .next (s.finish (.val (if r.toNat ≤ l.toNat then l else r)) [ta, tb]) ∧
     exec (.bfx p ta tb) s = .next (s.finish (.val
       ((l >>> (r.toNat / 2 ^ 58)) &&& BitVec.ofNat 64 (2 ^ (r.toNat / 2 ^ 52 % 64 + 1) - 1))) [ta, tb]) ∧
     exec (.bfi p ta tb) s = .next (s.finish (.val
       ((l &&& ~~~(BitVec.ofNat 64 (2 ^ (r.toNat / 2 ^ 52 % 64 + 1) - 1) <<< (r.toNat / 2 ^ 58))) |||
         ((BitVec.ofNat 64 (r.toNat % 2 ^ 52) &&& BitVec.ofNat 64 (2 ^ (r.toNat / 2 ^ 52 % 64 + 1) - 1)) <<<
           (r.toNat / 2 ^ 58)))) [ta, tb])) ∧
  (∀ (s : State) (p : Pr) (ta tb : Tgt) (l r : Word), s.ready p .l l r →
     exec (.abs p ta tb) s = .next (s.finish (.val (BitVec.ofInt 64 (if l.toInt < 0 then - l.toInt else l.toInt))) [ta, tb]) ∧
     exec (.neg p ta tb) s = .next (s.finish (.val (0 - l)) [ta, tb]) ∧
     (∃ n : Nat, exec (.clz p ta tb) s = .next (s.finish (.val (BitVec.ofNat 64 n)) [ta, tb]) ∧ n ≤ 64 ∧
       (∀ i, 64 - n ≤ i → l.getLsbD i = false) ∧ (n < 64 → l.getLsbD (63 - n) = true)) ∧
     (∃ n : Nat, exec (.ctz p ta tb) s = .next (s.finish (.val (BitVec.ofNat 64 n)) [ta, tb]) ∧ n ≤ 64 ∧
       (∀ i, i < n → l.getLsbD i = false) ∧ (n < 64 → l.getLsbD n = true)) ∧
     exec (.popc p ta tb) s = .next (s.finish
       (.val (BitVec.ofNat 64 ((List.range 64).countP (fun i => l.getLsbD i)))) [ta, tb]) ∧
     exec (.sext p .b ta tb) s = .next (s.finish (.val ((l.setWidth 8).signExtend 64)) [ta, tb]) ∧
     exec (.sext p .h ta tb) s = .next (s.finish (.val ((l.setWidth 16).signExtend 64)) [ta, tb]) ∧
     exec (.sext p .w ta tb) s = .next (s.finish (.val ((l.setWidth 32).signExtend 64)) [ta, tb]) ∧
     exec (.zext p .b ta tb) s = .next (s.finish (.val ((l.setWidth 8).setWidth 64)) [ta, tb]) ∧
     exec (.zext p .h ta tb) s = .next (s.finish (.val ((l.setWidth 16).setWidth 64)) [ta, tb]) ∧
     exec (.zext p .w ta tb) s = .next (s.finish (.val ((l.setWidth 32).setWidth 64)) [ta, tb]))

/-- R117: a zero divisor holds DIVZ (cause 6) against the block at the division's slot, and sends no token; −2^63 / −1 wraps. -/
def Obligations.DivisionLimits : Prop :=
  (∀ (s : State) (p : Pr) (ta tb : Tgt) (l : Word), s.ready p .lr l 0 →
    ∀ i ∈ [Instr.div p ta tb, .divu p ta tb, .rem p ta tb, .remu p ta tb],
      exec i s = .next (s.modCur (fun f =>
        (f.fire s.fSlot).hold { cause := 0x06, slot := some s.fSlot }))) ∧
  (∀ (s : State) (p : Pr) (ta tb : Tgt), s.ready p .lr 0x8000000000000000#64 0xFFFFFFFFFFFFFFFF#64 →
    exec (.div p ta tb) s = .next (s.finish (.val 0x8000000000000000#64) [ta, tb]) ∧
    exec (.rem p ta tb) s = .next (s.finish (.val 0) [ta, tb]))

/-- R119: the tests send 1 when their relation holds and 0 when it does not. -/
def Obligations.Tests : Prop :=
  ∀ (s : State) (p : Pr) (ta tb : Tgt) (l r : Word), s.ready p .lr l r →
    exec (.teq p ta tb) s = .next (s.finish (.val (if l = r then 1 else 0)) [ta, tb]) ∧
    exec (.tne p ta tb) s = .next (s.finish (.val (if l ≠ r then 1 else 0)) [ta, tb]) ∧
    exec (.tlt p ta tb) s = .next (s.finish (.val (if l.toInt < r.toInt then 1 else 0)) [ta, tb]) ∧
    exec (.tle p ta tb) s = .next (s.finish (.val (if l.toInt ≤ r.toInt then 1 else 0)) [ta, tb]) ∧
    exec (.tltu p ta tb) s = .next (s.finish (.val (if l.toNat < r.toNat then 1 else 0)) [ta, tb]) ∧
    exec (.tleu p ta tb) s = .next (s.finish (.val (if l.toNat ≤ r.toNat then 1 else 0)) [ta, tb]) ∧
    exec (.tbit p ta tb) s = .next (s.finish (.val (if l.getLsbD (r.toNat % 64) = true then 1 else 0)) [ta, tb])

/-- R120: the immediate forms; the immediate is sign-extended, but for the shifts and BFXI. -/
def Obligations.ImmediateForms : Prop :=
  ∀ (s : State) (p : Pr) (i : BitVec 13) (ta : Tgt) (l r : Word), s.ready p .l l r →
    exec (.addi p i ta) s = .next (s.finish (.val (l + i.signExtend 64)) [ta]) ∧
    exec (.muli p i ta) s = .next (s.finish (.val (l * i.signExtend 64)) [ta]) ∧
    exec (.andi p i ta) s = .next (s.finish (.val (l &&& i.signExtend 64)) [ta]) ∧
    exec (.ori p i ta) s = .next (s.finish (.val (l ||| i.signExtend 64)) [ta]) ∧
    exec (.xori p i ta) s = .next (s.finish (.val (l ^^^ i.signExtend 64)) [ta]) ∧
    (i.toNat < 64 → exec (.shli p i ta) s = .next (s.finish (.val (l <<< i.toNat)) [ta])) ∧
    (i.toNat < 64 → exec (.shri p i ta) s = .next (s.finish (.val (l >>> i.toNat)) [ta])) ∧
    (i.toNat < 64 → exec (.sari p i ta) s = .next (s.finish (.val (l.sshiftRight i.toNat)) [ta])) ∧
    exec (.teqi p i ta) s = .next (s.finish (.val (if l = i.signExtend 64 then 1 else 0)) [ta]) ∧
    exec (.tnei p i ta) s = .next (s.finish (.val (if l ≠ i.signExtend 64 then 1 else 0)) [ta]) ∧
    exec (.tlti p i ta) s = .next (s.finish (.val (if l.toInt < (i.signExtend 64).toInt then 1 else 0)) [ta]) ∧
    exec (.tlei p i ta) s = .next (s.finish (.val (if l.toInt ≤ (i.signExtend 64).toInt then 1 else 0)) [ta]) ∧
    exec (.tltui p i ta) s = .next (s.finish (.val (if l.toNat < (i.signExtend 64).toNat then 1 else 0)) [ta]) ∧
    exec (.tleui p i ta) s = .next (s.finish (.val (if l.toNat ≤ (i.signExtend 64).toNat then 1 else 0)) [ta]) ∧
    (i.toNat < 4096 → exec (.bfxi p i ta) s = .next (s.finish
      (.val ((l >>> (i.toNat / 64)) &&& BitVec.ofNat 64 (2 ^ (i.toNat % 64 + 1) - 1))) [ta]))

/-- R121 to R127: the scalar floating-point forms send the function of their operands that Machine/Alu.lean and
Machine/Flags.lean give, one rounding in the mode of the word. R121, R122, R125: an FP32 form reads the low 32 bits of its
operands; its result has bits [63:32] zero; and no compare with a NaN holds.
Where it reads or chooses beyond the spec's words: notes/assumptions/56. -/
def Obligations.ScalarForms : Prop :=
  ((∀ (s : State) (p : Pr) (q : Prec) (m : Rnd) (ta tb : Tgt) (l r : Word), s.ready p .lr l r →
     exec (.fadd p q m ta tb) s = .next (s.finish (.val (aluFadd q m l r)) [ta, tb]) ∧
     exec (.fsub p q m ta tb) s = .next (s.finish (.val (aluFsub q m l r)) [ta, tb]) ∧
     exec (.fmul p q m ta tb) s = .next (s.finish (.val (aluFmul q m l r)) [ta, tb]) ∧
     exec (.fdiv p q m ta tb) s = .next (s.finish (.val (aluFdiv q m l r)) [ta, tb]) ∧
     exec (.fmin p q ta tb) s = .next (s.finish (.val (aluFmin q l r)) [ta, tb]) ∧
     exec (.fmax p q ta tb) s = .next (s.finish (.val (aluFmax q l r)) [ta, tb]) ∧
     exec (.fteq p q ta tb) s = .next (s.finish (.val (ftestEq q l r)) [ta, tb]) ∧
     exec (.ftlt p q ta tb) s = .next (s.finish (.val (ftestLt q l r)) [ta, tb]) ∧
     exec (.ftle p q ta tb) s = .next (s.finish (.val (ftestLe q l r)) [ta, tb])) ∧
   (∀ (s : State) (p : Pr) (q : Prec) (m : Rnd) (ta tb : Tgt) (l r : Word), s.ready p .l l r →
     exec (.fsqrt p q m ta tb) s = .next (s.finish (.val (aluFsqrt q m l 0)) [ta, tb]) ∧
     exec (.fcvtFF p q m ta tb) s = .next (s.finish (.val (aluFcvtFF q m l 0)) [ta, tb]) ∧
     exec (.fcvtFI p q m ta tb) s = .next (s.finish (.val (aluFcvtFI q m l 0)) [ta, tb]) ∧
     exec (.fcvtIF p q m ta tb) s = .next (s.finish (.val (aluFcvtIF q m l 0)) [ta, tb]) ∧
     exec (.fclass p q ta tb) s = .next (s.finish (.val (fclassWord q l)) [ta, tb]))) ∧
  ((∀ (m : Rnd) (l r l' r' : Word), l.toNat % 2 ^ 32 = l'.toNat % 2 ^ 32 → r.toNat % 2 ^ 32 = r'.toNat % 2 ^ 32 →
     aluFadd .s m l r = aluFadd .s m l' r' ∧ aluFsub .s m l r = aluFsub .s m l' r' ∧
     aluFmul .s m l r = aluFmul .s m l' r' ∧ aluFdiv .s m l r = aluFdiv .s m l' r' ∧
     aluFmin .s l r = aluFmin .s l' r' ∧ aluFmax .s l r = aluFmax .s l' r' ∧
     ftestEq .s l r = ftestEq .s l' r' ∧ ftestLt .s l r = ftestLt .s l' r' ∧ ftestLe .s l r = ftestLe .s l' r') ∧
   (∀ (q : Prec) (l r : Word), (fdec (precFmt q) (precBits q l) = .nan ∨ fdec (precFmt q) (precBits q r) = .nan) →
     ftestEq q l r = 0 ∧ ftestLt q l r = 0 ∧ ftestLe q l r = 0))

/-- R109 to R115: NULL, MOV, SEL, GETR, PUTR, CONST and CONSTH. -/
def Obligations.Plumbing : Prop :=
  (∀ (s : State) (p : Pr) (ta tb : Tgt) (l r : Word), s.ready p .none l r →
    exec (.null p ta tb) s = .next (s.finish .null [ta, tb])) ∧
  (∀ (s : State) (p : Pr) (ta tb : Tgt) (l r : Word), s.ready p .l l r →
    exec (.mov p ta tb) s = .next (s.finish (.val l) [ta, tb])) ∧
  (∀ (s : State) (p : Pr) (ta tb : Tgt) (k : Token), s.curSlot.fired = false → p.agrees s.curSlot.pred →
    (s.curSlot.left = some k ∧ s.curSlot.right = none ∨ s.curSlot.left = none ∧ s.curSlot.right = some k) →
    exec (.sel p ta tb) s = .next (s.finish k [ta, tb])) ∧
  (∀ (s : State) (p : Pr) (i : BitVec 13) (ta : Tgt) (l r : Word), s.ready p .none l r →
    exec (.const p i ta) s = .next (s.finish (.val (i.signExtend 64)) [ta])) ∧
  (∀ (s : State) (p : Pr) (i : BitVec 13) (ta : Tgt) (l r : Word), s.ready p .l l r →
    exec (.consth p i ta) s = .next (s.finish (.val ((l <<< 13) ||| i.setWidth 64)) [ta])) ∧
  (∀ (s : State) (p : Pr) (g : BitVec 13) (ta : Tgt) (l r v : Word), s.ready p .none l r →
    s.readReg s.fCore s.fFrame g.toNat = some v → exec (.getr p g ta) s = .next (s.finish (.val v) [ta])) ∧
  (∀ (s : State) (p : Pr) (g : BitVec 13) (l r : Word), s.ready p .l l r → s.cur.wrote g.toNat = false →
    exec (.putr p g) s = .next (s.modCur (fun f => { (f.fire s.fSlot) with regw := f.regw ++ [(s.fSlot, g.toNat, some l)] })))

/-- R112: with no older block of the strand in flight and no reply of an ATOM to come, GETR reads the committed register. -/
def Obligations.CommittedRegister : Prop :=
  ∀ (s : State) (core f g : Nat), s.olderFrames core f = [] →
    (s.strand (s.frame core f).sid).atoms = [] →
    s.readReg core f g = some (tget (s.strand (s.frame core f).sid).regs g)

/-- R103, R104, R106 to R108, R271: an exit that fires, with no exit of its block fired before and no younger block mapped or
fetched, is recorded with the next block that the table gives; a call needs no PUTR to g63. R104: an exit to an address that
is not aligned or lies beyond 57 bits does not take effect and holds BADTARGET against its block. -/
def Obligations.Exits : Prop :=
  (∀ (s : State) (p : Pr) (ex : BitVec 3) (l r : Word),
     s.cur.exit = none → s.cur.putLink = false → s.curStrand.fetched = none →
     (∀ g ∈ s.framesOf s.curSid, (s.frame s.fCore g).seq ≤ s.cur.seq) →
     (∀ (off : BitVec 19) (a : Word), s.ready p .none l r → (a.toNat : Int) = (s.cur.addr.toNat : Int) + 4 * off.toInt →
       a.toNat < 2 ^ 57 → a.toNat % 4 = 0 →
       exec (.bro p ex off) s = .next (s.modCur (fun f => { (f.fire s.fSlot) with exit := some (s.fSlot, some a) })) ∧
       exec (.callo p ex off) s = .next (s.modCur (fun f => { (f.fire s.fSlot) with exit := some (s.fSlot, some a) }))) ∧
     (s.ready p .l l r → l.toNat < 2 ^ 57 → l.toNat % 4 = 0 →
       exec (.bri p ex) s = .next (s.modCur (fun f => { (f.fire s.fSlot) with exit := some (s.fSlot, some l) })) ∧
       exec (.calli p ex) s = .next (s.modCur (fun f => { (f.fire s.fSlot) with exit := some (s.fSlot, some l) }))) ∧
     (∀ v : Word, s.ready p .none l r → s.readReg s.fCore s.fFrame 63 = some v → v.toNat < 2 ^ 57 → v.toNat % 4 = 0 →
       exec (.ret p ex) s = .next (s.modCur (fun f => { (f.fire s.fSlot) with exit := some (s.fSlot, some v) }))) ∧
     (s.ready p .l l r →
       ∃ t, exec (.scall p ex) s = .next t ∧ t.cur.exit = some (s.fSlot, none)) ∧
     (s.ready p .none l r →
       ∃ t, exec (.exit p ex) s = .next t ∧ t.cur.exit = some (s.fSlot, none)) ∧
     (∀ skip : Bool, s.ready p .none l r → s.curStrand.hmode = true →
       ∃ t, exec (.eret p skip) s = .next t ∧ t.cur.exit = some (s.fSlot, none))) ∧
  (∀ (s : State) (p : Pr) (ex : BitVec 3) (l r : Word), s.ready p .l l r → s.cur.exit = none →
     (l.toNat % 4 ≠ 0 ∨ 2 ^ 57 ≤ l.toNat) →
     ∀ i ∈ [Instr.bri p ex, .calli p ex],
       ∃ t, exec i s = .next t ∧ t = s.modCur (fun f =>
         (f.fire s.fSlot).hold { cause := 0x05, slot := some s.fSlot, arg := BitVec.ofInt 64 l.toNat }))

/-- R74: a computing word sends a null onward where a null stands among its tokens and every position is filled. R17, R20: a
word whose predicate does not match does nothing. -/
def Obligations.NullOnward : Prop :=
  (∀ (s : State) (p : Pr) (q : Prec) (m : Rnd) (wd : Width) (im : BitVec 13) (ta tb : Tgt),
     (s.nulled p .lr → ∀ i ∈ wordsLR p q m ta tb, exec i s = .next (s.finish .null [ta, tb])) ∧
     (s.nulled p .l → ∀ i ∈ wordsL p q m wd ta tb, exec i s = .next (s.finish .null [ta, tb])) ∧
     (s.nulled p .l → ∀ i ∈ wordsI p im ta, exec i s = .next (s.finish .null [ta]))) ∧
  (∀ (s : State) (p : Pr) (q : Prec) (m : Rnd) (wd : Width) (im : BitVec 13) (ta tb : Tgt),
     (p = .onTrue ∧ s.curSlot.pred = some (.val 0) ∨ p = .onFalse ∧ ∃ v, v ≠ 0 ∧ s.curSlot.pred = some (.val v)) →
     ∀ i ∈ wordsLR p q m ta tb ++ wordsL p q m wd ta tb ++ wordsI p im ta, exec i s = .next s)

/-- The frame of every plumbing, integer, test, immediate and floating-point word: nothing changes but the block in focus.
Registers change at commit only (R113), and memory not at all. -/
def Obligations.ComputeFrame : Prop :=
  ∀ (s t : State) (p : Pr) (q : Prec) (m : Rnd) (wd : Width) (im : BitVec 13) (ta tb : Tgt),
    ∀ i ∈ wordsLR p q m ta tb ++ wordsL p q m wd ta tb ++ wordsI p im ta ++ wordsPlumb p im ta tb, exec i s = .next t →
      t.sched = s.sched ∧ t.mem = s.mem ∧ t.acc = s.acc ∧ t.work = s.work ∧ t.eng = s.eng ∧ t.mat = s.mat ∧
      t.ken = s.ken ∧ t.lnk = s.lnk ∧ t.sys = s.sys ∧
      t.core.strands = s.core.strands ∧ t.core.cores = s.core.cores ∧ t.core.holds = s.core.holds ∧
      t.core.saved = s.core.saved ∧ t.core.ghosts = s.core.ghosts ∧ t.core.outs = s.core.outs ∧
      t.core.switch = s.core.switch ∧
      (∀ core f, core * 8 + f ≠ s.fCore * 8 + s.fFrame → t.frame core f = s.frame core f) ∧
      (∀ a, mget t.mem.bytes a = mget s.mem.bytes a)

/-- R16, R101: `finish` fires the slot in focus and delivers its token: to an empty position of another slot that has not
fired as a SEL it is what that position then holds, and no fault is held for it. -/
def Obligations.TokenDelivery : Prop :=
  ∀ (s : State) (k : Token) (j : BitVec 7), j.toNat ≠ s.fSlot → j.toNat < s.cur.slots.length → s.fSlot < s.cur.slots.length →
    ((s.cur.slot j.toNat).left = none → isSelWord (s.cur.slot j.toNat).word = false →
      ((s.finish k [.left j]).cur.slot j.toNat).left = some k ∧ (s.finish k [.left j]).cur.trap = s.cur.trap) ∧
    ((s.cur.slot j.toNat).right = none → isSelWord (s.cur.slot j.toNat).word = false →
      ((s.finish k [.right j]).cur.slot j.toNat).right = some k ∧ (s.finish k [.right j]).cur.trap = s.cur.trap) ∧
    ((s.cur.slot j.toNat).pred = none →
      ((s.finish k [.pred j]).cur.slot j.toNat).pred = some k ∧ (s.finish k [.pred j]).cur.trap = s.cur.trap) ∧
    (s.finish k [.left j]).curSlot.fired = true ∧
    ((s.cur.slot j.toNat).left ≠ none → s.cur.trap = none →
      (s.finish k [.left j]).cur.trap = some { cause := 0x01, slot := some j.toNat })

/-! ## Instruction words with effects beyond their block (spec/06, spec/13, spec/16 to spec/20, spec/23) -/

/-- R142, R143: a load whose address passes its checks fires with the place it reads; below 63 loads in flight it counts in the
loads class. A failing check holds its cause against the block.
Where it reads or chooses beyond the spec's words: notes/assumptions/30, 33. -/
def Obligations.LoadFires : Prop :=
  ∀ (s : State) (p : Pr) (lsid ag : BitVec 5) (sz : BitVec 2) (sx : Bool) (ta : Tgt) (l r : Word), s.ready p .l l r →
    let rec0 := agnRec (s.agn (s.strandAgn s.curSid ag.toNat)).words
    let base : LoadRec := { slot := s.fSlot, lsid := lsid.toNat, n := 2 ^ sz.toNat, sx := sx, bank := rec0.port == 4,
                            ag := ag.toNat }
    (∀ a, s.curStrand.ldc < 63 → s.reach s.curCluster s.fCore rec0 .load l (2 ^ sz.toNat) = .home a →
      exec (.ld p lsid ag sz sx ta) s = .next (s.startLoad { base with place := .home a, struct := s.isStruct a })) ∧
    (∀ va pl, s.curStrand.ldc < 63 → s.reach s.curCluster s.fCore rec0 .load l (2 ^ sz.toNat) = .virt va →
      s.xlateCached (clusterQuarter s.curCluster) s.curJob va false false = some (.ok pl) →
      exec (.ld p lsid ag sz sx ta) s = .next (s.startLoad { base with place := pl, va := BitVec.ofNat 64 va })) ∧
    (∀ c x, s.reach s.curCluster s.fCore rec0 .load l (2 ^ sz.toNat) = .fault c x →
      exec (.ld p lsid ag sz sx ta) s = .next (s.stopAt c x (some ag.toNat))) ∧
    (∀ y : LoadRec, ((s.startLoad y).strand s.curSid).ldc = s.curStrand.ldc + 1 ∧
      (s.startLoad y).cur.loads = s.cur.loads ++ [y] ∧ (s.startLoad y).mem = s.mem)

/-- R144: a store whose address passes its checks is recorded with the place, bytes and value it writes; nothing is written
before its block commits (R34). A second write of a structure byte is REWRITE (R137). Prefetch fires without a token.
Where it reads or chooses beyond the spec's words: notes/assumptions/25, 33. -/
def Obligations.StoreFires : Prop :=
  ∀ (s : State) (p : Pr) (lsid ag : BitVec 5) (sz : BitVec 2) (na : Bool) (l r : Word),
    let rec0 := agnRec (s.agn (s.strandAgn s.curSid ag.toNat)).words
    let e := s.tensor s.curJob rec0.tid
    let base : StoreRec := { n := 2 ^ sz.toNat, v := r, na := na || rec0.port != 4, bank := rec0.isWindow, off := l,
                             cls := treuse e, rk := trk e }
    ((∀ g ∈ s.framesOf s.curSid, (s.frame s.fCore g).loads = [] ∧ (s.frame s.fCore g).reads = []) → s.ready p .lr l r →
      (∀ a, s.reach s.curCluster s.fCore rec0 .store l (2 ^ sz.toNat) = .home a → s.isStruct a = false →
        exec (.st p lsid ag sz na) s = .next (s.resolve (.store lsid.toNat { base with place := .home a }))) ∧
      (∀ va pl, s.reach s.curCluster s.fCore rec0 .store l (2 ^ sz.toNat) = .virt va →
        s.xlateCached (clusterQuarter s.curCluster) s.curJob va true false = some (.ok pl) →
        exec (.st p lsid ag sz na) s = .next (s.resolve (.store lsid.toNat { base with place := pl, va := va })))) ∧
    (s.ready p .lr l r → ∀ a, s.reach s.curCluster s.fCore rec0 .store l (2 ^ sz.toNat) = .home a → s.isStruct a = true →
      s.structWritten a = true → exec (.st p lsid ag sz na) s = .next (s.stopAt 0x16 l (some ag.toNat))) ∧
    (s.ready p .l l r → ∃ t, exec (.pref p lsid ag) s = .next t ∧ t.mem.bytes = s.mem.bytes ∧
      t.core.strands = s.core.strands)

/-- R148, R156: an enqueue of a cell that passes the checks resolves with the cell built from its descriptor and tag tokens, and
its AGN's payload.
Where it reads or chooses beyond the spec's words: notes/assumptions/35. -/
def Obligations.EnqueueFires : Prop :=
  ∀ (s s1 : State) (p : Pr) (ag : BitVec 5) (l r : Word) (c1 : Cell) (g : Got) (ps : List (Place × Nat)),
    s.ready p .lr l r →
    let rec0 := agnRec (s.agn (s.strandAgn s.curSid ag.toNat)).words
    let c := cellOfDesc l r rec0.tid
    deviceOnly c = false → s.cellOk s.curCluster s.curJob c = true → s.agnCheck s.curCluster rec0 .cells = 0 →
    rec0.port = 4 → s.messageTooLong s.curCluster s.curJob c = false →
    s.fillCell s.curCluster s.fCore s.curJob rec0 (s.storesBefore s.fCore s.fFrame 0) s.curStrand.pts (ctagOff r) c false =
      .ok (c1, g, ps, s1) →
    let t := (s1.modCur (fun f => { f with
      reads := f.reads ++ [{ slot := s.fSlot, places := ps, wts := g.wts, rts := g.lease }] })).enqEffect ag.toNat c1
    (c.mc = false → exec (.enq p ag) s = .next t) ∧ (c.mc = true → exec (.enqm p ag) s = .next t)

/-- R150, R151, R154: a stream, a persistent stream and a parameter write that pass the checks resolve with what their tokens
name.
Where it reads or chooses beyond the spec's words: notes/assumptions/33. -/
def Obligations.StreamFires : Prop :=
  ∀ (s : State) (p : Pr) (ag : BitVec 5) (tk : BitVec 3) (f : Bool) (l r : Word),
    let key := s.strandAgn s.curSid ag.toNat
    let rec0 := agnRec (s.agn key).words
    (s.ready p .lr l r → s.agnCheck s.curCluster rec0 .cells = 0 → rec0.port ≠ 2 →
      exec (.strm p ag tk f) s = .next (s.resolve (.stream key l r tk.toNat f false)) ∧
      (rec0.pers = true → exec (.strms p ag tk f) s = .next (s.resolve (.stream key l r tk.toNat f true))) ∧
      (rec0.pers = false → exec (.strms p ag tk f) s = .next (s.stopAt causeMode 0 (some ag.toNat)))) ∧
    (s.ready p .l l r → s.agnCheck s.curCluster rec0 .parm = 0 →
      (parmOk rec0 l = true → exec (.parm p ag) s =
        .next (s.resolve (.parm key (wbits l 61 3) (BitVec.ofNat 64 (wbits l 0 57))))) ∧
      (parmOk rec0 l = false → exec (.parm p ag) s = .next (s.stopAt 0x0B)))

/-- R21, R22, R155: RNGP asks the range server, or is ILLEGAL in a launch without a range; GETP takes the oldest word of its
pipe in its turn; PUTP resolves with the word it appends.
Where it reads or chooses beyond the spec's words: notes/assumptions/36. -/
def Obligations.PipesAndRanges : Prop :=
  ∀ (s : State) (p : Pr) (ag : BitVec 5) (ta : Tgt) (l r : Word),
    let rec0 := agnRec (s.agn (s.strandAgn s.curSid ag.toNat)).words
    let k := fifoKey s.curCluster rec0
    (s.ready p .none l r → ((s.launch s.curStrand.who.launch).range).isSome = true → exec (.rngp p ta) s =
      .next (s.modCur (fun f => { (f.fire s.fSlot) with asks := s.fSlot :: f.asks }))) ∧
    (s.ready p .none l r → (s.launch s.curStrand.who.launch).range = none →
      exec (.rngp p ta) s = .next (s.stopAt 0x01)) ∧
    (∀ w, s.ready p .none l r → s.agnCheck s.curCluster rec0 .pipeGet = 0 → s.pipeTurn ag.toNat = true →
      (s.pipe k).peek 1 = some [w] →
      ∃ t, exec (.getp p ag ta) s = .next t ∧ t.pipe k = (s.pipe k).take [w.id] ∧
        (t.strand s.curSid).pts = max s.curStrand.pts w.stamp ∧ t.mem = s.mem) ∧
    (s.ready p .l l r → s.agnCheck s.curCluster rec0 .pipePut = 0 →
      s.cur.putsOn ag.toNat ≤ s.fifoWords s.curCluster rec0 → exec (.putp p ag) s = .next (s.resolve (.put k l)))

/-- R158, R159: a copy takes the next number of its strand, sends it, and resolves with the copy its tokens describe.
Where it reads or chooses beyond the spec's words: notes/assumptions/39. -/
def Obligations.CopyFires : Prop :=
  ∀ (s : State) (p : Pr) (ag : BitVec 5) (tk : BitVec 3) (f : Bool) (ta : Tgt) (l r : Word),
    s.ready p .lr l r → s.copiesBefore = false →
    ∀ ki ∈ [(0, Instr.cpy p ag tk f ta), (1, .cpyg p ag tk f ta), (2, .cpys p ag tk f ta), (3, .cpyr p ag tk f ta)],
      ∃ t, exec ki.2 s = .next t ∧ (t.strand s.curSid).cseq = s.curStrand.cseq + 1 ∧ t.mem = s.mem ∧
        t = ((s.resolve (.copy (copyOf ki.1 ag tk f l r (s.curStrand.cseq + 1)))).modCur (fun g =>
          { (g.send (.val (s.curStrand.cseq + 1)) [ta]) with cseqs := g.cseqs + 1 })).modStrand s.curSid
            (fun x => { x with cseq := s.curStrand.cseq + 1 })

/-- R160, R162 to R166, R339: a wait that fires with no unreported status is pending from then on; with one it holds ASYNCERR
against the block. -/
def Obligations.WaitsFire : Prop :=
  ∀ (s : State) (p : Pr) (ld st : BitVec 6) (cp tl : BitVec 5) (eng : BitVec 5) (ctx : BitVec 2) (ag bs : BitVec 5)
    (cmp : Cmp) (ta : Tgt) (e q : Bool) (l r : Word),
    let pend (w : Wait) : State := s.modCur (fun f => { (f.fire s.fSlot) with waits := f.waits ++ [(s.fSlot, w)] })
    let err : State := s.stopAt 0x09 s.curStrand.async
    let rec0 := agnRec (s.agn (s.strandAgn s.curSid ag.toNat)).words
    (wbits s.curStrand.async 56 8 = 0 →
      (s.ready p .none l r → exec (.waitn p ld st cp tl) s =
        .next (pend (.counts ld.toNat st.toNat cp.toNat tl.toNat))) ∧
      (s.ready p .l l r → exec (.waitt p eng ctx ta) s = .next (pend (.timeline eng.toNat ctx.toNat l))) ∧
      (∀ a, s.ready p .lr l r → s.reach s.curCluster s.fCore rec0 .load l 8 = .home a →
        exec (.waita p ag cmp ta) s = .next (pend (.word (.home a) cmp r))) ∧
      (∀ b, s.ready p .l l r → s.barSlot s.curSid bs.toNat = some b →
        exec (.waitb p bs ta) s = .next (pend (.barrier b (wbits l 0 32)))) ∧
      (s.ready p .none l r → exec (.fence p e q) s = .next (pend (.fence e q)))) ∧
    (wbits s.curStrand.async 56 8 ≠ 0 →
      (s.ready p .none l r → exec (.waitn p ld st cp tl) s = .next err) ∧
      (s.ready p .l l r → exec (.waitt p eng ctx ta) s = .next err) ∧
      (s.ready p .lr l r → exec (.waita p ag cmp ta) s = .next err) ∧
      (∀ b, s.ready p .l l r → s.barSlot s.curSid bs.toNat = some b → exec (.waitb p bs ta) s = .next err) ∧
      (s.ready p .none l r → exec (.fence p e q) s = .next err))

/-- R167, R168, R337, R338, R340: YIELD fires; TLRD sends a timeline's value, or the status word; TBP sends the phase test and
the break bit; arrivals resolve with the barrier cell; EXPT asks for its reservation. An unbound slot holds UNBOUND. -/
def Obligations.BarrierAndTimelineWords : Prop :=
  ∀ (s : State) (p : Pr) (eng : BitVec 5) (ctx : BitVec 2) (bs : BitVec 5) (ta : Tgt) (l r : Word),
    (s.ready p .none l r → exec (.yield p) s = .next (s.modCur (fun f => f.fire s.fSlot))) ∧
    (s.ready p .none l r → exec (.tlrd p 31 ctx ta) s = .next (s.finish (.val s.curStrand.async) [ta])) ∧
    (s.ready p .none l r → eng ≠ 31 → exec (.tlrd p eng ctx ta) s = .next (s.finish
      (.val (BitVec.ofNat 64 (s.timeline (s.timelineKey s.curSid eng.toNat ctx.toNat)).tl)) [ta])) ∧
    (∀ k, s.barSlot s.curSid bs.toNat = some k →
      (s.ready p .l l r → (s.barrier k).cph % 2 = wbits l 0 1 →
        exec (.tbp p bs ta) s = .next (s.finish (.val (if (s.barrier k).brk then 0x8000000000000000#64 else 0)) [ta])) ∧
      (s.ready p .l l r → (s.barrier k).cph % 2 ≠ wbits l 0 1 →
        exec (.tbp p bs ta) s = .next ((s.finish (.val (if (s.barrier k).brk then 0x8000000000000001#64 else 1))
          [ta]).modStrand s.curSid (fun x => { x with pts := max x.pts (s.barrier k).cstamp }))) ∧
      (s.ready p .none l r →
        exec (.arv p bs) s = .next (s.resolve (.arrive (s.strandBarrier k 0x290 0) false)) ∧
        exec (.arvx p bs) s = .next (s.resolve (.arrive (s.strandBarrier k 0x291 0) true))) ∧
      (s.ready p .l l r → l ≠ 0 → l.toNat < 2 ^ 20 → exec (.expt p bs) s =
        .next (s.modCur (fun f => { (f.fire s.fSlot) with asks := s.fSlot :: f.asks }))) ∧
      (s.ready p .l l r → 2 ^ 20 ≤ l.toNat → exec (.expt p bs) s = .next (s.stopAt 0x0D))) ∧
    (s.barSlot s.curSid bs.toNat = none →
      (s.ready p .l l r → exec (.tbp p bs ta) s = .next (s.stopAt causeUnbound 0 (some bs.toNat)) ∧
        exec (.expt p bs) s = .next (s.stopAt causeUnbound 0 (some bs.toNat))) ∧
      (s.ready p .none l r → exec (.arv p bs) s = .next (s.stopAt causeUnbound 0 (some bs.toNat)) ∧
        exec (.arvx p bs) s = .next (s.stopAt causeUnbound 0 (some bs.toNat))))

/-- R342, R346, R348, R385: an atomic that passes its checks resolves with the scalar combining cell of its operation; ATOM
names the register its reply writes; a RED of a RESC triple resolves with its release.
Where it reads or chooses beyond the spec's words: notes/assumptions/44, 45. -/
def Obligations.AtomicsFire : Prop :=
  ∀ (s : State) (p : Pr) (ag : BitVec 5) (gd : BitVec 6) (l r : Word), s.ready p .lr l r →
    (∀ op ∈ [AtomOp.cfaa, .cxch], s.atomCheck ag.toNat l false = (0, 0) →
      ∃ c, exec (.atom p op ag gd) s = .next ((s.resolve (.atom c gd.toNat)).tickUp) ∧
        c.cell.cop = BitVec.ofNat 10 (if op = .cfaa then 0x289 else 0x287) ∧ c.cell.dport = 10) ∧
    (s.atomCheck ag.toNat l true = (0, 0) →
      ∃ c, exec (.atom p .ccas ag gd) s = .next ((s.resolve (.atom c gd.toNat)).tickUp) ∧ c.cell.cop = 0x288 ∧
        c.cell.dport = 10) ∧
    (∀ op : RedOp, op ≠ .resc → s.atomCheck ag.toNat l false = (0, 0) →
      ∃ c, exec (.red p op ag) s = .next (s.resolve (.red c)) ∧ c.cell.cop = BitVec.ofNat 10 (redCop op) ∧
        c.cell.dport = 10) ∧
    (let rec0 := agnRec (s.agn (s.strandAgn s.curSid ag.toNat)).words
     l.toNat < 2 ^ 48 → s.agnCheck s.curCluster rec0 .load = 0 → rec0.role = 3 → rec0.esz = 3 →
     s.rescCheck ag.toNat r.toNat = (0, 0) →
     exec (.red p .resc ag) s = .next (s.resolve (.rel (.resc ag.toNat r.toNat l 0) true false)))

/-- R352, R358, R366 to R368: LEASH raises its slot's generation and sends it, unless an earlier LEASH of the slot in its
block is open; LREL and LPRI resolve with their slot; LQRY sends the slot's status word.
Where it reads or chooses beyond the spec's words: notes/assumptions/73. -/
def Obligations.LeaseWords : Prop :=
  ∀ (s : State) (p : Pr) (slot : BitVec 5) (tk : BitVec 3) (ta : Tgt) (l r : Word) (key : Nat),
    s.leaseSlot s.curSid slot.toNat = some key →
    (s.ready p .none l r → s.leashBefore slot = false → ∀ k : KKind, (s.lease key).kind = execLeash.kindNo k →
      ∃ t, exec (.leash p k slot tk ta) s = .next t ∧
        (t.lease key).gen = (if (s.lease key).gen ≥ 4095 then 1 else (s.lease key).gen + 1) ∧
        t.cur.gens = s.cur.gens ++ [(s.fSlot, key)] ∧ t.mem = s.mem) ∧
    (s.ready p .none l r → exec (.lrel p slot) s = .next (s.resolve (.lrel key))) ∧
    (s.ready p .none l r → exec (.lqry p slot ta) s =
      .next ((s.finish (.val (BitVec.ofNat 64 (s.leaseWord key))) [ta]).freeUp)) ∧
    (s.ready p .l l r → l.toNat ≤ 7 → exec (.lpri p slot) s = .next (s.resolve (.lpri key l.toNat))) ∧
    (s.ready p .l l r → 7 < l.toNat → exec (.lpri p slot) s = .next (s.stopAt 0x0B))

/-- R413 to R421: the launch, queue, counter, cancel and configuration words resolve with what they name; QCLAIM takes the next
claim of its queue at once.
Where it reads or chooses beyond the spec's words: notes/assumptions/66, 67. -/
def Obligations.LaunchWords : Prop :=
  ∀ (s : State) (p : Pr) (ag : BitVec 5) (tk : BitVec 3) (n : BitVec 13) (ta : Tgt) (l r : Word),
    (s.ready p .lr l r → s.packetCheck ag.toNat l.toNat = (0, 0) → exec (.launch p ag tk) s =
      .next (s.resolve (.rel (.launch ag.toNat l.toNat r.toNat tk.toNat) false false))) ∧
    (s.ready p .l l r → s.queueOfJob l.toNat s.curJob = true → (s.queue l.toNat).full = false →
      s.pmHolds (l.toNat / 256) = false → (s.job s.curJob).state = 1 →
      ∃ t, exec (.qclaim p ta) s = .next t ∧ (t.queue l.toNat).claim = (s.queue l.toNat).claim + 1 ∧
        t.cur.claims = s.cur.claims ++ [(s.fSlot, l.toNat, (s.queue l.toNat).claim)]) ∧
    (s.ready p .l l r → s.queueOfJob l.toNat s.curJob = false → exec (.qclaim p ta) s = .next (s.stopAt causeBadParm)) ∧
    (s.ready p .lr l r → exec (.qpub p) s = .next (s.resolve (.rel (.qpub l.toNat r.toNat) false false))) ∧
    (s.ready p .lr l r → l.toNat < 1024 → r ≠ 0 →
      exec (.cntr p) s = .next (s.resolve (.rel (.cntr l.toNat r) false false))) ∧
    (s.ready p .l l r → ∀ lev : Level, l.toNat < 2 ^ levelWidth lev →
      exec (.cancel p lev) s = .next (s.resolve (.cancel (levelCode lev) l.toNat))) ∧
    (s.ready p .lr l 0 → exec (.cfgl p n) s = .next (s.resolve (.rel (.cfgl l.toNat n.toNat) false true))) ∧
    (s.ready p .lr l r → exec (.cfgt p) s = .next (s.resolve (.rel (.cfgt l r) false true)))

/-- R269, R271 to R273, R280, R456, R457: SRD sends a register that may be read and traps BADSYS otherwise; SWR resolves with a
write that the register takes; TLBI, CTXS and CTXR resolve; TRAP holds SWTRAP with its code; PWRQ sends the power word.
Where it reads or chooses beyond the spec's words: notes/assumptions/91. -/
def Obligations.SystemWords : Prop :=
  ∀ (s : State) (p : Pr) (sys : BitVec 13) (ta : Tgt) (c : BitVec 8) (l r : Word),
    (∀ v, s.ready p .l l r → s.swrPending = false → s.regRead (s.strandIssuer s.curSid) sys.toNat l = some v →
      exec (.srd p sys ta) s = .next (s.finish (.val v) [ta])) ∧
    (s.ready p .l l r → s.swrPending = false → s.regRead (s.strandIssuer s.curSid) sys.toNat l = none →
      exec (.srd p sys ta) s = .next (s.stopAt causeBadSys (sys.setWidth 64))) ∧
    (∀ t, s.ready p .lr l r → s.regWrite (s.strandIssuer s.curSid) sys.toNat l r = .done t →
      exec (.swr p sys) s = .next (s.resolve (.rel (.swr sys.toNat l r) true false))) ∧
    (s.ready p .lr l r → tlbiOk sys.toNat (ta != .none) l r s.curJob = true → sys ≠ 0 → exec (.tlbi p sys ta) s =
      .next (s.resolve (.rel (.tlbi sys.toNat (wbits l 0 57) s.curJob (wbits r 0 41)) false true))) ∧
    (s.ready p .l l r → l.toNat < 2048 → thas s.core.holds l.toNat = true → sidCore l.toNat = s.fCore →
      (tget s.core.holds l.toNat).who.job = s.curJob → exec (.ctxs p) s = .next (s.resolve (.ctxs l.toNat))) ∧
    (s.ready p .l l r → l.toNat < 2048 → l.toNat = s.curSid → s.curStrand.serves = some (l.toNat, true) →
      hdrLast s.cur.hdr = true → thas s.core.saved l.toNat = true → (tget s.core.saved l.toNat).who.job = s.curJob →
      exec (.ctxr p) s = .next (s.resolve (.ctxr l.toNat))) ∧
    (s.ready p .none l r → exec (.trap p c) s = .next (s.stopAt 0x08 (c.setWidth 64))) ∧
    (∀ v, s.ready p .none l r → s.pwrqWord s.curSid sys.toNat = some v →
      exec (.pwrq p sys ta) s = .next (s.finish (.val (BitVec.ofNat 64 v)) [ta]))

/-- R24, R34: a side effect that resolves writes nothing outside its block: stores, cells, releases and control operations wait
for the commit. A null on any position resolves it without an effect.
Where it reads or chooses beyond the spec's words: notes/assumptions/15. -/
def Obligations.SideEffectFrame : Prop :=
  (∀ (s : State) (e : Effect),
    (s.resolve e).mem = s.mem ∧ (s.resolve e).acc = s.acc ∧ (s.resolve e).work = s.work ∧ (s.resolve e).eng = s.eng ∧
    (s.resolve e).mat = s.mat ∧ (s.resolve e).ken = s.ken ∧ (s.resolve e).lnk = s.lnk ∧ (s.resolve e).sys = s.sys ∧
    (s.resolve e).core.strands = s.core.strands ∧ (s.resolve e).core.cores = s.core.cores ∧
    (∀ core f, core * 8 + f ≠ s.fCore * 8 + s.fFrame → (s.resolve e).frame core f = s.frame core f) ∧
    (s.resolve e).cur.fx = s.cur.fx ++ [(s.fSlot, e)]) ∧
  (∀ (s : State) (p : Pr) (lsid ag : BitVec 5) (sz : BitVec 2) (na f : Bool) (tk : BitVec 3) (n : BitVec 13) (ta : Tgt)
    (op : AtomOp) (gd : BitVec 6) (ro : RedOp),
    s.curSlot.fired = false → s.curSlot.left = some .null →
    ∀ i ∈ [Instr.st p lsid ag sz na, .enq p ag, .enqm p ag, .strm p ag tk f, .strms p ag tk f, .parm p ag, .putp p ag,
           .cpy p ag tk f ta, .cpyg p ag tk f ta, .cpys p ag tk f ta, .cpyr p ag tk f ta, .expt p ag, .atom p op ag gd,
           .red p ro ag, .lpri p ag, .launch p ag tk, .qpub p, .cntr p, .cfgl p n, .cfgt p, .swr p n, .tlbi p n ta,
           .ctxs p, .ctxr p],
      exec i s = .next (s.resolve .null))


/-! ## Cells (spec/07 to spec/19) -/

/-- R174, R175: the elementwise vector operations. The next firing of engine `e`, with operands of one format and a route of
the format each operation asks for, sends a result cell whose lanes are these functions of its operands' lanes.
Where it reads or chooses beyond the spec's words: notes/assumptions/40, 50, 51, 98. -/
def Obligations.VectorElementwise : Prop :=
  ∀ (s s2 : State) (cl ve : Nat) (f : Firing) (rt : Route) (g h : EFmt) (q : Rounding) (os : List Operand) (mod : Nat),
    s.vecRoute s2 cl (4 + ve) f rt g q → os = f.ops.map ((s2.vecFrom cl (4 + ve) f).operand f) →
    mod = f.lead.cell.cnt.toNat → (∀ o ∈ os.take 2, o.fmt = h) → os ≠ [] →
    let w := h.bits
    let r (lane : Nat → Nat → Nat → Nat → Nat) : VecOut := { lanes := laneResults f os lane, fmt := g, run := f.t1 - f.t0 }
    let go (cop : Nat) (i : Instr) (ok : Prop) (lane : Nat → Nat → Nat → Nat → Nat) : Prop :=
      s.vecNext s2 cl (4 + ve) cop f → ok → (s2.vecFrom cl (4 + ve) f).vecFits cl f rt (r lane) →
      exec i s = .next (s.vecSend s2 (s2.vecFrom cl (4 + ve) f) cl (4 + ve) f rt (r lane) (s.vecStart cl (4 + ve) f))
    let two : Prop := mod = 0 ∧ os.length ≤ 2 ∧ g = h
    let x := floatOf h
    let rnd := q.round x
    go 0x100 (.vadd cl ve) (two ∧ h.isInt) (fun _ a b _ => (a + b) % 2 ^ w) ∧
    go 0x101 (.vsub cl ve) (two ∧ h.isInt) (fun _ a b _ => (a + (2 ^ w - b % 2 ^ w)) % 2 ^ w) ∧
    go 0x102 (.vmul cl ve) (two ∧ h.isInt) (fun _ a b _ => a * b % 2 ^ w) ∧
    go 0x103 (.vfadd cl ve) (two ∧ h.isFloat) (fun tag a b _ => rnd tag 0 (fvAdd q.mode (fdec x a) (fdec x b))) ∧
    go 0x104 (.vfsub cl ve) (two ∧ h.isFloat) (fun tag a b _ => rnd tag 0 (fvAdd q.mode (fdec x a) (fdec x b).neg)) ∧
    go 0x105 (.vfmul cl ve) (two ∧ h.isFloat) (fun tag a b _ => rnd tag 0 (fvMul (fdec x a) (fdec x b))) ∧
    go 0x106 (.vfma cl ve) (mod = 0 ∧ (∀ o ∈ os.take 3, o.fmt = h) ∧ g = h ∧ h.isFloat)
      (fun tag a b c => rnd tag 0 (fvAdd q.mode (fvMul (fdec x a) (fdec x b)) (fdec x c))) ∧
    go 0x107 (.vmin cl ve) (two ∧ h.isInt) (fun _ a b _ => if h.intVal b < h.intVal a then b else a) ∧
    go 0x108 (.vmax cl ve) (two ∧ h.isInt) (fun _ a b _ => if h.intVal a < h.intVal b then b else a) ∧
    go 0x109 (.vfmin cl ve) (two ∧ h.isFloat) (fun _ a b _ => fminBits x false a b) ∧
    go 0x10A (.vfmax cl ve) (two ∧ h.isFloat) (fun _ a b _ => fminBits x true a b) ∧
    go 0x10B (.vabs cl ve) (two ∧ h.isInt ∧ h.isSigned) (fun _ a _ _ => if toSigned w a < 0 then (2 ^ w - a) % 2 ^ w else a) ∧
    go 0x10C (.vfabs cl ve) (two ∧ h.isFloat) (fun _ a _ _ => a % 2 ^ (w - 1)) ∧
    go 0x10D (.vcmp cl ve) (mod < 4 ∧ os.length ≤ 2 ∧ g.isInt ∧ h.isInt) (fun _ a b _ =>
      if (mod = 0 ∧ a = b) ∨ (mod = 1 ∧ a ≠ b) ∨ (mod = 2 ∧ h.intVal a < h.intVal b) ∨ (mod = 3 ∧ h.intVal a ≤ h.intVal b)
      then 1 else 0) ∧
    go 0x10E (.vfcmp cl ve) (mod < 4 ∧ os.length ≤ 2 ∧ g.isInt ∧ h.isFloat) (fun _ a b _ => (vcmpFlt x mod a b).toNat) ∧
    go 0x10F (.vsel cl ve) (mod = 0 ∧ g = h ∧ ∃ p, os.drop 2 = [p] ∧ p.fmt.isInt ∧ p.fmt.bits = w)
      (fun _ a b c => if c = 0 then b else a) ∧
    go 0x110 (.vcvt cl ve) (mod = 0 ∧ os.length ≤ 2) (fun tag a _ _ => vcvt q tag h g a) ∧
    go 0x111 (.vshl cl ve) (two ∧ h.isInt) (fun _ a b _ => a * 2 ^ (b % w) % 2 ^ w) ∧
    go 0x112 (.vshr cl ve) (two ∧ h.isInt) (fun _ a b _ => a / 2 ^ (b % w)) ∧
    go 0x113 (.vsar cl ve) (two ∧ h.isInt) (fun _ a b _ => ofSigned w (toSigned w a / 2 ^ (b % w))) ∧
    go 0x114 (.vand cl ve) two (fun _ a b _ => Nat.land a b) ∧
    go 0x115 (.vor cl ve) two (fun _ a b _ => Nat.lor a b) ∧
    go 0x116 (.vxor cl ve) two (fun _ a b _ => Nat.xor a b)

/-- R176 to R182: reductions, scans, permutes, broadcasts, gathers and scatters. VRRED sends one lane, the fixed tree over its
operand; VSRED each segment's; VSCAN the prefixes; VPERM the lanes its indices name; VBCST one lane everywhere; VGTH what its
AGN reads; VSCAT writes and sends nothing; VSCATC writes and sends CONFLICT and LEADER.
Where it reads or chooses beyond the spec's words: notes/assumptions/40, 50, 51, 98. -/
def Obligations.VectorAcross : Prop :=
  ∀ (s s2 : State) (cl ve : Nat) (f : Firing) (rt : Route) (g : EFmt) (q : Rounding) (os : List Operand) (a b : Operand)
    (mod : Nat), os = f.ops.map ((s2.vecFrom cl (4 + ve) f).operand f) →
    os[0]? = some a → (os[1]? = some b ∨ os[1]? = none ∧ b = { fmt := g, lanes := [] }) → mod = f.lead.cell.cnt.toNat →
    let st := s2.vecFrom cl (4 + ve) f
    let n := f.t1 + 1 - f.t0
    let t := s.vecStart cl (4 + ve) f
    let go (cop : Nat) (i : Instr) (ok : Prop) (r : VecOut) : Prop :=
      s.vecRoute s2 cl (4 + ve) f rt g q → s.vecNext s2 cl (4 + ve) cop f → ok → st.vecFits cl f rt r →
      exec i s = .next (s.vecSend s2 st cl (4 + ve) f rt r t)
    let o := mod % 16
    go 0x117 (.vrred cl ve) (mod < 9 ∧ a.fmt = g ∧ redFits mod g = true)
      { lanes := [some (reduceTree mod g q f.t0 (a.lanes.map (fun v => v.getD (redIdentity mod g))))], fmt := g, run := 0 } ∧
    go 0x118 (.vsred cl ve) (mod < 9 ∧ a.fmt = g ∧ redFits mod g = true ∧ b.fmt.isInt ∧ b.fmt.bits = g.bits)
      { lanes := segReduce mod g q f.t0 a.lanes b.lanes, fmt := g, run := n - 1, masked := true } ∧
    go 0x119 (.vscan cl ve) ((mod < 9 ∨ 128 ≤ mod ∧ mod < 137) ∧ a.fmt = g ∧ redFits o g = true)
      { lanes := scanLanes o g q (decide (128 ≤ mod)) f.t0 (redIdentity o g) 0 a.lanes, fmt := g, run := n - 1 } ∧
    go 0x11D (.vperm cl ve) (mod = 0 ∧ a.fmt = g ∧ b.fmt.isInt)
      { lanes := permLanes a.lanes b.lanes, fmt := g, run := n - 1 } ∧
    (∀ v, go 0x11E (.vbcst cl ve) (mod < 32 ∧ mod < n ∧ a.fmt = g ∧ a.lanes.getD mod none = some v)
      { lanes := List.replicate n (some v), fmt := g, run := n - 1 }) ∧
    (let key := agnKey cl f.lead.cell.ctx.toNat rt.dagn
     let r := agnRec (st.agn key).words
     let job := f.lead.who.job
     let idx : Lanes := (List.range n).map (fun j =>
       if os.all (fun x => (x.lanes.getD j none).isSome) then a.lanes.getD j none else none)
     let m (w : Bool) : LaneMap := st.laneMap cl (st.agn key).core job r w idx
     (∀ vs t' s3, s.vecRoute s2 cl (4 + ve) f rt g q → s.vecNext s2 cl (4 + ve) 0x11A f → mod = 0 → a.fmt.isInt →
       st.vecAgnCheck cl r true false false = 0 → st.cellFmt job r.tid = some g →
       (m false).fault = none → (m false).posts = [] → st.gatherLanes cl job r t (m false).lanes = .ok (vs, t', s3) →
       s3.vecFits cl f rt { lanes := vs, fmt := g, run := n - 1 } →
       exec (.vgth cl ve) s = .next (s.vecSend s2 s3 cl (4 + ve) f rt { lanes := vs, fmt := g, run := n - 1 } t')) ∧
     (∀ t' s3, s.vecNext s2 cl (4 + ve) 0x11B f → rt = s.route cl (4 + ve) f.lead.cell.ctx.toNat (f.lead.cell.aux.toNat / 4096) →
       mod = 0 → os[1]? = some b → a.fmt.isInt → st.vecAgnCheck cl r false true false = 0 → st.cellFmt job r.tid = some b.fmt →
       b.fmt.bits ≠ 4 → (m true).fault = none → (m true).posts = [] →
       st.scatterLanes cl job r t (st.flushAgent key) none ((List.range (m true).lanes.length).filterMap (fun j =>
         ((m true).lanes.getD j none).map (fun ps => (ps, j, laneOr 0 b.lanes j)))) = (t', 0, s3) →
       exec (.vscat cl ve) s = .next (s3.endNow cl (16 + (4 + ve)) f.lead (s.vecProd s2 cl (4 + ve) f rt t'))) ∧
     (∀ t' s3, s.vecRoute s2 cl (4 + ve) f rt (.int 32 false) q → s.vecNext s2 cl (4 + ve) 0x11C f → mod < 9 →
       os[1]? = some b → a.fmt.isInt →
       st.vecAgnCheck cl r false true false = 0 → st.cellFmt job r.tid = some b.fmt → b.fmt.bits ≠ 4 →
       redFits mod b.fmt = true → (m true).fault = none → (m true).posts = [] →
       let c := combineLanes mod b.fmt q f.t0 idx b.lanes (m true).lanes
       let out : VecOut := { lanes := [some c.conflict, some c.leader], fmt := .int 32 false, run := 0 }
       st.scatterLanes cl job r t (st.flushAgent key) none (c.leads.map (fun l => (l.2.1, l.1, l.2.2.2))) = (t', 0, s3) →
       s3.vecFits cl f rt out →
       exec (.vscatc cl ve) s = .next (s.vecSend s2 s3 cl (4 + ve) f rt out t')))

/-- R386, R387: the elementwise special functions. The oldest delivered cell of the operation leaves, and a result cell with its
lanes' function values, each rounded once in the route's format and mode, is sent.
Where it reads or chooses beyond the spec's words: notes/assumptions/49, 54, 98. -/
def Obligations.SpecialFunctions : Prop :=
  ∀ (s s1 : State) (cl : Nat) (m : MCell) (rt : Route) (f g : FFmt) (r : Rnd),
    let c := m.cell
    let key := engCtx cl 8 c.ctx.toNat
    let q : Rounding := { mode := r, sat := false, seed := tgetD 0 s.eng.seeds key }
    let p : Prod := { key := key, num := (s1.timeline key).next, cts := s.startStamp key m.stamp,
                      cmpl := routeCmpl rt c c.itag.toNat c.run.toNat, ends := [(m.who, m.report, c.itag)] }
    s.resultWaits cl 8 = false → s.sfCellBad m = 0 → c.cnt = 0 →
    rt = s.route cl 8 c.ctx.toNat (c.aux.toNat / 4096) → s.sfRouteBad m.who.job rt = 0 →
    s.cellFmt m.who.job c.tid.toNat = some (.flt f) → s.cellFmt m.who.job rt.tid = some (.flt g) → rndOf rt.rnd = some r →
    ∀ x ∈ [(0x180, Instr.sexp2 cl, fnExp2), (0x181, .slog2 cl, fnLog2), (0x182, .srcp cl, fnRcp), (0x183, .srsq cl, fnRsqrt),
           (0x184, .stanh cl, fnTanh), (0x185, .ssin cl, fnSin), (0x186, .scos cl, fnCos), (0x187, .sgelu cl, fnGelu)],
      s.takeInbox cl 8 x.1 = some (m, s1) →
      let lanes : Lanes := (List.range (c.run.toNat + 1)).map (fun j =>
        if c.present j then some (x.2.2 (q.round g (c.itag.toNat + j) 0) (fdec f (c.elem f.width j))) else none)
      let out := routeCell rt c c.itag.toNat c.run.toNat c.last g.width lanes (lanes.any Option.isNone)
      s.cellOk cl m.who.job out = true → lanes.length * g.width ≤ 1024 →
      exec x.2.1 s = .next (((s1.timeStart key).2).sendResult cl 24 m out p)

/-- R388 to R390: the row operations. A cell joins its row; the cell with LAST completes it: the results leave, one for each
cell, with the values of the softmax, of the layer norm, of the root mean square norm. A gap in the indices is a status. R389,
R390: what a completed row sends: one result cell for each of its cells, in increasing index, whose lanes round once the
softmax (base 2 or e), or the norm, of the row's elements.
Where it reads or chooses beyond the spec's words: notes/assumptions/49, 53, 98. -/
def Obligations.RowOperations : Prop :=
  (∀ (s s1 : State) (cl : Nat) (m : MCell) (r : SfRow) (f : FFmt), ∀ x ∈ [(0x188, Instr.rowsm cl), (0x189, .lnorm cl), (0x18A, .rmsn cl)],
     let c := m.cell
     let k := 1024 / f.width
     let joined : SfRow := { r with cells := r.cells ++ [{ m with stall := 0 }] }
     s.takeInbox cl 8 x.1 = some (m, s1) → c.pos = 0 → c.run = 0 → (s.sfRows cl).find? (fun y => rowOf y c) = some r →
     r.dead = false → s.cellFmt m.who.job c.tid.toNat = some (.flt f) → sfFmt (.flt f) = true →
     (∀ y ∈ r.cells, s.cellFmt y.who.job y.cell.tid.toNat = some (.flt f)) →
     (c.aux.toNat % 4096 ≠ r.cells.length → exec x.2 s = .next (s1.rowFail cl r m 0x51)) ∧
     (c.aux.toNat % 4096 = r.cells.length → r.cells.length < 8192 / k →
       (r.cells.map (fun y => cellCount y.cell k)).foldl (· + ·) (cellCount c k) ≤ 8192 →
       ((s.sfRows cl).map (fun y => y.cells.length)).foldl (· + ·) 0 < 512 →
       (c.last = false → exec x.2 s = .next ((s1.putRow cl joined).clearShort cl 8 m.age)) ∧
       (c.last = true → s.resultWaits cl 8 = false → exec x.2 s = .next ((s1.putRow cl joined).rowFinish cl joined)))) ∧
  (∀ (s : State) (cl : Nat) (r : SfRow) (f g : FFmt),
     let m := r.cells.headD {}
     let lead := m.cell
     let rt := s.route cl 8 r.ctx (lead.aux.toNat / 4096)
     let mod := lead.cnt.toNat
     let k := 1024 / f.width
     let xs := r.cells.map (fun x => (List.range k).map (fun j =>
       if x.cell.present j then some (fdec f (x.cell.elem f.width j)) else none))
     let ys (cop : Nat) := if cop = 0x188 then rowSoftmax (mod == 1) xs else rowNorm (cop == 0x189) mod xs
     let t := s.startStamp (engCtx cl 8 r.ctx) (r.cells.foldl (fun n x => max n x.stamp) 0)
     let cells := (r.cells.zip (ys r.cop)).foldl (fun (acc : List Cell × State) x =>
       let (ls, st) := acc.2.rowLanes g ((rndOf rt.rnd).getD .rne) x.2
       (acc.1 ++ [routeCell rt { lead with aux := x.1.cell.aux } r.itag 0 x.1.cell.last g.width ls (ls.any Option.isNone)], st)) ([], s)
     s.cellFmt m.who.job lead.tid.toNat = some (.flt f) → s.cellFmt m.who.job rt.tid = some (.flt g) →
     s.sfRouteBad m.who.job rt = 0 → (if r.cop = 0x188 then mod < 2 else mod < 64) →
     (∀ c ∈ cells.1, s.cellOk cl m.who.job c = true) → k * g.width ≤ 1024 →
     s.rowFinish cl r = (List.range cells.1.length).foldl (fun st i => st.sendOut cl 24 {
       cell := cells.1.getD i {}, stamp := t, agent := m.agent, who := m.who, report := .engine
       prod := if i + 1 = cells.1.length then some (r.prod cl t rt lead) else none }) (cells.2.dropRow cl r))

/-- R184 to R186: the intersection unit. A delivered cell joins its job; the job compares while both sides have elements; with
both sides ended it sends the last cell of each stream and ends. R185: what the comparisons of two strictly rising sides find,
once both have ended: the common elements, the left ones that the right side lacks, and their number.
Where it reads or chooses beyond the spec's words: notes/assumptions/52, 98. -/
def Obligations.IntersectionUnit : Prop :=
  (∀ (s s1 : State) (cl : Nat) (m : MCell) (j : IxJob), ∀ x ∈ [(0x200, Instr.xint cl), (0x201, .xuni cl), (0x202, .xdif cl),
       (0x203, .xmrg cl), (0x204, .xcnt cl)],
     (s.takeInbox cl 9 x.1 = some (m, s1) → m.cell.pos.toNat ≤ 1 → s.cellFmt m.who.job m.cell.tid.toNat = some (.int j.fmt false) →
       (j.fmt = 32 ∨ j.fmt = 64) → (s1.ixJobs cl).find? (fun y => ixMatches y m.cell) = some j →
       cellSeq m.cell = (if m.cell.pos = 1 then j.rseq else j.lseq) → (if m.cell.pos = 1 then j.rq else j.lq) = [] →
       exec x.2 s = .next (s1.putIx cl { j with cells := j.cells ++ [{ m with stall := 0 }], stamp := max j.stamp m.stamp })) ∧
     (s.takeInbox cl 9 x.1 = none → s.resultWaits cl 9 = false →
       ((s.ixJobs cl).filter (fun y => y.cop == x.1)).find? (s.ixMoves cl) = some j → j.pulls.itag.isSome →
       s.ixCheck cl j.pulls = 0 →
       (∀ k, IxJob.run j.pulls.size j.pulls = (.wait, k) → exec x.2 s = .next (s.putIx cl k)) ∧
       (∀ k k1 s2, IxJob.run j.pulls.size j.pulls = (.over, k) → s.ixSend cl k true = some (k1, s2) →
         exec x.2 s = .next (s2.dropIx cl k)) ∧
       (∀ k k1 s2, IxJob.run j.pulls.size j.pulls = (.full, k) → s.ixSend cl k false = some (k1, s2) →
         exec x.2 s = .next (s2.putIx cl k1)))) ∧
  (∀ (j : IxJob) (l r : List Nat), l.Pairwise (· < ·) → r.Pairwise (· < ·) → j.lq = l → j.rq = r → j.lend = true → j.rend = true →
     j.cells = [] → j.lprev = none → j.rprev = none → j.outI = [] → j.outP = [] → j.md = 0 → l.length + r.length < 1024 / j.fmt →
     ∃ k, IxJob.run (l.length + r.length + 64) j = (.over, k) ∧
       (j.cop = 0x200 → k.outI = l.filter (fun a => r.contains a)) ∧
       (j.cop = 0x202 → k.outI = l.filter (fun a => !r.contains a)) ∧
       (j.cop = 0x204 → k.nmatch = j.nmatch + (l.filter (fun a => r.contains a)).length))

/-- R342, R343, R346, R347: a scalar-form cell of the combining store, from RED or ATOM, applied to memory: one access reads
the old value and writes the function of the operation, in every format it takes. ATOM's reply carries the old value; the
operation completes. R344, R345, R385: vector-form cells of the combining store. With a route that forwards, the cell goes on
as its route says; a RESC triple merges with the 34 words at its element in one access; a cell with CNT of 2 or more opens a
merge in a stall, and a later one of its key is merged into the held result.
Where it reads or chooses beyond the spec's words: notes/assumptions/40, 45, 57, 98. -/
def Obligations.CombiningScalar : Prop :=
  (∀ (s s1 s3 : State) (cl job old t : Nat) (m : MCell) (f : EFmt) (ps : List (Place × Nat)),
     let c := m.cell
     let key := engCtx cl 10 c.ctx.toNat
     let start := s.startStamp key m.stamp
     let st := (s1.timeStart key).2
     let ag := st.agn (agnKey cl c.ctx.toNat ((c.word 3).toNat % 32))
     let r := agnRec ag.words
     let w := f.bits
     let g := floatOf f
     let v := (c.word 1).toNat
     let cmp := (c.word 2).toNat % 2 ^ w
     let fadd (x : Nat) : Nat := fround g .rne false 0 (fvAdd .rne (fdec g x) (fdec g v))
     let p : Prod := { key := key, num := (s1.timeline key).next, cts := t, cmpl := none,
                       ends := if isAtomCell m then [] else [(m.who, m.report, c.itag)] }
     let s4 := s3.combFill cl job r [{ pieces := ps, v := v }]
     let done : State := (if isAtomCell m then s4.combEnd cl m (some old) t else s4).endNow cl 26 m p
     let go (cop : Nat) (i : Instr) (new : Nat → Nat) : Prop :=
       c.cop.toNat = cop → s.takeInbox cl 10 cop = some (m, s1) →
       st.modPieces (st.partOfCluster cl) start m.agent ps new = .ok (old, t, s3) → exec i s = .next done
     (s.port cl 10).stalls = [] → c.run = 0 → c.pos = 2 → s.tagJob cl c.ctx.toNat = some job →
     s.gate m.who.job (waiterCell m) = .go → scalarOk m = true → bitOf (c.word 4).toNat 63 = isReturning c.cop.toNat →
     st.undefinedAgain m = false → st.combAgnCheck cl r = 0 → st.cellFmt job r.tid = some f → r.esz = 3 ∨ r.esz = 4 →
     f.bits = r.ebits → combFits c.cop.toNat f (tblk (st.tensor job r.tid) != 0) = true →
     st.laneMap cl ag.core job r true [some (c.word 0).toNat] = { lanes := [some ps] } →
     go 0x280 (.cadd cl) (fun x => (x + v) % 2 ^ w) ∧
     go 0x281 (.cfadd cl) fadd ∧
     go 0x282 (.cmax cl) (fun x => if f.isFloat then fminBits g true x v else if f.intVal x < f.intVal v then v else x) ∧
     go 0x283 (.cmin cl) (fun x => if f.isFloat then fminBits g false x v else if f.intVal v < f.intVal x then v else x) ∧
     go 0x284 (.cand cl) (fun x => Nat.land x v) ∧
     go 0x285 (.cor cl) (fun x => Nat.lor x v) ∧
     go 0x286 (.cxor cl) (fun x => Nat.xor x v) ∧
     go 0x287 (.cxch cl) (fun _ => v % 2 ^ w) ∧
     go 0x288 (.ccas cl) (fun x => if x = cmp then v % 2 ^ w else x) ∧
     go 0x289 (.cfaa cl) (fun x => if f.isFloat then fadd x else (x + v) % 2 ^ w)) ∧
  (∀ (s s1 : State) (cl job : Nat) (m : MCell) (rt : Route),
     let c := m.cell
     let key := engCtx cl 10 c.ctx.toNat
     let start := s.startStamp key m.stamp
     let st := (s1.timeStart key).2
     let p (t : Nat) : Prod := { key := key, num := (s1.timeline key).next, cts := t, cmpl := routeCmpl rt c c.itag.toNat 0,
                                 ends := [(m.who, m.report, c.itag)] }
     c.run = 0 → c.pos = 0 → s.tagJob cl c.ctx.toNat = some job → rt = s.route cl 10 c.ctx.toNat (c.aux.toNat / 4096) →
     (∀ x ∈ [(0x280, Instr.cadd cl), (0x281, .cfadd cl), (0x282, .cmax cl), (0x283, .cmin cl), (0x284, .cand cl),
             (0x285, .cor cl), (0x286, .cxor cl), (0x28A, .resc cl)],
       c.cop.toNat = x.1 → (x.1 = 0x28A → c.side = 0) → s.takeInbox cl 10 x.1 = some (m, s1) → (s.port cl 10).stalls = [] →
       (c.cnt.toNat < 2 → s.gate m.who.job (waiterCell m) = .go → rt.v = true → rt.fwd = true →
         st.cellOk cl job (forwardCell rt c) = true →
         exec x.2 s = .next (st.sendOut cl 26 { cell := forwardCell rt c, stamp := start, agent := m.agent, who := m.who,
                                                report := .engine, prod := some (p start) })) ∧
       (∀ k, 2 ≤ c.cnt.toNat → s.takeStall cl 10 m.who c.itag.toNat 1 = some k →
         exec x.2 s = .next (((s1.clearShort cl 10 m.age).putMerge cl
           { cell := { m with stall := k }, n := 1, age := s.tickNo }).tickUp)) ∧
       (∀ old t s3 ps, x.1 = 0x28A → c.cnt.toNat < 2 → s.gate m.who.job (waiterCell m) = .go → rt.v = true → rt.fwd = false →
         st.undefinedAgain m = false → isAtomCell m = false →
         let ag := st.agn (agnKey cl c.ctx.toNat rt.dagn)
         let r := agnRec ag.words
         st.combAgnCheck cl r = 0 → st.cellFmt job r.tid = some (.flt fp32) → st.cellFmt job c.tid.toNat = some (.flt fp32) →
         st.laneMap cl ag.core job r true ((List.range 34).map (fun i => some (c.aux.toNat % 4096 * 40 + i))) = { lanes := ps } →
         st.modPieces (st.partOfCluster cl) start m.agent ((ps.filterMap id).flatten)
           (fun x => tripleNumber (rescMerge (tripleWords 34 x) (cellTriple c))) = .ok (old, t, s3) →
         exec x.2 s = .next ((s3.combFill cl job r [{ pieces := (ps.filterMap id).flatten, v := 0 }]).endNow cl 26 m (p t)))))


/-! ## Cells: barriers, write ports, matrix engines, gateways and tokens (spec/12, spec/16, spec/17, spec/19, spec/20) -/

/-- R330 to R335: the barrier events. An arrival marks its member, a counted arrival takes its weight from PEND, BEXA and BKIL
mark a member that leaves, BEXP adds to PEND; BKIL of a member that is not dropped breaks the object, and a broken object
discards; an event of a member that has arrived waits. The phase completes when every member has arrived and PEND is 0.
Where it reads or chooses beyond the spec's words: notes/assumptions/49, 58. -/
def Obligations.BarrierCells : Prop :=
  ∀ (s : State) (cl : Nat) (m : MCell) (rest : List MCell),
    ∀ x ∈ [(0x290, Instr.barv cl), (0x291, .barx cl), (0x292, .bexa cl), (0x293, .bkil cl), (0x294, .bexp cl)],
    let c := m.cell
    let k := cl * 256 + c.aux.toNat
    let b := s.barrier k
    let s1 := s.modPort cl 10 (fun p => { p with inbox := rest })
    let n := c.cnt.toNat
    let p := (c.word 0).toNat
    let arrived (d : Barrier) : Nat := (d.members.filter (·.arr)).length
    let phase (d : Barrier) : Barrier := if arrived d = d.nmem ∧ d.pend = 0 then
      { d with cph := (d.cph + 1) % 2 ^ 32, cstamp := d.ostamp, ostamp := 0, evt := false, held := []
               nmem := d.nmem - (d.members.filter (fun e => e.xp)).length
               members := (d.members.filter (fun e => !e.xp)).map (fun e => { e with arr := false, xp := false }) } else d
    let applied (d : Barrier) : Prop := exec x.2 s = .next ((s1.modBarrier k (fun _ => phase d)).cellEnd cl m 0 m.stamp)
    takeBarrier x.1 [] (s.port cl 10).inbox = some (m, rest) → b.used = true → c.aux.toNat < 256 → c.pos = 0 →
    c.itag.toNat < 2048 → c.run = 0 →
    (b.brk = true → exec x.2 s = .next (s1.cellEnd cl m 0 m.stamp)) ∧
    (b.brk = false → b.held = [] →
      (x.1 = 0x294 → applied { b with pend := b.pend + p, resv := b.resv - p, evt := true }) ∧
      (x.1 < 0x292 → n ≠ 0 → -(2 ^ 20 - 1 : Int) ≤ b.pend - n →
        applied { b with pend := b.pend - n, evt := true, ostamp := if x.1 = 0x290 then max b.ostamp m.stamp else b.ostamp }) ∧
      (∀ i d, x.1 < 0x294 → (0x292 ≤ x.1 ∨ n = 0) → b.entry m = some (i, d) → (d.members.getD i {}).arr = false →
        (x.1 = 0x293 → d.drop = true) →
        applied { d with
          members := listMod d.members i (fun e => { e with arr := true, xp := decide (0x292 ≤ x.1) }), evt := true
          ostamp := if x.1 = 0x290 ∨ x.1 = 0x292 then max d.ostamp m.stamp else d.ostamp }) ∧
      (∀ i d, x.1 = 0x293 → b.entry m = some (i, d) → d.drop = false →
        exec x.2 s = .next ((s1.modBarrier k (fun _ => { d with brk := true, evt := true })).cellEnd cl m 0 m.stamp))) ∧
    (∀ i d z, b.brk = false → x.1 < 0x294 → (0x292 ≤ x.1 ∨ n = 0) → b.entry m = some (i, d) →
      (d.members.getD i {}).arr = true → (x.1 = 0x293 → d.drop = true) → s.takeStall cl 10 m.who 0 0 = some z →
      exec x.2 s = .next ((s1.clearShort cl 10 m.age).modBarrier k (fun _ => { d with held := d.held ++ [{ m with stall := z }] })))

/-- R190, R135, R318, R319, R322: a write-port cell. Into memory behind a window it goes through the AGN's coalescing buffer, at
the AGN's stamp; elsewhere it is performed at once, WACC by adding. A page that is missing makes it wait; any other failure
ends it with its status.
Where it reads or chooses beyond the spec's words: notes/assumptions/40, 41, 59. -/
def Obligations.WriteCells : Prop :=
  ∀ (s s1 : State) (cl p : Nat) (m : MCell), ∀ x ∈ [(0, Instr.wr cl p), (1, .wrm cl p), (2, .wacc cl p)],
    let key := agnKey cl m.cell.ctx.toNat (2 * p + m.cell.pos.toNat)
    let a := s.agn key
    let r := agnRec a.words
    let root := s.partOfCluster cl
    s.takeInbox cl (16 + p) x.1 = some (m, s1) → s.gate m.who.job (waiterCell m) = .go →
    (s.portCheck cl key r m ≠ 0 →
      exec x.2 s = .next ((s1.cellEnd cl m (s.portCheck cl key r m) m.stamp).afterPort m)) ∧
    (s.portCheck cl key r m = 0 → a.wait = none → ¬(r.port = 3 ∧ s.tileRole cl r.tile = 2) →
      (∀ d va, s.portWrites cl a.core m.who.job r m.cell = .error (d, va) → d = causeMiss ∨ d = causePerm →
        exec x.2 s = .next ((s.faultWait (clusterQuarter cl) m.who.job d 2 (m.agent / 32) (agnNo key) cl va m.cell.itag.toNat
          (waiterCell m)).afterPort m)) ∧
      (∀ ws st, s.portWrites cl a.core m.who.job r m.cell = .ok (ws, st) → r.isWindow = true →
        let s2 := s1.modAgn key (fun y => { y with stamp := max y.stamp m.stamp })
        let s3 := (ws.foldl (fun t w => t.coPut root key w) s2).afterWrite key m m.stamp
        exec x.2 s = .next ((s3.cellEnd cl m st (max m.stamp (s3.agn key).stamp)).afterPort m)) ∧
      (∀ ws t s2, s.portWrites cl a.core m.who.job r m.cell = .ok (ws, 0) → r.isWindow = false →
        (if m.cell.cop = 2 then s1.accumulate root m.stamp m.agent (s1.undefinedAgain m) (wordGroups [] ws)
          else s1.performWrites root m.stamp m.agent ws) = (t, 0, s2) →
        exec x.2 s = .next ((((s2.afterWrite key m t).cellEnd cl m 0 t).writeLost cl m (agnNo key)
          ((r.addr (m.cell.aux.toNat * r.perCell)).getD 0).toNat 0).afterPort m)))

/-- R244, R248 to R254, R257: a cell of a matrix operation of several cells is taken: MLDB loads a latch cell, with its headers;
MMA adds a row's products to an accumulator row; MCSR and MBSR first expand a pair of cells. A covered operation checks the row,
and a mismatch quarantines the engine. The operation completes with the cell that has LAST.
Where it reads or chooses beyond the spec's words: notes/assumptions/61, 62. -/
def Obligations.MatrixCells : Prop :=
  ∀ (s : State) (cl me n : Nat) (m : MCell) (o : OpenOp) (bad : BadElement) (f : EFmt) (scaled : Bool),
    let c := m.cell
    let k := matKey cl me n
    let st := s.matStart cl me n m
    let next (cop : Nat) : Prop := s.matPick cl me cop = some n ∧ (s.matCtx k).nextCell = some m ∧ (st.matCtx k).opn = some o
    -- one row: its accumulator row q, of k elements, with the values as and the latch's columns
    let row (u : State) (i : Instr) (kk q heads : Nat) (as : Except Nat (List FV)) (scaled last : Bool) : Prop :=
      ∀ a cols extra, let x := u.matCtx k
        let y := { x with fp64 := matClass f == some 64 }
        let z := { y with
          acc := tset y.acc q (List.zipWith (fun (w : Word) b => (BitVec.ofNat 64 (accElem y.accFmt kk w.toNat a b) : Word)) (y.accRow q) cols)
          jrn := if scaled = true ∧ ¬ y.jrn.any (fun j => j.1 == q) then y.jrn ++ [(q, y.accRow q)] else y.jrn, aclean := false
          opn := some { o with prog := (o.prog + 1) % 2 ^ 64 } }
        let w := u.rowEnd k { ctx := z, extra := extra }
        x.opn = some o → o.dead = false → x.suits f scaled = true → ((matClass f == some 64) = x.fp64 ∨ x.aclean = true) →
        q < y.rows → y.operands scaled kk heads as = .ok (a, cols, extra) →
        (o.chk = false → exec i s = .next (w.matClose cl me n last)) ∧
        (o.chk = true → let v := w.modMatEng (cl * 4 + me) (fun e => { e with chkc := nextCheck e.chkc })
          (bad = none → exec i s = .next (v.matClose cl me n last)) ∧
          (∀ p, bad = some p → exec i s = .next ((v.checkFails cl me n p).matClose cl me n last)))
    (∀ code, next 0x080 → code = tfmt (s.tensor m.who.job c.tid.toNat) → s.matFmt m.who.job c.tid.toNat = some (f, scaled) →
      (matClass f).isSome = true → c.cnt = 0 →
      let x := st.matCtx k
      let y := if (s.matCtx k).opn.isNone then { x with lfmt := code, lscl := scaled } else x
      let z := { y with latch := tset y.latch c.aux.toNat c.pay }
      y.suits f scaled = true → c.aux.toNat < 256 → (16 ≤ f.bits → c.side = 0) → (scaled = true → c.side ≠ 63) →
      exec (.mldb cl me) s = .next ((st.rowEnd k { ctx := if scaled = false then z else { z with
        hc := tset z.hc c.aux.toNat c.side.toNat
        scl := (List.range c.side.toNat).foldl (fun t h => tset t (c.aux.toNat * 8 + h) (BitVec.ofNat 16 (c.hdr h))) z.scl } }).matClose
          cl me n c.last)) ∧
    (∀ kk, next 0x081 → s.matFmt m.who.job c.tid.toNat = some (f, scaled) → (matClass f).isSome = true →
      rowK c.cnt.toNat f.bits = some kk →
      row st (.mma cl me bad) kk c.aux.toNat (cellHeads c) (blockVals f scaled c.hdr kk (cellCodes c f)) scaled c.last) ∧
    (∀ cop i p g b kk es, (cop, i) = (0x083, Instr.mcsr cl me bad) ∨ (cop, i) = (0x084, .mbsr cl me bad) → next cop →
      c.cop.toNat = cop →
      (s.matCtx k).queue.find? (fun q => q.age != m.age && q.cell.pos == 2 && pairsWith q.cell c) = some p →
      s.matFmt m.who.job c.tid.toNat = some (f, false) → s.matFmt p.who.job p.cell.tid.toNat = some (g, b) →
      f.isInt = false → 8 ≤ f.bits → (g = .int 16 false ∨ g = .int 32 false) →
      (if cop = 0x083 then rowK c.cnt.toNat f.bits = some kk ∧
          es = (List.range (min (1024 / f.bits) (1024 / g.bits))).filterMap (fun j =>
            if c.present j ∧ p.cell.present j then some (p.cell.elem g.bits j, f.exact (c.elem f.bits j)) else none)
        else c.cnt.toNat ∈ [4, 8, 16, 32] ∧ kk = 1024 / f.bits ∧
          (∀ j ∈ (List.range (min (1024 / f.bits / c.cnt.toNat) (1024 / g.bits))).filter (fun j => p.cell.present j),
            p.cell.elem g.bits j * c.cnt.toNat + c.cnt.toNat ≤ kk) ∧
          es = (((List.range (min (1024 / f.bits / c.cnt.toNat) (1024 / g.bits))).filter (fun j => p.cell.present j)).map (fun j =>
            (List.range c.cnt.toNat).filterMap (fun t => if c.present (j * c.cnt.toNat + t) then
              some (p.cell.elem g.bits j * c.cnt.toNat + t, f.exact (c.elem f.bits (j * c.cnt.toNat + t))) else none))).flatten) →
      (∀ e ∈ es, e.1 < kk) →
      row (st.matTake k p) i kk c.aux.toNat 0 (.ok (denseRow kk es)) false (c.last || p.cell.last))

/-- R242, R252, R255 to R257, R259, R260: MGTH gathers rows through its AGN; MZERO clears the accumulator; MDRN sends it, row by
row, in the drain's format; MCHK checks a row; MSAVE parks the context and sends its image; MLOAD freezes the context until the
image has come.
Where it reads or chooses beyond the spec's words: notes/assumptions/61, 62, 63, 98. -/
def Obligations.MatrixControl : Prop :=
  ∀ (s s1 : State) (cl me n : Nat) (m : MCell) (bad : BadElement),
    let c := m.cell
    let k := matKey cl me n
    let st := s.matStart cl me n m
    let x := st.matCtx k
    let next (cop : Nat) : Prop := s.matPick cl me cop = some n ∧ (s.matCtx k).nextCell = some m
    let owns (cop : Nat) : Prop := s.takeInbox cl me cop = some (m, s1) ∧ s.matBound cl me c.ctx.toNat = some n ∧
      (s.matEng (cl * 4 + me)).quar = false ∧ (s.matCtx k).saving = none ∧ (s.matCtx k).loading = none ∧ c.cnt = 0
    (∀ g s2 s3, next 0x082 → s.gate m.who.job (waiterCell m) = .go → s.cellFmt m.who.job c.tid.toNat = some g → indexFmt g = true →
      let s0 := if (s.matCtx k).opn.isNone then s.matOpen cl me n m else s
      let done := match (s0.matCtx k).opn with
        | some o => o.gidx
        | none => 0
      s2 = s0.modOpen k (fun o => { o with stamp := max o.stamp m.stamp }) →
      s2.gatherCell cl me n m bad (((List.range 32).filter (fun j => c.present j && decide (done ≤ j))).map (fun j => (j, c.elem g.bits j))) =
        (none, s3) → (s3.matCtx k).opn.isSome = true →
      exec (.mgth cl me bad) s = .next (((s3.modOpen k (fun o => { o with gidx := 0 })).matStart cl me n m).matClose cl me n c.last)) ∧
    (next 0x085 → c.cnt = 0 → c.aux = 0 → exec (.mzero cl me) s = .next ((st.modMat k (fun y =>
      { y with acc := [], aclean := true, accUndef := false })).matFinish cl me n 0)) ∧
    (∀ f scaled mode cr o, next 0x086 → c.cnt.toNat < 2 → bitOf x.cfg0.toNat 0 = true →
      s.matFmt m.who.job (wbits x.cfg0 28 12) = some (f, scaled) → rndOf (wbits x.cfg0 20 3) = some mode →
      drainCells x.fp64 f = some cr → x.accUndef = false → x.opn = some o →
      let cells := (List.range (x.rows * cr)).map (fun i =>
        drainCell x c (tfmt (s.tensor m.who.job (wbits x.cfg0 28 12))) f scaled mode i (x.rows * cr) cr)
      (∀ d ∈ cells.take 1, s.cellOk cl m.who.job d = true) →
      exec (.mdrn cl me) s = .next ((st.modMat k (fun y => { y with
        drains := x.rows * cr, dstat := 0, dcts := o.stamp, drainOp := some (0, m), acc := if c.cnt.getLsbD 0 then y.acc else []
        aclean := y.aclean || !c.cnt.getLsbD 0, accUndef := y.accUndef && c.cnt.getLsbD 0 })).sendDrains cl me n false m o.stamp cells)) ∧
    (∀ extra, next 0x087 → x.checkRow (s.matFmt m.who.job c.tid.toNat) c = (0, extra) →
      let w := (st.modOpen k (fun o => { o with scx := extra })).modMatEng (cl * 4 + me) (fun e => { e with chkc := nextCheck e.chkc })
      (bad = none → exec (.mchk cl me bad) s = .next (w.matFinish cl me n 0)) ∧
      (∀ p, bad = some p → exec (.mchk cl me bad) s = .next ((w.matFinish cl me n 0x47).quarantine cl me p))) ∧
    (∀ ag, owns 0x088 → s.imageAgn cl m = some ag → (s.matCtx k).accUndef = false →
      let y := s.matCtx k
      let r := agnRec (s.agn (agnKey cl c.ctx.toNat ag)).words
      let pays := imageCells y (s.timeline (engCtx cl me n)).tl
      let cells := (List.range pays.length).map (fun i => ({
        dcl := 63, dport := BitVec.ofNat 5 (16 + ag / 2), pos := BitVec.ofNat 2 (ag % 2), tid := BitVec.ofNat 12 r.tid
        ctx := c.ctx, col := c.col, itag := c.itag, aux := BitVec.ofNat 16 (c.aux.toNat + i), side := 63
        car := maskCar (List.replicate 128 true), pay := pays.getD i 0 } : Cell))
      let t := s.startStamp (engCtx cl me n) m.stamp
      exec (.msave cl me) s = .next ((s1.modMat k (fun y => { y with
        saving := some m, saves := pays.length, sstat := 0, scts := t })).sendDrains cl me n true m t cells)) ∧
    (∀ ag, owns 0x089 → s.imageAgn cl m = some ag → (agnRec (s.agn (agnKey cl c.ctx.toNat ag)).words).role = 3 →
      ((s.matCtx k).parked = true ∨ (s.matCtx k).opn = none) →
      exec (.mload cl me) s = .next (s1.modMat k (fun y => { y with loading := some m })))

/-- R409, R410, R408: a transfer cell that is well formed is numbered and recorded; another is refused with BADCELL.
Where it reads or chooses beyond the spec's words: notes/assumptions/80. -/
def Obligations.TransferCells : Prop :=
  ∀ (s s1 : State) (cl xf : Nat) (m : MCell), ∀ x ∈ [(0x300, Instr.xrd cl xf), (0x301, .xwr cl xf), (0x302, .xrrd cl xf),
      (0x303, .xrwr cl xf), (0x304, .xprd cl xf), (0x305, .xpwr cl xf), (0x306, .xnet cl xf)],
    let t := engCtx cl (11 + xf) m.cell.ctx.toNat
    let no := (s1.timeline t).next
    let s2 := (s1.timeStart t).2
    let n := s.acc.nextXfer % 65536
    s.takeInbox cl (11 + xf) x.1 = some (m, s1) →
    (s.xferOk cl m = true → exec x.2 s = .next (s2.onAcc (fun a => { a with
      nextXfer := n + 1, xfers := tset a.xfers (xferKey cl xf n) { used := true, cell := m, num := no } }))) ∧
    (s.xferOk cl m = false → exec x.2 s = .next ((s2.timeEnd t no m.stamp).cellEnd cl m 0x90 m.stamp))

/-- R353, R360, R369, R370: a kennel's job joins its engine's queue when its lease holds; without one it ends with LEASE_DEAD.
KQRY writes one word.
Where it reads or chooses beyond the spec's words: notes/assumptions/74. -/
def Obligations.KennelCells : Prop :=
  ∀ (s s1 : State) (cl : Nat) (m : MCell),
    let c := m.cell
    let q := clusterQuarter cl
    let n := c.aux.toNat / 4096
    let x := s.lease (slotKey m.who.launch q n)
    let t := engCtx cl 13 c.ctx.toNat
    let no := (s1.timeline t).next
    let s2 := (s1.timeStart t).2
    let p := s1.startStamp t m.stamp
    let j : KJob := { cell := m, num := no, cl := cl }
    c.run = 0 → c.pos = 0 →
    (s.takeInbox cl 13 0x380 = some (m, s1) → tget s.ken.ended cl = [] → n < 8 →
      (x.holds (c.aux.toNat % 4096) = true → kKind (cellPacket m) = x.kind → kjobPacketOk (cellPacket m) = true →
        (s.kEngine q (x.kind * 4 + x.eng)).jobs.length < 16 →
        exec (.kjob cl) s = .next (s2.modKEngine q (x.kind * 4 + x.eng) (fun e => { e with jobs := e.jobs ++ [j] }))) ∧
      (x.holds (c.aux.toNat % 4096) = false → ∀ u s3, s2.kDoneWord j 0x62 p p = .over u s3 →
        exec (.kjob cl) s = .next (s3.kOver j 0x62 u))) ∧
    (s.takeInbox cl 13 0x381 = some (m, s1) → c.cnt = 0 → xbits c 0 0 57 % 8 = 0 →
      ∀ ps u s3, s2.spanVa q m.who.job true 8 (xbits c 0 0 57) 8 = .ok ps →
      s2.writePieces (s2.partOf q) p m.agent ps (s2.kqryWord q m) = .ok (u, s3) →
      exec (.kqry cl) s = .next ((s3.timeEnd t no u).cellEnd cl m 0 u))

/-- R381 to R383, R393 to R395: cells of collectives at a switch box. A broadcast cell of the root goes to every other rank and
is written here; a contribution goes to its leader, waits for the others there, and the merged result goes on; a send goes to
its rank and meets its receive.
Where it reads or chooses beyond the spec's words: notes/assumptions/78, 79, 98. -/
def Obligations.CollectiveCells : Prop :=
  ∀ (s s1 : State) (cl i : Nat) (m : MCell) (c : Coll),
    let job := m.who.job
    let g := m.who.graph
    let w := c.record
    let fin (t : State) : State := t.collSettle job g i
    let ends (t : State) : State := t.cellEnd cl m 0 m.stamp
    let takes (cop : Nat) : Prop := s.takeInbox cl 14 cop = some (m, s1)
    let got (t : State) (n : Option Nat) : State := t.modColl job g i (fun y => { y with got := y.got + 1, total := match n with
      | some v => some v
      | none => y.total })
    s1.collOf m = some (i, c) → c.aborted = false → m.cell.pos = 0 →
    (takes 0x393 → m.cell.side = 0 → collKind w = 0 → s1.cellRank m w = collRoot w →
      exec (.cbcst cl) s = .next (fin (ends (State.collData (got (if m.snode = 0 then s1.toOthers cl m i w m.cell else s1)
        (if m.cell.last then some (c.got + 1) else none)) job g i m.cell.aux.toNat m.stamp m.cell)))) ∧
    (takes 0x392 → collReduces w = true → s1.cellRank m w < collRanks w → s1.collFits job w m.cell = true → collRing w = false →
      m.cell.itag.toNat = s1.cellRank m w →
      let lead := collLead w (s1.cellRank m w)
      let held := (s1.coll job g i).held.filter (fun y => y.cell.aux == m.cell.aux)
      let rest := s1.modColl job g i (fun y => { y with held := y.held.filter (fun z => !(z.cell.aux == m.cell.aux)) })
      let r := rest.collMerge job w (held ++ [m])
      (m.snode = 0 → lead ≠ collRank w → exec (.cred cl) s = .next (fin (ends (s1.toRank cl m i lead m.cell)))) ∧
      (m.snode = 0 ∨ s1.cellRank m w ≠ collRank w → lead = collRank w → (∀ y ∈ held, y.cell.itag ≠ m.cell.itag) →
        (held.length + 1 < collFan w →
          exec (.cred cl) s = .next (fin (s1.modColl job g i (fun y => { y with held := y.held ++ [m] })))) ∧
        (collFan w ≤ held.length + 1 → exec (.cred cl) s =
          .next (fin ((held ++ [m]).foldl (fun t y => t.cellEnd cl y 0 r.stamp) (rest.groupResult cl m i w r)))))) ∧
    (takes 0x390 → collKind w = 3 → m.cell.cnt.toNat < collRanks w → m.cell.aux.toNat < 32 → s1.cellRank m w < collRanks w →
      m.cell.cnt.toNat ≠ collRank w → m.snode = 0 →
      exec (.csend cl) s = .next (fin (ends (s1.toRank cl m i m.cell.cnt.toNat m.cell)))) ∧
    (∀ x ∈ [(0x390, Instr.csend cl), (0x391, .crecv cl)], takes x.1 → m.cell.cop.toNat = x.1 → collKind w = 3 →
      m.cell.cnt.toNat < collRanks w →
      (if x.1 = 0x391 then m.snode = 0 else m.cell.cnt.toNat = collRank w ∧ m.cell.aux.toNat < 32 ∧ s1.cellRank m w < collRanks w) →
      let same := c.waits.filter (fun y => s1.p2pKey w y == s1.p2pKey w m)
      (same = [] → exec x.2 s = .next (fin (s1.modColl job g i (fun y => { y with waits := y.waits ++ [m] })))) ∧
      (∀ y, same = [y] → y.cell.cop ≠ m.cell.cop →
        let snd := if x.1 = 0x391 then y else m
        let rcv := if x.1 = 0x391 then m else y
        let t := max snd.stamp rcv.stamp
        let s2 := got (s1.modColl job g i (fun z => { z with waits := z.waits.filter (fun a => a != y) }))
          (if snd.cell.last then some (c.got + 1) else none)
        exec x.2 s = .next (fin (((s2.collData job g i rcv.cell.aux.toNat t snd.cell).cellEnd cl snd 0 t).cellEnd cl rcv 0 t))))

/-- R202, R203, R357, R48, R400: the control tokens. A CMPL token lets the first gate cell it covers through, or waits in a
stall; a recall ends at its gateway; a drain token returns its AGN once its graph is quiet; an abort ends its instance here and,
if this device sent it, on every other rank.
Where it reads or chooses beyond the spec's words: notes/assumptions/64, 78. -/
def Obligations.Tokens : Prop :=
  ∀ (s s1 : State) (cl e : Nat) (m : MCell),
    let covered (gc : MCell) : Bool := covers m.cell gc.cell
    (s.takeInbox cl e 0x3F0 = some (m, s1) →
      (∀ gc s3, (s1.port cl e).gates.find? covered = some gc →
        (s1.modPort cl e (fun p => { p with gates := p.gates.filter (fun x => x.age != gc.age) })).arrive cl e gc = .took s3 →
        exec (.cmpl cl e) s = .next (s3.cellEnd cl m 0 m.stamp)) ∧
      (∀ k, (s1.port cl e).gates.find? covered = none → isRendezvous e = true →
        s1.takeStall cl e m.who m.cell.itag.toNat (m.cell.run.toNat + 1) = some k →
        exec (.cmpl cl e) s =
          .next ((s1.modPort cl e (fun p => { p with cmpls := p.cmpls ++ [{ m with stall := k }] })).clearShort cl e m.age)) ∧
      ((s1.port cl e).gates.find? covered = none → isRendezvous e = false → (s1.port cl e).cmpls.length < 8 →
        exec (.cmpl cl e) s = .next (s1.modPort cl e (fun p => { p with cmpls := p.cmpls ++ [{ m with stall := 0 }] })))) ∧
    (s.takeInbox cl e 0x3F1 = some (m, s1) → exec (.rcll cl e) s = .next (s1.cellEnd cl m 0 m.stamp)) ∧
    (∀ rest, (s.port cl e).inbox = m :: rest → m.cell.cop = 0x3F2 → 16 ≤ e → (s.graph m.who.job m.who.graph).live = true →
      s.graphQuiet m.who.job m.who.graph = true →
      exec (.drain cl e) s = .next (((s.modPort cl e (fun p => { p with inbox := rest })).cellEnd cl m 0 m.stamp).agnReturn
        m.who.job m.who.graph (agnKey cl m.cell.ctx.toNat m.cell.aux.toNat))) ∧
    (s.takeInbox cl 14 0x3F3 = some (m, s1) → ∀ i c, s1.collOf m = some (i, c) → c.aborted = false →
      exec (.abrt cl 14) s = .next (((if m.snode = 0 then s1.toOthers cl m i c.record m.cell else s1).collAbort cl m.who.job m.who.graph i
        0x70).cellEnd cl m 0 m.stamp))


/-! ## Events (spec/02, spec/14 to spec/23) -/

/-- R31 to R36, R299, R300: a fetch brings a block; a free frame takes the block of the next context in turn; a block that is
complete commits, one whose loads do not stand is aborted; a block's trap is taken; and each tick raises PTS by one.
Where it reads or chooses beyond the spec's words: notes/assumptions/17, 18, 23, 24. -/
def Obligations.BlockEvents : Prop :=
  (∀ (s : State) (sid : Nat) (a : Word), s.fetchAt sid a = true →
    exec (.blockFetchReturn sid a) s = .next (s.modStrand sid (fun x => { x with fetched := some (s.fetchBlock sid a) }))) ∧
  (∀ (s : State) (core c f : Nat) (fs : List Nat) (b : Fetched), s.retained (coreCluster core) = false →
    s.freeFrames core = f :: fs → (s.strand (mkSid core c)).fetched = some b →
    ((List.range 4).map (fun d => ((s.coreSt core).lastTurn + 1 + d) % 4)).find? (fun i => s.mapReady (mkSid core i) &&
      !(s.strand (mkSid core i)).yields.any (fun j => (s.strand (mkSid core j)).live) && s.mayTake core i) = some c →
    ∃ t, exec (.frameTurn core) s = .next t ∧ (t.coreSt core).lastTurn = c ∧
      t.frame core f = { used := true, sid := mkSid core c, addr := b.addr, hdr := b.hdr, seq := (s.strand (mkSid core c)).seq + 1,
                         slots := b.words.map (fun w => { word := w }) } ∧
      (∀ d g, ¬(d = core ∧ g = f) → g < 8 → f < 8 → t.frame d g = s.frame d g)) ∧
  (∀ (s : State) (core f : Nat), s.commitDue core f = true →
    let fr := s.frame core f
    let who := (s.strand fr.sid).who
    (s.stand who fr = none → exec (.blockCommit core f) s = .next (s.abortFrom core f)) ∧
    (∀ p rs s1, s.stand who fr = some (p, rs, s1) → exec (.blockCommit core f) s = .next (s1.commitBlock core f p rs)) ∧
    (∀ i a, who.sid = fr.sid → fr.fx = [] → fr.gets = [] → fr.loads = [] → fr.stores = [] → fr.reads = [] → fr.yields = false →
      fr.exit = some (i, some a) → opOf (fr.slot i).word ∉ [6, 7, 0xE5] →
      exec (.blockCommit core f) s = .next (((s.modStrand fr.sid (fun x => { x with regs := fr.newRegs x.regs })).setFrame core f
        {}).modStrand fr.sid (fun x => { x with pc := a })))) ∧
  (∀ (s : State) (sid : Nat) (t : Trap) (blk : Word) (len : Nat), (s.strand sid).live = true → s.dueTrap sid = some (t, blk, len) →
    exec (.trapTake sid) s = .next ((s.fetchUe sid t).takeTrap sid t blk len)) ∧
  (∀ (s : State) (core : Nat), ∃ t, exec (.livenessTick core) s = .next t ∧
    (∀ c < 4, t.strand (mkSid core c) = if (s.strand (mkSid core c)).live then { s.strand (mkSid core c) with
      pts := (s.strand (mkSid core c)).pts + 1 } else s.strand (mkSid core c)) ∧
    ∀ sid, (∀ c < 4, sid ≠ mkSid core c) → t.strand sid = s.strand sid)

/-- R137, R142, R146, R290, R295, R296, R299, R303, R305, R338, R347, R452: loads and stores at their homes and back, releases,
waits, replies and page walks.
Where it reads or chooses beyond the spec's words: notes/assumptions/22, 25, 26, 30, 42. -/
def Obligations.MemoryEvents : Prop :=
  ∀ (s : State) (core f i sid : Nat),
    let fr := s.frame core f
    let x := s.strand sid
    (∀ l a, fr.loadAt i = some l → l.stage = 0 → l.walk = false → l.place = .home a →
      (l.struct = true → s.structWritten a = false → s.mem.defer.contains { addr := a, core := core, frame := f, slot := i } = false →
        s.deferredIn a < 1024 → exec (.homeRead core f i) s =
          .next (s.onMem (fun m => { m with defer := m.defer ++ [{ addr := a, core := core, frame := f, slot := i }] }))) ∧
      (l.struct = false ∨ s.structWritten a = true → (s.line a).poison = false →
        exec (.homeRead core f i) s = .next (s.performLoad core f l a))) ∧
    (∀ l, fr.loadAt i = some l → l.walk = false →
      (l.stage = 1 → l.ue = false → exec (.loadReturn core f i) s = .next (s.returnLoad core f l)) ∧
      (l.stage = 0 → l.majOp = 0 → ownAll (s.storesBefore core f l.lsid) l.place l.n = true →
        exec (.loadReturn core f i) s = .next (s.returnLoad core f
          { l with v := BitVec.ofNat 64 (overlay (s.storesBefore core f l.lsid) l.place l.n 0), fwd := true })) ∧
      (∀ v, l.stage = 0 → l.majOp = 0 → ownAll (s.storesBefore core f l.lsid) l.place l.n = false → placeIsHbm l.place = true →
        s.leaseFind core (placeLine l.place) (s.strand fr.sid).pts = some v → exec (.loadReturn core f i) s =
          .next (s.returnLoad core f { l with wts := v.wts, rts := v.rts, v := BitVec.ofNat 64 (overlay
            (s.storesBefore core f l.lsid) l.place l.n (leNatFrom v.bytes (placeOff l.place) l.n)) }))) ∧
    (s.holders sid = [.ctx] → ∀ n r, firstStoreIdx x.out 0 = some (n, r) → r.op = 0 →
      (∀ a, r.sent = false → r.place = .home a → r.struct = false → (s.majOp 0).used = false →
        let (t, s1) := s.homeWrite a (leBytes r.n r.v.toNat) x.pts (sidAgent x.who.sid)
        exec (.homeWrite sid) s = .next (s1.modStrand sid (fun y => { y with
          out := listSet y.out n (.store { r with sent := true, ack := t }) }))) ∧
      (r.sent = true → exec (.storeAck sid) s = .next (((s.modStrand sid (fun y => { y with
        pts := max y.pts r.ack, stc := y.stc - 1, out := listDrop y.out n })).storeFill x.who.core r r.ack).countDown x.who r.ack))) ∧
    (s.holders sid = [.ctx] →
      (∀ r rest s1, x.out = .rel r :: rest →
        (s.modStrand sid (fun y => { y with out := rest })).relEffect x.who x.pts .ctx r = .done s1 →
        exec (.releaseTakeEffect sid) s = .next s1) ∧
      (∀ g v t no rest, x.replies = (g, v, t, no) :: rest →
        exec (.atomReply sid) s = .next ((s.modStrand sid (fun y => { y with
          regs := tset y.regs g v, pts := max y.pts t, stc := y.stc - 1, replies := rest
          atoms := y.atoms.filter (fun a => !(a.1 == g && a.2 == no)) })).opEnd x.who t))) ∧
    (∀ w, fr.waits.find? (fun y => y.1 == i) = some (i, w) → (w.counted = true → s.isOldest core f = true) →
      let go (s1 : State) (v : Word) (t : Nat) : Prop := exec (.waitConditionMet core f i) s = .next ((s1.modFrame core f (fun g =>
        ({ g with waits := g.waits.filter (fun y => y.1 != i) }).send (.val v) (loadTargets (g.slot i)))).raisePts fr.sid t)
      let y := s.strand fr.sid
      (∀ a b c d, w = .counts a b c d → y.ldc ≤ a → y.stc ≤ b → y.cpc ≤ c → y.tlc ≤ d → go s 0 0) ∧
      (∀ e c n, w = .timeline e c n → let t := s.timeline (s.timelineKey fr.sid e c)
        n.toNat ≤ t.tl → go s (BitVec.ofNat 64 t.tl) (t.ctsOf n.toNat)) ∧
      (∀ k p, w = .barrier k p → let b := s.barrier k
        b.complete p = true ∨ b.brk = true → go s (BitVec.ofNat 64 p ||| brkBit b) b.cstamp) ∧
      (w = .fence true false → y.ops = 0 → go s 0 y.fencets) ∧
      (∀ cmp v a r t s1, w = .word (.home a) cmp v → s.isStruct a = false →
        s.engRead (s.partOfCluster (sidCluster fr.sid)) (.home a) 8 y.pts = .ok (r, t, s1) → cmpHolds cmp (BitVec.ofNat 64 r) v = true →
        go s1 (BitVec.ofNat 64 r) (s1.line a).wts)) ∧
    (∀ pr bs k, fr.used = true → fr.asks.contains i = true → slotInstr (fr.slot i) = some (.expt pr bs) →
      s.barSlot fr.sid bs.toNat = some k →
      let n := (tokVal (fr.slot i).left).toNat
      let done (g : Frame) : Frame := { g with asks := g.asks.filter (fun j => j != i) }
      ((s.barrier k).brk = true →
        exec (.exptReserve core f i) s = .next (s.modFrame core f (fun g => { done g with fx := g.fx ++ [(i, .null)] }))) ∧
      ((s.barrier k).brk = false → (s.barrier k).pend + (s.barrier k).resv + n ≤ 2 ^ 20 - 1 →
        exec (.exptReserve core f i) s = .next ((s.modBarrier k (fun b => { b with resv := b.resv + n })).modFrame core f (fun g =>
          { done g with fx := g.fx ++ [(i, .expect k n)], resv := g.resv ++ [(i, k, n)] }))) ∧
      ((s.barrier k).brk = false → 2 ^ 20 - 1 < (s.barrier k).pend + (s.barrier k).resv + n →
        exec (.exptReserve core f i) s = .next (s.modFrame core f (fun g => (done g).hold { cause := 0x0D, slot := some i })))) ∧
    (∀ q w b leaf pl, tget s.acc.walks q = [w] → s.walk (s.partOf q) w.asid w.va = some (b, leaf) →
      let s1 := s.onAcc (fun a => { a with
        walks := tset a.walks q [], tlb := tset a.tlb q ({ asid := w.asid, base := w.va / 2 ^ b, bits := b, leaf := leaf } :: tget a.tlb q) })
      s1.leafAccess (s.partOf q) b w.va leaf w.write false = .ok pl →
      exec (.pageWalkDone q 0) s = .next (s1.walkAnswer w (.ok pl)))


/-- R41 to R43, R50 to R52, R57 to R60, R204: the queue controllers, the loader's events and the jobs.
Where it reads or chooses beyond the spec's words: notes/assumptions/36, 64, 65, 66, 70. -/
def Obligations.LaunchEvents : Prop :=
  ∀ (s : State) (q job g l : Nat),
    -- a pick: an eligible head, of the highest priority when none is aged
    (s.work.claims1.filter (fun n => n / 2 ^ 22 == q) = [] →
      (s.pickQueue q = none → exec (.launchPick q) s = .next s) ∧
      (∀ k s2, s.pickQueue q = some (k, s2) → exec (.launchPick q) s = .next (s2.dispatch k) ∧ s.eligible k = true ∧ k / 256 = q ∧
        ((s.queue k).aged = false → ∀ j < 256, s.eligible (q * 256 + j) = true →
          (s.queue (q * 256 + j)).aged = false ∧ (s.queue (q * 256 + j)).prio ≤ (s.queue k).prio))) ∧
    (∀ n, exec (.launchAged q n) s = .next (s.modQueue (q * 256 + n) (fun x => if x.head < x.pub then { x with aged := true } else x))) ∧
    -- the loader binds, a pack starts, and the range server answers
    (∀ img0 s1, let x := s.launch l
      let img1 := argImage (cardOf x.packet) (s.launchImage l img0)
      let img := s.launchImage l img1
      x.used = true → x.ended = false → x.bound = false → x.cancelled = false →
      (img1.majority = true → s.allCalibrated (s.partOf x.quarter) = true) →
      (x.kind = 2 → (packStrands img1 (s.launchRank l img1)).length ≤ 32 * img1.clusters.length) →
      (s.graph x.job x.graph).live = false → s.imageOk x.quarter img = true → s.nodesFree l x.job img = true →
      s.takeTags x.job (imageClusters img) = some s1 →
      exec (.graphBind l img0) s = .next (((imageClusters img).foldl (fun t c => t.wakeIsland c) s1).bindNodes l img)) ∧
    (∀ places, let x := s.launch l
      let img := (s.graph x.job x.graph).img
      let all := packStrands img (s.launchRank l img)
      x.used = true → x.ended = false → x.kind = 2 → x.bound = true → x.started = false → x.cancelled = false →
      s.pmHolds x.quarter = false → places.length = all.length → places.Nodup → s.contextsUnclaimed l img.clusters = true →
      (∀ e ∈ places.zip all, e.1 < 2048 ∧ e.1 / 32 % 16 < 12 ∧ s.contextFree e.1 = true ∧
        (setClusters img e.2.2).contains (sidCluster e.1) = true) →
      exec (.packStart l places) s = .next (((places.zip all).foldl (fun t e => t.startStrand l e.2.1 e.2.2 e.1) s).allStarted l)) ∧
    (∀ core f i r, let fr := s.frame core f
      let who := (s.strand fr.sid).who
      let k := max 1 (tgetD 0 (s.launch who.launch).setLive (s.strand fr.sid).set)
      let n := min (r.size - r.next) (max r.minchk ((r.size - r.next + 2 * k - 1) / (2 * k)))
      f < 8 → (s.launch who.launch).range = some r → r.back = [] → fr.used = true → fr.asks.contains i = true →
      opOf (fr.slot i).word = 0x85 → s.claimBefore core f = false →
      exec (.rangeClaim (.slot (core * 8 + f) i)) s = .next ((s.modLaunch who.launch (fun x => { x with
        range := some { r with next := r.next + n } })).modFrame core f (fun y => { (y.send (.val (BitVec.ofNat 64 (r.next * 2 ^ 32 + n)))
          (loadTargets (y.slot i))) with asks := y.asks.filter (fun j => j != i), rngs := y.rngs ++ [(i, r.next, n)] }))) ∧
    -- the tag window
    (let x := s.graph job g
     x.live = true →
     (x.closedAdm = false → x.adm - x.lo < s.liveEff x → s.tagElsewhere job g x.adm = false →
       (∀ cl ∈ imageClusters x.img, ∀ d ∈ tagDemand x.img cl, d.2 ≤ s.unreserved cl d.1) →
       exec (.tagAdmit job g) s = .next (s.modGraph job g (fun y => { y with adm := y.adm + 1 }))) ∧
     (x.lo < x.adm → s.tagHeld job g x.lo = false → s.sourcesPast job g = true →
       exec (.tagRetire job g) s = .next ((s.modGraph job g (fun y => { y with lo := y.lo + 1 })).tryRetire job g))) ∧
    -- jobs
    (∀ w, (s.job job).state = 0 → 0 < job → job < 4095 →
      exec (.jobCreate job w) s = .next (((s.onWork (fun x => { x with counts := x.counts.filter (fun e =>
        !(e.1 / 2048 / 2 ^ 46 == 3 && e.1 / 2048 % 2 ^ 46 / 2 ^ 32 == job)) })).modJob job (fun _ =>
          { state := 1, weight := if w = 0 then 16 else w % 256 })).setCount 4 job 3 0 1)) ∧
    (∀ c, (s.job job).state = 1 → job ≠ 0 → exec (.jobClose job c) s =
      .next (((s.modJob job (fun j => { j with state := 2, closeCtr := some c })).countDownFrom 4 job 0 0).endUpper 4 job)) ∧
    (∀ w, (s.job job).state = 1 → job ≠ 0 → exec (.jobWeight job w) s =
      .next (s.modJob job (fun j => { j with weight := if w = 0 then 16 else w % 256 })))

/-- R192 to R200, R206, R319, R432, R437: a cell enters its ingress queue; an auction matches heads to egress ports and its slot
ends; matched cells cross; an egress port delivers the head of its buffer, class 1 first; an AGN's line is flushed.
Where it reads or chooses beyond the spec's words: notes/assumptions/46, 47, 59, 86. -/
def Obligations.MarketEvents : Prop :=
  ∀ (s : State) (cl : Nat),
    let m := s.market cl
    (∀ core i rest t, (s.coreSt core).issue = i :: rest → i.held = false →
      (s.modCoreSt core (fun k => { k with issue := rest })).enterMarket (coreCluster core) i.port i.cell = some t →
      exec (.cellAdmit (.core core)) s = .next t) ∧
    (m.matched.all (fun x => x.crossed || decide (m.slot < x.slot + 3)) = true →
      let s1 := s.modMarket cl Market.countAged
      let bs := (s1.market cl).bidders
      let offers : List (Nat × Bidder) := (List.range 32).filterMap (fun e => (s1.offer cl e bs).map (fun b => (e, b)))
      let acc : List (Nat × Bidder × Nat × List Nat) := (List.range 32).filterMap (fun i =>
        ((s1.market cl).accepts i offers).map (fun a => (i, a)))
      -- each accepted offer moves the pointers past it, and matches its head
      let s2 := acc.foldl (fun t a => t.modMarket cl (fun k => { k with
        op := a.2.2.2.foldl (fun p e => tset p e ((a.1 + 1) % 32)) k.op, ap := tset k.ap a.1 ((a.2.2.1 + 1) % 32) })) s1
      let s3 := acc.foldl (fun t a => t.matchHead cl a.2.1 a.2.2.2) s2
      ∃ t, exec (.auction cl) s = .next t ∧ t = s3.modMarket cl Market.nextSlot ∧ (t.market cl).slot = (s3.market cl).slot + 1) ∧
    (∀ k, m.queue k ≠ [] → m.headAged k = true → m.agedQ.contains k = false →
      exec (.headAged cl k) s = .next (s.modMarket cl (fun y => { y with aged := y.aged + 1, agedQ := y.agedQ ++ [k] }))) ∧
    (let due := m.matched.filter (fun x => !x.crossed && decide (x.slot + 2 ≤ m.slot))
     ∃ t, exec (.cellCross cl) s = .next t ∧ ∀ e,
       tget (t.market cl).buf0 e = tget m.buf0 e ++ ((due.filter (fun x => x.cell.cell.cls == false && x.egress == e)).map (·.cell)) ∧
       tget (t.market cl).buf1 e = tget m.buf1 e ++ ((due.filter (fun x => x.cell.cell.cls && x.egress == e)).map (·.cell))) ∧
    (∀ e c rest t, tget m.buf1 e = c :: rest → s.deliver cl e c = .took t →
      exec (.egressDrain cl e) s = .next ((t.modMarket cl (fun k => { k with buf1 := tset k.buf1 e ((tget k.buf1 e).drop 1) })).clearShort
        cl e c.age)) ∧
    (∀ e c rest t, tget m.buf1 e = [] → tget m.buf0 e = c :: rest → s.deliver cl e c = .took t →
      exec (.egressDrain cl e) s = .next ((t.modMarket cl (fun k => { k with buf0 := tset k.buf0 e ((tget k.buf0 e).drop 1) })).clearShort
        cl e c.age)) ∧
    (∀ key i ln, (s.agn key).buf[i]? = some ln →
      let t := (s.modAgn key (fun a => { a with buf := a.buf.take i ++ a.buf.drop (i + 1) })).flushLine key ln
      exec (.agnFlush key i) s = .next (if (t.agn key).buf.isEmpty then t.tapFlushed key (t.agn key).stamp else t)) ∧
    (∀ ctx, exec (.purge cl ctx none) s = .next (s.purgeCancelled cl ctx none)) ∧
    (∀ ctx c job g a, (s.purgeCancelled cl ctx (some c)).tagJob cl ctx = some job →
      (s.purgeCancelled cl ctx (some c)).dynamicGraphs job = [g] →
      let t := if (s.purgeCancelled cl ctx (some c)).hurtColour job g c then (s.purgeCancelled cl ctx (some c)).purgeColour job g c
        else s.purgeCancelled cl ctx (some c)
      t.activation job g c = some a → exec (.purge cl ctx (some c)) s = .next (t.settleActivation job g a))


/-- R150 to R154, R159, R256, R259, R260, R369, R397, R410: what the engines complete: a drain, a parked and a restored matrix
context, a transfer's move, a kennel's job, the place of a collective, the next cell of a stream, a copy.
Where it reads or chooses beyond the spec's words: notes/assumptions/37, 39, 40, 74, 79. -/
def Obligations.EngineEvents : Prop :=
  ∀ (s : State) (cl me ctx n : Nat),
    let k := matKey cl me ctx
    let x := s.matCtx k
    (x.drainOp.isSome = true → x.drains = 0 → exec (.mdrnComplete cl me ctx) s =
      .next (((s.modOpen k (fun o => { o with stamp := max o.stamp x.dcts })).matFinish cl me ctx x.dstat).modMat k (fun y => { y with
        drainOp := none }))) ∧
    (∀ m, x.saving = some m → x.saves = 0 → exec (.msaveComplete cl me ctx) s =
      .next (((s.modMat k (fun y => { y with saving := none, parked := true })).postMat k x.sstat m.cell.itag.toNat).cellEnd cl m 0
        (max m.stamp x.scts))) ∧
    (∀ m ag hd t0 s1 h ps t1 s2, x.loading = some m → s.gate m.who.job (waiterCell m) = .go → s.imageAgn cl m = some ag →
      let a := s.agn (agnKey cl m.cell.ctx.toNat ag)
      let p := s.startStamp (engCtx cl me ctx) m.stamp
      s.agnCheck cl (agnRec a.words) .cells = 0 → s.readImage cl m.who.job a m.cell p 0 1 = .ok (hd, t0, s1) →
      imageHead (hd.headD 0) = some h → s1.readImage cl m.who.job a m.cell p 1 h.cells = .ok (ps, t1, s2) →
      exec (.mloadComplete cl me ctx) s =
        .next ((s2.matRestore cl me ctx m h ps (max t0 t1)).cellEnd cl m 0 (max t0 t1))) ∧
    (∀ xf m no ss ds v t s1 w s3, let key := xferKey cl xf n
      let out := m.cell.cop == 0x301 || m.cell.cop == 0x303
      let src := if out then s.localSide cl m false else s.remoteSide cl m false
      let dst := if out then s.remoteSide cl m true else s.localSide cl m true
      let p := s.startStamp (xferTime cl xf m) m.stamp
      s.xferOp key = { used := true, cell := m, num := no } → m.cell.cop ∈ [0x300, 0x301, 0x302, 0x303] →
      s.gate m.who.job (waiterXfer key) = .go → src.span = .places ss → dst.span = .places ds →
      s.readSpan (s.partOfCluster cl) p src.span = .got v t s1 →
      (s1.sideFill m.who.job src (bitOf m.cell.pay.toNat 193)).writePieces (s.partOfCluster cl) p m.agent ds v = .ok (w, s3) →
      exec (.transferComplete cl xf n) s = .next ((s3.sideFill m.who.job dst (bitOf m.cell.pay.toNat 192)).xferDone key cl xf 0
        (if out then t else w) (max t w) (xferLen m.cell))) ∧
    (∀ q i j js, (s.kEngine q i).jobs = j :: js → 3 ≤ (s.kEngine q i).state → j.stat = 0 → j.fin = none →
      s.gate j.cell.who.job (waiterCell j.cell) = .go →
      let job := j.cell.who.job
      let p := s.startStamp (engCtx j.cl 13 j.cell.cell.ctx.toNat) j.cell.stamp
      let w := kWork (s.kView q job) s.freshAt (cellPacket j.cell)
      ∀ t s1 u s2, (s.freshUp w.frees).kReads q job p w.reads = .got 0 t s1 →
        s1.kWrites q job p j.cell.agent w.writes = .got 0 u s2 →
        exec (.kennelJobComplete q i) s = .next (s2.kFinish q i j w.status (max p u) (max t u))) ∧
    (∀ job g i, let c := s.coll job g i
      let b := s.slotCluster (s.collCluster job g i)
      let need := collNeeds c.record
      c.owe = none → (s.graph job g).live = true → thas (s.graph job g).colls i = true → c.placed = false → c.doneW = false →
      c.aborted = false →
      (tget s.lnk.slots b + need.1 ≤ 4 → tget s.lnk.gates 4 + need.2 ≤ 16 →
        exec (.collPlace job g i true) s = .next ((s.onLnk (fun l => { l with
          slots := if need.1 = 0 then l.slots else tset l.slots b (tget l.slots b + need.1)
          gates := if need.2 = 0 then l.gates else tset l.gates 4 (tget l.gates 4 + need.2) })).modColl job g i (fun y => { y with
            placed := true, slots := if need.1 = 0 then [] else [b], gates := need.2 }))) ∧
      (exec (.collPlace job g i false) s = .next (s.collDone job g i 0x71))) ∧
    (∀ key st, let a := s.agn key
      let r := agnRec a.words
      let c := agnCl key
      a.stream = some st → st.stopped = false → st.hurt = false → a.cellOut = none → s.retained c = false →
      s.gate st.who.job (waiterStream key) = .go →
      (s.streamNext r st = none → st.pers = false ∨ st.ended = true → exec (.streamCell key) s = .next (s.streamEnd key st 0)) ∧
      (∀ y vs g hit s1, s.streamNext r st = some y →
        let h := s.streamHead key r st y
        let os := (List.range r.perCell).map (fun j => if j < y.n then some (y.first + j) else none)
        let out := if h.side = 63 then { h with pay := packElems r.ebits vs, car := presentCar os }
          else { h with pay := packElems r.ebits vs }
        s.cellOk c st.who.job h = true → deviceOnly h = false → (h.side = 0 ∨ h.side = 63) →
        s.readElems c (if st.tk.isSome then st.who.core else a.core) st.who.job (h.cop.toNat / 128) r [] (max st.stamp a.stamp) os =
          .ok (vs, g, hit, s1) →
        exec (.streamCell key) s = .next ((s1.modAgn key (fun z => { z with stamp := max z.stamp g.t, cellOut := some {
          cell := out.seal, stamp := g.t, agent := sidAgent st.who.sid, who := st.who, age := s1.tickNo
          report := match st.tk with
            | some t => .stream t
            | none => .streamNode key } })).tickUp))) ∧
    (let key := copyKey cl n
     let o := s.copyOp key
     ∀ v t s1, o.used = true → o.hurt = false → s.gate o.who.job (waiterCopy key) = .go → o.c.kind < 3 → o.status = 0 →
      s.copyData cl o = .got v t s1 → exec (.copyComplete cl n) s = .next (s1.copyPut key cl o v t))

/-- R290 to R292, R301, R326, R327: a majority access, message by message; the hounds and the rebases.
Where it reads or chooses beyond the spec's words: notes/assumptions/28, 29, 93, 94. -/
def Obligations.MajorityEvents : Prop :=
  ∀ (s : State) (k i : Nat),
    let o := s.majOp k
    let root := s.partOfCluster (sidCluster o.sid)
    let st := (s.ssetStacks root o.sset).getD i 0
    let c := s.majCopy root st o.addr
    let answers (d : MajCopy) (ok : Bool) (l : Leg) : Leg :=
      { l with stage := 2, ok := ok, wts := d.wts, wid := d.wid, rts := d.rts, img := d.img }
    let maj := majorityOf (s.ssetStacks root o.sset).length
    (o.used = true → s.copyAnswers root st o.addr = true → (o.leg i).stage = 1 →
      (o.write = true → o.writing = false →
        exec (.copyProbe k i) s = .next (s.setMajOp k (o.modLeg i (fun l => answers c l.ok l)))) ∧
      (o.write = false → let d := copyTakesRead c o.pts
        exec (.copyRead k i) s = .next ((s.setCopy st o.addr d).setMajOp k (o.modLeg i (fun l => answers d l.ok l))))) ∧
    (o.used = true → o.write = true → o.writing = true → (o.leg i).stage = 1 → s.stackUp root st = true →
      let (ok, d) := copyTakesWrite c o.ts (sidAgent o.sid) o.img
      exec (.copyWrite k i) s = .next ((s.setCopy st o.addr d).setMajOp k (o.modLeg i (fun l => { l with
        stage := 2, ok := ok, rts := d.rts })))) ∧
    (o.used = true → o.write = false → (o.leg i).stage = 4 → s.stackUp root st = true →
      let d := copyTakesRepair c o.ts o.wid o.img
      let s1 := (s.setCopy st o.addr d).setMajOp k (o.modLeg i (fun l => { l with stage := 5 }))
      exec (.copyRepair k i) s = .next (if d.tag = c.tag then s1
        else s1.onSys (fun y => { y with hounds := tmod y.hounds (st / 3) (fun h => { h with rdrep := h.rdrep + 1 }) }))) ∧
    -- a probe's answers fix the write once a majority has given them
    (o.used = true → o.write = true → o.writing = false → o.taken = false → (o.leg i).stage = 2 →
      let o1 := o.modLeg i (fun l => { l with stage := 3 })
      let got := ((List.range (s.ssetStacks root o.sset).length).map o1.leg).filter (fun l => l.stage == 3)
      (got.length < maj → exec (.majAnswer k i) s = .next (s.setMajOp k o1)) ∧
      (maj ≤ got.length → ∃ o2, exec (.majAnswer k i) s = .next (s.setMajOp k o2) ∧ o2.writing = true ∧
        o2.ts = max o.pts (got.foldl (fun m l => max m l.rts) 0 + 1) ∧
        o2.img = imgPut (newestLeg got).img o.off o.n o.v.toNat)) ∧
    -- the hounds and the rebases
    (∀ q j, q < 4 → bitOf (s.hound q).cfg.toNat 31 = true → (s.houndCells q)[(s.hound q).pos]? = some j →
      exec (.houndVisit q) s = .next ((s.houndCell (s.partOf q) j).2.modHound q (fun x => { x with
        pos := x.pos + 1, rep := x.rep + BitVec.ofNat 64 (s.houndCell (s.partOf q) j).1 }))) ∧
    (∀ p, p < 4 → s.partOf p = p → (s.part p).walker = false → 3 * 2 ^ 45 ≤ s.maxStamp p →
      let b := 2 ^ 45
      let qs := (List.range 4).filter (fun q => s.partOf q == p)
      exec (.rebase p) s = .next (((((s.quartersOf p).foldl (fun t q => t.houndPass q) (s.mapStamps p (fun t => max t (2 * b)))).dropCaches
        qs).mapStamps p (fun t => max t b - b)).modPart p (fun y => { y with epoch := y.epoch + 1, walker := true }))) ∧
    (∀ p, (s.part p).walker = true → let bit := s.epochBit p
      exec (.rebaseWalkerDone p) s = .next ((s.onMem (fun m => { m with
        lines := m.lines.map (fun e => if s.partOf (homeQuarter (e.1 * 64)) = p then (e.1, convLine bit e.2) else e)
        maj := m.maj.map (fun e => if s.partOf (e.1 / 2 ^ 52 / 3) = p then (e.1, convCopy bit e.2) else e) })).modPart p (fun y => { y with
          walker := false })))

/-- R278 to R286: what waits on a fault record goes on or ends; a job is pre-empted, its switch handlers run or the device saves
its contexts, and it comes back.
Where it reads or chooses beyond the spec's words: notes/assumptions/20, 41, 71, 72. -/
def Obligations.FaultAndPreemptEvents : Prop :=
  ∀ (s : State) (job : Nat),
    (∀ tag f, (s.job job).faults.find? (fun g => g.tag == tag) = some f →
      let left (x : Job) : Job := { x with faults := x.faults.filter (fun g => g.tag != tag), blocked := x.blocked.filter (fun y => y.2 != tag) }
      let ends := (((s.job job).blocked.filter (fun y => y.2 == tag)).map (fun y =>
        (y.1, if f.cause = 0x18 then 0xA2 else if f.cause = 0x19 then 0xA3 else 0x80)))
      exec (.fresumeRetry job tag) s = .next (s.modJob job left) ∧
      exec (.fresumeAbort job tag) s = .next (s.modJob job (fun x => { left x with broken := x.broken ++ ends }))) ∧
    (∀ clusters, (s.job job).state ≠ 0 → exec (.preemptRequest job clusters) s = .next (s.preempt job clusters)) ∧
    (∀ clusters, (s.job job).state ≠ 0 → s.covered job clusters = [] →
      exec (.preemptRequest job clusters) s =
        .next ((s.jobMatrices job clusters).foldl (fun t k => t.modMat k (fun m => { m with frozen := true })) s)) ∧
    (∀ sid, let x := tget s.core.holds sid
      thas s.core.holds sid = true → (s.strand sid).live = false → tgetD 0 s.core.switch sid = 0 →
      (∀ i h, handlerOf (s.graph x.who.job x.who.graph).img = some (i, h) →
        ∃ t, exec (.handlerStart sid) s = .next t ∧ t = s.startHandler sid i h.entry x false) ∧
      (handlerOf (s.graph x.who.job x.who.graph).img = none → ∀ u s1, s.saveAreaBad x.who.job sid true = 0 →
        s.sysWrite (clusterQuarter (sidCluster sid)) x.who.job (s.recordAddr x.who.job sid) x.pts (sidAgent sid)
          (recordWords x ++ List.replicate 43 0) = (u, s1) →
        exec (.handlerStart sid) s = .next (s1.onCores (fun c => { c with holds := tdel c.holds sid, saved := tset c.saved sid x })))) ∧
    (∀ sid, let y := tget s.core.saved sid
      s.core.outs.filter (fun e => e.2 == job + 1) = [(sid, job + 1)] → s.canReturn sid = true → s.pmHolds (sid / 512) = false →
      let s1 := s.returnStrand sid
      let s2 := (s1.jobGraphs job).foldl (fun t e => (t.nodeStreams job e.1).foldl (fun u z => u.startStream z.1 0) t) s1
      exec (.jobRestore job) s = .next ((s2.jobGraphs job).foldl (fun t e => (graphMatrices e.2.img).foldl (fun u k =>
        u.modMat k (fun m => { m with frozen := false })) t) (s2.loadPower (sid / 512) job)) ∧
      (thas s.core.saved sid = true → handlerOf (s.graph y.who.job y.who.graph).img = none → s1 = s.restoreContext sid y.pts))


/-- R357, R364, R365, R371 to R377: a lease request is served, an engine wakes, drains and sleeps; the controller moves a
region's scale and drop; an island hops, droops, and enters and leaves retention.
Where it reads or chooses beyond the spec's words: notes/assumptions/73, 77. -/
def Obligations.LeaseAndPowerEvents : Prop :=
  ∀ (s : State) (q i cl : Nat),
    let e := s.kEngine q i
    let x := s.island q i
    -- leases
    (∀ r rest, s.kHeads q = r :: rest → r.bound = none →
      let kind := (s.lease r.slot).kind
      let own := ((List.range 4).map (fun n => kind * 4 + n)).filter (fun n => !(s.kEngine q n).out)
      (∀ n, s.awakeCount q < s.kBudget q → s.kFree q kind = some n → exec (.leaseServe q) s = .next (s.kWake q n r)) ∧
      (∀ n, own.all (fun m => (s.kEngine q m).awake) = true → (s.awakeCount q < s.kBudget q → s.kFree q kind = none) →
        s.kVictim q r.prio own = some n → exec (.leaseServe q) s = .next (s.kRecall q n r)) ∧
      (∀ n, own.all (fun m => (s.kEngine q m).awake) = false → s.kBudget q ≤ s.awakeCount q →
        s.kVictim q r.prio (List.range 32) = some n → exec (.leaseServe q) s = .next (s.kRecall q n r))) ∧
    (e.state = 2 →
      (e.rel = false → ∀ k, e.slot = k + 1 → exec (.leaseWakeDone q i) s =
        .next ((((s.modKEngine q i (fun y => { y with state := 3, age := s.tickNo })).slotState k 3).slotReady k).tickUp)) ∧
      (e.rel = true → exec (.leaseWakeDone q i) s = .next (s.kDrain q i false))) ∧
    (e.state = 4 → exec (.graceExpire q i) s = .next (s.kDrain q i true)) ∧
    (e.state = 5 → e.jobs = [] → exec (.leaseDrainDone q i) s = .next (s.kWarmed q i)) ∧
    (e.state = 1 → (∀ n, n < 32 → (s.kEngine q n).state = 1 → e.age ≤ (s.kEngine q n).age) →
      exec (.warmTimeout q i) s = .next (s.modKEngine q i (fun y => { y with state := 0 }))) ∧
    -- the controller, here for region i of quarter q
    (s.scaleFloor q i < s.lscaleOf q i → exec (.lscaleStep q i false) s = .next (s.setLscale q i (s.lscaleOf q i - 1))) ∧
    (s.lscaleOf q i ≤ s.scaleFloor q i → (∀ r, r ∈ s.regionsOf q → s.lscaleOf q r ≤ s.scaleFloor q r) →
      ∀ n, s.regionRequest q i = some n → s.dropOf q i + 1 < n →
        exec (.lscaleStep q i false) s = .next (s.setDrop q i (s.dropOf q i + 1))) ∧
    (0 < s.dropOf q i → exec (.lscaleStep q i true) s = .next (s.setDrop q i (s.dropOf q i - 1))) ∧
    (s.dropOf q i = 0 → (∀ r, r ∈ s.regionsOf q → s.dropOf q r = 0) →
      exec (.lscaleStep q i true) s = .next (s.setLscale q i (min 255 (s.lscaleOf q i + 1)))) ∧
    -- an island
    (∀ n, s.levelTarget q i = some n → x.ret = false → x.str = false → x.hop = none → n ≠ x.cur →
      exec (.vfHop q i) s = .next (s.setIsland q i { x with hop := some n, retry := none })) ∧
    (∀ n, x.hop = some n → exec (.vfHopDone q i) s = .next (s.setIsland q i { x with cur := n, hop := none }) ∧
      exec (.droop q i) s = .next ((s.setIsland q i { x with str := true, hop := none, retry := some n }).onKen (fun k =>
        { k with hopabort := tmod k.hopabort q (fun c => c + 1) }))) ∧
    (x.hop = none → exec (.droop q i) s = .next (s.setIsland q i { x with str := true })) ∧
    (x.str = true → exec (.droopClear q i) s = .next (s.setIsland q i { x with str := false, hop := x.retry, retry := none })) ∧
    (let y := s.island (clusterQuarter cl) (cl % 12)
     let on := s.setIsland (clusterQuarter cl) (cl % 12) { y with ret := false, wake := false }
     (y.ret = false → y.hop = none → s.clusterIdle cl = true → exec (.retentionEnter cl) s =
       .next (s.setIsland (clusterQuarter cl) (cl % 12) { y with ret := true, wake := false })) ∧
     (y.ret = true → y.wake = true ∨ tget s.lnk.mesh cl ≠ [] ∨ s.core.strands.any (fun e => e.2.live && sidCluster e.1 == cl) = true →
       ∀ found, exec (.retentionExit cl true found) s = .next on ∧
         exec (.retentionExit cl false found) s = .next (on.coldRestart cl found)))

/-- R51, R264, R362, R376, R379, R401, R411, R449 to R451, R456 to R459: the host quiesces quarters, changes partitions and
resumes them, and writes registers; a write that is not well formed changes nothing.
Where it reads or chooses beyond the spec's words: notes/assumptions/71, 77, 91, 92. -/
def Obligations.HostRegisterEvents : Prop :=
  ∀ (s : State) (v : Word) (m q k : Nat),
    (s.canQuiesce m = true → exec (.pmQuiesce m) s = .next (s.onSys (fun y => { y with
      pmstat := pmQuiescing, pmask := m, pcfgOld := y.pcfg }))) ∧
    (s.sys.pmstat = pmQuiescing → s.sys.pmask = m → s.launching m = false →
      (s.claimsOpen m = true → exec (.pmQuiesce m) s = .next (s.onSys (fun y => { y with pmstat := pmBusy }))) ∧
      (s.claimsOpen m = false → ∃ t, exec (.pmQuiesce m) s = .next t ∧ (t.workLeft m = true ∨ t.sys.pmstat = pmQuiesced))) ∧
    (s.canResume m = true →
      let qs := (List.range 4).filter (fun n => bitOf m n)
      let t := ((qs.map s.partOf).eraseDups.foldl (fun st r => st.formPart r) ((s.onAcc (fun a => { a with
        tlb := a.tlb.filter (fun e => !qs.contains e.1) })).dropCaches qs)).onSys (fun y => { y with pmstat := pmIdle, pmask := 0 })
      exec (.pmResume m) s = .next (t.splitGraphs.foldl (fun st g => st.graphLost g.1 g.2) t)) ∧
    (pcfgOk v = true →
      (s.quiesced (pcfgChanges s.sys.pcfg v) = true →
        exec (.pcfgWrite v) s = .next ((s.onSys (fun y => { y with pcfg := v })).measureAccess)) ∧
      (s.quiesced (pcfgChanges s.sys.pcfg v) = false → v ≠ s.sys.pcfg → exec (.pcfgWrite v) s = .next s)) ∧
    (pcfgOk v = false → exec (.pcfgWrite v) s = .next s) ∧
    (if wbits v 38 3 = 0 ∧ wbits v 0 6 = 0 then
      exec (.aceWrite k v) s = .next ((s.onLnk (fun l => { l with ace := tset l.ace k v })).measureAccess)
     else exec (.aceWrite k v) s = .next s) ∧
    (if v.toNat < 0xFFFF ∧ v ≠ 0 then
      exec (.pnodeWrite q v) s = .next ((s.modPart (s.partOf q) (fun p => { p with pnode := v })).leaveLink)
     else exec (.pnodeWrite q v) s = .next s) ∧
    (v &&& ~~~(0xFF7F : Word) = 0 →
      exec (.mestatWrite k m v) s = .next (s.modMatEng (k * 4 + m) (fun e => { e with quar := false }))) ∧
    (v.toNat < 2 ^ 32 → exec (.knoutWrite q v) s = .next (((List.range 32).foldl (fun st i => if bitOf v.toNat i then st
      else st.modKEngine q i (fun e => { e with out := false })) s).kServe q)) ∧
    (2 ^ 32 ≤ v.toNat → exec (.knoutWrite q v) s = .next s) ∧
    (let j := s.job k
     let f := clampField (wbits v 8 8) (wbits j.jpwrlo 8 8) (wbits j.jpwrhi 8 8)
     let l := clampField (wbits v 4 3) (wbits j.jpwrlo 4 3) (wbits j.jpwrhi 4 3)
     let p := clampField (wbits v 0 3) (wbits j.jpwrlo 0 3) (wbits j.jpwrhi 0 3)
     (s.contextMode 0 = false → exec (.jpwrWrite k v) s =
       .next ((s.modJob k (fun x => { x with jpwr := BitVec.ofNat 64 (f.1 * 256 + l.1 * 16 + p.1) })).onKen (fun n => { n with
         clampsat := tmod n.clampsat 0 (fun c => c + BitVec.ofNat 64 (f.2.toNat + l.2.toNat + p.2.toNat)) }))) ∧
     (s.contextMode 0 = true → v &&& ~~~(0xFF77 : Word) = 0 → wbits v 0 3 ≠ 0 →
       exec (.jpwrWrite k v) s = .next (s.modJob k (fun x => { x with jpwr := v })))) ∧
    (let x := s.island q k
     v.toNat < 256 → exec (.vfislWrite q k v) s = .next (s.setIsland q k { x with floor := wbits v 0 3, wake := x.wake || x.ret })) ∧
    (∀ (w : RegWrite) r sc u, sysReg w.sysnum = some (r, sc) →
      let c := wbits w.sel 0 6
      let i := hostIssuer (s.partOf (if c ≠ 0 ∧ c < 48 then c / 12 else wbits w.sel 6 2)) w.job
      s.selUnit i sc w.sel = some u → r.access.w = true → r.own = false →
      (∀ t, s.sysRegWrite i u w.val r = .done t → exec (.registerWrite w) s = .next t) ∧
      (s.sysRegWrite i u w.val r = .badsys → exec (.registerWrite w) s = .next s))

/-- R460 to R464: bring-up from power to a device in service, reset, the loader's image, measurements and attestation.
Where it reads or chooses beyond the spec's words: notes/assumptions/1, 4, 90. -/
def Obligations.TrustEvents : Prop :=
  ∀ (s : State) (n : Nat) (img : FwImage),
    -- an image may run exactly when its key's hash is the fused one, its signature verifies, its body has the digest it
    -- gives, and its version is not older than the fused minimum
    (fwImageOk img = true ↔ BitVec.ofNat 256 (leNat (sha256 (leBytes 48 img.key.toNat))) = Config.fusedKey ∧ img.sig.length = 16224 ∧
      Config.slhVerify img.key (signedPart img) img.sig = true ∧ sha256 img.body = leBytes 32 img.digest.toNat ∧
      Config.fusedMin.toNat ≤ img.version.toNat) ∧
    (s.sys.bustate = 0 → exec .powerGood s = .next ((s.onSys (fun y => { y with bustate := 1 })).measure 0 Config.bootRom)) ∧
    (s.sys.bustate = 1 →
      (∀ qs, (∀ x, x ∈ img :: qs → fwImageOk x = true) → exec (.firmwareVerified (img :: qs)) s =
        .next ((((((s.measure 1 img.body).onSys (fun y => { y with bustate := 2, fwver := img.version })).onLnk (fun l => { l with
          ace := tset l.ace 0 aceHost })).quartersVerified qs).buCheck))) ∧
      (∀ qs, (∃ x, x ∈ img :: qs ∧ fwImageOk x = false) →
        ∃ t, exec (.firmwareVerified (img :: qs)) s = .next t ∧ t.sys.bustate = 7 ∧ t.sys.meas = s.sys.meas)) ∧
    (1 ≤ s.sys.bustate → s.sys.bustate ≤ 4 → n < 12 → exec (.stackCalibrated n) s =
      .next ((s.onSys (fun y => { y with caldone := y.caldone ||| (1#12 <<< n) })).buCheck)) ∧
    (s.sys.bustate = 3 → (s.buCheck.sys.bustate = 4 ↔ s.sys.caldone = BitVec.allOnes 12 ∧ s.sys.qver = BitVec.allOnes 4)) ∧
    (s.sys.bustate = 4 → n < 4 → s.sys.qver.getLsbD n = true →
      exec (.quarterInService n) s = .next (s.onSys (fun y => { y with qup := y.qup ||| (1#4 <<< n) }))) ∧
    exec .deviceReset s = .next { State.reset with sched := s.sched } ∧
    (if fwImageOk img = true then exec (.loaderImageOffer img) s =
      .next ((s.onSys (fun y => { y with loaderVer := img.version, loaderDig := img.digest })).measure 3 img.body)
     else exec (.loaderImageOffer img) s = .next s) ∧
    -- a measurement: the register becomes the hash of itself and the hash of what is measured
    (∀ d, tget (s.measure n d).sys.meas n =
      BitVec.ofNat 256 (leNat (sha256 (leBytes 32 (tget s.sys.meas n).toNat ++ sha256 d)))) ∧
    -- attestation: what is asked is done, the done word is written and the next request starts
    (∀ op a, s.sys.attreq = some (op, a) →
      let done (t : State) (x : Nat) : State := (t.sysWrite 0 0 (a + 16512) 0 loaderAgent [x]).2.onSys (fun y => { y with
        attreq := y.attwait.head?, attwait := y.attwait.tail })
      (s.inHostWindow a 16520 = true →
        (op = 1 → exec .attReport s = .next (done (s.sysWrite 0 0 a 0 loaderAgent (wordsOf (s.reportBody ++
          padTo 16224 (Config.slhSign s.reportBody)))).2 0)) ∧
        (op ∈ [2, 3, 4] → exec .attExtend s = .next (done (s.measExtend (op + 3) (((s.sysReadWords 0 0 a 4).map (fun w =>
          leBytes 8 w.toNat)).flatten)) 0)) ∧
        (op = 5 → exec .attCert s = .next (done (s.sysWrite 0 0 a 0 loaderAgent (wordsOf Config.certificate)).2 0))) ∧
      (s.inHostWindow a 16520 = false →
        (op = 1 → exec .attReport s = .next (done s 0x20)) ∧ (op ∈ [2, 3, 4] → exec .attExtend s = .next (done s 0x20)) ∧
        (op = 5 → exec .attCert s = .next (done s 0x20))))


/-- R311, R312, R402 to R406, R411 to R414, R417 to R422, R457: a Tsuax flit that passes its CRC and is the next of its link is
taken and acted on by its type; one that fails its CRC changes nothing but the counters.
Where it reads or chooses beyond the spec's words: notes/assumptions/4, 82, 83. -/
def Obligations.TsuaxEvents : Prop :=
  ∀ (s : State) (port root : Nat) (f : Flit),
    let t := s.flitTaken port f
    let job := flitJob f
    let left := BitVec.ofNat 64 (flitWord f 1)
    let right := BitVec.ofNat 64 (flitWord f 2)
    let refused := (t.sendCplt root f (flitSeq f) 0x20).countRefused
    (∀ i, i ∈ [Instr.tsuaxCell port f, .tsuaxWrite port f, .tsuaxRead port f, .tsuaxRdata port f, .tsuaxCplt port f, .launchFlit port f,
        .mgmtLaunch port f, .mgmtCntr port f, .mgmtCancel port f, .mgmtCfgl port f, .mgmtCfgt port f, .mgmtSrd port f, .mgmtSwr port f,
        .tsuaxCtrl port f] → flitCrcOk f = false →
      exec i s = .next (((s.bumpCrc 0).errRecord 0 3 7 63 port 0 0).ackFlit port 0)) ∧
    (s.flitNext port 7 f root → exec (.tsuaxCtrl port f) s = .next t) ∧
    (s.flitNext port 0 f root → let c := cellOfNumber (flitBits f 128 1280)
      ∀ tag g, c.dcl.toNat < 48 → t.partOfCluster c.dcl.toNat = root → t.ctxTag job c.dcl.toNat = some tag →
        t.graphFor job c (flitSnode f) = some g →
        let who : Owner := { launch := g.launch, graph := (t.launch g.launch).graph, phase := (t.launch g.launch).phase, job := job,
                             core := c.dcl.toNat * 8 }
        exec (.tsuaxCell port f) s = .next (((t.onLnk (fun l => { l with mesh := tmod l.mesh c.dcl.toNat (fun x => x ++ [{
          cell := ({ c with ctx := BitVec.ofNat 6 tag } : Cell).seal, stamp := t.hwmOf root (flitSnode f), snode := flitSnode f
          agent := 2, who := who, age := t.tickNo }]) })).countUp who).tickUp)) ∧
    (s.flitNext port 1 f root → 1 ≤ flitLen f → flitLen f ≤ 192 →
      (t.allowed (flitSnode f) 43 job none = true → ∀ w s1,
        t.outWrite root job (flitWord f 0) (flitBytes f 16 (flitLen f)) = (w, 0, s1) → exec (.tsuaxWrite port f) s =
          .next ((s1.onMem (fun m => { m with hwm := tset m.hwm (root * 65536 + flitSnode f) (max (s1.hwmOf root (flitSnode f)) w)
            })).sendCplt root f (flitTag f) 0)) ∧
      (t.allowed (flitSnode f) 43 job none = false → exec (.tsuaxWrite port f) s =
        .next ((t.sendCplt root f (flitTag f) 0x20).countRefused))) ∧
    (s.flitNext port 2 f root → 1 ≤ flitLen f → flitLen f ≤ 192 →
      (t.allowed (flitSnode f) 44 job none = true →
        (∀ bs, t.outRead root job (flitWord f 0) (flitLen f) = .ok bs → exec (.tsuaxRead port f) s =
          .next (t.sendRdata root f (flitTag f) 0 bs)) ∧
        (∀ e, t.outRead root job (flitWord f 0) (flitLen f) = .error e → exec (.tsuaxRead port f) s =
          .next (t.sendRdata root f (flitTag f) e []))) ∧
      (t.allowed (flitSnode f) 44 job none = false → exec (.tsuaxRead port f) s =
        .next ((t.sendRdata root f (flitTag f) 0x20 []).countRefused))) ∧
    (∀ r, let tag := flitWord f 0 % 65536
      let st := bits (flitWord f 0) 56 8
      t.lnk.reqs.find? (fun x => x.tag == tag) = some r →
      let u := t.onLnk (fun l => { l with reqs := l.reqs.filter (fun x => x.tag != tag) })
      (∀ k, s.flitNext port 3 f root → st = 0 → r.copy = some k → r.xfer = none → (u.copyOp k).used = true →
        exec (.tsuaxRdata port f) s = .next (u.modCopy k (fun o => { o with
          data := if r.off = o.data.length then o.data ++ flitBytes f 8 r.len else o.data, status := 0 }))) ∧
      (∀ k, s.flitNext port 4 f root → st = 0 → r.copy = none → r.xfer = some k → exec (.tsuaxCplt port f) s =
        .next (u.modXfer k (fun o => { o with sent := o.sent + r.len, stage := 2 })))) ∧
    (s.flitNext port 5 f root → let qk := flitWord f 0 % 1024
      let q := t.queue qk
      (t.allowed (flitSnode f) 46 job (some qk) = true → t.queueOfJob qk job = true → (t.job job).state = 1 → q.full = false →
        t.pmHolds (qk / 256) = false → exec (.launchFlit port f) s =
          .next (((((t.modQueue qk (fun x => { x with claim := q.claim + 1 })).sysWrite (qk / 256) job (q.slotAddr q.claim) 0 2
            ((List.range 24).map (fun i => flitWord f (1 + i)))).2).queuePublish qk q.claim).sendCplt root f (flitSeq f) 0)) ∧
      (t.allowed (flitSnode f) 46 job (some qk) = false → exec (.launchFlit port f) s = .next refused)) ∧
    (s.flitNext port 6 f root → let n := flitWord f 0 % 16
      let may (right : Nat) (q : Option Nat) : Prop := t.allowed (flitSnode f) right job q = true
      (n = 0 → let qk := right.toNat
        may 46 (some qk) → ∀ ws p s1, t.cfgWordsFrom root job left.toNat 0 24 = .ok (ws, p, s1) → s1.queueOfJob qk job = true →
          (s1.job job).state = 1 → (s1.queue qk).full = false → s1.pmHolds (qk / 256) = false →
          let q := s1.queue qk
          exec (.mgmtLaunch port f) s = .next (((((s1.modQueue qk (fun x => { x with claim := q.claim + 1 })).sysWrite (qk / 256) job
            (q.slotAddr q.claim) p 2 (ws.map (fun w => w.toNat))).2).queuePublish qk q.claim).sendCplt root f (flitSeq f) 0)) ∧
      (n = 1 → may 46 none → left.toNat < 1024 → exec (.mgmtCntr port f) s =
        .next ((t.counterAdd job left.toNat right.toNat).sendCplt root f (flitSeq f) 0)) ∧
      (n = 2 → may 45 none → flitWord f 3 = 3 → left.toNat < 2 ^ 32 →
        (∀ u, t.cancelOf job 3 left.toNat = some u → exec (.mgmtCancel port f) s = .next (u.sendCplt root f (flitSeq f) 0)) ∧
        (t.cancelOf job 3 left.toNat = none → exec (.mgmtCancel port f) s = .next (t.sendCplt root f (flitSeq f) 0x30))) ∧
      (n = 3 → may 42 none → right = 0 → ∀ st a b u, t.cfglRun root job left.toNat (flitWord f 3 % 8192) 0 = .finish st a b u →
        exec (.mgmtCfgl port f) s = .next (u.sendCplt root f (flitSeq f) st)) ∧
      (n = 4 → may 42 none → t.partOfCluster (wbits left 0 6) = root → ∀ st a b u, t.cfgtRun left right 0 = .finish st a b u →
        exec (.mgmtCfgt port f) s = .next (u.sendCplt root f (flitSeq f) st)) ∧
      (n = 5 → may 41 none → ∀ v, t.regRead (t.flitIssuer root f) (flitWord f 3) left = some v →
        exec (.mgmtSrd port f) s = .next (t.sendRdata root f (flitSeq f) 0 (leBytes 8 v.toNat))) ∧
      (n = 6 → may 41 none → ∀ u, t.regWrite (t.flitIssuer root f) (flitWord f 3) left right = .done u →
        exec (.mgmtSwr port f) s = .next (u.sendCplt root f (flitSeq f) 0)) ∧
      (t.allowed (flitSnode f) 41 job none = false → (n = 5 → exec (.mgmtSrd port f) s = .next refused) ∧
        (n = 6 → exec (.mgmtSwr port f) s = .next refused)))

/-- R311, R399, R407, R408: RoCEv2 requests, the answers of an XNET transfer, pauses, congestion, and a rank that leaves.
Where it reads or chooses beyond the spec's words: notes/assumptions/78, 80, 81. -/
def Obligations.EthernetEvents : Prop :=
  ∀ (s : State) (r : RoceReq) (cl xf n : Nat),
    let qp := tget s.lnk.qps r.qpn
    let send (t : State) (m : EthMsg) : State := t.onLnk (fun l => { l with ethOut := l.ethOut ++ [m] })
    let k := xferKey cl xf n
    let o := s.xferOp k
    (qp.valid = true →
      (Config.rkeyOk r.qpn r.rkey = true →
        (∀ w s1, s.outWrite qp.part qp.job r.va.toNat r.data = (w, 0, s1) →
          exec (.roceRdmaWrite r) s = .next (send s1 { qpn := r.qpn, kind := 3 }) ∧
          exec (.roceRdmaWriteImm r) s = .next (send s1 { qpn := r.qpn, kind := 3 })) ∧
        (∀ bs, s.outRead qp.part qp.job r.va.toNat r.len = .ok bs → exec (.roceRdmaRead r) s =
          .next (send s { qpn := r.qpn, kind := 5, len := bs.length, data := bs }))) ∧
      (Config.rkeyOk r.qpn r.rkey = false → exec (.roceRdmaWrite r) s = .next (send s { qpn := r.qpn, kind := 4 }) ∧
        exec (.roceRdmaRead r) s = .next (send s { qpn := r.qpn, kind := 4 })) ∧
      exec (.roceUnsupported r) s = .next (send s { qpn := r.qpn, kind := 4 }) ∧
      exec (.congestionNotification r.qpn) s = .next (s.onLnk (fun l => { l with
        qps := tmod l.qps r.qpn (fun (q : Qp) => { q with rate := q.rate + 1 }) }))) ∧
    (o.used = true → isXnet o.cell.cell = true → o.stage = 1 →
      (∀ data, exec (.roceResponse cl xf n data true) s =
        .next ((s.modXfer k (fun x => { x with status := 0x7B, stage := 2 })).xferStep cl xf n)) ∧
      (xferNop o.cell.cell ≠ 2 → exec (.roceResponse cl xf n [] false) s =
        .next ((s.modXfer k (fun x => { x with stage := 2 })).xferStep cl xf n)) ∧
      (xferNop o.cell.cell = 2 → ∀ data, let all := (o.data ++ data).take (xferLen o.cell.cell)
        (xferLen o.cell.cell ≤ all.length → exec (.roceResponse cl xf n data false) s =
          .next ((s.modXfer k (fun x => { x with data := all, stage := 2 })).xferStep cl xf n)) ∧
        (all.length < xferLen o.cell.cell → exec (.roceResponse cl xf n data false) s =
          .next (s.modXfer k (fun x => { x with data := all })))) ∧
      ∃ t, exec (.roceRetryTimeout cl xf n) s = .next t ∧
        (t = (s.freshFree.2.modXfer k (fun x => { x with status := 0x7A, stage := 2 })).xferStep cl xf n ∨
         t = s.freshFree.2.xnetSend k o.cell.cell o.data ∨
         t = (s.freshFree.2.modXfer k (fun x => { x with data := [] })).xnetSend k o.cell.cell [])) ∧
    (∀ port prio on, exec (.pfcPause port prio on) s = .next (s.onLnk (fun l => { l with pfc := tset l.pfc (port * 8 + prio) on }))) ∧
    (∀ job g rank, (s.graph job g).live = true → exec (.rankLeftFabric job g rank) s =
      .next (((s.graph job g).colls.map (fun e => e.1)).foldl (fun t i =>
        let w := (t.coll job g i).record
        if rank < collRanks w ∧ rank ≠ collRank w then t.collAbort (t.collCluster job g i) job g i 0x72 else t) s))


/-- R426 to R430, R445 to R448: a UCIe flit that is next on its module is taken and acted on by its type; a flit that fails
its CRC is counted and recorded; a module trains.
Where it reads or chooses beyond the spec's words: notes/assumptions/84, 85. -/
def Obligations.UcieEvents : Prop :=
  ∀ (s base : State) (die m : Nat) (f : Flit),
    let t := base.ucTaken die m f
    let (d, k) := ucFar die m
    let both (s : State) (g : UcMod → UcMod) : State := (s.modUc die m g).modUc d k g
    let tagged (rk tag : Nat) : Option State := t.winTake (ucWinKey die rk d 0) tag
    (s.ucNext base die m 1 f false → ucRk f = 0 → ∀ x rest,
      takeFirst (fun (x : MCell) => x.cell == ucCell f && x.stamp % 2 ^ 48 == ucStamp f && x.rk == ucRk f && x.rseq == ucRseq f)
        (t.ucMod d k).cells = some (x, rest) → clusterQuarter x.cell.dcl.toNat = die →
      exec (.ucieCell die m f) s = .next ((t.modUc d k (fun y => { y with cells := rest })).onLnk (fun l => { l with
        mesh := tmod l.mesh x.cell.dcl.toNat (fun y => y ++ [x]) }))) ∧
    (s.ucNext base die m 2 f true → ∀ u, tagged 0 (bits (ucWord f 2) 16 16) = some u →
      exec (.ucieMreq die m f) s = .next (u.ucMreq die m f)) ∧
    (s.ucNext base die m 2 f true → tagged 0 (bits (ucWord f 2) 16 16) = none →
      exec (.ucieMreq die m f) s = .next (t.modUc die m (fun x => { x with drop := x.drop + 1 }))) ∧
    (s.ucNext base die m 3 f true → ∀ u, tagged 3 (ucWord f 0 % 65536) = some u → exec (.ucieMrsp die m f) s = .next u) ∧
    (s.ucNext base die m 4 f true → exec (.ucieXlat die m f) s = .next (t.ucXlat die f)) ∧
    (s.ucNext base die m 5 f true → exec (.ucieSys die m f) s = .next t) ∧
    (s.ucNext base die m 6 f true → exec (.ucieTime die m f) s = .next t) ∧
    ((s.ucMod die m).state < 2 → ucCrcOk f = true → ucType f = 0 → exec (.ucieCtrl die m f) s = .next (s.ucHeard die m f)) ∧
    (∀ i, i ∈ [Instr.ucieCell die m f, .ucieMreq die m f, .ucieMrsp die m f, .ucieXlat die m f, .ucieSys die m f, .ucieTime die m f,
        .ucieCtrl die m f] → (s.ucMod die m).state < 2 → ucCrcOk f = false → (s.ucMod die m).nakked = true →
      let root := if die < 4 then s.partOf die else 0
      exec i s = .next ((s.bumpCrc root).errRecord root 3 6 63 m 0 0)) ∧
    -- training
    ((s.ucMod die m).state = 2 → ∀ lo hi rep, let root := if die < 4 then s.partOf die else 0
      let full := lo && hi && (s.ucMod die m).try64
      let half := if full then 0 else if lo && hi then (s.ucMod die m).half else if lo then 0 else 1
      let s1 := both s (fun x => { x.restart with state := if full then 0 else 1, half := half, wide := full, repaired := rep % 256 })
      (lo = false → hi = false → exec (.ucieRetrainDone die m lo hi rep) s =
        .next ((both s (fun x => { x with state := 3, repaired := rep % 256 })).errRecord root 8 6 63 m 0 0)) ∧
      (lo = true ∨ hi = true → exec (.ucieRetrainDone die m lo hi rep) s =
        .next (((if (s.ucMod die m).wide && !full then s1.errRecord root 7 6 63 m 0 0 else s1).pumpUc die m).pumpUc d k))) ∧
    exec (.uccmdRetrain die m) s = .next (s.ucRetrain die m true)

/-- R439 to R444: two equal exit cells of a twin let the first go on; two that differ are a mismatch; a cold restart leaves the
cluster without strands or configuration, and its SRAM reads zero.
Where it reads or chooses beyond the spec's words: notes/assumptions/88, 89. -/
def Obligations.ReliabilityEvents : Prop :=
  ∀ (s : State) (cl : Nat),
    (∀ a b, findPair (tget s.eng.comps cl) = some (a, b) →
      (twinCopyOf a = 0 ∧ twinCopyOf b = 1 ∧ pairKey a b = true) ∧
      (exitEqual a.cell b.cell = true → exec (.comparatorPair cl) s = .next (((s.onEng (fun e => { e with
        comps := tmod e.comps cl (fun (l : List MCell) => l.filter (fun x => !([a.age, b.age] : List Nat).contains x.age)) })).onEng (fun e => { e with
        outs := tmod e.outs (cl * 32 + 31) (fun (l : List MCell) => l ++ [{ a with cmp := 0, passed := true, stall := 0 }])
        })).cellEnd cl b 0 b.stamp)) ∧
      (exitEqual a.cell b.cell = false → exec (.comparatorPair cl) s = .next (s.mismatch cl a))) ∧
    (∀ a, (tget s.eng.comps cl).find? (fun a => !(tget s.eng.comps cl).any (fun b => twinCopyOf a != twinCopyOf b && pairKey a b)) =
      some a → exec (.twinTimeout cl) s = .next (s.mismatch cl a)) ∧
    -- the third mismatch of a graph cancels it
    (∀ (x : MCell), let job := x.who.job
      let g := x.who.graph
      let n := (s.graph job g).mism + 1
      let root := s.partOfCluster cl
      3 ≤ n → s.mismatch cl x = (((((s.modGraph job g (fun y => { y with mism := n })).bumpSdc root).errRecord root 4 3 cl 15 g n).noteEnd
        x.who 4 0).cancelUnit 2 (graphKey job g))) ∧
    (∀ found, let r := s.freeNumber 1
      let r2 := r.2.freeNumber 1
      let s1 := r2.2.errRecord (s.partOfCluster cl) 6 0 cl 0 r.1 r2.1
      let gs := s1.liveGraphs.filter (fun e => (imageClusters e.2.img).contains cl)
      let done (t : State) : State := (((((t.dropCluster cl s.tickNo).killCluster cl).voidConfig cl).zeroSram cl).settleHeads cl)
      (gs = [] → exec (.coldRestart cl found) s = .next (done s1)) ∧
      (∀ e, gs = [e] → s1.newRegion cl e.1 e.2 found = none → exec (.coldRestart cl found) s =
        .next (done (s1.graphLost (e.1 / 65536) (e.1 % 65536)))) ∧
      (∀ e cls, gs = [e] → s1.newRegion cl e.1 e.2 found = some cls → exec (.coldRestart cl found) s =
        .next (done (s1.replaceGraph e.1 cl cls)))) ∧
    -- SRAM of the cluster holds zero, and nothing else is touched
    (∀ a, inCluster cl a = true → mget (s.zeroSram cl).mem.bytes a = 0) ∧
    (∀ a, inCluster cl a = false → mget (s.zeroSram cl).mem.bytes a = mget s.mem.bytes a) ∧
    (∀ k r, (tget (s.voidConfig cl).acc.agns k = r → agnCl k = cl → r = {}))


/-- R69 to R72, R90 to R97: DECODE AND ENCODE AGREE. A word decodes to an instruction exactly when that instruction is well
formed and the word is its encoding: every bit of every encoding is read, and every other word is refused.
Where it reads or chooses beyond the spec's words: notes/assumptions/12. -/
def Obligations.DecodeEncode : Prop :=
  ∀ (w : IWord) (i : Instr), decode w = .ok i ↔ (i.wf = true ∧ encode i = some w)

/-- R69 to R72, R90 to R97: words written out from the encodings of spec/04 decode to the instructions they stand for. -/
def Obligations.DecodedWords : Prop :=
  (decode 0x03100040#32 = .ok (.callo .always 2 64) ∧
  decode 0x05000000#32 = .ok (.ret .always 0) ∧
  decode 0x02080000#32 = .ok (.bri .always 1)) ∧
  (decode 0x0D024681#32 = .ok (.const .always 0x123 (.left 1)) ∧
  decode 0x2C080083#32 = .ok (.sext .always .w (.left 3) .none) ∧
  decode 0x4E040682#32 = .ok (.bfxi .always 0x203 (.left 2))) ∧
  (decode 0x30030F88#32 = .ok (.teq .always (.pred 8) (.pred 7)) ∧
  decode 0x30831589#32 = .ok (.teq .onFalse (.pred 9) (.pred 10)) ∧
  decode 0x68240084#32 = .ok (.fcvtFI .always .d .rtz (.left 4) .none)) ∧
  (decodeTableWord 32 0x05000000 = some (.ret .always 0) ∧ decodeTableWord 16 0x0500 = none)

/-- R62, R452 (the byte-addressed memory of homes): a byte written is what is then read; no other byte changes; a little-
endian word written is the word read; memory keeps its one canonical form, and two memories that read alike are equal.
Where it reads or chooses beyond the spec's words: notes/assumptions/5, 6. -/
def Obligations.MemoryLaws : Prop :=
  ∀ (s t : State), s.Sound →
    (∀ a b, (s.setByte a b).Sound ∧ (s.setByte a b).byteAt a = b ∧
      ∀ c, c ≠ a → (s.setByte a b).byteAt c = s.byteAt c) ∧
    (∀ a n v, (s.writeLE a n v).Sound ∧ (s.writeLE a n v).readLE a n = v % 2 ^ (8 * n) ∧
      ∀ c, c < a ∨ a + n ≤ c → (s.writeLE a n v).byteAt c = s.byteAt c) ∧
    (t.Sound → (∀ a, t.byteAt a = s.byteAt a) → t.mem.bytes = s.mem.bytes)

/-- R206, R239, R264, R274, R277, R302, R327, R376, R379, R435, R448, R451, R459, R460, R463: the machine right after reset
holds the values that the spec states for reset.
Where it reads or chooses beyond the spec's words: notes/assumptions/6, 7, 8. -/
def Obligations.ResetState : Prop :=
  let s := State.reset
  (∀ a, s.byteAt a = 0) ∧ s.Sound ∧
  (∀ sid, (s.strand sid).live = false) ∧ (∀ core f, (s.frame core f).used = false) ∧
  (∀ i u, s.sysRegValue i u .mmcfg = 1024 ∧ s.sysRegValue i u .mmepoch = 0 ∧ s.sysRegValue i u .mkcfg = 0x400100 ∧
    (∀ n, s.sysRegValue i u (.mcg n) = 0) ∧ s.sysRegValue i u .mecfg = 64 ∧ s.sysRegValue i u .mestat = 0 ∧
    s.sysRegValue i u .hndcfg = 0x80001000 ∧ s.sysRegValue i u .majfail = 0 ∧ s.sysRegValue i u .qagelim = 2000 ∧
    s.sysRegValue i u .pcfg = 0 ∧ s.sysRegValue i u .pmstat = 0 ∧ s.sysRegValue i u .bustat = 0 ∧
    s.sysRegValue i u .kncfg = 0x143E800808 ∧ s.sysRegValue i u .knout = 0 ∧ s.sysRegValue i u .pwcfg = 50 ∧
    s.sysRegValue i u .errcfg = 0 ∧ s.sysRegValue i u .tvec = 0 ∧ s.sysRegValue i u .fqcfg = 0 ∧
    (∀ n, n < 2 → s.sysRegValue i u (.cwmask n) = BitVec.allOnes 64) ∧ (∀ m, s.sysRegValue i u (.uccfg m) = 0x4000A) ∧
    (∀ n, s.sysRegValue i u (.meas n) = 0) ∧ (∀ n, s.sysRegValue i u (.hil n) = 0 ∧ s.sysRegValue i u (.sset n) = 0 ∧
      s.sysRegValue i u (.mbnd n) = 0)) ∧
  (∀ k, (s.matCtx k).aclean = true) ∧ (s.job 0).state = 1 ∧ (∀ j, j ≠ 0 → (s.job j).state = 0)

/-- R13, R15, R28: A STEP RUNS THE DECODED INSTRUCTION. The step takes the next pick: of the agenda, or else of the free
order. A pick of a slot of a mapped block runs the instruction that the slot's word decodes to, with that slot in focus; a
pick of an event of the device runs it; a pick of neither changes nothing.
Where it reads or chooses beyond the spec's words: notes/assumptions/1, 9, 10. -/
def Obligations.StepRunsInstruction : Prop :=
  ∀ (s : State),
    let head (ps : List Pick) : State := s.onSched (fun c => { c with agenda := ps })
    let free : State := s.onSched (fun c => { c with picks := c.picks + 1 })
    let runs (p : Pick) (t : State) : Prop :=
      (∀ core f n i, p = .slot core f n → (s.frame core f).used = true → n < (s.frame core f).slots.length →
        decode ((s.frame core f).slot n).word = .ok i → step s = exec i (t.onSched (fun c => { c with focus := (core, f, n) }))) ∧
      (∀ core f n, p = .slot core f n → (s.frame core f).used = false ∨ (s.frame core f).slots.length ≤ n → step s = .next t) ∧
      (∀ i, p = .event i → i.isWord = false → i.wf = true → step s = exec i t) ∧
      (∀ i, p = .event i → i.isWord = true ∨ i.wf = false → step s = .next t)
    (∀ p ps, s.sched.agenda = p :: ps → runs p (head ps)) ∧
    (s.sched.agenda = [] → runs (Config.pick s.sched.picks) free) ∧
    (∀ n w i, decode (BitVec.ofNat 32 w) = .ok i → step (s.withFetchWord n w) =
      exec i ((s.withFetchWord n w).onSched (fun c => { c with agenda := [], focus := (0, 0, 0) })))

/-- R266, R270, R271, R274: taking a trap and returning from it. The blocks of the strand abort; without a handler, or in
handler mode, the strand is killed FAULTED; otherwise TCAUSE, TBLK, TARG and TRESUME are filled, g60 to g62 go to the bank and
are loaded with the cause, the block and the argument, and the strand goes on at TVEC in handler mode. A return restores g60
to g62 and goes on at TBLK or TRESUME.
Where it reads or chooses beyond the spec's words: notes/assumptions/34. -/
def Obligations.TrapAndReturn : Prop :=
  ∀ (s : State) (sid : Nat) (t : Trap) (blk : Word) (len : Nat),
    let a := s.abortAll sid
    let b := if t.cause = 9 then a.modStrand sid (fun x => { x with async := 0 }) else a
    let x := b.strand sid
    let tvec := (b.job x.who.job).tvec
    let flag (o : Option Nat) : Nat := if o.isSome then 1 else 0
    let cause : Word := BitVec.ofNat 64 (t.cause * 2 ^ 56 + (if t.fetch then 1 else 0) * 2 ^ 55 + flag t.slot * 2 ^ 54 + t.slot.getD 0 * 2 ^ 47 +
      flag t.agn * 2 ^ 46 + t.agn.getD 0 * 2 ^ 41)
    let resume := if t.cause = 7 then blk else if t.fetch then blk + 4 else blk + BitVec.ofNat 64 (4 * (len + 2))
    (x.hmode = true ∨ tvec = 0 → s.takeTrap sid t blk len = b.killStrand sid 2) ∧
    (x.hmode = false → tvec ≠ 0 → ∃ y, s.takeTrap sid t blk len = b.setStrand sid y ∧
      y.tcause = cause ∧ y.tblk = blk ∧ y.targ = t.arg ∧ y.tresume = resume ∧
      y.tbank0 = tget x.regs 60 ∧ y.tbank1 = tget x.regs 61 ∧ y.tbank2 = tget x.regs 62 ∧
      tget y.regs 60 = cause ∧ tget y.regs 61 = blk ∧ tget y.regs 62 = t.arg ∧
      (∀ g, g < 60 ∨ 62 < g → tget y.regs g = tget x.regs g) ∧ y.hmode = true ∧ y.pc = tvec ∧ y.privs = x.privs ∧ y.pts = x.pts ∧
      -- and the return
      (∀ skip, let z := y.leaveTrap skip
        (∀ g, tget z.regs g = tget x.regs g) ∧ z.hmode = false ∧ z.privs = x.privs ∧ z.pc = if skip then resume else blk))

/-- R34, R35: UNTIL ITS BLOCK COMMITS, AN INSTRUCTION CHANGES NOTHING THAT A PROGRAM SEES. A step that runs a slot of a block
keeps memory in its canonical form, and every strand keeps its registers, PC, mode and trap registers, whether the instruction
fires, waits, traps, leaves its block or makes younger blocks abort.
Where it reads or chooses beyond the spec's words: notes/assumptions/1. -/
def Obligations.UntilCommit : Prop :=
  ∀ (s t : State) (core f n : Nat),
    ((∃ ps, s.sched.agenda = .slot core f n :: ps) ∨ (s.sched.agenda = [] ∧ Config.pick s.sched.picks = .slot core f n)) →
    step s = .next t →
    (s.Sound → t.Sound) ∧
    ∀ sid, let x := s.strand sid
      let y := t.strand sid
      y.regs = x.regs ∧ y.pc = x.pc ∧ y.hmode = x.hmode ∧ y.privs = x.privs ∧ y.live = x.live ∧ y.tcause = x.tcause ∧ y.tblk = x.tblk ∧
      y.targ = x.targ ∧ y.tresume = x.tresume ∧ y.tbank0 = x.tbank0 ∧ y.tbank1 = x.tbank1 ∧ y.tbank2 = x.tbank2

/-- R266, R269 and the statuses of spec/20: NOTHING STOPS THE MACHINE. Every condition that the spec describes is a trap, a
status or a completion: whatever the state and the instruction, executing it answers a next state.
Where it reads or chooses beyond the spec's words: notes/assumptions/97. -/
def Obligations.NothingStops : Prop :=
  (∀ (i : Instr) (s : State), ∃ t, exec i s = .next t) ∧
  (∀ s : State, (∀ core f n, (s.frame core f).used = true → n < (s.frame core f).slots.length →
    ∃ i, decode ((s.frame core f).slot n).word = .ok i) → ∃ t, step s = .next t)
end

