-- ==== Sys2Proof/Laws/Table.lean ====
section
/-! SUPPORT. Laws/Table.lean: the laws of the sparse tables and of the canonical list of bytes: a read after a write gives
what was written, a write leaves every other entry alone, and the canonical form is kept. -/

namespace Sys2Proof.Machine

variable {α : Type}

@[simp] theorem tgetD_tset_same (d : α) (t : Tab α) (k : Nat) (v : α) : tgetD d (tset t k v) k = v := by
  induction t with
  | nil => simp [tset, tgetD]
  | cons e t ih =>
    obtain ⟨j, w⟩ := e
    by_cases h : k = j
    · simp [tset, tgetD, h]
    · by_cases h2 : k < j <;> simp [tset, tgetD, h, h2, ih]

theorem tgetD_tset_ne (d : α) (t : Tab α) {j k : Nat} (v : α) (hne : j ≠ k) : tgetD d (tset t k v) j = tgetD d t j := by
  induction t with
  | nil => simp [tset, tgetD, hne]
  | cons e t ih =>
    obtain ⟨i, w⟩ := e
    by_cases h : k = i
    · subst h; simp [tset, tgetD, hne]
    · by_cases h2 : k < i
      · simp [tset, tgetD, h, h2, hne]
      · by_cases h3 : j = i <;> simp [tset, tgetD, h, h2, h3, ih]

@[simp] theorem tget_tset_same [Inhabited α] (t : Tab α) (k : Nat) (v : α) : tget (tset t k v) k = v :=
  tgetD_tset_same _ t k v

theorem tget_tset_ne [Inhabited α] (t : Tab α) {j k : Nat} (v : α) (hne : j ≠ k) : tget (tset t k v) j = tget t j :=
  tgetD_tset_ne _ t v hne

theorem tget_tset [Inhabited α] (t : Tab α) (j k : Nat) (v : α) :
    tget (tset t k v) j = if j = k then v else tget t j := by
  by_cases h : j = k
  · simp [h]
  · simp [h, tget_tset_ne]

@[simp] theorem tget_tmod_same [Inhabited α] (t : Tab α) (k : Nat) (f : α → α) : tget (tmod t k f) k = f (tget t k) :=
  tget_tset_same t k _

theorem tget_tmod_ne [Inhabited α] (t : Tab α) {j k : Nat} (f : α → α) (hne : j ≠ k) : tget (tmod t k f) j = tget t j :=
  tget_tset_ne t _ hne

theorem tget_tmod [Inhabited α] (t : Tab α) (j k : Nat) (f : α → α) :
    tget (tmod t k f) j = if j = k then f (tget t k) else tget t j := tget_tset t j k _

/-! ## Bytes -/

theorem mget_mset_ne (m : List Host.Cell) {a j : Nat} (b : Byte) (hne : j ≠ a) : mget (mset m a b) j = mget m j := by
  induction m with
  | nil => by_cases hb : b = emptyByte <;> simp [mset, mget, hb, hne]
  | cons e m ih =>
    obtain ⟨k, v⟩ := e
    by_cases h : a = k
    · subst h; by_cases hb : b = emptyByte <;> simp [mset, mget, hb, hne]
    · by_cases h2 : a < k
      · by_cases hb : b = emptyByte <;> simp [mset, mget, h, h2, hb, hne]
      · by_cases h3 : j = k <;> simp [mset, mget, h, h2, h3, ih]

/-- Below the lowest address that a canonical list may hold, every byte is the empty one. -/
theorem mget_below (m : List Host.Cell) {lo a : Nat} (h : canonAbove lo m = true) (ha : a < lo) : mget m a = emptyByte := by
  induction m generalizing lo with
  | nil => rfl
  | cons e m ih =>
    obtain ⟨k, v⟩ := e
    simp only [canonAbove, Bool.and_eq_true, decide_eq_true_eq] at h
    have hk : a ≠ k := by omega
    simp only [mget, if_neg hk]
    exact ih h.2 (by omega)

theorem canonAbove_le (m : List Host.Cell) {lo lo' : Nat} (h : canonAbove lo m = true) (hle : lo' ≤ lo) :
    canonAbove lo' m = true := by
  cases m with
  | nil => rfl
  | cons e m =>
    obtain ⟨k, v⟩ := e
    simp only [canonAbove, Bool.and_eq_true, decide_eq_true_eq] at h ⊢
    exact ⟨⟨by omega, h.1.2⟩, h.2⟩

/-- A write keeps the canonical form. -/
theorem canonAbove_mset (m : List Host.Cell) {lo a : Nat} (b : Byte) (h : canonAbove lo m = true) (ha : lo ≤ a) :
    canonAbove lo (mset m a b) = true := by
  induction m generalizing lo with
  | nil => by_cases hb : b = emptyByte <;> simp [mset, canonAbove, hb, ha]
  | cons e m ih =>
    obtain ⟨k, v⟩ := e
    simp only [canonAbove, Bool.and_eq_true, decide_eq_true_eq, bne_iff_ne] at h
    obtain ⟨⟨hk, hv⟩, hm⟩ := h
    by_cases h1 : a = k
    · subst h1
      by_cases hb : b = emptyByte
      · simp only [mset, if_pos hb, ↓reduceIte]; exact canonAbove_le m hm (by omega)
      · simp [mset, canonAbove, hb, ha, hm]
    · by_cases h2 : a < k
      · by_cases hb : b = emptyByte
        · simp [mset, canonAbove, h1, h2, hb, hk, hv, hm]
        · simp [mset, canonAbove, h1, h2, hb, ha, hv, hm, Nat.succ_le_of_lt h2]
      · simp only [mset, if_neg h1, if_neg h2, canonAbove, Bool.and_eq_true, decide_eq_true_eq, bne_iff_ne]
        exact ⟨⟨hk, hv⟩, ih hm (by omega)⟩

/-- A read of the byte that a write has set. -/
theorem mget_mset_same (m : List Host.Cell) {lo a : Nat} (b : Byte) (h : canonAbove lo m = true) :
    mget (mset m a b) a = b := by
  induction m generalizing lo with
  | nil => by_cases hb : b = emptyByte <;> simp [mset, mget, hb]
  | cons e m ih =>
    obtain ⟨k, v⟩ := e
    simp only [canonAbove, Bool.and_eq_true, decide_eq_true_eq, bne_iff_ne] at h
    by_cases h1 : a = k
    · subst h1
      by_cases hb : b = emptyByte
      · simp only [mset, if_pos hb, ↓reduceIte]; rw [mget_below m h.2 (by omega), hb]
      · simp [mset, mget, hb]
    · by_cases h2 : a < k
      · by_cases hb : b = emptyByte
        · simp only [mset, if_neg h1, if_pos h2, if_pos hb, mget]
          rw [mget_below m h.2 (by omega), hb]
        · simp [mset, mget, h1, h2, hb]
      · simp only [mset, if_neg h1, if_neg h2, mget]
        exact ih h.2

/-- Taking bytes out keeps the canonical form. -/
theorem canonAbove_filter (m : List Host.Cell) (p : Host.Cell → Bool) {lo : Nat} (h : canonAbove lo m = true) :
    canonAbove lo (m.filter p) = true := by
  induction m generalizing lo with
  | nil => rfl
  | cons e m ih =>
    obtain ⟨k, v⟩ := e
    simp only [canonAbove, Bool.and_eq_true, decide_eq_true_eq] at h
    cases hp : p (k, v)
    · simp only [List.filter_cons, hp]
      exact ih (canonAbove_le m h.2 (by omega))
    · simp only [List.filter_cons, hp, ↓reduceIte, canonAbove, Bool.and_eq_true, decide_eq_true_eq]
      exact ⟨h.1, ih h.2⟩

end Sys2Proof.Machine
end

