-- ==== Sys2Proof/Laws/State.lean ====
section
/-! SUPPORT. Laws/State.lean: what each update of the state does to each part of it, and what each accessor reads after each
setter. -/

namespace Sys2Proof.Machine

/-! ## The ten parts -/

@[simp] theorem onSched_sched (s : State) (f : Sched → Sched) : (s.onSched f).sched = f s.sched := rfl
@[simp] theorem onSched_mem (s : State) (f : Sched → Sched) : (s.onSched f).mem = s.mem := rfl
@[simp] theorem onSched_core (s : State) (f : Sched → Sched) : (s.onSched f).core = s.core := rfl
@[simp] theorem onSched_acc (s : State) (f : Sched → Sched) : (s.onSched f).acc = s.acc := rfl
@[simp] theorem onSched_work (s : State) (f : Sched → Sched) : (s.onSched f).work = s.work := rfl
@[simp] theorem onSched_eng (s : State) (f : Sched → Sched) : (s.onSched f).eng = s.eng := rfl
@[simp] theorem onSched_mat (s : State) (f : Sched → Sched) : (s.onSched f).mat = s.mat := rfl
@[simp] theorem onSched_ken (s : State) (f : Sched → Sched) : (s.onSched f).ken = s.ken := rfl
@[simp] theorem onSched_lnk (s : State) (f : Sched → Sched) : (s.onSched f).lnk = s.lnk := rfl
@[simp] theorem onSched_sys (s : State) (f : Sched → Sched) : (s.onSched f).sys = s.sys := rfl
@[simp] theorem onMem_sched (s : State) (f : Memory → Memory) : (s.onMem f).sched = s.sched := rfl
@[simp] theorem onMem_mem (s : State) (f : Memory → Memory) : (s.onMem f).mem = f s.mem := rfl
@[simp] theorem onMem_core (s : State) (f : Memory → Memory) : (s.onMem f).core = s.core := rfl
@[simp] theorem onMem_acc (s : State) (f : Memory → Memory) : (s.onMem f).acc = s.acc := rfl
@[simp] theorem onMem_work (s : State) (f : Memory → Memory) : (s.onMem f).work = s.work := rfl
@[simp] theorem onMem_eng (s : State) (f : Memory → Memory) : (s.onMem f).eng = s.eng := rfl
@[simp] theorem onMem_mat (s : State) (f : Memory → Memory) : (s.onMem f).mat = s.mat := rfl
@[simp] theorem onMem_ken (s : State) (f : Memory → Memory) : (s.onMem f).ken = s.ken := rfl
@[simp] theorem onMem_lnk (s : State) (f : Memory → Memory) : (s.onMem f).lnk = s.lnk := rfl
@[simp] theorem onMem_sys (s : State) (f : Memory → Memory) : (s.onMem f).sys = s.sys := rfl
@[simp] theorem onCores_sched (s : State) (f : Cores → Cores) : (s.onCores f).sched = s.sched := rfl
@[simp] theorem onCores_mem (s : State) (f : Cores → Cores) : (s.onCores f).mem = s.mem := rfl
@[simp] theorem onCores_core (s : State) (f : Cores → Cores) : (s.onCores f).core = f s.core := rfl
@[simp] theorem onCores_acc (s : State) (f : Cores → Cores) : (s.onCores f).acc = s.acc := rfl
@[simp] theorem onCores_work (s : State) (f : Cores → Cores) : (s.onCores f).work = s.work := rfl
@[simp] theorem onCores_eng (s : State) (f : Cores → Cores) : (s.onCores f).eng = s.eng := rfl
@[simp] theorem onCores_mat (s : State) (f : Cores → Cores) : (s.onCores f).mat = s.mat := rfl
@[simp] theorem onCores_ken (s : State) (f : Cores → Cores) : (s.onCores f).ken = s.ken := rfl
@[simp] theorem onCores_lnk (s : State) (f : Cores → Cores) : (s.onCores f).lnk = s.lnk := rfl
@[simp] theorem onCores_sys (s : State) (f : Cores → Cores) : (s.onCores f).sys = s.sys := rfl
@[simp] theorem onAcc_sched (s : State) (f : Access → Access) : (s.onAcc f).sched = s.sched := rfl
@[simp] theorem onAcc_mem (s : State) (f : Access → Access) : (s.onAcc f).mem = s.mem := rfl
@[simp] theorem onAcc_core (s : State) (f : Access → Access) : (s.onAcc f).core = s.core := rfl
@[simp] theorem onAcc_acc (s : State) (f : Access → Access) : (s.onAcc f).acc = f s.acc := rfl
@[simp] theorem onAcc_work (s : State) (f : Access → Access) : (s.onAcc f).work = s.work := rfl
@[simp] theorem onAcc_eng (s : State) (f : Access → Access) : (s.onAcc f).eng = s.eng := rfl
@[simp] theorem onAcc_mat (s : State) (f : Access → Access) : (s.onAcc f).mat = s.mat := rfl
@[simp] theorem onAcc_ken (s : State) (f : Access → Access) : (s.onAcc f).ken = s.ken := rfl
@[simp] theorem onAcc_lnk (s : State) (f : Access → Access) : (s.onAcc f).lnk = s.lnk := rfl
@[simp] theorem onAcc_sys (s : State) (f : Access → Access) : (s.onAcc f).sys = s.sys := rfl
@[simp] theorem onWork_sched (s : State) (f : Work → Work) : (s.onWork f).sched = s.sched := rfl
@[simp] theorem onWork_mem (s : State) (f : Work → Work) : (s.onWork f).mem = s.mem := rfl
@[simp] theorem onWork_core (s : State) (f : Work → Work) : (s.onWork f).core = s.core := rfl
@[simp] theorem onWork_acc (s : State) (f : Work → Work) : (s.onWork f).acc = s.acc := rfl
@[simp] theorem onWork_work (s : State) (f : Work → Work) : (s.onWork f).work = f s.work := rfl
@[simp] theorem onWork_eng (s : State) (f : Work → Work) : (s.onWork f).eng = s.eng := rfl
@[simp] theorem onWork_mat (s : State) (f : Work → Work) : (s.onWork f).mat = s.mat := rfl
@[simp] theorem onWork_ken (s : State) (f : Work → Work) : (s.onWork f).ken = s.ken := rfl
@[simp] theorem onWork_lnk (s : State) (f : Work → Work) : (s.onWork f).lnk = s.lnk := rfl
@[simp] theorem onWork_sys (s : State) (f : Work → Work) : (s.onWork f).sys = s.sys := rfl
@[simp] theorem onEng_sched (s : State) (f : Engines → Engines) : (s.onEng f).sched = s.sched := rfl
@[simp] theorem onEng_mem (s : State) (f : Engines → Engines) : (s.onEng f).mem = s.mem := rfl
@[simp] theorem onEng_core (s : State) (f : Engines → Engines) : (s.onEng f).core = s.core := rfl
@[simp] theorem onEng_acc (s : State) (f : Engines → Engines) : (s.onEng f).acc = s.acc := rfl
@[simp] theorem onEng_work (s : State) (f : Engines → Engines) : (s.onEng f).work = s.work := rfl
@[simp] theorem onEng_eng (s : State) (f : Engines → Engines) : (s.onEng f).eng = f s.eng := rfl
@[simp] theorem onEng_mat (s : State) (f : Engines → Engines) : (s.onEng f).mat = s.mat := rfl
@[simp] theorem onEng_ken (s : State) (f : Engines → Engines) : (s.onEng f).ken = s.ken := rfl
@[simp] theorem onEng_lnk (s : State) (f : Engines → Engines) : (s.onEng f).lnk = s.lnk := rfl
@[simp] theorem onEng_sys (s : State) (f : Engines → Engines) : (s.onEng f).sys = s.sys := rfl
@[simp] theorem onMat_sched (s : State) (f : Matrix → Matrix) : (s.onMat f).sched = s.sched := rfl
@[simp] theorem onMat_mem (s : State) (f : Matrix → Matrix) : (s.onMat f).mem = s.mem := rfl
@[simp] theorem onMat_core (s : State) (f : Matrix → Matrix) : (s.onMat f).core = s.core := rfl
@[simp] theorem onMat_acc (s : State) (f : Matrix → Matrix) : (s.onMat f).acc = s.acc := rfl
@[simp] theorem onMat_work (s : State) (f : Matrix → Matrix) : (s.onMat f).work = s.work := rfl
@[simp] theorem onMat_eng (s : State) (f : Matrix → Matrix) : (s.onMat f).eng = s.eng := rfl
@[simp] theorem onMat_mat (s : State) (f : Matrix → Matrix) : (s.onMat f).mat = f s.mat := rfl
@[simp] theorem onMat_ken (s : State) (f : Matrix → Matrix) : (s.onMat f).ken = s.ken := rfl
@[simp] theorem onMat_lnk (s : State) (f : Matrix → Matrix) : (s.onMat f).lnk = s.lnk := rfl
@[simp] theorem onMat_sys (s : State) (f : Matrix → Matrix) : (s.onMat f).sys = s.sys := rfl
@[simp] theorem onKen_sched (s : State) (f : Kennels → Kennels) : (s.onKen f).sched = s.sched := rfl
@[simp] theorem onKen_mem (s : State) (f : Kennels → Kennels) : (s.onKen f).mem = s.mem := rfl
@[simp] theorem onKen_core (s : State) (f : Kennels → Kennels) : (s.onKen f).core = s.core := rfl
@[simp] theorem onKen_acc (s : State) (f : Kennels → Kennels) : (s.onKen f).acc = s.acc := rfl
@[simp] theorem onKen_work (s : State) (f : Kennels → Kennels) : (s.onKen f).work = s.work := rfl
@[simp] theorem onKen_eng (s : State) (f : Kennels → Kennels) : (s.onKen f).eng = s.eng := rfl
@[simp] theorem onKen_mat (s : State) (f : Kennels → Kennels) : (s.onKen f).mat = s.mat := rfl
@[simp] theorem onKen_ken (s : State) (f : Kennels → Kennels) : (s.onKen f).ken = f s.ken := rfl
@[simp] theorem onKen_lnk (s : State) (f : Kennels → Kennels) : (s.onKen f).lnk = s.lnk := rfl
@[simp] theorem onKen_sys (s : State) (f : Kennels → Kennels) : (s.onKen f).sys = s.sys := rfl
@[simp] theorem onLnk_sched (s : State) (f : Links → Links) : (s.onLnk f).sched = s.sched := rfl
@[simp] theorem onLnk_mem (s : State) (f : Links → Links) : (s.onLnk f).mem = s.mem := rfl
@[simp] theorem onLnk_core (s : State) (f : Links → Links) : (s.onLnk f).core = s.core := rfl
@[simp] theorem onLnk_acc (s : State) (f : Links → Links) : (s.onLnk f).acc = s.acc := rfl
@[simp] theorem onLnk_work (s : State) (f : Links → Links) : (s.onLnk f).work = s.work := rfl
@[simp] theorem onLnk_eng (s : State) (f : Links → Links) : (s.onLnk f).eng = s.eng := rfl
@[simp] theorem onLnk_mat (s : State) (f : Links → Links) : (s.onLnk f).mat = s.mat := rfl
@[simp] theorem onLnk_ken (s : State) (f : Links → Links) : (s.onLnk f).ken = s.ken := rfl
@[simp] theorem onLnk_lnk (s : State) (f : Links → Links) : (s.onLnk f).lnk = f s.lnk := rfl
@[simp] theorem onLnk_sys (s : State) (f : Links → Links) : (s.onLnk f).sys = s.sys := rfl
@[simp] theorem onSys_sched (s : State) (f : System → System) : (s.onSys f).sched = s.sched := rfl
@[simp] theorem onSys_mem (s : State) (f : System → System) : (s.onSys f).mem = s.mem := rfl
@[simp] theorem onSys_core (s : State) (f : System → System) : (s.onSys f).core = s.core := rfl
@[simp] theorem onSys_acc (s : State) (f : System → System) : (s.onSys f).acc = s.acc := rfl
@[simp] theorem onSys_work (s : State) (f : System → System) : (s.onSys f).work = s.work := rfl
@[simp] theorem onSys_eng (s : State) (f : System → System) : (s.onSys f).eng = s.eng := rfl
@[simp] theorem onSys_mat (s : State) (f : System → System) : (s.onSys f).mat = s.mat := rfl
@[simp] theorem onSys_ken (s : State) (f : System → System) : (s.onSys f).ken = s.ken := rfl
@[simp] theorem onSys_lnk (s : State) (f : System → System) : (s.onSys f).lnk = s.lnk := rfl
@[simp] theorem onSys_sys (s : State) (f : System → System) : (s.onSys f).sys = f s.sys := rfl

/-! ## Strands and frames -/

@[simp] theorem setStrand_sched (s : State) (sid : Nat) (x : Strand) : (s.setStrand sid x).sched = s.sched := rfl
@[simp] theorem setStrand_mem (s : State) (sid : Nat) (x : Strand) : (s.setStrand sid x).mem = s.mem := rfl
@[simp] theorem setStrand_acc (s : State) (sid : Nat) (x : Strand) : (s.setStrand sid x).acc = s.acc := rfl
@[simp] theorem setStrand_work (s : State) (sid : Nat) (x : Strand) : (s.setStrand sid x).work = s.work := rfl
@[simp] theorem setStrand_eng (s : State) (sid : Nat) (x : Strand) : (s.setStrand sid x).eng = s.eng := rfl
@[simp] theorem setStrand_mat (s : State) (sid : Nat) (x : Strand) : (s.setStrand sid x).mat = s.mat := rfl
@[simp] theorem setStrand_ken (s : State) (sid : Nat) (x : Strand) : (s.setStrand sid x).ken = s.ken := rfl
@[simp] theorem setStrand_lnk (s : State) (sid : Nat) (x : Strand) : (s.setStrand sid x).lnk = s.lnk := rfl
@[simp] theorem setStrand_sys (s : State) (sid : Nat) (x : Strand) : (s.setStrand sid x).sys = s.sys := rfl
@[simp] theorem setFrame_sched (s : State) (c i : Nat) (x : Frame) : (s.setFrame c i x).sched = s.sched := rfl
@[simp] theorem setFrame_mem (s : State) (c i : Nat) (x : Frame) : (s.setFrame c i x).mem = s.mem := rfl
@[simp] theorem setFrame_acc (s : State) (c i : Nat) (x : Frame) : (s.setFrame c i x).acc = s.acc := rfl
@[simp] theorem setFrame_work (s : State) (c i : Nat) (x : Frame) : (s.setFrame c i x).work = s.work := rfl
@[simp] theorem setFrame_eng (s : State) (c i : Nat) (x : Frame) : (s.setFrame c i x).eng = s.eng := rfl
@[simp] theorem setFrame_mat (s : State) (c i : Nat) (x : Frame) : (s.setFrame c i x).mat = s.mat := rfl
@[simp] theorem setFrame_ken (s : State) (c i : Nat) (x : Frame) : (s.setFrame c i x).ken = s.ken := rfl
@[simp] theorem setFrame_lnk (s : State) (c i : Nat) (x : Frame) : (s.setFrame c i x).lnk = s.lnk := rfl
@[simp] theorem setFrame_sys (s : State) (c i : Nat) (x : Frame) : (s.setFrame c i x).sys = s.sys := rfl
@[simp] theorem modStrand_def (s : State) (sid : Nat) (f : Strand → Strand) :
    s.modStrand sid f = s.setStrand sid (f (s.strand sid)) := rfl
@[simp] theorem modFrame_def (s : State) (c i : Nat) (f : Frame → Frame) :
    s.modFrame c i f = s.setFrame c i (f (s.frame c i)) := rfl

@[simp] theorem strand_setStrand_same (s : State) (sid : Nat) (x : Strand) : (s.setStrand sid x).strand sid = x := by
  simp [State.strand, State.setStrand]
theorem strand_setStrand_ne (s : State) {sid t : Nat} (x : Strand) (h : t ≠ sid) :
    (s.setStrand sid x).strand t = s.strand t := by
  simp [State.strand, State.setStrand, tget_tset_ne _ _ h]
@[simp] theorem frame_setStrand (s : State) (sid c i : Nat) (x : Strand) : (s.setStrand sid x).frame c i = s.frame c i := rfl
@[simp] theorem strand_setFrame (s : State) (sid c i : Nat) (x : Frame) : (s.setFrame c i x).strand sid = s.strand sid := rfl
@[simp] theorem frame_setFrame_same (s : State) (c i : Nat) (x : Frame) : (s.setFrame c i x).frame c i = x := by
  simp [State.frame, State.setFrame]
theorem frame_setFrame_ne (s : State) {c i d j : Nat} (x : Frame) (h : d * 8 + j ≠ c * 8 + i) :
    (s.setFrame c i x).frame d j = s.frame d j := by
  simp [State.frame, State.setFrame, tget_tset_ne _ _ h]
@[simp] theorem coreSt_setStrand (s : State) (sid c : Nat) (x : Strand) : (s.setStrand sid x).coreSt c = s.coreSt c := rfl
@[simp] theorem coreSt_setFrame (s : State) (c i d : Nat) (x : Frame) : (s.setFrame c i x).coreSt d = s.coreSt d := rfl

/-! ## The other tables -/

@[simp] theorem job_modJob_same (s : State) (j : Nat) (f : Job → Job) : (s.modJob j f).job j = f (s.job j) := by
  simp [State.job, State.modJob]
theorem job_modJob_ne (s : State) {i j : Nat} (f : Job → Job) (h : i ≠ j) : (s.modJob j f).job i = s.job i := by
  simp [State.job, State.modJob, tget_tmod_ne _ _ h]
@[simp] theorem launch_modLaunch_same (s : State) (l : Nat) (f : Launch → Launch) : (s.modLaunch l f).launch l = f (s.launch l) := by
  simp [State.launch, State.modLaunch]
theorem launch_modLaunch_ne (s : State) {i l : Nat} (f : Launch → Launch) (h : i ≠ l) : (s.modLaunch l f).launch i = s.launch i := by
  simp [State.launch, State.modLaunch, tget_tmod_ne _ _ h]
@[simp] theorem queue_modQueue_same (s : State) (q : Nat) (f : Queue → Queue) : (s.modQueue q f).queue q = f (s.queue q) := by
  simp [State.queue, State.modQueue]
theorem queue_modQueue_ne (s : State) {i q : Nat} (f : Queue → Queue) (h : i ≠ q) : (s.modQueue q f).queue i = s.queue i := by
  simp [State.queue, State.modQueue, tget_tmod_ne _ _ h]
@[simp] theorem agn_modAgn_same (s : State) (k : Nat) (f : Agn → Agn) : (s.modAgn k f).agn k = f (s.agn k) := by
  simp [State.agn, State.modAgn]
theorem agn_modAgn_ne (s : State) {i k : Nat} (f : Agn → Agn) (h : i ≠ k) : (s.modAgn k f).agn i = s.agn i := by
  simp [State.agn, State.modAgn, tget_tmod_ne _ _ h]
@[simp] theorem pipe_modPipe_same (s : State) (k : Nat) (f : Pipe → Pipe) : (s.modPipe k f).pipe k = f (s.pipe k) := by
  simp [State.pipe, State.modPipe]
theorem pipe_modPipe_ne (s : State) {i k : Nat} (f : Pipe → Pipe) (h : i ≠ k) : (s.modPipe k f).pipe i = s.pipe i := by
  simp [State.pipe, State.modPipe, tget_tmod_ne _ _ h]
@[simp] theorem market_modMarket_same (s : State) (k : Nat) (f : Market → Market) : (s.modMarket k f).market k = f (s.market k) := by
  simp [State.market, State.modMarket]
theorem market_modMarket_ne (s : State) {i k : Nat} (f : Market → Market) (h : i ≠ k) : (s.modMarket k f).market i = s.market i := by
  simp [State.market, State.modMarket, tget_tmod_ne _ _ h]
@[simp] theorem barrier_modBarrier_same (s : State) (k : Nat) (f : Barrier → Barrier) : (s.modBarrier k f).barrier k = f (s.barrier k) := by
  simp [State.barrier, State.modBarrier]
theorem barrier_modBarrier_ne (s : State) {i k : Nat} (f : Barrier → Barrier) (h : i ≠ k) : (s.modBarrier k f).barrier i = s.barrier i := by
  simp [State.barrier, State.modBarrier, tget_tmod_ne _ _ h]
@[simp] theorem part_modPart_same (s : State) (k : Nat) (f : Partition → Partition) : (s.modPart k f).part k = f (s.part k) := by
  simp [State.part, State.modPart]
theorem part_modPart_ne (s : State) {i k : Nat} (f : Partition → Partition) (h : i ≠ k) : (s.modPart k f).part i = s.part i := by
  simp [State.part, State.modPart, tget_tmod_ne _ _ h]
@[simp] theorem port_modPort_same (s : State) (cl p : Nat) (f : Port → Port) : (s.modPort cl p f).port cl p = f (s.port cl p) := by
  simp [State.port, State.modPort]
theorem port_modPort_ne (s : State) {cl p d q : Nat} (f : Port → Port) (h : d * 32 + q ≠ cl * 32 + p) :
    (s.modPort cl p f).port d q = s.port d q := by
  simp [State.port, State.modPort, tget_tmod_ne _ _ h]
@[simp] theorem graph_modGraph_same (s : State) (j g : Nat) (f : Graph → Graph) : (s.modGraph j g f).graph j g = f (s.graph j g) := by
  simp [State.graph, State.modGraph]
@[simp] theorem modJob_sched (s : State) (j : Nat) (f : Job → Job) : (s.modJob j f).sched = s.sched := rfl
@[simp] theorem modJob_mem (s : State) (j : Nat) (f : Job → Job) : (s.modJob j f).mem = s.mem := rfl
@[simp] theorem modJob_core (s : State) (j : Nat) (f : Job → Job) : (s.modJob j f).core = s.core := rfl
@[simp] theorem modJob_acc (s : State) (j : Nat) (f : Job → Job) : (s.modJob j f).acc = s.acc := rfl
@[simp] theorem modJob_eng (s : State) (j : Nat) (f : Job → Job) : (s.modJob j f).eng = s.eng := rfl
@[simp] theorem modJob_mat (s : State) (j : Nat) (f : Job → Job) : (s.modJob j f).mat = s.mat := rfl
@[simp] theorem modJob_ken (s : State) (j : Nat) (f : Job → Job) : (s.modJob j f).ken = s.ken := rfl
@[simp] theorem modJob_lnk (s : State) (j : Nat) (f : Job → Job) : (s.modJob j f).lnk = s.lnk := rfl
@[simp] theorem modJob_sys (s : State) (j : Nat) (f : Job → Job) : (s.modJob j f).sys = s.sys := rfl
@[simp] theorem modLaunch_sched (s : State) (l : Nat) (f : Launch → Launch) : (s.modLaunch l f).sched = s.sched := rfl
@[simp] theorem modLaunch_mem (s : State) (l : Nat) (f : Launch → Launch) : (s.modLaunch l f).mem = s.mem := rfl
@[simp] theorem modLaunch_core (s : State) (l : Nat) (f : Launch → Launch) : (s.modLaunch l f).core = s.core := rfl
@[simp] theorem modLaunch_acc (s : State) (l : Nat) (f : Launch → Launch) : (s.modLaunch l f).acc = s.acc := rfl
@[simp] theorem modLaunch_eng (s : State) (l : Nat) (f : Launch → Launch) : (s.modLaunch l f).eng = s.eng := rfl
@[simp] theorem modLaunch_mat (s : State) (l : Nat) (f : Launch → Launch) : (s.modLaunch l f).mat = s.mat := rfl
@[simp] theorem modLaunch_ken (s : State) (l : Nat) (f : Launch → Launch) : (s.modLaunch l f).ken = s.ken := rfl
@[simp] theorem modLaunch_lnk (s : State) (l : Nat) (f : Launch → Launch) : (s.modLaunch l f).lnk = s.lnk := rfl
@[simp] theorem modLaunch_sys (s : State) (l : Nat) (f : Launch → Launch) : (s.modLaunch l f).sys = s.sys := rfl
@[simp] theorem modQueue_sched (s : State) (q : Nat) (f : Queue → Queue) : (s.modQueue q f).sched = s.sched := rfl
@[simp] theorem modQueue_mem (s : State) (q : Nat) (f : Queue → Queue) : (s.modQueue q f).mem = s.mem := rfl
@[simp] theorem modQueue_core (s : State) (q : Nat) (f : Queue → Queue) : (s.modQueue q f).core = s.core := rfl
@[simp] theorem modQueue_acc (s : State) (q : Nat) (f : Queue → Queue) : (s.modQueue q f).acc = s.acc := rfl
@[simp] theorem modQueue_eng (s : State) (q : Nat) (f : Queue → Queue) : (s.modQueue q f).eng = s.eng := rfl
@[simp] theorem modQueue_mat (s : State) (q : Nat) (f : Queue → Queue) : (s.modQueue q f).mat = s.mat := rfl
@[simp] theorem modQueue_ken (s : State) (q : Nat) (f : Queue → Queue) : (s.modQueue q f).ken = s.ken := rfl
@[simp] theorem modQueue_lnk (s : State) (q : Nat) (f : Queue → Queue) : (s.modQueue q f).lnk = s.lnk := rfl
@[simp] theorem modQueue_sys (s : State) (q : Nat) (f : Queue → Queue) : (s.modQueue q f).sys = s.sys := rfl
@[simp] theorem modAgn_sched (s : State) (k : Nat) (f : Agn → Agn) : (s.modAgn k f).sched = s.sched := rfl
@[simp] theorem modAgn_mem (s : State) (k : Nat) (f : Agn → Agn) : (s.modAgn k f).mem = s.mem := rfl
@[simp] theorem modAgn_core (s : State) (k : Nat) (f : Agn → Agn) : (s.modAgn k f).core = s.core := rfl
@[simp] theorem modAgn_work (s : State) (k : Nat) (f : Agn → Agn) : (s.modAgn k f).work = s.work := rfl
@[simp] theorem modAgn_eng (s : State) (k : Nat) (f : Agn → Agn) : (s.modAgn k f).eng = s.eng := rfl
@[simp] theorem modAgn_mat (s : State) (k : Nat) (f : Agn → Agn) : (s.modAgn k f).mat = s.mat := rfl
@[simp] theorem modAgn_ken (s : State) (k : Nat) (f : Agn → Agn) : (s.modAgn k f).ken = s.ken := rfl
@[simp] theorem modAgn_lnk (s : State) (k : Nat) (f : Agn → Agn) : (s.modAgn k f).lnk = s.lnk := rfl
@[simp] theorem modAgn_sys (s : State) (k : Nat) (f : Agn → Agn) : (s.modAgn k f).sys = s.sys := rfl
@[simp] theorem modPipe_sched (s : State) (k : Nat) (f : Pipe → Pipe) : (s.modPipe k f).sched = s.sched := rfl
@[simp] theorem modPipe_mem (s : State) (k : Nat) (f : Pipe → Pipe) : (s.modPipe k f).mem = s.mem := rfl
@[simp] theorem modPipe_core (s : State) (k : Nat) (f : Pipe → Pipe) : (s.modPipe k f).core = s.core := rfl
@[simp] theorem modPipe_work (s : State) (k : Nat) (f : Pipe → Pipe) : (s.modPipe k f).work = s.work := rfl
@[simp] theorem modPipe_eng (s : State) (k : Nat) (f : Pipe → Pipe) : (s.modPipe k f).eng = s.eng := rfl
@[simp] theorem modPipe_mat (s : State) (k : Nat) (f : Pipe → Pipe) : (s.modPipe k f).mat = s.mat := rfl
@[simp] theorem modPipe_ken (s : State) (k : Nat) (f : Pipe → Pipe) : (s.modPipe k f).ken = s.ken := rfl
@[simp] theorem modPipe_lnk (s : State) (k : Nat) (f : Pipe → Pipe) : (s.modPipe k f).lnk = s.lnk := rfl
@[simp] theorem modPipe_sys (s : State) (k : Nat) (f : Pipe → Pipe) : (s.modPipe k f).sys = s.sys := rfl
@[simp] theorem modMarket_sched (s : State) (k : Nat) (f : Market → Market) : (s.modMarket k f).sched = s.sched := rfl
@[simp] theorem modMarket_mem (s : State) (k : Nat) (f : Market → Market) : (s.modMarket k f).mem = s.mem := rfl
@[simp] theorem modMarket_core (s : State) (k : Nat) (f : Market → Market) : (s.modMarket k f).core = s.core := rfl
@[simp] theorem modMarket_acc (s : State) (k : Nat) (f : Market → Market) : (s.modMarket k f).acc = s.acc := rfl
@[simp] theorem modMarket_work (s : State) (k : Nat) (f : Market → Market) : (s.modMarket k f).work = s.work := rfl
@[simp] theorem modMarket_mat (s : State) (k : Nat) (f : Market → Market) : (s.modMarket k f).mat = s.mat := rfl
@[simp] theorem modMarket_ken (s : State) (k : Nat) (f : Market → Market) : (s.modMarket k f).ken = s.ken := rfl
@[simp] theorem modMarket_lnk (s : State) (k : Nat) (f : Market → Market) : (s.modMarket k f).lnk = s.lnk := rfl
@[simp] theorem modMarket_sys (s : State) (k : Nat) (f : Market → Market) : (s.modMarket k f).sys = s.sys := rfl
@[simp] theorem modBarrier_sched (s : State) (k : Nat) (f : Barrier → Barrier) : (s.modBarrier k f).sched = s.sched := rfl
@[simp] theorem modBarrier_mem (s : State) (k : Nat) (f : Barrier → Barrier) : (s.modBarrier k f).mem = s.mem := rfl
@[simp] theorem modBarrier_core (s : State) (k : Nat) (f : Barrier → Barrier) : (s.modBarrier k f).core = s.core := rfl
@[simp] theorem modBarrier_acc (s : State) (k : Nat) (f : Barrier → Barrier) : (s.modBarrier k f).acc = s.acc := rfl
@[simp] theorem modBarrier_work (s : State) (k : Nat) (f : Barrier → Barrier) : (s.modBarrier k f).work = s.work := rfl
@[simp] theorem modBarrier_mat (s : State) (k : Nat) (f : Barrier → Barrier) : (s.modBarrier k f).mat = s.mat := rfl
@[simp] theorem modBarrier_ken (s : State) (k : Nat) (f : Barrier → Barrier) : (s.modBarrier k f).ken = s.ken := rfl
@[simp] theorem modBarrier_lnk (s : State) (k : Nat) (f : Barrier → Barrier) : (s.modBarrier k f).lnk = s.lnk := rfl
@[simp] theorem modBarrier_sys (s : State) (k : Nat) (f : Barrier → Barrier) : (s.modBarrier k f).sys = s.sys := rfl
@[simp] theorem modPart_sched (s : State) (k : Nat) (f : Partition → Partition) : (s.modPart k f).sched = s.sched := rfl
@[simp] theorem modPart_mem (s : State) (k : Nat) (f : Partition → Partition) : (s.modPart k f).mem = s.mem := rfl
@[simp] theorem modPart_core (s : State) (k : Nat) (f : Partition → Partition) : (s.modPart k f).core = s.core := rfl
@[simp] theorem modPart_acc (s : State) (k : Nat) (f : Partition → Partition) : (s.modPart k f).acc = s.acc := rfl
@[simp] theorem modPart_work (s : State) (k : Nat) (f : Partition → Partition) : (s.modPart k f).work = s.work := rfl
@[simp] theorem modPart_eng (s : State) (k : Nat) (f : Partition → Partition) : (s.modPart k f).eng = s.eng := rfl
@[simp] theorem modPart_mat (s : State) (k : Nat) (f : Partition → Partition) : (s.modPart k f).mat = s.mat := rfl
@[simp] theorem modPart_ken (s : State) (k : Nat) (f : Partition → Partition) : (s.modPart k f).ken = s.ken := rfl
@[simp] theorem modPart_lnk (s : State) (k : Nat) (f : Partition → Partition) : (s.modPart k f).lnk = s.lnk := rfl
@[simp] theorem modPort_sched (s : State) (cl p : Nat) (f : Port → Port) : (s.modPort cl p f).sched = s.sched := rfl
@[simp] theorem modPort_mem (s : State) (cl p : Nat) (f : Port → Port) : (s.modPort cl p f).mem = s.mem := rfl
@[simp] theorem modPort_core (s : State) (cl p : Nat) (f : Port → Port) : (s.modPort cl p f).core = s.core := rfl
@[simp] theorem modPort_acc (s : State) (cl p : Nat) (f : Port → Port) : (s.modPort cl p f).acc = s.acc := rfl
@[simp] theorem modPort_work (s : State) (cl p : Nat) (f : Port → Port) : (s.modPort cl p f).work = s.work := rfl
@[simp] theorem modPort_mat (s : State) (cl p : Nat) (f : Port → Port) : (s.modPort cl p f).mat = s.mat := rfl
@[simp] theorem modPort_ken (s : State) (cl p : Nat) (f : Port → Port) : (s.modPort cl p f).ken = s.ken := rfl
@[simp] theorem modPort_lnk (s : State) (cl p : Nat) (f : Port → Port) : (s.modPort cl p f).lnk = s.lnk := rfl
@[simp] theorem modPort_sys (s : State) (cl p : Nat) (f : Port → Port) : (s.modPort cl p f).sys = s.sys := rfl
@[simp] theorem modGraph_sched (s : State) (j k : Nat) (f : Graph → Graph) : (s.modGraph j k f).sched = s.sched := rfl
@[simp] theorem modGraph_mem (s : State) (j k : Nat) (f : Graph → Graph) : (s.modGraph j k f).mem = s.mem := rfl
@[simp] theorem modGraph_core (s : State) (j k : Nat) (f : Graph → Graph) : (s.modGraph j k f).core = s.core := rfl
@[simp] theorem modGraph_acc (s : State) (j k : Nat) (f : Graph → Graph) : (s.modGraph j k f).acc = s.acc := rfl
@[simp] theorem modGraph_eng (s : State) (j k : Nat) (f : Graph → Graph) : (s.modGraph j k f).eng = s.eng := rfl
@[simp] theorem modGraph_mat (s : State) (j k : Nat) (f : Graph → Graph) : (s.modGraph j k f).mat = s.mat := rfl
@[simp] theorem modGraph_ken (s : State) (j k : Nat) (f : Graph → Graph) : (s.modGraph j k f).ken = s.ken := rfl
@[simp] theorem modGraph_lnk (s : State) (j k : Nat) (f : Graph → Graph) : (s.modGraph j k f).lnk = s.lnk := rfl
@[simp] theorem modGraph_sys (s : State) (j k : Nat) (f : Graph → Graph) : (s.modGraph j k f).sys = s.sys := rfl

end Sys2Proof.Machine
end

