-- ==== Sys2Proof/Laws/Fire.lean ====
section
/-! SUPPORT. Laws/Fire.lean: what the shared firing operations answer once the slot in focus is ready (spec/01 R15, R17, R24;
spec/03 R74). -/

namespace Sys2Proof.Machine

theorem predReady_of_agrees {p : Pr} {t : Option Token} (h : p.agrees t) : predReady p t = .go := by
  cases p with
  | always => rfl
  | onTrue =>
    obtain ⟨v, hv, rfl⟩ := h
    exact if_neg hv
  | onFalse => cases h; simp [predReady]

theorem plainReady_of_ready {s : State} {p : Pr} {u : Uses} {l r : Word} (h : s.ready p u l r) :
    s.plainReady p u = .go := by
  obtain ⟨hf, hp, hl, hr⟩ := h
  cases u <;> simp_all [State.plainReady, readyPlain, predReady_of_agrees hp, tokReady]

theorem sideReady_of_ready {s : State} {p : Pr} {u : Uses} {l r : Word} (h : s.ready p u l r) :
    s.sideReady p u = .go := by
  obtain ⟨hf, hp, hl, hr⟩ := h
  cases u <;> simp_all [State.sideReady, readySide, predReady_of_agrees hp, tokReady]

theorem opL_of_ready {s : State} {p : Pr} {u : Uses} {l r : Word} (h : s.ready p u l r) (hu : u ≠ .none) : s.opL = l := by
  simp [State.opL, h.2.2.1 hu, tokVal]

theorem opR_of_ready {s : State} {p : Pr} {l r : Word} (h : s.ready p .lr l r) : s.opR = r := by
  simp [State.opR, h.2.2.2 rfl, tokVal]

/-- A word that computes from both operands sends the result. -/
theorem fireWith_lr {s : State} {p : Pr} {ts : List Tgt} {f : Word → Word → Word} {l r : Word} (h : s.ready p .lr l r) :
    fireWith p .lr ts f s = .next (s.finish (.val (f l r)) ts) := by
  simp [fireWith, plainReady_of_ready h, opL_of_ready h, opR_of_ready h]

/-- A word that computes from its left operand sends the result. -/
theorem fireWith_l {s : State} {p : Pr} {ts : List Tgt} {f : Word → Word} {l r : Word} (h : s.ready p .l l r) :
    fireWith p .l ts (fun x _ => f x) s = .next (s.finish (.val (f l)) ts) := by
  simp [fireWith, plainReady_of_ready h, opL_of_ready h]

/-- A word without operands sends its value. -/
theorem fireWith_none {s : State} {p : Pr} {ts : List Tgt} {v l r : Word} (h : s.ready p .none l r) :
    fireWith p .none ts (fun _ _ => v) s = .next (s.finish (.val v) ts) := by
  simp [fireWith, plainReady_of_ready h]

/-- A word that may trap on its operands: the trap, or the result. -/
theorem fireTrap_lr {s : State} {p : Pr} {ts : List Tgt} {bad : Word → Word → Nat} {f : Word → Word → Word} {l r : Word}
    (h : s.ready p .lr l r) : fireTrap p .lr ts bad f s =
      if bad l r = 0 then .next (s.finish (.val (f l r)) ts) else .next (s.stopAt (bad l r)) := by
  simp [fireTrap, plainReady_of_ready h, opL_of_ready h, opR_of_ready h]

/-- A word that acts when it fires acts. -/
theorem fireAct_go {s : State} {p : Pr} {u : Uses} {ts : List Tgt} {act : State → State} {l r : Word}
    (h : s.ready p u l r) : fireAct p u ts act s = .next (act s) := by
  simp [fireAct, plainReady_of_ready h]

/-- A side effect that fires acts. -/
theorem fireSide_go {s : State} {p : Pr} {u : Uses} {act : State → State} {l r : Word} (h : s.ready p u l r) :
    fireSide p u act s = .next (act s) := by
  simp [fireSide, sideReady_of_ready h]

theorem plainReady_of_nulled {s : State} {p : Pr} {u : Uses} (h : s.nulled p u) : s.plainReady p u = .null := by
  obtain ⟨hf, hp, hl, hr, hn⟩ := h
  have hq : predReady p s.curSlot.pred = .go ∨ predReady p s.curSlot.pred = .null := by
    rcases hp with hp | ⟨hp, ht⟩
    · exact .inl (predReady_of_agrees hp)
    · cases p <;> simp_all [predReady]
  have hpn : p ≠ .always ∧ s.curSlot.pred = some .null → predReady p s.curSlot.pred = .null := by
    rintro ⟨h1, h2⟩
    cases p <;> simp_all [predReady]
  have tok (t : Option Token) (ht : t ≠ none) :
      tokReady true t = .null ∨ (tokReady true t = .go ∧ t ≠ some .null) := by
    rcases t with _ | _ | _
    · exact absurd rfl ht
    · exact .inr ⟨rfl, by simp⟩
    · exact .inl rfl
  have e1 : (Uses.l != Uses.none) = true := rfl
  have e2 : (Uses.lr != Uses.none) = true := rfl
  have e3 : (Uses.none != Uses.none) = false := rfl
  have e4 : (Uses.none == Uses.lr) = false := rfl
  have e5 : (Uses.l == Uses.lr) = false := rfl
  have e6 : (Uses.lr == Uses.lr) = true := rfl
  have go (t : Option Token) : tokReady false t = .go := rfl
  unfold State.plainReady readyPlain
  cases u
  · have hn' : p ≠ .always ∧ s.curSlot.pred = some .null := by simpa using hn
    simp [hf, hpn hn', e3, e4, go]
  · rcases tok _ (hl (by decide)) with a | ⟨a, na⟩
    · rcases hq with q | q <;> simp [hf, q, a, e1, e5, go]
    · have hn' : p ≠ .always ∧ s.curSlot.pred = some .null := by simpa [na] using hn
      simp [hf, hpn hn', a, e1, e5, go]
  · rcases tok _ (hl (by decide)) with a | ⟨a, na⟩ <;> rcases tok _ (hr rfl) with b | ⟨b, nb⟩
    · rcases hq with q | q <;> simp [hf, q, a, b, e2, e6]
    · rcases hq with q | q <;> simp [hf, q, a, b, e2, e6]
    · rcases hq with q | q <;> simp [hf, q, a, b, e2, e6]
    · have hn' : p ≠ .always ∧ s.curSlot.pred = some .null := by simpa [na, nb] using hn
      simp [hf, hpn hn', a, b, e2, e6]

/-- A null onward: a computing word with a null among its tokens sends a null (R74). -/
theorem fireWith_null {s : State} {p : Pr} {u : Uses} {ts : List Tgt} {f : Word → Word → Word} (h : s.nulled p u) :
    fireWith p u ts f s = .next (s.finish .null ts) := by
  simp [fireWith, plainReady_of_nulled h]
theorem fireTrap_null {s : State} {p : Pr} {u : Uses} {ts : List Tgt} {bad f} (h : s.nulled p u) :
    fireTrap p u ts bad f s = .next (s.finish .null ts) := by
  simp [fireTrap, plainReady_of_nulled h]
theorem fireAct_null {s : State} {p : Pr} {u : Uses} {ts : List Tgt} {act : State → State} (h : s.nulled p u) :
    fireAct p u ts act s = .next (s.finish .null ts) := by
  simp [fireAct, plainReady_of_nulled h]

end Sys2Proof.Machine
end

