-- ==== Sys2Proof/Laws/Block.lean ====
section
/-! SUPPORT. Laws/Block.lean: what the operations on the block in focus change and leave, in their own terms (spec/01 R15 to
R24; spec/02 R43; spec/05 R104). -/

namespace Sys2Proof.Machine

@[simp] theorem cur_modCur (s : State) (g : Frame → Frame) : (s.modCur g).cur = g s.cur := by
  simp [State.modCur, State.cur, State.fCore, State.fFrame]
@[simp] theorem cur_setStrand (s : State) (k : Nat) (x : Strand) : (s.setStrand k x).cur = s.cur := rfl
@[simp] theorem cur_modStrand (s : State) (k : Nat) (f : Strand → Strand) : (s.modStrand k f).cur = s.cur := rfl

theorem frame_setFrame (s : State) (c i d j : Nat) (x : Frame) :
    (s.setFrame c i x).frame d j = if d * 8 + j = c * 8 + i then x else s.frame d j := by
  simp [State.frame, State.setFrame, tget_tset]

theorem foldr_insertBySeq_congr (a b : Nat → Frame) (h : ∀ f, (a f).seq = (b f).seq) (l : List Nat) :
    l.foldr (insertBySeq a) [] = l.foldr (insertBySeq b) [] := by
  have ins : ∀ (x : Nat) (ys : List Nat), insertBySeq a x ys = insertBySeq b x ys := by
    intro x ys
    induction ys with
    | nil => rfl
    | cons y ys ih => simp [insertBySeq, h, ih]
  induction l with
  | nil => rfl
  | cons x l ih => simp [ih, ins]

/-- Which frames a strand holds, and in which order, depends on their owners and numbers alone. -/
theorem framesOf_congr {s t : State} (h : ∀ c f, (t.frame c f).used = (s.frame c f).used ∧ (t.frame c f).sid = (s.frame c f).sid ∧
    (t.frame c f).seq = (s.frame c f).seq) (sid : Nat) : t.framesOf sid = s.framesOf sid := by
  unfold State.framesOf
  have hf : (fun f => (t.frame (sidCore sid) f).used && (t.frame (sidCore sid) f).sid == sid) =
      (fun f => (s.frame (sidCore sid) f).used && (s.frame (sidCore sid) f).sid == sid) := by
    funext f; rw [(h _ f).1, (h _ f).2.1]
  simp only [hf]
  exact foldr_insertBySeq_congr _ _ (fun f => (h _ f).2.2) _

theorem takeExit_alone {s : State} {n : Option Word} (h1 : s.cur.exit = none) (h2 : s.cur.putLink = false)
    (h3 : s.curStrand.fetched = none) (h4 : ∀ g ∈ s.framesOf s.curSid, (s.frame s.fCore g).seq ≤ s.cur.seq) :
    (n.isSome → s.takeExit n = s.modCur (fun f => { (f.fire s.fSlot) with exit := some (s.fSlot, n) })) ∧ (s.takeExit n).cur.exit = some (s.fSlot, n) := by
  have hy : (s.framesOf s.curSid).filter (fun g => decide (s.cur.seq < (s.frame s.fCore g).seq)) = [] := by
    rw [List.filter_eq_nil_iff]; intro g hg; have := h4 g hg; simp; omega
  unfold State.takeExit
  simp only [h1, h2, hy, h3, Option.isSome_none, Bool.and_false, Bool.false_eq_true, if_false]
  cases n with
  | some a => simp [State.modCur, State.cur, State.fCore, State.fFrame, State.fSlot]
  | none =>
    refine ⟨by simp, ?_⟩
    simp only [Bool.false_eq_true, if_false]
    generalize hs1 : s.modCur (fun f => { (f.fire s.fSlot) with exit := some (s.fSlot, none) }) = s1
    have hfr : ∀ c f, (s1.frame c f).used = (s.frame c f).used ∧ (s1.frame c f).sid = (s.frame c f).sid ∧
        (s1.frame c f).seq = (s.frame c f).seq := by
      intro c f
      subst hs1
      simp only [State.modCur, modFrame_def, frame_setFrame]
      split
      · rename_i he
        have : s.frame c f = s.frame s.fCore s.fFrame := by simp [State.frame, he]
        rw [this]; exact ⟨rfl, rfl, rfl⟩
      · exact ⟨rfl, rfl, rfl⟩
    have hcur : s1.frame s.fCore s.fFrame = { (s.cur.fire s.fSlot) with exit := some (s.fSlot, none) } := by
      subst hs1; simp [State.modCur, State.cur]
    have hfo : s1.fCore = s.fCore ∧ s1.fFrame = s.fFrame := by subst hs1; exact ⟨rfl, rfl⟩
    unfold State.abortYounger
    have hv : (s1.framesOf (s1.frame s.fCore s.fFrame).sid).filter (fun g => decide ((s1.frame s.fCore s.fFrame).seq < (s1.frame s.fCore g).seq)) = [] := by
      rw [framesOf_congr hfr, (hfr _ _).2.1, (hfr _ _).2.2]
      rw [List.filter_eq_nil_iff]; intro g hg
      rw [(hfr _ _).2.2]
      have := h4 g hg; simp only [State.cur] at this; simp; omega
    simp only [hv, List.reverse_nil, List.foldl_nil]
    simp only [State.cur, modStrand_def, frame_setStrand]
    show (s1.frame s1.fCore s1.fFrame).exit = _
    rw [hfo.1, hfo.2, hcur]

/-- Nothing but the block in focus differs. -/
def OnlyBlock (s t : State) : Prop := t = s ∨ ∃ g : Frame → Frame, t = s.modCur g

theorem fireWith_only (p u ts f) (s t : State) (h : fireWith p u ts f s = .next t) : OnlyBlock s t := by
  unfold fireWith at h
  split at h <;> cases h
  · exact .inl rfl
  · exact .inl rfl
  · exact .inr ⟨_, rfl⟩
  · exact .inr ⟨_, rfl⟩
theorem fireTrap_only (p u ts b f) (s t : State) (h : fireTrap p u ts b f s = .next t) : OnlyBlock s t := by
  unfold fireTrap at h
  split at h
  · cases h; exact .inl rfl
  · cases h; exact .inl rfl
  · cases h; exact .inr ⟨_, rfl⟩
  · split at h <;> cases h
    · exact .inr ⟨_, rfl⟩
    · exact .inr ⟨_, rfl⟩
theorem fireAct_only (p u ts act) (s t : State) (ha : OnlyBlock s (act s)) (h : fireAct p u ts act s = .next t) : OnlyBlock s t := by
  unfold fireAct at h
  split at h <;> cases h
  · exact .inl rfl
  · exact .inl rfl
  · exact .inr ⟨_, rfl⟩
  · exact ha
/-- What stays when nothing but the block in focus differs. -/
theorem onlyBlock_frame {s t : State} (h : OnlyBlock s t) : t.sched = s.sched ∧ t.mem = s.mem ∧ t.acc = s.acc ∧ t.work = s.work ∧ t.eng = s.eng ∧ t.mat = s.mat ∧
      t.ken = s.ken ∧ t.lnk = s.lnk ∧ t.sys = s.sys ∧
      t.core.strands = s.core.strands ∧ t.core.cores = s.core.cores ∧ t.core.holds = s.core.holds ∧
      t.core.saved = s.core.saved ∧ t.core.ghosts = s.core.ghosts ∧ t.core.outs = s.core.outs ∧
      t.core.switch = s.core.switch ∧
      (∀ core f, core * 8 + f ≠ s.fCore * 8 + s.fFrame → t.frame core f = s.frame core f) ∧
      (∀ a, mget t.mem.bytes a = mget s.mem.bytes a) := by
  rcases h with rfl | ⟨g, rfl⟩
  · simp
  · refine ⟨rfl, rfl, rfl, rfl, rfl, rfl, rfl, rfl, rfl, rfl, rfl, rfl, rfl, rfl, rfl, rfl, ?_, fun _ => rfl⟩
    intro c f hne; simp [State.modCur, frame_setFrame, hne]

theorem getD_listMod (l : List Slot) (i j : Nat) (f : Slot → Slot) :
    (listMod l i f).getD j {} = if i = j ∧ j < l.length then f (l.getD j {}) else l.getD j {} := by
  induction l generalizing i j with
  | nil => simp [listMod]
  | cons x l ih =>
    cases i <;> cases j
    · simp [listMod]
    · simp [listMod]
    · simp [listMod]
    · simpa [listMod] using ih _ _
theorem slot_modSlot (f : Frame) (i j : Nat) (g : Slot → Slot) :
    (f.modSlot i g).slot j = if i = j ∧ j < f.slots.length then g (f.slot j) else f.slot j := getD_listMod ..

/-- A frame that differs at most in its slots and in the fault held against it. -/
def Frame.sameBut (f g : Frame) : Prop := ∃ sl tr, g = { f with slots := sl, trap := tr }
theorem sameBut_refl (f : Frame) : f.sameBut f := ⟨f.slots, f.trap, rfl⟩
theorem sameBut_trans {f g h : Frame} (a : f.sameBut g) (b : g.sameBut h) : f.sameBut h := by
  obtain ⟨_, _, rfl⟩ := a
  obtain ⟨sl, tr, rfl⟩ := b
  exact ⟨sl, tr, rfl⟩
theorem modSlot_sameBut (f : Frame) (i : Nat) (g : Slot → Slot) : f.sameBut (f.modSlot i g) := ⟨_, f.trap, rfl⟩
theorem hold_sameBut (f : Frame) (t : Trap) : f.sameBut (f.hold t) := by
  unfold Frame.hold
  split
  · exact ⟨f.slots, _, rfl⟩
  · split
    · exact ⟨f.slots, _, rfl⟩
    · exact sameBut_refl f
theorem put_sameBut (f : Frame) (pos i : Nat) (k : Token) : f.sameBut (f.put pos i k) := by
  unfold Frame.put
  dsimp only
  split
  · split
    · exact hold_sameBut ..
    · split
      · exact sameBut_trans (modSlot_sameBut ..) (hold_sameBut ..)
      · exact modSlot_sameBut ..
  · split
    · split
      · exact hold_sameBut ..
      · split
        · exact sameBut_trans (modSlot_sameBut ..) (hold_sameBut ..)
        · exact modSlot_sameBut ..
    · split
      · exact hold_sameBut ..
      · exact modSlot_sameBut ..
/-- Sending a token changes slots and the held fault alone. -/
theorem send_sameBut (f : Frame) (k : Token) (ts : List Tgt) : f.sameBut (f.send k ts) := by
  unfold Frame.send
  induction ts generalizing f with
  | nil => exact sameBut_refl f
  | cons t ts ih =>
    refine sameBut_trans ?_ (ih _)
    show f.sameBut (f.deliver k t)
    unfold Frame.deliver
    split
    · exact sameBut_refl f
    · exact put_sameBut ..
@[simp] theorem strand_finish (s : State) (k : Token) (ts : List Tgt) (i : Nat) : (s.finish k ts).strand i = s.strand i := rfl

end Sys2Proof.Machine
end

