-- ==== Sys2Proof/Laws/Encode.lean ====
section
/-! SUPPORT. Laws/Encode.lean: each field of an encoded word reads back (spec/03 R66 to R72). -/

namespace Sys2Proof

theorem fld_encWord_op (op : BitVec 8) (p : Pr) (low : BitVec 22) {lo n : Nat} (h : 24 ≤ lo) (h2 : lo + n ≤ 32) :
    fld (encWord op p low) lo n = op.extractLsb' (lo - 24) n := by
  apply BitVec.eq_of_getLsbD_eq; intro i hi
  simp only [fld, encWord, BitVec.getLsbD_append, BitVec.getLsbD_extractLsb', hi, decide_true, Bool.true_and]
  rw [if_neg (by omega), if_neg (by omega)]; congr 1; omega

theorem fld_encWord_pr (op : BitVec 8) (p : Pr) (low : BitVec 22) : fld (encWord op p low) 22 2 = encPr p := by
  apply BitVec.eq_of_getLsbD_eq; intro i hi
  simp only [fld, encWord, BitVec.getLsbD_append, BitVec.getLsbD_extractLsb', hi, decide_true, Bool.true_and]
  rw [if_neg (by omega), if_pos (by omega)]; congr 1; omega

theorem fld_encWord_low (op : BitVec 8) (p : Pr) (low : BitVec 22) {lo n : Nat} (h : lo + n ≤ 22) :
    fld (encWord op p low) lo n = low.extractLsb' lo n := by
  apply BitVec.eq_of_getLsbD_eq; intro i hi
  simp only [fld, encWord, BitVec.getLsbD_append, BitVec.getLsbD_extractLsb', hi, decide_true, Bool.true_and]
  rw [if_pos (by omega)]

/-- A field that lies in the high part of a concatenation. -/
theorem extract_append_hi {v w : Nat} (x : BitVec v) (y : BitVec w) {lo n : Nat} (h : w ≤ lo) :
    (x ++ y).extractLsb' lo n = x.extractLsb' (lo - w) n := by
  apply BitVec.eq_of_getLsbD_eq; intro i hi
  simp only [BitVec.getLsbD_append, BitVec.getLsbD_extractLsb', hi, decide_true, Bool.true_and]
  rw [if_neg (by omega)]; congr 1; omega

/-- A field that lies in the low part of a concatenation. -/
theorem extract_append_lo {v w : Nat} (x : BitVec v) (y : BitVec w) {lo n : Nat} (h : lo + n ≤ w) :
    (x ++ y).extractLsb' lo n = y.extractLsb' lo n := by
  apply BitVec.eq_of_getLsbD_eq; intro i hi
  simp only [BitVec.getLsbD_append, BitVec.getLsbD_extractLsb', hi, decide_true, Bool.true_and]
  rw [if_pos (by omega)]

/-- A field within a field. -/
theorem fld_fld (w : IWord) {a m lo n : Nat} (h : lo + n ≤ m) : (fld w a m).extractLsb' lo n = fld w (a + lo) n := by
  apply BitVec.eq_of_getLsbD_eq; intro i hi
  simp only [fld, BitVec.getLsbD_extractLsb', hi, decide_true, Bool.true_and]
  rw [show a + (lo + i) = a + lo + i by omega]
  simp only [show lo + i < m by omega, decide_true, Bool.true_and]

@[simp] theorem fld_encWord_28 (op : BitVec 8) (p : Pr) (low : BitVec 22) :
    fld (encWord op p low) 28 4 = op.extractLsb' 4 4 := fld_encWord_op op p low (by omega) (by omega)
@[simp] theorem fld_encWord_24 (op : BitVec 8) (p : Pr) (low : BitVec 22) :
    fld (encWord op p low) 24 4 = op.extractLsb' 0 4 := fld_encWord_op op p low (by omega) (by omega)
@[simp] theorem decPr_encWord (op : BitVec 8) (p : Pr) (low : BitVec 22) : decPr (encWord op p low) = .ok p := by
  unfold decPr; rw [fld_encWord_pr]; cases p <;> rfl

theorem decTgt_cons (k : BitVec 2) (s : BitVec 7) : decTgt (k ++ s) =
    match k.toNat with
    | 0 => if s = 0#7 then .ok .none else .error .badTarget
    | 1 => .ok (.left s)
    | 2 => .ok (.right s)
    | _ => .ok (.pred s) := by
  have h1 : (k ++ s).extractLsb' 7 2 = k := (extract_append_hi k s (by omega)).trans (BitVec.extractLsb'_eq_self)
  have h2 : (k ++ s).extractLsb' 0 7 = s := (extract_append_lo k s (by omega)).trans (BitVec.extractLsb'_eq_self)
  unfold decTgt; rw [h1, h2]
  all_goals (generalize k.toNat = n; rcases n with _ | _ | _ | n <;> rfl)

@[simp] theorem decTgt_encTgt (t : Tgt) : decTgt (encTgt t) = .ok t := by
  cases t with
  | none => rfl
  | left s => exact decTgt_cons 1#2 s
  | right s => exact decTgt_cons 2#2 s
  | pred s => exact decTgt_cons 3#2 s

/-! ## The formats -/

@[simp] theorem fld_encG_0 (op : BitVec 8) (p : Pr) (x : BitVec 4) (ta tb : Tgt) :
    fld (encG op p x ta tb) 0 9 = encTgt ta := by
  apply BitVec.eq_of_getLsbD_eq; intro i hi
  simp only [fld, encG, encWord, BitVec.getLsbD_append, BitVec.getLsbD_extractLsb', hi, decide_true, Bool.true_and]
  rw [if_pos (by omega), if_pos (by omega)]; congr 1; omega
@[simp] theorem fld_encG_9 (op : BitVec 8) (p : Pr) (x : BitVec 4) (ta tb : Tgt) :
    fld (encG op p x ta tb) 9 9 = encTgt tb := by
  apply BitVec.eq_of_getLsbD_eq; intro i hi
  simp only [fld, encG, encWord, BitVec.getLsbD_append, BitVec.getLsbD_extractLsb', hi, decide_true, Bool.true_and]
  rw [if_pos (by omega), if_neg (by omega), if_pos (by omega)]; congr 1; omega
@[simp] theorem fld_encG_18 (op : BitVec 8) (p : Pr) (x : BitVec 4) (ta tb : Tgt) :
    fld (encG op p x ta tb) 18 4 = x := by
  apply BitVec.eq_of_getLsbD_eq; intro i hi
  simp only [fld, encG, encWord, BitVec.getLsbD_append, BitVec.getLsbD_extractLsb', hi, decide_true, Bool.true_and]
  rw [if_pos (by omega), if_neg (by omega), if_neg (by omega)]; congr 1; omega
@[simp] theorem fld_encI_0 (op : BitVec 8) (p : Pr) (imm : BitVec 13) (ta : Tgt) :
    fld (encI op p imm ta) 0 9 = encTgt ta := by
  apply BitVec.eq_of_getLsbD_eq; intro i hi
  simp only [fld, encI, encWord, BitVec.getLsbD_append, BitVec.getLsbD_extractLsb', hi, decide_true, Bool.true_and]
  rw [if_pos (by omega), if_pos (by omega)]; congr 1; omega
@[simp] theorem fld_encI_9 (op : BitVec 8) (p : Pr) (imm : BitVec 13) (ta : Tgt) :
    fld (encI op p imm ta) 9 13 = imm := by
  apply BitVec.eq_of_getLsbD_eq; intro i hi
  simp only [fld, encI, encWord, BitVec.getLsbD_append, BitVec.getLsbD_extractLsb', hi, decide_true, Bool.true_and]
  rw [if_pos (by omega), if_neg (by omega)]; congr 1; omega
@[simp] theorem fld_encX_0 (op : BitVec 8) (p : Pr) (ex : BitVec 3) (off : BitVec 19) :
    fld (encX op p ex off) 0 19 = off := by
  apply BitVec.eq_of_getLsbD_eq; intro i hi
  simp only [fld, encX, encWord, BitVec.getLsbD_append, BitVec.getLsbD_extractLsb', hi, decide_true, Bool.true_and]
  rw [if_pos (by omega), if_pos (by omega)]; congr 1; omega
@[simp] theorem fld_encX_19 (op : BitVec 8) (p : Pr) (ex : BitVec 3) (off : BitVec 19) :
    fld (encX op p ex off) 19 3 = ex := by
  apply BitVec.eq_of_getLsbD_eq; intro i hi
  simp only [fld, encX, encWord, BitVec.getLsbD_append, BitVec.getLsbD_extractLsb', hi, decide_true, Bool.true_and]
  rw [if_pos (by omega), if_neg (by omega)]; congr 1; omega
@[simp] theorem fld_encQ_0 (op : BitVec 8) (p : Pr) (x : BitVec 4) (ag : BitVec 5) (tk : BitVec 3) (f : Bool) (ta : Tgt) :
    fld (encQ op p x ag tk f ta) 0 9 = encTgt ta := by
  apply BitVec.eq_of_getLsbD_eq; intro i hi
  simp only [fld, encQ, encWord, BitVec.getLsbD_append, BitVec.getLsbD_extractLsb', hi, decide_true, Bool.true_and]
  rw [if_pos (by omega), if_pos (by omega)]; congr 1; omega
@[simp] theorem fld_encQ_9 (op : BitVec 8) (p : Pr) (x : BitVec 4) (ag : BitVec 5) (tk : BitVec 3) (f : Bool) (ta : Tgt) :
    fld (encQ op p x ag tk f ta) 9 1 = encBit f := by
  apply BitVec.eq_of_getLsbD_eq; intro i hi
  simp only [fld, encQ, encWord, BitVec.getLsbD_append, BitVec.getLsbD_extractLsb', hi, decide_true, Bool.true_and]
  rw [if_pos (by omega), if_neg (by omega), if_pos (by omega)]; congr 1; omega
@[simp] theorem fld_encQ_10 (op : BitVec 8) (p : Pr) (x : BitVec 4) (ag : BitVec 5) (tk : BitVec 3) (f : Bool) (ta : Tgt) :
    fld (encQ op p x ag tk f ta) 10 3 = tk := by
  apply BitVec.eq_of_getLsbD_eq; intro i hi
  simp only [fld, encQ, encWord, BitVec.getLsbD_append, BitVec.getLsbD_extractLsb', hi, decide_true, Bool.true_and]
  rw [if_pos (by omega), if_neg (by omega), if_neg (by omega), if_pos (by omega)]; congr 1; omega
@[simp] theorem fld_encQ_13 (op : BitVec 8) (p : Pr) (x : BitVec 4) (ag : BitVec 5) (tk : BitVec 3) (f : Bool) (ta : Tgt) :
    fld (encQ op p x ag tk f ta) 13 5 = ag := by
  apply BitVec.eq_of_getLsbD_eq; intro i hi
  simp only [fld, encQ, encWord, BitVec.getLsbD_append, BitVec.getLsbD_extractLsb', hi, decide_true, Bool.true_and]
  rw [if_pos (by omega), if_neg (by omega), if_neg (by omega), if_neg (by omega), if_pos (by omega)]; congr 1; omega
@[simp] theorem fld_encQ_18 (op : BitVec 8) (p : Pr) (x : BitVec 4) (ag : BitVec 5) (tk : BitVec 3) (f : Bool) (ta : Tgt) :
    fld (encQ op p x ag tk f ta) 18 4 = x := by
  apply BitVec.eq_of_getLsbD_eq; intro i hi
  simp only [fld, encQ, encWord, BitVec.getLsbD_append, BitVec.getLsbD_extractLsb', hi, decide_true, Bool.true_and]
  rw [if_pos (by omega), if_neg (by omega), if_neg (by omega), if_neg (by omega), if_neg (by omega)]; congr 1; omega
@[simp] theorem fld_encG_28 (op : BitVec 8) (p : Pr) (x : BitVec 4) (ta tb : Tgt) : fld (encG op p x ta tb) 28 4 = op.extractLsb' 4 4 := fld_encWord_28 _ _ _
@[simp] theorem fld_encG_24 (op : BitVec 8) (p : Pr) (x : BitVec 4) (ta tb : Tgt) : fld (encG op p x ta tb) 24 4 = op.extractLsb' 0 4 := fld_encWord_24 _ _ _
@[simp] theorem decPr_encG (op : BitVec 8) (p : Pr) (x : BitVec 4) (ta tb : Tgt) : decPr (encG op p x ta tb) = .ok p := decPr_encWord _ _ _
@[simp] theorem fld_encI_28 (op : BitVec 8) (p : Pr) (imm : BitVec 13) (ta : Tgt) : fld (encI op p imm ta) 28 4 = op.extractLsb' 4 4 := fld_encWord_28 _ _ _
@[simp] theorem fld_encI_24 (op : BitVec 8) (p : Pr) (imm : BitVec 13) (ta : Tgt) : fld (encI op p imm ta) 24 4 = op.extractLsb' 0 4 := fld_encWord_24 _ _ _
@[simp] theorem decPr_encI (op : BitVec 8) (p : Pr) (imm : BitVec 13) (ta : Tgt) : decPr (encI op p imm ta) = .ok p := decPr_encWord _ _ _
@[simp] theorem fld_encX_28 (op : BitVec 8) (p : Pr) (ex : BitVec 3) (off : BitVec 19) : fld (encX op p ex off) 28 4 = op.extractLsb' 4 4 := fld_encWord_28 _ _ _
@[simp] theorem fld_encX_24 (op : BitVec 8) (p : Pr) (ex : BitVec 3) (off : BitVec 19) : fld (encX op p ex off) 24 4 = op.extractLsb' 0 4 := fld_encWord_24 _ _ _
@[simp] theorem decPr_encX (op : BitVec 8) (p : Pr) (ex : BitVec 3) (off : BitVec 19) : decPr (encX op p ex off) = .ok p := decPr_encWord _ _ _
@[simp] theorem fld_encQ_28 (op : BitVec 8) (p : Pr) (x : BitVec 4) (ag : BitVec 5) (tk : BitVec 3) (f : Bool) (ta : Tgt) : fld (encQ op p x ag tk f ta) 28 4 = op.extractLsb' 4 4 := fld_encWord_28 _ _ _
@[simp] theorem fld_encQ_24 (op : BitVec 8) (p : Pr) (x : BitVec 4) (ag : BitVec 5) (tk : BitVec 3) (f : Bool) (ta : Tgt) : fld (encQ op p x ag tk f ta) 24 4 = op.extractLsb' 0 4 := fld_encWord_24 _ _ _
@[simp] theorem decPr_encQ (op : BitVec 8) (p : Pr) (x : BitVec 4) (ag : BitVec 5) (tk : BitVec 3) (f : Bool) (ta : Tgt) : decPr (encQ op p x ag tk f ta) = .ok p := decPr_encWord _ _ _

/-! ## The readers of the formats -/

theorem decGAny_encG (op : BitVec 8) (p : Pr) (x : BitVec 4) (ta tb : Tgt) (mk : Pr → Tgt → Tgt → Instr) :
    decGAny (encG op p x ta tb) mk = .ok (mk p ta tb) := by
  simp [decGAny, bind, Except.bind, pure, Except.pure]

@[simp] theorem decG_encG (op : BitVec 8) (p : Pr) (ta tb : Tgt) (mk : Pr → Tgt → Tgt → Instr) :
    decG (encG op p 0#4 ta tb) mk = .ok (mk p ta tb) := by
  simp [decG, need, decGAny_encG]

@[simp] theorem decExt_encG (op : BitVec 8) (p : Pr) (x : Width) (ta tb : Tgt) (mk : Pr → Width → Tgt → Tgt → Instr) :
    decExt (encG op p (encWidth x) ta tb) mk = .ok (mk p x ta tb) := by
  cases x <;> simp [decExt, encWidth, decGAny_encG]

theorem fld_encF_21 (op : BitVec 8) (p : Pr) (q : Prec) (r : Rnd) (ta tb : Tgt) :
    fld (encF op p q r ta tb) 21 1 = encPrec q := by
  have h := fld_fld (encF op p q r ta tb) (a := 18) (m := 4) (lo := 3) (n := 1) (by omega)
  rw [← h, encF, fld_encG_18]
  cases q <;> cases r <;> rfl
theorem fld_encF_18 (op : BitVec 8) (p : Pr) (q : Prec) (r : Rnd) (ta tb : Tgt) :
    fld (encF op p q r ta tb) 18 3 = encRnd r := by
  have h := fld_fld (encF op p q r ta tb) (a := 18) (m := 4) (lo := 0) (n := 3) (by omega)
  rw [← h, encF, fld_encG_18]
  cases q <;> cases r <;> rfl
@[simp] theorem fld_encF_28 (op : BitVec 8) (p : Pr) (q : Prec) (r : Rnd) (ta tb : Tgt) :
    fld (encF op p q r ta tb) 28 4 = op.extractLsb' 4 4 := fld_encWord_28 _ _ _
@[simp] theorem fld_encF_24 (op : BitVec 8) (p : Pr) (q : Prec) (r : Rnd) (ta tb : Tgt) :
    fld (encF op p q r ta tb) 24 4 = op.extractLsb' 0 4 := fld_encWord_24 _ _ _

@[simp] theorem decF_encF (op : BitVec 8) (p : Pr) (q : Prec) (r : Rnd) (ta tb : Tgt)
    (mk : Pr → Prec → Rnd → Tgt → Tgt → Instr) (hr : r.scalar = true) :
    decF (encF op p q r ta tb) mk = .ok (mk p q r ta tb) := by
  unfold decF
  rw [fld_encF_18, fld_encF_21]
  cases r <;> cases q <;> first
    | exact absurd hr (by decide)
    | exact decGAny_encG op p _ ta tb _

@[simp] theorem decFN_encF (op : BitVec 8) (p : Pr) (q : Prec) (ta tb : Tgt) (mk : Pr → Prec → Tgt → Tgt → Instr) :
    decFN (encF op p q .rne ta tb) mk = .ok (mk p q ta tb) := by
  unfold decFN
  rw [fld_encF_18, fld_encF_21]
  cases q <;> exact decGAny_encG op p _ ta tb _

@[simp] theorem decI_encI (op : BitVec 8) (p : Pr) (i : BitVec 13) (ta : Tgt) (mk : Pr → BitVec 13 → Tgt → Instr) :
    decI (encI op p i ta) mk = .ok (mk p i ta) := by
  simp [decI, bind, Except.bind, pure, Except.pure]

/-- The upper bits of an immediate below 64 are zero. -/
theorem fld_encI_15 (op : BitVec 8) (p : Pr) (i : BitVec 13) (ta : Tgt) :
    fld (encI op p i ta) 15 7 = i.extractLsb' 6 7 := by
  have h := fld_fld (encI op p i ta) (a := 9) (m := 13) (lo := 6) (n := 7) (by omega)
  rw [← h, fld_encI_9]

theorem extract_zero_of_lt (i : BitVec 13) {k n : Nat} (h : i.toNat < 2 ^ k) : i.extractLsb' k n = 0#n := by
  apply BitVec.eq_of_toNat_eq
  simp [BitVec.extractLsb'_toNat, Nat.shiftRight_eq_div_pow, Nat.div_eq_of_lt h]

theorem lt_of_extract_zero (i : BitVec 13) {k n : Nat} (hn : k + n = 13) (h : i.extractLsb' k n = 0#n) :
    i.toNat < 2 ^ k := by
  have h1 := congrArg BitVec.toNat h
  simp only [BitVec.extractLsb'_toNat, Nat.shiftRight_eq_div_pow, BitVec.toNat_ofNat, Nat.zero_mod] at h1
  have hlt : i.toNat / 2 ^ k < 2 ^ n := Nat.div_lt_of_lt_mul (by rw [← Nat.pow_add, hn]; exact i.isLt)
  rw [Nat.mod_eq_of_lt hlt] at h1
  exact (Nat.div_eq_zero_iff_lt (by positivity)).1 h1

@[simp] theorem decI63_encI (op : BitVec 8) (p : Pr) (i : BitVec 13) (ta : Tgt) (mk : Pr → BitVec 13 → Tgt → Instr)
    (h : imm63 i = true) : decI63 (encI op p i ta) mk = .ok (mk p i ta) := by
  have h6 := extract_zero_of_lt (n := 7) i (k := 6) (by simpa [imm63] using h)
  simp [decI63, need, fld_encI_15, h6]

@[simp] theorem decX_encX (op : BitVec 8) (p : Pr) (e : BitVec 3) (o : BitVec 19) (mk : Pr → BitVec 3 → BitVec 19 → Instr) :
    decX (encX op p e o) mk = .ok (mk p e o) := by
  simp [decX, bind, Except.bind, pure, Except.pure]

@[simp] theorem decX0_encX (op : BitVec 8) (p : Pr) (e : BitVec 3) (mk : Pr → BitVec 3 → Instr) :
    decX0 (encX op p e 0#19) mk = .ok (mk p e) := by
  simp [decX0, need]

@[simp] theorem encBit_eq_one (b : Bool) : (encBit b == 1#1) = b := by cases b <;> rfl
@[simp] theorem encBit_eq_zero (b : Bool) : (encBit b == 0#1) = !b := by cases b <;> rfl

/-- A Q word is read back where the fields that the instruction does not define are zero. -/
@[simp] theorem decQ_encQ (op : BitVec 8) (p : Pr) (x : BitVec 4) (a : BitVec 5) (k : BitVec 3) (f : Bool) (t : Tgt)
    (okX okA okK okF okT : Bool) (mk : Pr → BitVec 4 → BitVec 5 → BitVec 3 → Bool → Tgt → Except Reject Instr)
    (hx : (okX || x == 0#4) = true) (ha : (okA || a == 0#5) = true) (hk : (okK || k == 0#3) = true)
    (hf : (okF || !f) = true) (ht : (okT || encTgt t == 0#9) = true) :
    decQ (encQ op p x a k f t) okX okA okK okF okT mk = mk p x a k f t := by
  simp [decQ, hx, ha, hk, hf, ht, bind, Except.bind]

@[simp] theorem decK_encI (op : BitVec 8) (p : Pr) (n : BitVec 13) (t : Tgt) (okS okT : Bool)
    (mk : Pr → BitVec 13 → Tgt → Instr) (hs : (okS || n == 0#13) = true) (ht : (okT || encTgt t == 0#9) = true) :
    decK (encI op p n t) okS okT mk = .ok (mk p n t) := by
  simp [decK, need, hs, ht]

@[simp] theorem encTgt_none : encTgt .none = 0#9 := rfl
/-! ## The remaining formats: M words and the words of single use -/

@[simp] theorem fld_memory_0 (op : BitVec 8) (p : Pr) (a : BitVec 5) (b : BitVec 5) (c : BitVec 2) (d : BitVec 1) (e : BitVec 9) :
    fld (encWord op p (a ++ b ++ c ++ d ++ e)) 0 9 = e := by
  apply BitVec.eq_of_getLsbD_eq; intro i hi
  simp only [fld, encWord, BitVec.getLsbD_append, BitVec.getLsbD_extractLsb', hi, decide_true, Bool.true_and]
  rw [if_pos (by omega), if_pos (by omega)]; congr 1; omega
@[simp] theorem fld_memory_9 (op : BitVec 8) (p : Pr) (a : BitVec 5) (b : BitVec 5) (c : BitVec 2) (d : BitVec 1) (e : BitVec 9) :
    fld (encWord op p (a ++ b ++ c ++ d ++ e)) 9 1 = d := by
  apply BitVec.eq_of_getLsbD_eq; intro i hi
  simp only [fld, encWord, BitVec.getLsbD_append, BitVec.getLsbD_extractLsb', hi, decide_true, Bool.true_and]
  rw [if_pos (by omega), if_neg (by omega), if_pos (by omega)]; congr 1; omega
@[simp] theorem fld_memory_10 (op : BitVec 8) (p : Pr) (a : BitVec 5) (b : BitVec 5) (c : BitVec 2) (d : BitVec 1) (e : BitVec 9) :
    fld (encWord op p (a ++ b ++ c ++ d ++ e)) 10 2 = c := by
  apply BitVec.eq_of_getLsbD_eq; intro i hi
  simp only [fld, encWord, BitVec.getLsbD_append, BitVec.getLsbD_extractLsb', hi, decide_true, Bool.true_and]
  rw [if_pos (by omega), if_neg (by omega), if_neg (by omega), if_pos (by omega)]; congr 1; omega
@[simp] theorem fld_memory_12 (op : BitVec 8) (p : Pr) (a : BitVec 5) (b : BitVec 5) (c : BitVec 2) (d : BitVec 1) (e : BitVec 9) :
    fld (encWord op p (a ++ b ++ c ++ d ++ e)) 12 5 = b := by
  apply BitVec.eq_of_getLsbD_eq; intro i hi
  simp only [fld, encWord, BitVec.getLsbD_append, BitVec.getLsbD_extractLsb', hi, decide_true, Bool.true_and]
  rw [if_pos (by omega), if_neg (by omega), if_neg (by omega), if_neg (by omega), if_pos (by omega)]; congr 1; omega
@[simp] theorem fld_memory_17 (op : BitVec 8) (p : Pr) (a : BitVec 5) (b : BitVec 5) (c : BitVec 2) (d : BitVec 1) (e : BitVec 9) :
    fld (encWord op p (a ++ b ++ c ++ d ++ e)) 17 5 = a := by
  apply BitVec.eq_of_getLsbD_eq; intro i hi
  simp only [fld, encWord, BitVec.getLsbD_append, BitVec.getLsbD_extractLsb', hi, decide_true, Bool.true_and]
  rw [if_pos (by omega), if_neg (by omega), if_neg (by omega), if_neg (by omega), if_neg (by omega)]; congr 1; omega
@[simp] theorem fld_prefetch_0 (op : BitVec 8) (p : Pr) (a : BitVec 5) (b : BitVec 5) (c : BitVec 12) :
    fld (encWord op p (a ++ b ++ c)) 0 12 = c := by
  apply BitVec.eq_of_getLsbD_eq; intro i hi
  simp only [fld, encWord, BitVec.getLsbD_append, BitVec.getLsbD_extractLsb', hi, decide_true, Bool.true_and]
  rw [if_pos (by omega), if_pos (by omega)]; congr 1; omega
@[simp] theorem fld_prefetch_12 (op : BitVec 8) (p : Pr) (a : BitVec 5) (b : BitVec 5) (c : BitVec 12) :
    fld (encWord op p (a ++ b ++ c)) 12 5 = b := by
  apply BitVec.eq_of_getLsbD_eq; intro i hi
  simp only [fld, encWord, BitVec.getLsbD_append, BitVec.getLsbD_extractLsb', hi, decide_true, Bool.true_and]
  rw [if_pos (by omega), if_neg (by omega), if_pos (by omega)]; congr 1; omega
@[simp] theorem fld_prefetch_17 (op : BitVec 8) (p : Pr) (a : BitVec 5) (b : BitVec 5) (c : BitVec 12) :
    fld (encWord op p (a ++ b ++ c)) 17 5 = a := by
  apply BitVec.eq_of_getLsbD_eq; intro i hi
  simp only [fld, encWord, BitVec.getLsbD_append, BitVec.getLsbD_extractLsb', hi, decide_true, Bool.true_and]
  rw [if_pos (by omega), if_neg (by omega), if_neg (by omega)]; congr 1; omega
@[simp] theorem fld_counts_0 (op : BitVec 8) (p : Pr) (a : BitVec 6) (b : BitVec 6) (c : BitVec 5) (d : BitVec 5) :
    fld (encWord op p (a ++ b ++ c ++ d)) 0 5 = d := by
  apply BitVec.eq_of_getLsbD_eq; intro i hi
  simp only [fld, encWord, BitVec.getLsbD_append, BitVec.getLsbD_extractLsb', hi, decide_true, Bool.true_and]
  rw [if_pos (by omega), if_pos (by omega)]; congr 1; omega
@[simp] theorem fld_counts_5 (op : BitVec 8) (p : Pr) (a : BitVec 6) (b : BitVec 6) (c : BitVec 5) (d : BitVec 5) :
    fld (encWord op p (a ++ b ++ c ++ d)) 5 5 = c := by
  apply BitVec.eq_of_getLsbD_eq; intro i hi
  simp only [fld, encWord, BitVec.getLsbD_append, BitVec.getLsbD_extractLsb', hi, decide_true, Bool.true_and]
  rw [if_pos (by omega), if_neg (by omega), if_pos (by omega)]; congr 1; omega
@[simp] theorem fld_counts_10 (op : BitVec 8) (p : Pr) (a : BitVec 6) (b : BitVec 6) (c : BitVec 5) (d : BitVec 5) :
    fld (encWord op p (a ++ b ++ c ++ d)) 10 6 = b := by
  apply BitVec.eq_of_getLsbD_eq; intro i hi
  simp only [fld, encWord, BitVec.getLsbD_append, BitVec.getLsbD_extractLsb', hi, decide_true, Bool.true_and]
  rw [if_pos (by omega), if_neg (by omega), if_neg (by omega), if_pos (by omega)]; congr 1; omega
@[simp] theorem fld_counts_16 (op : BitVec 8) (p : Pr) (a : BitVec 6) (b : BitVec 6) (c : BitVec 5) (d : BitVec 5) :
    fld (encWord op p (a ++ b ++ c ++ d)) 16 6 = a := by
  apply BitVec.eq_of_getLsbD_eq; intro i hi
  simp only [fld, encWord, BitVec.getLsbD_append, BitVec.getLsbD_extractLsb', hi, decide_true, Bool.true_and]
  rw [if_pos (by omega), if_neg (by omega), if_neg (by omega), if_neg (by omega)]; congr 1; omega
@[simp] theorem fld_timeline_0 (op : BitVec 8) (p : Pr) (a : BitVec 5) (b : BitVec 2) (c : BitVec 6) (d : BitVec 9) :
    fld (encWord op p (a ++ b ++ c ++ d)) 0 9 = d := by
  apply BitVec.eq_of_getLsbD_eq; intro i hi
  simp only [fld, encWord, BitVec.getLsbD_append, BitVec.getLsbD_extractLsb', hi, decide_true, Bool.true_and]
  rw [if_pos (by omega), if_pos (by omega)]; congr 1; omega
@[simp] theorem fld_timeline_9 (op : BitVec 8) (p : Pr) (a : BitVec 5) (b : BitVec 2) (c : BitVec 6) (d : BitVec 9) :
    fld (encWord op p (a ++ b ++ c ++ d)) 9 6 = c := by
  apply BitVec.eq_of_getLsbD_eq; intro i hi
  simp only [fld, encWord, BitVec.getLsbD_append, BitVec.getLsbD_extractLsb', hi, decide_true, Bool.true_and]
  rw [if_pos (by omega), if_neg (by omega), if_pos (by omega)]; congr 1; omega
@[simp] theorem fld_timeline_15 (op : BitVec 8) (p : Pr) (a : BitVec 5) (b : BitVec 2) (c : BitVec 6) (d : BitVec 9) :
    fld (encWord op p (a ++ b ++ c ++ d)) 15 2 = b := by
  apply BitVec.eq_of_getLsbD_eq; intro i hi
  simp only [fld, encWord, BitVec.getLsbD_append, BitVec.getLsbD_extractLsb', hi, decide_true, Bool.true_and]
  rw [if_pos (by omega), if_neg (by omega), if_neg (by omega), if_pos (by omega)]; congr 1; omega
@[simp] theorem fld_timeline_17 (op : BitVec 8) (p : Pr) (a : BitVec 5) (b : BitVec 2) (c : BitVec 6) (d : BitVec 9) :
    fld (encWord op p (a ++ b ++ c ++ d)) 17 5 = a := by
  apply BitVec.eq_of_getLsbD_eq; intro i hi
  simp only [fld, encWord, BitVec.getLsbD_append, BitVec.getLsbD_extractLsb', hi, decide_true, Bool.true_and]
  rw [if_pos (by omega), if_neg (by omega), if_neg (by omega), if_neg (by omega)]; congr 1; omega
@[simp] theorem fld_waitWord_0 (op : BitVec 8) (p : Pr) (a : BitVec 5) (b : BitVec 3) (c : BitVec 5) (d : BitVec 9) :
    fld (encWord op p (a ++ b ++ c ++ d)) 0 9 = d := by
  apply BitVec.eq_of_getLsbD_eq; intro i hi
  simp only [fld, encWord, BitVec.getLsbD_append, BitVec.getLsbD_extractLsb', hi, decide_true, Bool.true_and]
  rw [if_pos (by omega), if_pos (by omega)]; congr 1; omega
@[simp] theorem fld_waitWord_9 (op : BitVec 8) (p : Pr) (a : BitVec 5) (b : BitVec 3) (c : BitVec 5) (d : BitVec 9) :
    fld (encWord op p (a ++ b ++ c ++ d)) 9 5 = c := by
  apply BitVec.eq_of_getLsbD_eq; intro i hi
  simp only [fld, encWord, BitVec.getLsbD_append, BitVec.getLsbD_extractLsb', hi, decide_true, Bool.true_and]
  rw [if_pos (by omega), if_neg (by omega), if_pos (by omega)]; congr 1; omega
@[simp] theorem fld_waitWord_14 (op : BitVec 8) (p : Pr) (a : BitVec 5) (b : BitVec 3) (c : BitVec 5) (d : BitVec 9) :
    fld (encWord op p (a ++ b ++ c ++ d)) 14 3 = b := by
  apply BitVec.eq_of_getLsbD_eq; intro i hi
  simp only [fld, encWord, BitVec.getLsbD_append, BitVec.getLsbD_extractLsb', hi, decide_true, Bool.true_and]
  rw [if_pos (by omega), if_neg (by omega), if_neg (by omega), if_pos (by omega)]; congr 1; omega
@[simp] theorem fld_waitWord_17 (op : BitVec 8) (p : Pr) (a : BitVec 5) (b : BitVec 3) (c : BitVec 5) (d : BitVec 9) :
    fld (encWord op p (a ++ b ++ c ++ d)) 17 5 = a := by
  apply BitVec.eq_of_getLsbD_eq; intro i hi
  simp only [fld, encWord, BitVec.getLsbD_append, BitVec.getLsbD_extractLsb', hi, decide_true, Bool.true_and]
  rw [if_pos (by omega), if_neg (by omega), if_neg (by omega), if_neg (by omega)]; congr 1; omega
@[simp] theorem fld_barrier_0 (op : BitVec 8) (p : Pr) (a : BitVec 5) (b : BitVec 8) (c : BitVec 9) :
    fld (encWord op p (a ++ b ++ c)) 0 9 = c := by
  apply BitVec.eq_of_getLsbD_eq; intro i hi
  simp only [fld, encWord, BitVec.getLsbD_append, BitVec.getLsbD_extractLsb', hi, decide_true, Bool.true_and]
  rw [if_pos (by omega), if_pos (by omega)]; congr 1; omega
@[simp] theorem fld_barrier_9 (op : BitVec 8) (p : Pr) (a : BitVec 5) (b : BitVec 8) (c : BitVec 9) :
    fld (encWord op p (a ++ b ++ c)) 9 8 = b := by
  apply BitVec.eq_of_getLsbD_eq; intro i hi
  simp only [fld, encWord, BitVec.getLsbD_append, BitVec.getLsbD_extractLsb', hi, decide_true, Bool.true_and]
  rw [if_pos (by omega), if_neg (by omega), if_pos (by omega)]; congr 1; omega
@[simp] theorem fld_barrier_17 (op : BitVec 8) (p : Pr) (a : BitVec 5) (b : BitVec 8) (c : BitVec 9) :
    fld (encWord op p (a ++ b ++ c)) 17 5 = a := by
  apply BitVec.eq_of_getLsbD_eq; intro i hi
  simp only [fld, encWord, BitVec.getLsbD_append, BitVec.getLsbD_extractLsb', hi, decide_true, Bool.true_and]
  rw [if_pos (by omega), if_neg (by omega), if_neg (by omega)]; congr 1; omega
@[simp] theorem fld_fence_0 (op : BitVec 8) (p : Pr) (a : BitVec 20) (b : BitVec 1) (c : BitVec 1) :
    fld (encWord op p (a ++ b ++ c)) 0 1 = c := by
  apply BitVec.eq_of_getLsbD_eq; intro i hi
  simp only [fld, encWord, BitVec.getLsbD_append, BitVec.getLsbD_extractLsb', hi, decide_true, Bool.true_and]
  rw [if_pos (by omega), if_pos (by omega)]; congr 1; omega
@[simp] theorem fld_fence_1 (op : BitVec 8) (p : Pr) (a : BitVec 20) (b : BitVec 1) (c : BitVec 1) :
    fld (encWord op p (a ++ b ++ c)) 1 1 = b := by
  apply BitVec.eq_of_getLsbD_eq; intro i hi
  simp only [fld, encWord, BitVec.getLsbD_append, BitVec.getLsbD_extractLsb', hi, decide_true, Bool.true_and]
  rw [if_pos (by omega), if_neg (by omega), if_pos (by omega)]; congr 1; omega
@[simp] theorem fld_fence_2 (op : BitVec 8) (p : Pr) (a : BitVec 20) (b : BitVec 1) (c : BitVec 1) :
    fld (encWord op p (a ++ b ++ c)) 2 20 = a := by
  apply BitVec.eq_of_getLsbD_eq; intro i hi
  simp only [fld, encWord, BitVec.getLsbD_append, BitVec.getLsbD_extractLsb', hi, decide_true, Bool.true_and]
  rw [if_pos (by omega), if_neg (by omega), if_neg (by omega)]; congr 1; omega
@[simp] theorem fld_atom_0 (op : BitVec 8) (p : Pr) (a : BitVec 4) (b : BitVec 5) (c : BitVec 7) (d : BitVec 6) :
    fld (encWord op p (a ++ b ++ c ++ d)) 0 6 = d := by
  apply BitVec.eq_of_getLsbD_eq; intro i hi
  simp only [fld, encWord, BitVec.getLsbD_append, BitVec.getLsbD_extractLsb', hi, decide_true, Bool.true_and]
  rw [if_pos (by omega), if_pos (by omega)]; congr 1; omega
@[simp] theorem fld_atom_6 (op : BitVec 8) (p : Pr) (a : BitVec 4) (b : BitVec 5) (c : BitVec 7) (d : BitVec 6) :
    fld (encWord op p (a ++ b ++ c ++ d)) 6 7 = c := by
  apply BitVec.eq_of_getLsbD_eq; intro i hi
  simp only [fld, encWord, BitVec.getLsbD_append, BitVec.getLsbD_extractLsb', hi, decide_true, Bool.true_and]
  rw [if_pos (by omega), if_neg (by omega), if_pos (by omega)]; congr 1; omega
@[simp] theorem fld_atom_13 (op : BitVec 8) (p : Pr) (a : BitVec 4) (b : BitVec 5) (c : BitVec 7) (d : BitVec 6) :
    fld (encWord op p (a ++ b ++ c ++ d)) 13 5 = b := by
  apply BitVec.eq_of_getLsbD_eq; intro i hi
  simp only [fld, encWord, BitVec.getLsbD_append, BitVec.getLsbD_extractLsb', hi, decide_true, Bool.true_and]
  rw [if_pos (by omega), if_neg (by omega), if_neg (by omega), if_pos (by omega)]; congr 1; omega
@[simp] theorem fld_atom_18 (op : BitVec 8) (p : Pr) (a : BitVec 4) (b : BitVec 5) (c : BitVec 7) (d : BitVec 6) :
    fld (encWord op p (a ++ b ++ c ++ d)) 18 4 = a := by
  apply BitVec.eq_of_getLsbD_eq; intro i hi
  simp only [fld, encWord, BitVec.getLsbD_append, BitVec.getLsbD_extractLsb', hi, decide_true, Bool.true_and]
  rw [if_pos (by omega), if_neg (by omega), if_neg (by omega), if_neg (by omega)]; congr 1; omega
@[simp] theorem fld_fence_pair (op : BitVec 8) (p : Pr) (a : BitVec 20) (b c : BitVec 1) :
    fld (encWord op p (a ++ b ++ c)) 0 2 = b ++ c := by
  apply BitVec.eq_of_getLsbD_eq; intro i hi
  simp only [fld, encWord, BitVec.getLsbD_append, BitVec.getLsbD_extractLsb', hi, decide_true, Bool.true_and]
  rcases i with _ | _ | i
  · simp
  · simp
  · omega
@[simp] theorem fld_whole (op : BitVec 8) (p : Pr) (a : BitVec 22) : fld (encWord op p a) 0 22 = a :=
  (fld_encWord_low op p a (by omega)).trans BitVec.extractLsb'_eq_self

theorem need_true (r : Reject) (x : Except Reject Instr) : need true r x = x := rfl

@[simp] theorem encTgt_none_field (op : BitVec 8) (p : Pr) (i : BitVec 13) : fld (encI op p i .none) 0 9 = 0#9 :=
  fld_encI_0 op p i .none

theorem decCpy_encQ (op : BitVec 8) (p : Pr) (a : BitVec 5) (k : BitVec 3) (f : Bool) (t : Tgt)
    (mk : Pr → BitVec 5 → BitVec 3 → Bool → Tgt → Instr) (h : (f || a == 0#5) = true) :
    decCpy (encQ op p 0#4 a k f t) mk = .ok (mk p a k f t) := by
  have h2 : f = false → a = 0#5 := by intro hf; simpa [hf] using h
  simp [decCpy, need]; exact h2

/-- Bit 12 of an immediate below 4096 is zero. -/
theorem fld_encI_21 (op : BitVec 8) (p : Pr) (i : BitVec 13) (ta : Tgt) (h : i.toNat < 4096) :
    fld (encI op p i ta) 21 1 = 0#1 := by
  have h1 := fld_fld (encI op p i ta) (a := 9) (m := 13) (lo := 12) (n := 1) (by omega)
  rw [← h1, fld_encI_9]
  exact extract_zero_of_lt i h

@[simp] theorem fld_encX_20 (op : BitVec 8) (p : Pr) (a : BitVec 2) (b : BitVec 1) (o : BitVec 19) :
    fld (encX op p (a ++ b) o) 20 2 = a :=
  (fld_fld (encX op p (a ++ b) o) (a := 19) (m := 3) (lo := 1) (n := 2) (by omega)).symm.trans
    ((congrArg (·.extractLsb' 1 2) (fld_encX_19 op p (a ++ b) o)).trans
      ((extract_append_hi a b (by omega)).trans BitVec.extractLsb'_eq_self))

@[simp] theorem fld_encX_19_low (op : BitVec 8) (p : Pr) (a : BitVec 2) (b : BitVec 1) (o : BitVec 19) :
    fld (encX op p (a ++ b) o) 19 1 = b :=
  (fld_fld (encX op p (a ++ b) o) (a := 19) (m := 3) (lo := 0) (n := 1) (by omega)).symm.trans
    ((congrArg (·.extractLsb' 0 1) (fld_encX_19 op p (a ++ b) o)).trans
      ((extract_append_lo a b (by omega)).trans BitVec.extractLsb'_eq_self))

@[simp] theorem fld_encX_code (op : BitVec 8) (p : Pr) (e : BitVec 3) (a : BitVec 11) (c : BitVec 8) :
    fld (encX op p e (a ++ c)) 0 8 = c :=
  (fld_fld (encX op p e (a ++ c)) (a := 0) (m := 19) (lo := 0) (n := 8) (by omega)).symm.trans
    ((congrArg (·.extractLsb' 0 8) (fld_encX_0 op p e (a ++ c))).trans
      ((extract_append_lo a c (by omega)).trans BitVec.extractLsb'_eq_self))

@[simp] theorem fld_encX_reserved (op : BitVec 8) (p : Pr) (e : BitVec 3) (a : BitVec 11) (c : BitVec 8) :
    fld (encX op p e (a ++ c)) 8 14 = e ++ a := by
  apply BitVec.eq_of_getLsbD_eq; intro i hi
  simp only [fld, encX, encWord, BitVec.getLsbD_append, BitVec.getLsbD_extractLsb', hi, decide_true, Bool.true_and]
  rw [if_pos (by omega)]
  by_cases h : i < 11
  · rw [if_pos (by omega), if_neg (by omega), if_pos h]; congr 1; omega
  · rw [if_neg (by omega), if_neg h]; congr 1; omega

/-! ## From a word to its fields -/

/-- A field is its upper part over its lower part. -/
theorem fld_split (w : IWord) (a m n : Nat) : fld w a (m + n) = fld w (a + n) m ++ fld w a n := by
  apply BitVec.eq_of_getLsbD_eq; intro i hi
  simp only [fld, BitVec.getLsbD_append, BitVec.getLsbD_extractLsb', hi, decide_true, Bool.true_and]
  split
  · rename_i h; simp [h]
  · rw [show a + n + (i - n) = a + i by omega, show i - n < m by omega |> decide_eq_true]; rfl

theorem encPr_of_decPr {w : IWord} {p : Pr} (h : decPr w = .ok p) : encPr p = fld w 22 2 := by
  unfold decPr at h
  have hv : (fld w 22 2).toNat < 4 := (fld w 22 2).isLt
  split at h <;> cases h <;> apply BitVec.eq_of_toNat_eq <;> simp [encPr, *]

theorem encTgt_of_decTgt {f : BitVec 9} {t : Tgt} (h : decTgt f = .ok t) : encTgt t = f := by
  have hs : f = f.extractLsb' 7 2 ++ f.extractLsb' 0 7 := by
    apply BitVec.eq_of_getLsbD_eq; intro i hi
    simp only [BitVec.getLsbD_append, BitVec.getLsbD_extractLsb']
    split
    · rename_i h; simp [h]
    · simp [show 7 + (i - 7) = i by omega, show i - 7 < 2 by omega]
  unfold decTgt at h
  have hk : ∀ n, (f.extractLsb' 7 2).toNat = n → f.extractLsb' 7 2 = BitVec.ofNat 2 n := by
    intro n hn; rw [← hn]; exact BitVec.eq_of_toNat_eq (by rw [BitVec.toNat_ofNat, Nat.mod_eq_of_lt (BitVec.isLt _)])
  split at h
  · rename_i h0
    split at h
    · rename_i hz; cases h; rw [hs, hk 0 h0, hz]; rfl
    · cases h
  · rename_i h1; cases h; rw [encTgt]; conv_rhs => rw [hs, hk 1 h1]
  · rename_i h1; cases h; rw [encTgt]; conv_rhs => rw [hs, hk 2 h1]
  · rename_i n0 n1 n2; cases h
    have h4 := (f.extractLsb' 7 2).isLt
    have h3 : (f.extractLsb' 7 2).toNat = 3 := by
      have a0 : (f.extractLsb' 7 2).toNat ≠ 0 := n0
      have a1 : (f.extractLsb' 7 2).toNat ≠ 1 := n1
      have a2 : (f.extractLsb' 7 2).toNat ≠ 2 := n2
      omega
    rw [encTgt]; conv_rhs => rw [hs, hk 3 h3]

/-- A word is the encoding of its own fields. -/
theorem encWord_fields {w : IWord} {p : Pr} (h : decPr w = .ok p) : encWord (fld w 24 8) p (fld w 0 22) = w := by
  rw [encWord, encPr_of_decPr h]
  have h1 := fld_split w 0 8 24
  have h2 := fld_split w 0 2 22
  have h3 : fld w 0 (8 + 24) = w := BitVec.extractLsb'_eq_self
  rw [← h3, h1]
  apply BitVec.eq_of_getLsbD_eq; intro i hi
  simp only [fld, BitVec.getLsbD_append, BitVec.getLsbD_extractLsb']
  rcases Nat.lt_or_ge i 22 with h | h
  · simp [h, show i < 24 by omega]
  · rcases Nat.lt_or_ge i 24 with h' | h'
    · simp [show ¬ i < 22 by omega, h', show i - 22 < 2 by omega, show 22 + (i - 22) = i by omega]
    · simp [show ¬ i < 22 by omega, show ¬ i < 24 by omega, show ¬ i - 22 < 2 by omega, show i - 22 - 2 = i - 24 by omega]


/-! ## What each reader answers -/

theorem decGAny_inv {w : IWord} {mk i} (h : decGAny w mk = .ok i) :
    ∃ p ta tb, i = mk p ta tb ∧ w = encG (fld w 24 8) p (fld w 18 4) ta tb := by
  unfold decGAny at h
  cases hp : decPr w with
  | error _ => simp [hp, bind, Except.bind] at h
  | ok p =>
    cases ha : decTgt (fld w 0 9) with
    | error _ => simp [hp, ha, bind, Except.bind] at h
    | ok ta =>
      cases hb : decTgt (fld w 9 9) with
      | error _ => simp [hp, ha, hb, bind, Except.bind] at h
      | ok tb =>
        simp [hp, ha, hb, bind, Except.bind, pure, Except.pure] at h
        refine ⟨p, ta, tb, h.symm, ?_⟩
        conv_lhs => rw [← encWord_fields hp]
        rw [encG, encTgt_of_decTgt ha, encTgt_of_decTgt hb, fld_split w 0 13 9, fld_split w 9 4 9]

theorem need_inv {b : Bool} {r x i} (h : need b r x = .ok i) : b = true ∧ x = .ok i := by
  cases b
  · cases h
  · exact ⟨rfl, h⟩

theorem decG_inv {w : IWord} {mk i} (h : decG w mk = .ok i) :
    ∃ p ta tb, i = mk p ta tb ∧ w = encG (fld w 24 8) p 0#4 ta tb := by
  obtain ⟨h1, h2⟩ := need_inv h
  obtain ⟨p, ta, tb, hi, hw⟩ := decGAny_inv h2
  refine ⟨p, ta, tb, hi, ?_⟩
  rwa [eq_of_beq h1] at hw

theorem decI_inv {w : IWord} {mk i} (h : decI w mk = .ok i) :
    ∃ p ta, i = mk p (fld w 9 13) ta ∧ decTgt (fld w 0 9) = .ok ta ∧ w = encI (fld w 24 8) p (fld w 9 13) ta := by
  unfold decI at h
  cases hp : decPr w with
  | error _ => simp [hp, bind, Except.bind] at h
  | ok p =>
    cases ha : decTgt (fld w 0 9) with
    | error _ => simp [hp, ha, bind, Except.bind] at h
    | ok ta =>
      simp [hp, ha, bind, Except.bind, pure, Except.pure] at h
      refine ⟨p, ta, h.symm, rfl, ?_⟩
      conv_lhs => rw [← encWord_fields hp]
      rw [encI, encTgt_of_decTgt ha, fld_split w 0 13 9]

theorem decX_inv {w : IWord} {mk i} (h : decX w mk = .ok i) :
    ∃ p, i = mk p (fld w 19 3) (fld w 0 19) ∧ w = encX (fld w 24 8) p (fld w 19 3) (fld w 0 19) := by
  unfold decX at h
  cases hp : decPr w with
  | error _ => simp [hp, bind, Except.bind] at h
  | ok p =>
    simp [hp, bind, Except.bind, pure, Except.pure] at h
    refine ⟨p, h.symm, ?_⟩
    conv_lhs => rw [← encWord_fields hp]
    rw [encX, fld_split w 0 3 19]

theorem encBit_fld (w : IWord) (n : Nat) : encBit (fld w n 1 == 1#1) = fld w n 1 := by
  generalize fld w n 1 = b
  revert b; decide

theorem decQ_inv {w : IWord} {okX okA okK okF okT mk i} (h : decQ w okX okA okK okF okT mk = .ok i) :
    ∃ p ta, mk p (fld w 18 4) (fld w 13 5) (fld w 10 3) (fld w 9 1 == 1#1) ta = .ok i ∧
      (okX || fld w 18 4 == 0#4) = true ∧ (okA || fld w 13 5 == 0#5) = true ∧ (okK || fld w 10 3 == 0#3) = true ∧
      (okF || fld w 9 1 == 0#1) = true ∧ (okT || fld w 0 9 == 0#9) = true ∧ decTgt (fld w 0 9) = .ok ta ∧
      w = encQ (fld w 24 8) p (fld w 18 4) (fld w 13 5) (fld w 10 3) (fld w 9 1 == 1#1) ta := by
  unfold decQ at h
  split at h
  · cases h
  · rename_i h1
    split at h
    · cases h
    · rename_i h2
      cases hp : decPr w with
      | error _ => simp [hp, bind, Except.bind] at h
      | ok p =>
        cases ha : decTgt (fld w 0 9) with
        | error _ => simp [hp, ha, bind, Except.bind] at h
        | ok ta =>
          simp only [hp, ha, bind, Except.bind] at h
          simp only [Bool.not_eq_true, Bool.not_eq_false', Bool.and_eq_true] at h1 h2
          refine ⟨p, ta, h, h1, h2.1.1.1, h2.1.1.2, h2.1.2, h2.2, rfl, ?_⟩
          conv_lhs => rw [← encWord_fields hp]
          rw [encQ, encBit_fld, encTgt_of_decTgt ha, fld_split w 0 13 9, fld_split w 9 12 1, fld_split w 10 9 3,
            fld_split w 13 4 5]

/-- The operation code from its two digits. -/
theorem fld_op {w : IWord} {a b : Nat} (ha : (fld w 28 4).toNat = a) (hb : (fld w 24 4).toNat = b) :
    fld w 24 8 = BitVec.ofNat 8 (a * 16 + b) := by
  have h := fld_split w 24 4 4
  rw [h]
  apply BitVec.eq_of_toNat_eq
  rw [BitVec.toNat_append, BitVec.toNat_ofNat]
  have h1 := (fld w 28 4).isLt
  have h2 := (fld w 24 4).isLt
  simp only [Nat.reduceAdd, ha, hb] at *
  rw [Nat.shiftLeft_eq, Nat.mod_eq_of_lt (by omega), Nat.mul_comm a, ← Nat.two_pow_add_eq_or_of_lt h2]

end Sys2Proof
end

