-- ==== Sys2Proof/Laws/Exec.lean ====
section
/-! SUPPORT. Laws/Exec.lean: the meaning that each instruction's arm calls, one equation per constructor, so that no proof
unfolds the dispatch. -/

namespace Sys2Proof.Machine

set_option Elab.async false

@[simp] theorem exec_bro (p : Pr) (ex : BitVec 3) (off : BitVec 19) (s : State) : exec (.bro p ex off) s = execBro p ex off s := rfl
@[simp] theorem exec_bri (p : Pr) (ex : BitVec 3) (s : State) : exec (.bri p ex) s = execBri p ex s := rfl
@[simp] theorem exec_callo (p : Pr) (ex : BitVec 3) (off : BitVec 19) (s : State) : exec (.callo p ex off) s = execCallo p ex off s := rfl
@[simp] theorem exec_calli (p : Pr) (ex : BitVec 3) (s : State) : exec (.calli p ex) s = execCalli p ex s := rfl
@[simp] theorem exec_ret (p : Pr) (ex : BitVec 3) (s : State) : exec (.ret p ex) s = execRet p ex s := rfl
@[simp] theorem exec_scall (p : Pr) (ex : BitVec 3) (s : State) : exec (.scall p ex) s = execScall p ex s := rfl
@[simp] theorem exec_exit (p : Pr) (ex : BitVec 3) (s : State) : exec (.exit p ex) s = execExit p ex s := rfl
@[simp] theorem exec_null (p : Pr) (ta tb : Tgt) (s : State) : exec (.null p ta tb) s = execNull p ta tb s := rfl
@[simp] theorem exec_mov (p : Pr) (ta tb : Tgt) (s : State) : exec (.mov p ta tb) s = execMov p ta tb s := rfl
@[simp] theorem exec_sel (p : Pr) (ta tb : Tgt) (s : State) : exec (.sel p ta tb) s = execSel p ta tb s := rfl
@[simp] theorem exec_getr (p : Pr) (g : BitVec 13) (ta : Tgt) (s : State) : exec (.getr p g ta) s = execGetr p g ta s := rfl
@[simp] theorem exec_putr (p : Pr) (g : BitVec 13) (s : State) : exec (.putr p g) s = execPutr p g s := rfl
@[simp] theorem exec_const (p : Pr) (imm : BitVec 13) (ta : Tgt) (s : State) : exec (.const p imm ta) s = execConst p imm ta s := rfl
@[simp] theorem exec_consth (p : Pr) (imm : BitVec 13) (ta : Tgt) (s : State) : exec (.consth p imm ta) s = execConsth p imm ta s := rfl
@[simp] theorem exec_add (p : Pr) (ta tb : Tgt) (s : State) : exec (.add p ta tb) s = execAdd p ta tb s := rfl
@[simp] theorem exec_sub (p : Pr) (ta tb : Tgt) (s : State) : exec (.sub p ta tb) s = execSub p ta tb s := rfl
@[simp] theorem exec_mul (p : Pr) (ta tb : Tgt) (s : State) : exec (.mul p ta tb) s = execMul p ta tb s := rfl
@[simp] theorem exec_mulh (p : Pr) (ta tb : Tgt) (s : State) : exec (.mulh p ta tb) s = execMulh p ta tb s := rfl
@[simp] theorem exec_mulhu (p : Pr) (ta tb : Tgt) (s : State) : exec (.mulhu p ta tb) s = execMulhu p ta tb s := rfl
@[simp] theorem exec_div (p : Pr) (ta tb : Tgt) (s : State) : exec (.div p ta tb) s = execDiv p ta tb s := rfl
@[simp] theorem exec_divu (p : Pr) (ta tb : Tgt) (s : State) : exec (.divu p ta tb) s = execDivu p ta tb s := rfl
@[simp] theorem exec_rem (p : Pr) (ta tb : Tgt) (s : State) : exec (.rem p ta tb) s = execRem p ta tb s := rfl
@[simp] theorem exec_remu (p : Pr) (ta tb : Tgt) (s : State) : exec (.remu p ta tb) s = execRemu p ta tb s := rfl
@[simp] theorem exec_and (p : Pr) (ta tb : Tgt) (s : State) : exec (.and p ta tb) s = execAnd p ta tb s := rfl
@[simp] theorem exec_or (p : Pr) (ta tb : Tgt) (s : State) : exec (.or p ta tb) s = execOr p ta tb s := rfl
@[simp] theorem exec_xor (p : Pr) (ta tb : Tgt) (s : State) : exec (.xor p ta tb) s = execXor p ta tb s := rfl
@[simp] theorem exec_andn (p : Pr) (ta tb : Tgt) (s : State) : exec (.andn p ta tb) s = execAndn p ta tb s := rfl
@[simp] theorem exec_shl (p : Pr) (ta tb : Tgt) (s : State) : exec (.shl p ta tb) s = execShl p ta tb s := rfl
@[simp] theorem exec_shr (p : Pr) (ta tb : Tgt) (s : State) : exec (.shr p ta tb) s = execShr p ta tb s := rfl
@[simp] theorem exec_sar (p : Pr) (ta tb : Tgt) (s : State) : exec (.sar p ta tb) s = execSar p ta tb s := rfl
@[simp] theorem exec_rotl (p : Pr) (ta tb : Tgt) (s : State) : exec (.rotl p ta tb) s = execRotl p ta tb s := rfl
@[simp] theorem exec_min (p : Pr) (ta tb : Tgt) (s : State) : exec (.min p ta tb) s = execMin p ta tb s := rfl
@[simp] theorem exec_max (p : Pr) (ta tb : Tgt) (s : State) : exec (.max p ta tb) s = execMax p ta tb s := rfl
@[simp] theorem exec_minu (p : Pr) (ta tb : Tgt) (s : State) : exec (.minu p ta tb) s = execMinu p ta tb s := rfl
@[simp] theorem exec_maxu (p : Pr) (ta tb : Tgt) (s : State) : exec (.maxu p ta tb) s = execMaxu p ta tb s := rfl
@[simp] theorem exec_abs (p : Pr) (ta tb : Tgt) (s : State) : exec (.abs p ta tb) s = execAbs p ta tb s := rfl
@[simp] theorem exec_neg (p : Pr) (ta tb : Tgt) (s : State) : exec (.neg p ta tb) s = execNeg p ta tb s := rfl
@[simp] theorem exec_clz (p : Pr) (ta tb : Tgt) (s : State) : exec (.clz p ta tb) s = execClz p ta tb s := rfl
@[simp] theorem exec_ctz (p : Pr) (ta tb : Tgt) (s : State) : exec (.ctz p ta tb) s = execCtz p ta tb s := rfl
@[simp] theorem exec_popc (p : Pr) (ta tb : Tgt) (s : State) : exec (.popc p ta tb) s = execPopc p ta tb s := rfl
@[simp] theorem exec_bfx (p : Pr) (ta tb : Tgt) (s : State) : exec (.bfx p ta tb) s = execBfx p ta tb s := rfl
@[simp] theorem exec_bfi (p : Pr) (ta tb : Tgt) (s : State) : exec (.bfi p ta tb) s = execBfi p ta tb s := rfl
@[simp] theorem exec_sext (p : Pr) (wd : Width) (ta tb : Tgt) (s : State) : exec (.sext p wd ta tb) s = execSext p wd ta tb s := rfl
@[simp] theorem exec_zext (p : Pr) (wd : Width) (ta tb : Tgt) (s : State) : exec (.zext p wd ta tb) s = execZext p wd ta tb s := rfl
@[simp] theorem exec_teq (p : Pr) (ta tb : Tgt) (s : State) : exec (.teq p ta tb) s = execTeq p ta tb s := rfl
@[simp] theorem exec_tne (p : Pr) (ta tb : Tgt) (s : State) : exec (.tne p ta tb) s = execTne p ta tb s := rfl
@[simp] theorem exec_tlt (p : Pr) (ta tb : Tgt) (s : State) : exec (.tlt p ta tb) s = execTlt p ta tb s := rfl
@[simp] theorem exec_tle (p : Pr) (ta tb : Tgt) (s : State) : exec (.tle p ta tb) s = execTle p ta tb s := rfl
@[simp] theorem exec_tltu (p : Pr) (ta tb : Tgt) (s : State) : exec (.tltu p ta tb) s = execTltu p ta tb s := rfl
@[simp] theorem exec_tleu (p : Pr) (ta tb : Tgt) (s : State) : exec (.tleu p ta tb) s = execTleu p ta tb s := rfl
@[simp] theorem exec_tbit (p : Pr) (ta tb : Tgt) (s : State) : exec (.tbit p ta tb) s = execTbit p ta tb s := rfl
@[simp] theorem exec_addi (p : Pr) (imm : BitVec 13) (ta : Tgt) (s : State) : exec (.addi p imm ta) s = execAddi p imm ta s := rfl
@[simp] theorem exec_muli (p : Pr) (imm : BitVec 13) (ta : Tgt) (s : State) : exec (.muli p imm ta) s = execMuli p imm ta s := rfl
@[simp] theorem exec_andi (p : Pr) (imm : BitVec 13) (ta : Tgt) (s : State) : exec (.andi p imm ta) s = execAndi p imm ta s := rfl
@[simp] theorem exec_ori (p : Pr) (imm : BitVec 13) (ta : Tgt) (s : State) : exec (.ori p imm ta) s = execOri p imm ta s := rfl
@[simp] theorem exec_xori (p : Pr) (imm : BitVec 13) (ta : Tgt) (s : State) : exec (.xori p imm ta) s = execXori p imm ta s := rfl
@[simp] theorem exec_shli (p : Pr) (k : BitVec 13) (ta : Tgt) (s : State) : exec (.shli p k ta) s = execShli p k ta s := rfl
@[simp] theorem exec_shri (p : Pr) (k : BitVec 13) (ta : Tgt) (s : State) : exec (.shri p k ta) s = execShri p k ta s := rfl
@[simp] theorem exec_sari (p : Pr) (k : BitVec 13) (ta : Tgt) (s : State) : exec (.sari p k ta) s = execSari p k ta s := rfl
@[simp] theorem exec_teqi (p : Pr) (imm : BitVec 13) (ta : Tgt) (s : State) : exec (.teqi p imm ta) s = execTeqi p imm ta s := rfl
@[simp] theorem exec_tnei (p : Pr) (imm : BitVec 13) (ta : Tgt) (s : State) : exec (.tnei p imm ta) s = execTnei p imm ta s := rfl
@[simp] theorem exec_tlti (p : Pr) (imm : BitVec 13) (ta : Tgt) (s : State) : exec (.tlti p imm ta) s = execTlti p imm ta s := rfl
@[simp] theorem exec_tlei (p : Pr) (imm : BitVec 13) (ta : Tgt) (s : State) : exec (.tlei p imm ta) s = execTlei p imm ta s := rfl
@[simp] theorem exec_tltui (p : Pr) (imm : BitVec 13) (ta : Tgt) (s : State) : exec (.tltui p imm ta) s = execTltui p imm ta s := rfl
@[simp] theorem exec_tleui (p : Pr) (imm : BitVec 13) (ta : Tgt) (s : State) : exec (.tleui p imm ta) s = execTleui p imm ta s := rfl
@[simp] theorem exec_bfxi (p : Pr) (imm : BitVec 13) (ta : Tgt) (s : State) : exec (.bfxi p imm ta) s = execBfxi p imm ta s := rfl
@[simp] theorem exec_fadd (p : Pr) (q : Prec) (r : Rnd) (ta tb : Tgt) (s : State) : exec (.fadd p q r ta tb) s = execFadd p q r ta tb s := rfl
@[simp] theorem exec_fsub (p : Pr) (q : Prec) (r : Rnd) (ta tb : Tgt) (s : State) : exec (.fsub p q r ta tb) s = execFsub p q r ta tb s := rfl
@[simp] theorem exec_fmul (p : Pr) (q : Prec) (r : Rnd) (ta tb : Tgt) (s : State) : exec (.fmul p q r ta tb) s = execFmul p q r ta tb s := rfl
@[simp] theorem exec_fdiv (p : Pr) (q : Prec) (r : Rnd) (ta tb : Tgt) (s : State) : exec (.fdiv p q r ta tb) s = execFdiv p q r ta tb s := rfl
@[simp] theorem exec_fsqrt (p : Pr) (q : Prec) (r : Rnd) (ta tb : Tgt) (s : State) : exec (.fsqrt p q r ta tb) s = execFsqrt p q r ta tb s := rfl
@[simp] theorem exec_fmin (p : Pr) (q : Prec) (ta tb : Tgt) (s : State) : exec (.fmin p q ta tb) s = execFmin p q ta tb s := rfl
@[simp] theorem exec_fmax (p : Pr) (q : Prec) (ta tb : Tgt) (s : State) : exec (.fmax p q ta tb) s = execFmax p q ta tb s := rfl
@[simp] theorem exec_fcvtFF (p : Pr) (q : Prec) (r : Rnd) (ta tb : Tgt) (s : State) : exec (.fcvtFF p q r ta tb) s = execFcvtFF p q r ta tb s := rfl
@[simp] theorem exec_fcvtFI (p : Pr) (q : Prec) (r : Rnd) (ta tb : Tgt) (s : State) : exec (.fcvtFI p q r ta tb) s = execFcvtFI p q r ta tb s := rfl
@[simp] theorem exec_fcvtIF (p : Pr) (q : Prec) (r : Rnd) (ta tb : Tgt) (s : State) : exec (.fcvtIF p q r ta tb) s = execFcvtIF p q r ta tb s := rfl
@[simp] theorem exec_fteq (p : Pr) (q : Prec) (ta tb : Tgt) (s : State) : exec (.fteq p q ta tb) s = execFteq p q ta tb s := rfl
@[simp] theorem exec_ftlt (p : Pr) (q : Prec) (ta tb : Tgt) (s : State) : exec (.ftlt p q ta tb) s = execFtlt p q ta tb s := rfl
@[simp] theorem exec_ftle (p : Pr) (q : Prec) (ta tb : Tgt) (s : State) : exec (.ftle p q ta tb) s = execFtle p q ta tb s := rfl
@[simp] theorem exec_fclass (p : Pr) (q : Prec) (ta tb : Tgt) (s : State) : exec (.fclass p q ta tb) s = execFclass p q ta tb s := rfl
@[simp] theorem exec_ld (p : Pr) (lsid ag : BitVec 5) (sz : BitVec 2) (sx : Bool) (ta : Tgt) (s : State) : exec (.ld p lsid ag sz sx ta) s = execLd p lsid ag sz sx ta s := rfl
@[simp] theorem exec_st (p : Pr) (lsid ag : BitVec 5) (sz : BitVec 2) (na : Bool) (s : State) : exec (.st p lsid ag sz na) s = execSt p lsid ag sz na s := rfl
@[simp] theorem exec_pref (p : Pr) (lsid ag : BitVec 5) (s : State) : exec (.pref p lsid ag) s = execPref p lsid ag s := rfl
@[simp] theorem exec_enq (p : Pr) (ag : BitVec 5) (s : State) : exec (.enq p ag) s = execEnq p ag s := rfl
@[simp] theorem exec_enqm (p : Pr) (ag : BitVec 5) (s : State) : exec (.enqm p ag) s = execEnqm p ag s := rfl
@[simp] theorem exec_strm (p : Pr) (ag : BitVec 5) (tk : BitVec 3) (f : Bool) (s : State) : exec (.strm p ag tk f) s = execStrm p ag tk f s := rfl
@[simp] theorem exec_strms (p : Pr) (ag : BitVec 5) (tk : BitVec 3) (f : Bool) (s : State) : exec (.strms p ag tk f) s = execStrms p ag tk f s := rfl
@[simp] theorem exec_parm (p : Pr) (ag : BitVec 5) (s : State) : exec (.parm p ag) s = execParm p ag s := rfl
@[simp] theorem exec_rngp (p : Pr) (ta : Tgt) (s : State) : exec (.rngp p ta) s = execRngp p ta s := rfl
@[simp] theorem exec_getp (p : Pr) (ag : BitVec 5) (ta : Tgt) (s : State) : exec (.getp p ag ta) s = execGetp p ag ta s := rfl
@[simp] theorem exec_putp (p : Pr) (ag : BitVec 5) (s : State) : exec (.putp p ag) s = execPutp p ag s := rfl
@[simp] theorem exec_cpy (p : Pr) (ag : BitVec 5) (tk : BitVec 3) (f : Bool) (ta : Tgt) (s : State) : exec (.cpy p ag tk f ta) s = execCpy p ag tk f ta s := rfl
@[simp] theorem exec_cpyg (p : Pr) (ag : BitVec 5) (tk : BitVec 3) (f : Bool) (ta : Tgt) (s : State) : exec (.cpyg p ag tk f ta) s = execCpyg p ag tk f ta s := rfl
@[simp] theorem exec_cpys (p : Pr) (ag : BitVec 5) (tk : BitVec 3) (f : Bool) (ta : Tgt) (s : State) : exec (.cpys p ag tk f ta) s = execCpys p ag tk f ta s := rfl
@[simp] theorem exec_cpyr (p : Pr) (ag : BitVec 5) (tk : BitVec 3) (f : Bool) (ta : Tgt) (s : State) : exec (.cpyr p ag tk f ta) s = execCpyr p ag tk f ta s := rfl
@[simp] theorem exec_waitn (p : Pr) (ld st : BitVec 6) (cp tl : BitVec 5) (s : State) : exec (.waitn p ld st cp tl) s = execWaitn p ld st cp tl s := rfl
@[simp] theorem exec_waitt (p : Pr) (eng : BitVec 5) (ctx : BitVec 2) (ta : Tgt) (s : State) : exec (.waitt p eng ctx ta) s = execWaitt p eng ctx ta s := rfl
@[simp] theorem exec_waita (p : Pr) (ag : BitVec 5) (cmp : Cmp) (ta : Tgt) (s : State) : exec (.waita p ag cmp ta) s = execWaita p ag cmp ta s := rfl
@[simp] theorem exec_waitb (p : Pr) (bs : BitVec 5) (ta : Tgt) (s : State) : exec (.waitb p bs ta) s = execWaitb p bs ta s := rfl
@[simp] theorem exec_tbp (p : Pr) (bs : BitVec 5) (ta : Tgt) (s : State) : exec (.tbp p bs ta) s = execTbp p bs ta s := rfl
@[simp] theorem exec_arv (p : Pr) (bs : BitVec 5) (s : State) : exec (.arv p bs) s = execArv p bs s := rfl
@[simp] theorem exec_arvx (p : Pr) (bs : BitVec 5) (s : State) : exec (.arvx p bs) s = execArvx p bs s := rfl
@[simp] theorem exec_expt (p : Pr) (bs : BitVec 5) (s : State) : exec (.expt p bs) s = execExpt p bs s := rfl
@[simp] theorem exec_fence (p : Pr) (e s1 : Bool) (s : State) : exec (.fence p e s1) s = execFence p e s1 s := rfl
@[simp] theorem exec_yield (p : Pr) (s : State) : exec (.yield p) s = execYield p s := rfl
@[simp] theorem exec_tlrd (p : Pr) (eng : BitVec 5) (ctx : BitVec 2) (ta : Tgt) (s : State) : exec (.tlrd p eng ctx ta) s = execTlrd p eng ctx ta s := rfl
@[simp] theorem exec_atom (p : Pr) (op : AtomOp) (ag : BitVec 5) (gd : BitVec 6) (s : State) : exec (.atom p op ag gd) s = execAtom p op ag gd s := rfl
@[simp] theorem exec_red (p : Pr) (op : RedOp) (ag : BitVec 5) (s : State) : exec (.red p op ag) s = execRed p op ag s := rfl
@[simp] theorem exec_leash (p : Pr) (k : KKind) (slot : BitVec 5) (tk : BitVec 3) (ta : Tgt) (s : State) : exec (.leash p k slot tk ta) s = execLeash p k slot tk ta s := rfl
@[simp] theorem exec_lrel (p : Pr) (slot : BitVec 5) (s : State) : exec (.lrel p slot) s = execLrel p slot s := rfl
@[simp] theorem exec_lqry (p : Pr) (slot : BitVec 5) (ta : Tgt) (s : State) : exec (.lqry p slot ta) s = execLqry p slot ta s := rfl
@[simp] theorem exec_lpri (p : Pr) (slot : BitVec 5) (s : State) : exec (.lpri p slot) s = execLpri p slot s := rfl
@[simp] theorem exec_launch (p : Pr) (ag : BitVec 5) (tk : BitVec 3) (s : State) : exec (.launch p ag tk) s = execLaunch p ag tk s := rfl
@[simp] theorem exec_qclaim (p : Pr) (ta : Tgt) (s : State) : exec (.qclaim p ta) s = execQclaim p ta s := rfl
@[simp] theorem exec_qpub (p : Pr) (s : State) : exec (.qpub p) s = execQpub p s := rfl
@[simp] theorem exec_cntr (p : Pr) (s : State) : exec (.cntr p) s = execCntr p s := rfl
@[simp] theorem exec_cancel (p : Pr) (lev : Level) (s : State) : exec (.cancel p lev) s = execCancel p lev s := rfl
@[simp] theorem exec_cfgl (p : Pr) (n : BitVec 13) (s : State) : exec (.cfgl p n) s = execCfgl p n s := rfl
@[simp] theorem exec_cfgt (p : Pr) (s : State) : exec (.cfgt p) s = execCfgt p s := rfl
@[simp] theorem exec_srd (p : Pr) (sys : BitVec 13) (ta : Tgt) (s : State) : exec (.srd p sys ta) s = execSrd p sys ta s := rfl
@[simp] theorem exec_swr (p : Pr) (sys : BitVec 13) (s : State) : exec (.swr p sys) s = execSwr p sys s := rfl
@[simp] theorem exec_tlbi (p : Pr) (form : BitVec 13) (ta : Tgt) (s : State) : exec (.tlbi p form ta) s = execTlbi p form ta s := rfl
@[simp] theorem exec_ctxs (p : Pr) (s : State) : exec (.ctxs p) s = execCtxs p s := rfl
@[simp] theorem exec_ctxr (p : Pr) (s : State) : exec (.ctxr p) s = execCtxr p s := rfl
@[simp] theorem exec_eret (p : Pr) (skip : Bool) (s : State) : exec (.eret p skip) s = execEret p skip s := rfl
@[simp] theorem exec_trap (p : Pr) (c : BitVec 8) (s : State) : exec (.trap p c) s = execTrap p c s := rfl
@[simp] theorem exec_pwrq (p : Pr) (q : BitVec 13) (ta : Tgt) (s : State) : exec (.pwrq p q ta) s = execPwrq p q ta s := rfl
@[simp] theorem exec_wr (cl port : Nat) (s : State) : exec (.wr cl port) s = execWr cl port s := rfl
@[simp] theorem exec_wrm (cl port : Nat) (s : State) : exec (.wrm cl port) s = execWrm cl port s := rfl
@[simp] theorem exec_wacc (cl port : Nat) (s : State) : exec (.wacc cl port) s = execWacc cl port s := rfl
@[simp] theorem exec_mldb (cl me : Nat) (s : State) : exec (.mldb cl me) s = execMldb cl me s := rfl
@[simp] theorem exec_mma (cl me : Nat) (bad : BadElement) (s : State) : exec (.mma cl me bad) s = execMma cl me bad s := rfl
@[simp] theorem exec_mgth (cl me : Nat) (bad : BadElement) (s : State) : exec (.mgth cl me bad) s = execMgth cl me bad s := rfl
@[simp] theorem exec_mcsr (cl me : Nat) (bad : BadElement) (s : State) : exec (.mcsr cl me bad) s = execMcsr cl me bad s := rfl
@[simp] theorem exec_mbsr (cl me : Nat) (bad : BadElement) (s : State) : exec (.mbsr cl me bad) s = execMbsr cl me bad s := rfl
@[simp] theorem exec_mzero (cl me : Nat) (s : State) : exec (.mzero cl me) s = execMzero cl me s := rfl
@[simp] theorem exec_mdrn (cl me : Nat) (s : State) : exec (.mdrn cl me) s = execMdrn cl me s := rfl
@[simp] theorem exec_mchk (cl me : Nat) (bad : BadElement) (s : State) : exec (.mchk cl me bad) s = execMchk cl me bad s := rfl
@[simp] theorem exec_msave (cl me : Nat) (s : State) : exec (.msave cl me) s = execMsave cl me s := rfl
@[simp] theorem exec_mload (cl me : Nat) (s : State) : exec (.mload cl me) s = execMload cl me s := rfl
@[simp] theorem exec_vadd (cl ve : Nat) (s : State) : exec (.vadd cl ve) s = execVadd cl ve s := rfl
@[simp] theorem exec_vsub (cl ve : Nat) (s : State) : exec (.vsub cl ve) s = execVsub cl ve s := rfl
@[simp] theorem exec_vmul (cl ve : Nat) (s : State) : exec (.vmul cl ve) s = execVmul cl ve s := rfl
@[simp] theorem exec_vfadd (cl ve : Nat) (s : State) : exec (.vfadd cl ve) s = execVfadd cl ve s := rfl
@[simp] theorem exec_vfsub (cl ve : Nat) (s : State) : exec (.vfsub cl ve) s = execVfsub cl ve s := rfl
@[simp] theorem exec_vfmul (cl ve : Nat) (s : State) : exec (.vfmul cl ve) s = execVfmul cl ve s := rfl
@[simp] theorem exec_vfma (cl ve : Nat) (s : State) : exec (.vfma cl ve) s = execVfma cl ve s := rfl
@[simp] theorem exec_vmin (cl ve : Nat) (s : State) : exec (.vmin cl ve) s = execVmin cl ve s := rfl
@[simp] theorem exec_vmax (cl ve : Nat) (s : State) : exec (.vmax cl ve) s = execVmax cl ve s := rfl
@[simp] theorem exec_vfmin (cl ve : Nat) (s : State) : exec (.vfmin cl ve) s = execVfmin cl ve s := rfl
@[simp] theorem exec_vfmax (cl ve : Nat) (s : State) : exec (.vfmax cl ve) s = execVfmax cl ve s := rfl
@[simp] theorem exec_vabs (cl ve : Nat) (s : State) : exec (.vabs cl ve) s = execVabs cl ve s := rfl
@[simp] theorem exec_vfabs (cl ve : Nat) (s : State) : exec (.vfabs cl ve) s = execVfabs cl ve s := rfl
@[simp] theorem exec_vcmp (cl ve : Nat) (s : State) : exec (.vcmp cl ve) s = execVcmp cl ve s := rfl
@[simp] theorem exec_vfcmp (cl ve : Nat) (s : State) : exec (.vfcmp cl ve) s = execVfcmp cl ve s := rfl
@[simp] theorem exec_vsel (cl ve : Nat) (s : State) : exec (.vsel cl ve) s = execVsel cl ve s := rfl
@[simp] theorem exec_vcvt (cl ve : Nat) (s : State) : exec (.vcvt cl ve) s = execVcvt cl ve s := rfl
@[simp] theorem exec_vshl (cl ve : Nat) (s : State) : exec (.vshl cl ve) s = execVshl cl ve s := rfl
@[simp] theorem exec_vshr (cl ve : Nat) (s : State) : exec (.vshr cl ve) s = execVshr cl ve s := rfl
@[simp] theorem exec_vsar (cl ve : Nat) (s : State) : exec (.vsar cl ve) s = execVsar cl ve s := rfl
@[simp] theorem exec_vand (cl ve : Nat) (s : State) : exec (.vand cl ve) s = execVand cl ve s := rfl
@[simp] theorem exec_vor (cl ve : Nat) (s : State) : exec (.vor cl ve) s = execVor cl ve s := rfl
@[simp] theorem exec_vxor (cl ve : Nat) (s : State) : exec (.vxor cl ve) s = execVxor cl ve s := rfl
@[simp] theorem exec_vrred (cl ve : Nat) (s : State) : exec (.vrred cl ve) s = execVrred cl ve s := rfl
@[simp] theorem exec_vsred (cl ve : Nat) (s : State) : exec (.vsred cl ve) s = execVsred cl ve s := rfl
@[simp] theorem exec_vscan (cl ve : Nat) (s : State) : exec (.vscan cl ve) s = execVscan cl ve s := rfl
@[simp] theorem exec_vgth (cl ve : Nat) (s : State) : exec (.vgth cl ve) s = execVgth cl ve s := rfl
@[simp] theorem exec_vscat (cl ve : Nat) (s : State) : exec (.vscat cl ve) s = execVscat cl ve s := rfl
@[simp] theorem exec_vscatc (cl ve : Nat) (s : State) : exec (.vscatc cl ve) s = execVscatc cl ve s := rfl
@[simp] theorem exec_vperm (cl ve : Nat) (s : State) : exec (.vperm cl ve) s = execVperm cl ve s := rfl
@[simp] theorem exec_vbcst (cl ve : Nat) (s : State) : exec (.vbcst cl ve) s = execVbcst cl ve s := rfl
@[simp] theorem exec_sexp2 (cl : Nat) (s : State) : exec (.sexp2 cl) s = execSexp2 cl s := rfl
@[simp] theorem exec_slog2 (cl : Nat) (s : State) : exec (.slog2 cl) s = execSlog2 cl s := rfl
@[simp] theorem exec_srcp (cl : Nat) (s : State) : exec (.srcp cl) s = execSrcp cl s := rfl
@[simp] theorem exec_srsq (cl : Nat) (s : State) : exec (.srsq cl) s = execSrsq cl s := rfl
@[simp] theorem exec_stanh (cl : Nat) (s : State) : exec (.stanh cl) s = execStanh cl s := rfl
@[simp] theorem exec_ssin (cl : Nat) (s : State) : exec (.ssin cl) s = execSsin cl s := rfl
@[simp] theorem exec_scos (cl : Nat) (s : State) : exec (.scos cl) s = execScos cl s := rfl
@[simp] theorem exec_sgelu (cl : Nat) (s : State) : exec (.sgelu cl) s = execSgelu cl s := rfl
@[simp] theorem exec_rowsm (cl : Nat) (s : State) : exec (.rowsm cl) s = execRowsm cl s := rfl
@[simp] theorem exec_lnorm (cl : Nat) (s : State) : exec (.lnorm cl) s = execLnorm cl s := rfl
@[simp] theorem exec_rmsn (cl : Nat) (s : State) : exec (.rmsn cl) s = execRmsn cl s := rfl
@[simp] theorem exec_xint (cl : Nat) (s : State) : exec (.xint cl) s = execXint cl s := rfl
@[simp] theorem exec_xuni (cl : Nat) (s : State) : exec (.xuni cl) s = execXuni cl s := rfl
@[simp] theorem exec_xdif (cl : Nat) (s : State) : exec (.xdif cl) s = execXdif cl s := rfl
@[simp] theorem exec_xmrg (cl : Nat) (s : State) : exec (.xmrg cl) s = execXmrg cl s := rfl
@[simp] theorem exec_xcnt (cl : Nat) (s : State) : exec (.xcnt cl) s = execXcnt cl s := rfl
@[simp] theorem exec_cadd (cl : Nat) (s : State) : exec (.cadd cl) s = execCadd cl s := rfl
@[simp] theorem exec_cfadd (cl : Nat) (s : State) : exec (.cfadd cl) s = execCfadd cl s := rfl
@[simp] theorem exec_cmax (cl : Nat) (s : State) : exec (.cmax cl) s = execCmax cl s := rfl
@[simp] theorem exec_cmin (cl : Nat) (s : State) : exec (.cmin cl) s = execCmin cl s := rfl
@[simp] theorem exec_cand (cl : Nat) (s : State) : exec (.cand cl) s = execCand cl s := rfl
@[simp] theorem exec_cor (cl : Nat) (s : State) : exec (.cor cl) s = execCor cl s := rfl
@[simp] theorem exec_cxor (cl : Nat) (s : State) : exec (.cxor cl) s = execCxor cl s := rfl
@[simp] theorem exec_cxch (cl : Nat) (s : State) : exec (.cxch cl) s = execCxch cl s := rfl
@[simp] theorem exec_ccas (cl : Nat) (s : State) : exec (.ccas cl) s = execCcas cl s := rfl
@[simp] theorem exec_cfaa (cl : Nat) (s : State) : exec (.cfaa cl) s = execCfaa cl s := rfl
@[simp] theorem exec_resc (cl : Nat) (s : State) : exec (.resc cl) s = execResc cl s := rfl
@[simp] theorem exec_barv (cl : Nat) (s : State) : exec (.barv cl) s = execBarv cl s := rfl
@[simp] theorem exec_barx (cl : Nat) (s : State) : exec (.barx cl) s = execBarx cl s := rfl
@[simp] theorem exec_bexa (cl : Nat) (s : State) : exec (.bexa cl) s = execBexa cl s := rfl
@[simp] theorem exec_bkil (cl : Nat) (s : State) : exec (.bkil cl) s = execBkil cl s := rfl
@[simp] theorem exec_bexp (cl : Nat) (s : State) : exec (.bexp cl) s = execBexp cl s := rfl
@[simp] theorem exec_xrd (cl xf : Nat) (s : State) : exec (.xrd cl xf) s = execXrd cl xf s := rfl
@[simp] theorem exec_xwr (cl xf : Nat) (s : State) : exec (.xwr cl xf) s = execXwr cl xf s := rfl
@[simp] theorem exec_xrrd (cl xf : Nat) (s : State) : exec (.xrrd cl xf) s = execXrrd cl xf s := rfl
@[simp] theorem exec_xrwr (cl xf : Nat) (s : State) : exec (.xrwr cl xf) s = execXrwr cl xf s := rfl
@[simp] theorem exec_xprd (cl xf : Nat) (s : State) : exec (.xprd cl xf) s = execXprd cl xf s := rfl
@[simp] theorem exec_xpwr (cl xf : Nat) (s : State) : exec (.xpwr cl xf) s = execXpwr cl xf s := rfl
@[simp] theorem exec_xnet (cl xf : Nat) (s : State) : exec (.xnet cl xf) s = execXnet cl xf s := rfl
@[simp] theorem exec_kjob (cl : Nat) (s : State) : exec (.kjob cl) s = execKjob cl s := rfl
@[simp] theorem exec_kqry (cl : Nat) (s : State) : exec (.kqry cl) s = execKqry cl s := rfl
@[simp] theorem exec_csend (cl : Nat) (s : State) : exec (.csend cl) s = execCsend cl s := rfl
@[simp] theorem exec_crecv (cl : Nat) (s : State) : exec (.crecv cl) s = execCrecv cl s := rfl
@[simp] theorem exec_cred (cl : Nat) (s : State) : exec (.cred cl) s = execCred cl s := rfl
@[simp] theorem exec_cbcst (cl : Nat) (s : State) : exec (.cbcst cl) s = execCbcst cl s := rfl
@[simp] theorem exec_cmpl (cl port : Nat) (s : State) : exec (.cmpl cl port) s = execCmpl cl port s := rfl
@[simp] theorem exec_rcll (cl port : Nat) (s : State) : exec (.rcll cl port) s = execRcll cl port s := rfl
@[simp] theorem exec_drain (cl port : Nat) (s : State) : exec (.drain cl port) s = execDrain cl port s := rfl
@[simp] theorem exec_abrt (cl port : Nat) (s : State) : exec (.abrt cl port) s = execAbrt cl port s := rfl
@[simp] theorem exec_frameTurn (core : Nat) (s : State) : exec (.frameTurn core) s = execFrameTurn core s := rfl
@[simp] theorem exec_blockCommit (core frame : Nat) (s : State) : exec (.blockCommit core frame) s = execBlockCommit core frame s := rfl
@[simp] theorem exec_trapTake (sid : Nat) (s : State) : exec (.trapTake sid) s = execTrapTake sid s := rfl
@[simp] theorem exec_loadReturn (core frame slot : Nat) (s : State) : exec (.loadReturn core frame slot) s = execLoadReturn core frame slot s := rfl
@[simp] theorem exec_storeAck (sid : Nat) (s : State) : exec (.storeAck sid) s = execStoreAck sid s := rfl
@[simp] theorem exec_releaseTakeEffect (sid : Nat) (s : State) : exec (.releaseTakeEffect sid) s = execReleaseTakeEffect sid s := rfl
@[simp] theorem exec_livenessTick (core : Nat) (s : State) : exec (.livenessTick core) s = execLivenessTick core s := rfl
@[simp] theorem exec_waitConditionMet (core frame slot : Nat) (s : State) : exec (.waitConditionMet core frame slot) s = execWaitConditionMet core frame slot s := rfl
@[simp] theorem exec_atomReply (sid : Nat) (s : State) : exec (.atomReply sid) s = execAtomReply sid s := rfl
@[simp] theorem exec_blockFetchReturn (sid : Nat) (addr : Word) (s : State) : exec (.blockFetchReturn sid addr) s = execBlockFetchReturn sid addr s := rfl
@[simp] theorem exec_launchPick (q : Nat) (s : State) : exec (.launchPick q) s = execLaunchPick q s := rfl
@[simp] theorem exec_launchAged (q queue : Nat) (s : State) : exec (.launchAged q queue) s = execLaunchAged q queue s := rfl
@[simp] theorem exec_packStart (launch : Nat) (places : List Nat) (s : State) : exec (.packStart launch places) s = execPackStart launch places s := rfl
@[simp] theorem exec_graphBind (launch : Nat) (img : GraphImage) (s : State) : exec (.graphBind launch img) s = execGraphBind launch img s := rfl
@[simp] theorem exec_rangeClaim (c : Claimant) (s : State) : exec (.rangeClaim c) s = execRangeClaim c s := rfl
@[simp] theorem exec_tagAdmit (job graph : Nat) (s : State) : exec (.tagAdmit job graph) s = execTagAdmit job graph s := rfl
@[simp] theorem exec_tagRetire (job graph : Nat) (s : State) : exec (.tagRetire job graph) s = execTagRetire job graph s := rfl
@[simp] theorem exec_jobCreate (job weight : Nat) (s : State) : exec (.jobCreate job weight) s = execJobCreate job weight s := rfl
@[simp] theorem exec_jobClose (job cctr : Nat) (s : State) : exec (.jobClose job cctr) s = execJobClose job cctr s := rfl
@[simp] theorem exec_jobWeight (job weight : Nat) (s : State) : exec (.jobWeight job weight) s = execJobWeight job weight s := rfl
@[simp] theorem exec_cellAdmit (src : CellSource) (s : State) : exec (.cellAdmit src) s = execCellAdmit src s := rfl
@[simp] theorem exec_auction (cl : Nat) (s : State) : exec (.auction cl) s = execAuction cl s := rfl
@[simp] theorem exec_headAged (cl queue : Nat) (s : State) : exec (.headAged cl queue) s = execHeadAged cl queue s := rfl
@[simp] theorem exec_cellCross (cl : Nat) (s : State) : exec (.cellCross cl) s = execCellCross cl s := rfl
@[simp] theorem exec_egressDrain (cl port : Nat) (s : State) : exec (.egressDrain cl port) s = execEgressDrain cl port s := rfl
@[simp] theorem exec_purge (cl ctx : Nat) (col : Option Nat) (s : State) : exec (.purge cl ctx col) s = execPurge cl ctx col s := rfl
@[simp] theorem exec_agnFlush (key line : Nat) (s : State) : exec (.agnFlush key line) s = execAgnFlush key line s := rfl
@[simp] theorem exec_mdrnComplete (cl me ctx : Nat) (s : State) : exec (.mdrnComplete cl me ctx) s = execMdrnComplete cl me ctx s := rfl
@[simp] theorem exec_msaveComplete (cl me ctx : Nat) (s : State) : exec (.msaveComplete cl me ctx) s = execMsaveComplete cl me ctx s := rfl
@[simp] theorem exec_mloadComplete (cl me ctx : Nat) (s : State) : exec (.mloadComplete cl me ctx) s = execMloadComplete cl me ctx s := rfl
@[simp] theorem exec_exptReserve (core frame slot : Nat) (s : State) : exec (.exptReserve core frame slot) s = execExptReserve core frame slot s := rfl
@[simp] theorem exec_transferComplete (cl xf op : Nat) (s : State) : exec (.transferComplete cl xf op) s = execTransferComplete cl xf op s := rfl
@[simp] theorem exec_kennelJobComplete (q eng : Nat) (s : State) : exec (.kennelJobComplete q eng) s = execKennelJobComplete q eng s := rfl
@[simp] theorem exec_collPlace (job graph coll : Nat) (others : Bool) (s : State) : exec (.collPlace job graph coll others) s = execCollPlace job graph coll others s := rfl
@[simp] theorem exec_homeRead (core frame slot : Nat) (s : State) : exec (.homeRead core frame slot) s = execHomeRead core frame slot s := rfl
@[simp] theorem exec_homeWrite (sid : Nat) (s : State) : exec (.homeWrite sid) s = execHomeWrite sid s := rfl
@[simp] theorem exec_copyProbe (op copy : Nat) (s : State) : exec (.copyProbe op copy) s = execCopyProbe op copy s := rfl
@[simp] theorem exec_copyWrite (op copy : Nat) (s : State) : exec (.copyWrite op copy) s = execCopyWrite op copy s := rfl
@[simp] theorem exec_copyRead (op copy : Nat) (s : State) : exec (.copyRead op copy) s = execCopyRead op copy s := rfl
@[simp] theorem exec_copyRepair (op copy : Nat) (s : State) : exec (.copyRepair op copy) s = execCopyRepair op copy s := rfl
@[simp] theorem exec_majAnswer (op copy : Nat) (s : State) : exec (.majAnswer op copy) s = execMajAnswer op copy s := rfl
@[simp] theorem exec_houndVisit (q : Nat) (s : State) : exec (.houndVisit q) s = execHoundVisit q s := rfl
@[simp] theorem exec_rebase (part : Nat) (s : State) : exec (.rebase part) s = execRebase part s := rfl
@[simp] theorem exec_rebaseWalkerDone (part : Nat) (s : State) : exec (.rebaseWalkerDone part) s = execRebaseWalkerDone part s := rfl
@[simp] theorem exec_streamCell (key : Nat) (s : State) : exec (.streamCell key) s = execStreamCell key s := rfl
@[simp] theorem exec_copyComplete (cl op : Nat) (s : State) : exec (.copyComplete cl op) s = execCopyComplete cl op s := rfl
@[simp] theorem exec_pageWalkDone (q walk : Nat) (s : State) : exec (.pageWalkDone q walk) s = execPageWalkDone q walk s := rfl
@[simp] theorem exec_fresumeRetry (job tag : Nat) (s : State) : exec (.fresumeRetry job tag) s = execFresumeRetry job tag s := rfl
@[simp] theorem exec_fresumeAbort (job tag : Nat) (s : State) : exec (.fresumeAbort job tag) s = execFresumeAbort job tag s := rfl
@[simp] theorem exec_preemptRequest (job : Nat) (clusters : List Nat) (s : State) : exec (.preemptRequest job clusters) s = execPreemptRequest job clusters s := rfl
@[simp] theorem exec_handlerStart (sid : Nat) (s : State) : exec (.handlerStart sid) s = execHandlerStart sid s := rfl
@[simp] theorem exec_jobRestore (job : Nat) (s : State) : exec (.jobRestore job) s = execJobRestore job s := rfl
@[simp] theorem exec_leaseServe (q : Nat) (s : State) : exec (.leaseServe q) s = execLeaseServe q s := rfl
@[simp] theorem exec_leaseWakeDone (q eng : Nat) (s : State) : exec (.leaseWakeDone q eng) s = execLeaseWakeDone q eng s := rfl
@[simp] theorem exec_graceExpire (q eng : Nat) (s : State) : exec (.graceExpire q eng) s = execGraceExpire q eng s := rfl
@[simp] theorem exec_leaseDrainDone (q eng : Nat) (s : State) : exec (.leaseDrainDone q eng) s = execLeaseDrainDone q eng s := rfl
@[simp] theorem exec_warmTimeout (q eng : Nat) (s : State) : exec (.warmTimeout q eng) s = execWarmTimeout q eng s := rfl
@[simp] theorem exec_lscaleStep (q region : Nat) (up : Bool) (s : State) : exec (.lscaleStep q region up) s = execLscaleStep q region up s := rfl
@[simp] theorem exec_vfHop (q island : Nat) (s : State) : exec (.vfHop q island) s = execVfHop q island s := rfl
@[simp] theorem exec_vfHopDone (q island : Nat) (s : State) : exec (.vfHopDone q island) s = execVfHopDone q island s := rfl
@[simp] theorem exec_droop (q island : Nat) (s : State) : exec (.droop q island) s = execDroop q island s := rfl
@[simp] theorem exec_droopClear (q island : Nat) (s : State) : exec (.droopClear q island) s = execDroopClear q island s := rfl
@[simp] theorem exec_retentionEnter (cl : Nat) (s : State) : exec (.retentionEnter cl) s = execRetentionEnter cl s := rfl
@[simp] theorem exec_retentionExit (cl : Nat) (parityOk : Bool) (found : List (Nat × List Nat)) (s : State) : exec (.retentionExit cl parityOk found) s = execRetentionExit cl parityOk found s := rfl
@[simp] theorem exec_tsuaxCell (port : Nat) (flit : BitVec 2048) (s : State) : exec (.tsuaxCell port flit) s = execTsuaxCell port flit s := rfl
@[simp] theorem exec_tsuaxWrite (port : Nat) (flit : BitVec 2048) (s : State) : exec (.tsuaxWrite port flit) s = execTsuaxWrite port flit s := rfl
@[simp] theorem exec_tsuaxRead (port : Nat) (flit : BitVec 2048) (s : State) : exec (.tsuaxRead port flit) s = execTsuaxRead port flit s := rfl
@[simp] theorem exec_tsuaxRdata (port : Nat) (flit : BitVec 2048) (s : State) : exec (.tsuaxRdata port flit) s = execTsuaxRdata port flit s := rfl
@[simp] theorem exec_tsuaxCplt (port : Nat) (flit : BitVec 2048) (s : State) : exec (.tsuaxCplt port flit) s = execTsuaxCplt port flit s := rfl
@[simp] theorem exec_launchFlit (port : Nat) (flit : BitVec 2048) (s : State) : exec (.launchFlit port flit) s = execLaunchFlit port flit s := rfl
@[simp] theorem exec_mgmtLaunch (port : Nat) (flit : BitVec 2048) (s : State) : exec (.mgmtLaunch port flit) s = execMgmtLaunch port flit s := rfl
@[simp] theorem exec_mgmtCntr (port : Nat) (flit : BitVec 2048) (s : State) : exec (.mgmtCntr port flit) s = execMgmtCntr port flit s := rfl
@[simp] theorem exec_mgmtCancel (port : Nat) (flit : BitVec 2048) (s : State) : exec (.mgmtCancel port flit) s = execMgmtCancel port flit s := rfl
@[simp] theorem exec_mgmtCfgl (port : Nat) (flit : BitVec 2048) (s : State) : exec (.mgmtCfgl port flit) s = execMgmtCfgl port flit s := rfl
@[simp] theorem exec_mgmtCfgt (port : Nat) (flit : BitVec 2048) (s : State) : exec (.mgmtCfgt port flit) s = execMgmtCfgt port flit s := rfl
@[simp] theorem exec_mgmtSrd (port : Nat) (flit : BitVec 2048) (s : State) : exec (.mgmtSrd port flit) s = execMgmtSrd port flit s := rfl
@[simp] theorem exec_mgmtSwr (port : Nat) (flit : BitVec 2048) (s : State) : exec (.mgmtSwr port flit) s = execMgmtSwr port flit s := rfl
@[simp] theorem exec_tsuaxCtrl (port : Nat) (flit : BitVec 2048) (s : State) : exec (.tsuaxCtrl port flit) s = execTsuaxCtrl port flit s := rfl
@[simp] theorem exec_roceRdmaWrite (r : RoceReq) (s : State) : exec (.roceRdmaWrite r) s = execRoceRdmaWrite r s := rfl
@[simp] theorem exec_roceRdmaWriteImm (r : RoceReq) (s : State) : exec (.roceRdmaWriteImm r) s = execRoceRdmaWriteImm r s := rfl
@[simp] theorem exec_roceRdmaRead (r : RoceReq) (s : State) : exec (.roceRdmaRead r) s = execRoceRdmaRead r s := rfl
@[simp] theorem exec_roceUnsupported (r : RoceReq) (s : State) : exec (.roceUnsupported r) s = execRoceUnsupported r s := rfl
@[simp] theorem exec_roceResponse (cl xf op : Nat) (data : List Byte) (err : Bool) (s : State) : exec (.roceResponse cl xf op data err) s = execRoceResponse cl xf op data err s := rfl
@[simp] theorem exec_roceRetryTimeout (cl xf op : Nat) (s : State) : exec (.roceRetryTimeout cl xf op) s = execRoceRetryTimeout cl xf op s := rfl
@[simp] theorem exec_pfcPause (port prio : Nat) (on : Bool) (s : State) : exec (.pfcPause port prio on) s = execPfcPause port prio on s := rfl
@[simp] theorem exec_congestionNotification (qpn : Nat) (s : State) : exec (.congestionNotification qpn) s = execCongestionNotification qpn s := rfl
@[simp] theorem exec_rankLeftFabric (job graph rank : Nat) (s : State) : exec (.rankLeftFabric job graph rank) s = execRankLeftFabric job graph rank s := rfl
@[simp] theorem exec_ucieCell (die modl : Nat) (flit : BitVec 2048) (s : State) : exec (.ucieCell die modl flit) s = execUcieCell die modl flit s := rfl
@[simp] theorem exec_ucieMreq (die modl : Nat) (flit : BitVec 2048) (s : State) : exec (.ucieMreq die modl flit) s = execUcieMreq die modl flit s := rfl
@[simp] theorem exec_ucieMrsp (die modl : Nat) (flit : BitVec 2048) (s : State) : exec (.ucieMrsp die modl flit) s = execUcieMrsp die modl flit s := rfl
@[simp] theorem exec_ucieXlat (die modl : Nat) (flit : BitVec 2048) (s : State) : exec (.ucieXlat die modl flit) s = execUcieXlat die modl flit s := rfl
@[simp] theorem exec_ucieSys (die modl : Nat) (flit : BitVec 2048) (s : State) : exec (.ucieSys die modl flit) s = execUcieSys die modl flit s := rfl
@[simp] theorem exec_ucieTime (die modl : Nat) (flit : BitVec 2048) (s : State) : exec (.ucieTime die modl flit) s = execUcieTime die modl flit s := rfl
@[simp] theorem exec_ucieCtrl (die modl : Nat) (flit : BitVec 2048) (s : State) : exec (.ucieCtrl die modl flit) s = execUcieCtrl die modl flit s := rfl
@[simp] theorem exec_ucieRetrainDone (die modl : Nat) (lo hi : Bool) (repaired : Nat) (s : State) : exec (.ucieRetrainDone die modl lo hi repaired) s = execUcieRetrainDone die modl lo hi repaired s := rfl
@[simp] theorem exec_uccmdRetrain (die modl : Nat) (s : State) : exec (.uccmdRetrain die modl) s = execUccmdRetrain die modl s := rfl
@[simp] theorem exec_comparatorPair (cl : Nat) (s : State) : exec (.comparatorPair cl) s = execComparatorPair cl s := rfl
@[simp] theorem exec_twinTimeout (cl : Nat) (s : State) : exec (.twinTimeout cl) s = execTwinTimeout cl s := rfl
@[simp] theorem exec_coldRestart (cl : Nat) (found : List (Nat × List Nat)) (s : State) : exec (.coldRestart cl found) s = execColdRestart cl found s := rfl
@[simp] theorem exec_pmQuiesce (qmask : Nat) (s : State) : exec (.pmQuiesce qmask) s = execPmQuiesce qmask s := rfl
@[simp] theorem exec_pmResume (qmask : Nat) (s : State) : exec (.pmResume qmask) s = execPmResume qmask s := rfl
@[simp] theorem exec_pcfgWrite (v : Word) (s : State) : exec (.pcfgWrite v) s = execPcfgWrite v s := rfl
@[simp] theorem exec_aceWrite (entry : Nat) (v : Word) (s : State) : exec (.aceWrite entry v) s = execAceWrite entry v s := rfl
@[simp] theorem exec_pnodeWrite (q : Nat) (v : Word) (s : State) : exec (.pnodeWrite q v) s = execPnodeWrite q v s := rfl
@[simp] theorem exec_mestatWrite (cl me : Nat) (v : Word) (s : State) : exec (.mestatWrite cl me v) s = execMestatWrite cl me v s := rfl
@[simp] theorem exec_knoutWrite (q : Nat) (v : Word) (s : State) : exec (.knoutWrite q v) s = execKnoutWrite q v s := rfl
@[simp] theorem exec_jpwrWrite (job : Nat) (v : Word) (s : State) : exec (.jpwrWrite job v) s = execJpwrWrite job v s := rfl
@[simp] theorem exec_vfislWrite (q island : Nat) (v : Word) (s : State) : exec (.vfislWrite q island v) s = execVfislWrite q island v s := rfl
@[simp] theorem exec_registerWrite (w : RegWrite) (s : State) : exec (.registerWrite w) s = execRegisterWrite w s := rfl
@[simp] theorem exec_powerGood (s : State) : exec (.powerGood) s = execPowerGood s := rfl
@[simp] theorem exec_firmwareVerified (imgs : List FwImage) (s : State) : exec (.firmwareVerified imgs) s = execFirmwareVerified imgs s := rfl
@[simp] theorem exec_stackCalibrated (stack : Nat) (s : State) : exec (.stackCalibrated stack) s = execStackCalibrated stack s := rfl
@[simp] theorem exec_quarterInService (q : Nat) (s : State) : exec (.quarterInService q) s = execQuarterInService q s := rfl
@[simp] theorem exec_deviceReset (s : State) : exec (.deviceReset) s = execDeviceReset s := rfl
@[simp] theorem exec_loaderImageOffer (img : FwImage) (s : State) : exec (.loaderImageOffer img) s = execLoaderImageOffer img s := rfl
@[simp] theorem exec_attReport (s : State) : exec (.attReport) s = execAttReport s := rfl
@[simp] theorem exec_attExtend (s : State) : exec (.attExtend) s = execAttExtend s := rfl
@[simp] theorem exec_attCert (s : State) : exec (.attCert) s = execAttCert s := rfl

end Sys2Proof.Machine
end

