-- ==== Sys2Proof/Laws/Kept.lean ====
section
/-! SUPPORT. Laws/Kept.lean: what every operation that an instruction word uses keeps: the canonical form of memory, and each strand's
registers, PC, mode and trap registers (spec/02 R34, R35). -/

namespace Sys2Proof.Machine

/-- What a program can see of a strand. -/
def Strand.SameArch (x y : Strand) : Prop :=
  x.regs = y.regs ∧ x.pc = y.pc ∧ x.hmode = y.hmode ∧ x.privs = y.privs ∧ x.live = y.live ∧ x.tcause = y.tcause ∧ x.tblk = y.tblk ∧
  x.targ = y.targ ∧ x.tresume = y.tresume ∧ x.tbank0 = y.tbank0 ∧ x.tbank1 = y.tbank1 ∧ x.tbank2 = y.tbank2

/-- From one state to another memory stays canonical and strands keep what a program sees. -/
def State.Kept (s t : State) : Prop :=
  (s.Sound → t.Sound) ∧ ∀ sid, (t.strand sid).SameArch (s.strand sid)

theorem Strand.SameArch.refl (x : Strand) : x.SameArch x := ⟨rfl, rfl, rfl, rfl, rfl, rfl, rfl, rfl, rfl, rfl, rfl, rfl⟩
theorem Strand.SameArch.trans {x y z : Strand} (h : x.SameArch y) (g : y.SameArch z) : x.SameArch z := by
  obtain ⟨a, b, c, d, e, f, i, j, k, l, m, n⟩ := h
  obtain ⟨a', b', c', d', e', f', i', j', k', l', m', n'⟩ := g
  exact ⟨a.trans a', b.trans b', c.trans c', d.trans d', e.trans e', f.trans f', i.trans i', j.trans j', k.trans k', l.trans l',
    m.trans m', n.trans n'⟩

theorem State.Kept.refl (s : State) : s.Kept s := ⟨id, fun _ => .refl _⟩
theorem State.Kept.trans {s t u : State} (h : s.Kept t) (g : t.Kept u) : s.Kept u :=
  ⟨fun x => g.1 (h.1 x), fun i => (g.2 i).trans (h.2 i)⟩

/-- An update of a part that holds neither memory nor strands. -/
theorem State.Kept.of_parts {s t : State} (h1 : t.mem.bytes = s.mem.bytes) (h2 : t.core.strands = s.core.strands) : s.Kept t := by
  refine ⟨fun h => ?_, fun i => ?_⟩
  · unfold State.Sound Memory.wf at *; rw [h1]; exact h
  · have : t.strand i = s.strand i := by unfold State.strand; rw [h2]
    rw [this]; exact .refl _

theorem State.Kept.modFrame (s : State) (c f g) : s.Kept (s.modFrame c f g) := .of_parts rfl rfl
theorem State.Kept.modCur (s : State) (g) : s.Kept (s.modCur g) := .of_parts rfl rfl
theorem State.Kept.finish (s : State) (k ts) : s.Kept (s.finish k ts) := .of_parts rfl rfl
theorem State.Kept.stopAt (s : State) (c a n) : s.Kept (s.stopAt c a n) := .of_parts rfl rfl
theorem State.Kept.resolve (s : State) (e) : s.Kept (s.resolve e) := .of_parts rfl rfl

theorem State.Kept.modStrand (s : State) (sid : Nat) (f : Strand → Strand) (h : ∀ x, (f x).SameArch x) : s.Kept (s.modStrand sid f) := by
  refine ⟨fun x => x, fun i => ?_⟩
  rw [modStrand_def]
  by_cases hi : i = sid
  · subst hi; rw [strand_setStrand_same]; exact h _
  · rw [strand_setStrand_ne _ _ hi]; exact .refl _

theorem State.Kept.foldl {α : Type} (f : State → α → State) (h : ∀ (s : State) a, s.Kept (f s a)) : ∀ (l : List α) (s : State), s.Kept (l.foldl f s)
  | [], s => .refl s
  | a :: l, s => (h s a).trans (State.Kept.foldl f h l _)
theorem State.Kept.foldr {α : Type} (f : α → State → State) (h : ∀ (s : State) a, s.Kept (f a s)) : ∀ (l : List α) (s : State), s.Kept (l.foldr f s)
  | [], s => .refl s
  | a :: l, s => (State.Kept.foldr f h l s).trans (h _ a)

/-! ## Memory -/

theorem State.Kept.setByte (s : State) (a : Nat) (b : Byte) : s.Kept (s.setByte a b) :=
  ⟨fun h => canonAbove_mset _ b h (Nat.zero_le _), fun _ => .refl _⟩

theorem State.Kept.writeBytes : ∀ (bs : List Byte) (s : State) (a : Nat), s.Kept (s.writeBytes a bs)
  | [], s, _ => .refl s
  | b :: bs, s, a => (State.Kept.setByte s a b).trans (State.Kept.writeBytes bs _ _)

theorem State.Kept.homeWrite (s : State) (a : Nat) (bs : List Byte) (p w : Nat) : s.Kept (s.homeWrite a bs p w).2 :=
  (State.Kept.writeBytes bs s a).trans (.of_parts rfl rfl)

theorem State.Kept.majWrite {s t : State} {root ss a off n v p w x : Nat} (h : s.majWrite root ss a off n v p w = some (x, t)) :
    s.Kept t := by
  unfold State.majWrite at h
  dsimp only at h
  split at h
  · cases h
  · cases h
    refine State.Kept.trans ?_ (State.Kept.foldl _ (fun _ _ => ?_) _ _)
    · exact .of_parts rfl rfl
    · exact .of_parts rfl rfl

theorem State.Kept.engWrite {s t : State} {root n v p w x : Nat} {pl : Place} (h : s.engWrite root pl n v p w = .ok (x, t)) : s.Kept t := by
  unfold State.engWrite at h
  split at h
  · cases h; exact State.Kept.homeWrite ..
  · split at h
    · cases h
    · cases h; exact State.Kept.majWrite ‹_›

theorem State.Kept.sysWrite (q job p w : Nat) : ∀ (ws : List Nat) (s : State) (va : Nat), s.Kept (s.sysWrite q job va p w ws).2
  | [], s, _ => .refl s
  | x :: ws, s, va => by
    unfold State.sysWrite
    dsimp only
    cases hx : s.xlate q job va true false with
    | error e => exact State.Kept.sysWrite q job p w ws s (va + 8)
    | ok pl =>
      dsimp only
      cases he : s.engWrite (s.partOf q) pl 8 x p w with
      | error e => exact State.Kept.sysWrite q job p w ws s (va + 8)
      | ok r =>
        obtain ⟨a, u⟩ := r
        exact (State.Kept.engWrite he).trans (State.Kept.sysWrite q job p w ws u (va + 8))

/-! ## Claims and aborts -/

theorem State.Kept.countUpFrom (level unit : Nat) : ∀ (n : Nat) (s : State) (place : Nat), s.Kept (s.countUpFrom level unit place n)
  | 0, s, _ => .of_parts rfl rfl
  | n + 1, s, place => by
    unfold State.countUpFrom
    dsimp only
    split
    · refine State.Kept.trans ?_ (State.Kept.countUpFrom level unit n _ _)
      exact .of_parts rfl rfl
    · exact .of_parts rfl rfl

theorem State.Kept.onWork (s : State) (f) : s.Kept (s.onWork f) := .of_parts rfl rfl
theorem State.Kept.onKen (s : State) (f) : s.Kept (s.onKen f) := .of_parts rfl rfl
theorem State.Kept.onAcc (s : State) (f) : s.Kept (s.onAcc f) := .of_parts rfl rfl
theorem State.Kept.onEng (s : State) (f) : s.Kept (s.onEng f) := .of_parts rfl rfl
theorem State.Kept.onSched (s : State) (f) : s.Kept (s.onSched f) := .of_parts rfl rfl
theorem State.Kept.onMem (s : State) (f : Memory → Memory) (h : (f s.mem).bytes = s.mem.bytes) : s.Kept (s.onMem f) := .of_parts h rfl
theorem State.Kept.tickUp (s : State) : s.Kept s.tickUp := .onSched ..
theorem State.Kept.setFrame (s : State) (c f g) : s.Kept (s.setFrame c f g) := .of_parts rfl rfl

theorem State.Kept.queuePublish (s : State) (qk c : Nat) : s.Kept (s.queuePublish qk c) := by
  unfold State.queuePublish
  dsimp only
  refine State.Kept.trans ?_ (State.Kept.tickUp _)
  refine State.Kept.trans ?_ (State.Kept.countUpFrom ..)
  exact State.Kept.onWork ..

theorem State.Kept.fillClaim (s : State) (qk c : Nat) : s.Kept (s.fillClaim qk c) := by
  unfold State.fillClaim
  dsimp only
  exact (State.Kept.sysWrite ..).trans (State.Kept.queuePublish ..)

theorem State.Kept.unclaim (s : State) (qk c : Nat) : s.Kept (s.unclaim qk c) := by
  unfold State.unclaim
  dsimp only
  split
  · exact State.Kept.onWork ..
  · exact State.Kept.fillClaim ..

theorem State.Kept.abortFrame (s : State) (core f : Nat) : s.Kept (s.abortFrame core f) := by
  unfold State.abortFrame
  dsimp only
  refine State.Kept.trans ?_ (State.Kept.setFrame ..)
  refine State.Kept.trans ?_ (State.Kept.onAcc ..)
  refine State.Kept.trans ?_ (State.Kept.onMem _ _ rfl)
  refine State.Kept.trans ?_ (State.Kept.modStrand _ _ _ (fun x => .refl _))
  refine State.Kept.trans ?_ (State.Kept.foldr _ (fun _ _ => State.Kept.onKen ..) _ _)
  refine State.Kept.trans ?_ (State.Kept.foldl _ (fun _ _ => State.Kept.onEng ..) _ _)
  refine State.Kept.trans ?_ (State.Kept.foldr _ (fun _ _ => State.Kept.unclaim ..) _ _)
  refine State.Kept.trans ?_ (State.Kept.foldl _ (fun _ _ => by
    split
    · exact .refl _
    · exact State.Kept.onWork ..) _ _)
  exact State.Kept.foldl _ (fun _ _ => State.Kept.onAcc ..) _ _

theorem State.Kept.abortFrom (s : State) (core f : Nat) : s.Kept (s.abortFrom core f) := by
  unfold State.abortFrom
  dsimp only
  exact (State.Kept.foldl _ (fun _ _ => State.Kept.abortFrame ..) _ _).trans (State.Kept.modStrand _ _ _ (fun x => .refl _))

theorem State.Kept.abortYounger (s : State) (core f : Nat) : s.Kept (s.abortYounger core f) := by
  unfold State.abortYounger
  dsimp only
  exact (State.Kept.foldl _ (fun _ _ => State.Kept.abortFrame ..) _ _).trans (State.Kept.modStrand _ _ _ (fun x => .refl _))

theorem State.Kept.takeExit (s : State) (n : Option Word) : s.Kept (s.takeExit n) := by
  unfold State.takeExit
  split
  · exact State.Kept.stopAt ..
  · split
    · exact State.Kept.stopAt ..
    · dsimp only
      refine State.Kept.trans (t := s.modCur (fun f => { (f.fire s.fSlot) with exit := some (s.fSlot, n) })) (State.Kept.modCur ..) ?_
      generalize s.modCur (fun f => { (f.fire s.fSlot) with exit := some (s.fSlot, n) }) = u
      have key : ∀ b : Bool, u.Kept (if b = true then u else u.abortYounger s.fCore s.fFrame) := by
        intro b
        cases b
        · exact State.Kept.abortYounger ..
        · exact .refl _
      exact key _

theorem State.Kept.exitTo (s : State) (a : Int) : s.Kept (s.exitTo a) := by
  unfold State.exitTo
  repeat' split
  all_goals first
    | exact State.Kept.takeExit ..
    | exact State.Kept.stopAt ..

/-! ## Engine reads -/

theorem State.Kept.majRead {s t : State} {root ss a p x : Nat} {i} (h : s.majRead root ss a p = some (i, x, t)) : s.Kept t := by
  unfold State.majRead at h
  dsimp only at h
  split at h
  · cases h
  · cases h
    refine State.Kept.trans ?_ (State.Kept.foldl _ (fun _ _ => ?_) _ _)
    · exact State.Kept.onMem _ _ rfl
    · exact State.Kept.onMem _ _ rfl

theorem State.Kept.homeRead (s : State) (a p : Nat) : s.Kept (s.homeRead a p).2 := State.Kept.onMem _ _ rfl

theorem State.Kept.engRead {s t : State} {root n p x y : Nat} {pl : Place} (h : s.engRead root pl n p = .ok (x, y, t)) : s.Kept t := by
  unfold State.engRead at h
  split at h
  · split at h
    · cases h
    · cases h; exact State.Kept.homeRead ..
  · split at h
    · cases h
    · cases h; exact State.Kept.majRead ‹_›

theorem State.Kept.readPiece {s t : State} {root rs p pl n g} (h : s.readPiece root rs p pl n = .ok (g, t)) : s.Kept t := by
  unfold State.readPiece at h
  cases he : s.engRead root pl n p with
  | error c =>
    rw [he] at h
    cases pl with
    | home a =>
      dsimp only at h
      split at h <;> cases h
    | maj ss a => cases h
  | ok r =>
    obtain ⟨v, y, u⟩ := r
    rw [he] at h
    cases pl with
    | home a =>
      dsimp only at h
      split at h
      · cases h
      · cases h; exact State.Kept.engRead he
    | maj ss a => cases h; exact State.Kept.engRead he

theorem State.Kept.readPieces {root rs p} : ∀ (ps : List (Place × Nat)) {s t : State} {g}, s.readPieces root rs p ps = .ok (g, t) → s.Kept t
  | [], s, t, g, h => by cases h; exact .refl _
  | (pl, n) :: ps, s, t, g, h => by
    unfold State.readPieces at h
    split at h
    · cases h
    · split at h
      · cases h
      · cases h
        exact (State.Kept.readPiece ‹_›).trans (State.Kept.readPieces ps ‹_›)

theorem State.Kept.leasePut (s : State) (c v) : s.Kept (s.leasePut c v) := State.Kept.onMem _ _ rfl
theorem State.Kept.bankPut (s : State) (a b c d e v) : s.Kept (s.bankPut a b c d e v) := by
  unfold State.bankPut
  split
  · exact .refl _
  · exact State.Kept.onMem _ _ rfl

theorem State.Kept.engFill (s : State) (cl job ecls r na pl) : s.Kept (s.engFill cl job ecls r na pl) := by
  unfold State.engFill
  dsimp only
  split
  · exact .refl _
  · exact (State.Kept.bankPut ..).trans (State.Kept.tickUp _)

theorem State.Kept.fillLine (s : State) (core pl w r b a c k) : s.Kept (s.fillLine core pl w r b a c k) := by
  unfold State.fillLine
  dsimp only
  split
  · exact .refl _
  · have h := (State.Kept.leasePut s core (s.versionOf (s.partOfCluster (coreCluster core)) pl w r)).trans (State.Kept.tickUp _)
    split
    · exact h.trans (State.Kept.bankPut ..)
    · exact h

theorem State.Kept.readElem {s t : State} {cl core job ecls r rs p n g ps} (h : s.readElem cl core job ecls r rs p n = .ok (g, ps, t)) :
    s.Kept t := by
  unfold State.readElem at h
  split at h
  · cases h
  · split at h
    · cases h
    · split at h
      · cases h
      · cases h
        exact (State.Kept.readPieces _ ‹_›).trans (State.Kept.foldl _ (fun _ _ => State.Kept.engFill ..) _ _)

theorem State.Kept.readElems {cl core job ecls r rs p} : ∀ (os : List (Option Nat)) {s t : State} {vs g ps},
    s.readElems cl core job ecls r rs p os = .ok (vs, g, ps, t) → s.Kept t
  | [], s, t, vs, g, ps, h => by cases h; exact .refl _
  | none :: os, s, t, vs, g, ps, h => by
    unfold State.readElems at h
    dsimp only at h
    split at h
    · cases h
    · cases h; exact State.Kept.readElems os ‹_›
  | some n :: os, s, t, vs, g, ps, h => by
    unfold State.readElems at h
    dsimp only at h
    split at h
    · cases h
    · split at h
      · cases h
      · cases h
        exact (State.Kept.readElem ‹_›).trans (State.Kept.readElems os ‹_›)

theorem State.Kept.readHeaders {cl job rs p} : ∀ (vs : List Nat) {s t : State} {hs g ps},
    s.readHeaders cl job rs p vs = .ok (hs, g, ps, t) → s.Kept t
  | [], s, t, hs, g, ps, h => by cases h; exact .refl _
  | va :: vs, s, t, hs, g, ps, h => by
    unfold State.readHeaders at h
    split at h
    · cases h
    · split at h
      · cases h
      · split at h
        · cases h
        · cases h
          exact (State.Kept.readPieces _ ‹_›).trans (State.Kept.readHeaders vs ‹_›)

theorem State.Kept.fillCell {s t : State} {cl core job r rs p off c tail c1 g ps}
    (h : s.fillCell cl core job r rs p off c tail = .ok (c1, g, ps, t)) : s.Kept t := by
  unfold State.fillCell at h
  dsimp only at h
  split at h
  · cases h
  · split at h
    · cases h
    · split at h
      · cases h; exact State.Kept.readElems _ ‹_›
      · split at h
        · cases h; exact State.Kept.readElems _ ‹_›
        · split at h
          · cases h
          · cases h; exact (State.Kept.readElems _ ‹_›).trans (State.Kept.readHeaders _ ‹_›)

/-! ## What the words do when they fire -/

theorem State.Kept.fireEnq (s : State) (ag mc) : s.Kept (s.fireEnq ag mc) := by
  unfold State.fireEnq
  dsimp only
  repeat' split
  any_goals exact State.Kept.stopAt ..
  any_goals exact .refl _
  · refine State.Kept.trans ?_ (State.Kept.resolve ..)
    refine State.Kept.trans ?_ (State.Kept.modStrand _ _ _ (fun x => .refl _))
    refine State.Kept.trans ?_ (State.Kept.modCur ..)
    exact State.Kept.onAcc ..
  · refine State.Kept.trans ?_ (State.Kept.resolve ..)
    refine State.Kept.trans ?_ (State.Kept.modCur ..)
    exact State.Kept.fillCell ‹_›

theorem State.Kept.startLoad (s : State) (r) : s.Kept (s.startLoad r) :=
  (State.Kept.modCur ..).trans (State.Kept.modStrand _ _ _ (fun _ => .refl _))

theorem State.Kept.askWalk (s : State) (q w) : s.Kept (s.askWalk q w) := by
  unfold State.askWalk
  split
  · exact .refl _
  · exact State.Kept.onAcc ..

theorem State.Kept.fireLd (s : State) (l ag z sx) : s.Kept (s.fireLd l ag z sx) := by
  unfold State.fireLd
  dsimp only
  repeat' split
  all_goals first
    | exact State.Kept.stopAt ..
    | exact State.Kept.startLoad ..
    | exact State.Kept.refl s
    | exact (State.Kept.startLoad ..).trans (State.Kept.askWalk ..)

theorem State.Kept.storeAs (s : State) (l r) : s.Kept (s.storeAs l r) := by
  unfold State.storeAs
  refine State.Kept.trans (State.Kept.resolve s (.store l r)) ?_
  generalize s.resolve (.store l r) = u
  unfold State.orderCheck
  dsimp only
  split
  · exact State.Kept.abortFrom ..
  · exact .refl _

theorem State.Kept.fireSt (s : State) (l ag z na) : s.Kept (s.fireSt l ag z na) := by
  unfold State.fireSt
  dsimp only
  repeat' split
  any_goals exact State.Kept.stopAt ..
  any_goals exact State.Kept.storeAs ..
  exact State.Kept.askWalk ..

theorem State.Kept.prefetch (s : State) (ag) : s.Kept (s.prefetch ag) := by
  unfold State.prefetch
  dsimp only
  repeat' split
  any_goals exact .refl _
  exact (State.Kept.homeRead ..).trans (State.Kept.fillLine ..)

theorem State.Kept.fireStrm (s : State) (ag tk l p) : s.Kept (s.fireStrm ag tk l p) := by
  unfold State.fireStrm
  dsimp only
  repeat' split
  any_goals exact State.Kept.stopAt ..
  exact State.Kept.resolve ..

theorem State.Kept.fireParm (s : State) (ag) : s.Kept (s.fireParm ag) := by
  unfold State.fireParm
  dsimp only
  repeat' split
  any_goals exact State.Kept.stopAt ..
  exact State.Kept.resolve ..

theorem State.Kept.fireGetp (s : State) (ag ta) : s.Kept (s.fireGetp ag ta) := by
  unfold State.fireGetp
  dsimp only
  repeat' split
  any_goals exact State.Kept.stopAt ..
  any_goals exact .refl _
  refine State.Kept.trans ?_ (State.Kept.finish ..)
  refine State.Kept.trans ?_ (State.Kept.modStrand _ _ _ (fun _ => .refl _))
  refine State.Kept.trans ?_ (State.Kept.modCur ..)
  exact State.Kept.onAcc ..

theorem State.Kept.firePutp (s : State) (ag) : s.Kept (s.firePutp ag) := by
  unfold State.firePutp
  dsimp only
  repeat' split
  any_goals exact State.Kept.stopAt ..
  exact State.Kept.resolve ..

theorem State.Kept.startWait (s : State) (w) : s.Kept (s.startWait w) := by
  unfold State.startWait
  split
  · exact State.Kept.stopAt ..
  · exact State.Kept.modCur ..

theorem State.Kept.fireWaita (s : State) (ag c) : s.Kept (s.fireWaita ag c) := by
  unfold State.fireWaita
  dsimp only
  repeat' split
  any_goals exact State.Kept.stopAt ..
  all_goals exact State.Kept.startWait ..

theorem State.Kept.fireResc (s : State) (ag) : s.Kept (s.fireResc ag) := by
  unfold State.fireResc
  dsimp only
  repeat' split
  any_goals exact State.Kept.stopAt ..
  exact State.Kept.resolve ..

/-! ## The firing wrappers -/

theorem State.Kept.fireWith {s t : State} {p u ts f} (h : fireWith p u ts f s = .next t) : s.Kept t := by
  unfold Sys2Proof.Machine.fireWith at h
  split at h <;> cases h
  · exact .refl _
  · exact .refl _
  · exact State.Kept.finish ..
  · exact State.Kept.finish ..

theorem State.Kept.fireTrap {s t : State} {p u ts b f} (h : fireTrap p u ts b f s = .next t) : s.Kept t := by
  unfold Sys2Proof.Machine.fireTrap at h
  split at h
  · cases h; exact .refl _
  · cases h; exact .refl _
  · cases h; exact State.Kept.finish ..
  · split at h <;> cases h
    · exact State.Kept.finish ..
    · exact State.Kept.stopAt ..

theorem State.Kept.fireAct {s t : State} {p u ts act} (h : fireAct p u ts act s = .next t) (ha : s.Kept (act s)) : s.Kept t := by
  unfold Sys2Proof.Machine.fireAct at h
  split at h <;> cases h
  · exact .refl _
  · exact .refl _
  · exact State.Kept.finish ..
  · exact ha

theorem State.Kept.fireSide {s t : State} {p u act} (h : fireSide p u act s = .next t) (ha : s.Kept (act s)) : s.Kept t := by
  unfold Sys2Proof.Machine.fireSide at h
  split at h <;> cases h
  · exact .refl _
  · exact .refl _
  · exact State.Kept.resolve ..
  · exact ha

theorem State.Kept.fireExit {s t : State} {p u act} (h : fireExit p u act s = .next t) (ha : s.Kept (act s)) : s.Kept t := by
  unfold Sys2Proof.Machine.fireExit at h
  split at h <;> cases h
  · exact .refl _
  · exact .refl _
  · exact State.Kept.modCur ..
  · exact ha

theorem State.Kept.fireCopy {s t : State} {k p ag tk f ta} (h : fireCopy k p ag tk f ta s = .next t) : s.Kept t := by
  refine State.Kept.fireSide h ?_
  dsimp only
  split
  · exact .refl _
  · refine State.Kept.trans ?_ (State.Kept.modStrand _ _ _ (fun _ => .refl _))
    exact (State.Kept.resolve ..).trans (State.Kept.modCur ..)

end Sys2Proof.Machine
end

