-- ==== Sys2Proof/Laws/PerInstr.lean ====
section
/-! SUPPORT. Laws/PerInstr.lean: what is said of every instruction as syntax, one lemma per constructor. -/

namespace Sys2Proof.Laws

set_option Elab.async false

/-- A well-formed instruction's word decodes to it (spec/03 R66 to R72, spec/04 R90 to R97). -/
def RoundTrip.Statement (i : Instr) : Prop := i.wf = true → ∀ w, encode i = some w → decode w = .ok i

theorem RoundTrip.bro : ∀ p ex off, RoundTrip.Statement (.bro p ex off) := by
  intro p ex off _ w h
  rw [← Option.some.inj h]
  simp [decode, decPlumb]
theorem RoundTrip.bri : ∀ p ex, RoundTrip.Statement (.bri p ex) := by
  intro p ex _ w h
  rw [← Option.some.inj h]
  simp [decode, decPlumb]
theorem RoundTrip.callo : ∀ p ex off, RoundTrip.Statement (.callo p ex off) := by
  intro p ex off _ w h
  rw [← Option.some.inj h]
  simp [decode, decPlumb]
theorem RoundTrip.calli : ∀ p ex, RoundTrip.Statement (.calli p ex) := by
  intro p ex _ w h
  rw [← Option.some.inj h]
  simp [decode, decPlumb]
theorem RoundTrip.ret : ∀ p ex, RoundTrip.Statement (.ret p ex) := by
  intro p ex _ w h
  rw [← Option.some.inj h]
  simp [decode, decPlumb]
theorem RoundTrip.scall : ∀ p ex, RoundTrip.Statement (.scall p ex) := by
  intro p ex _ w h
  rw [← Option.some.inj h]
  simp [decode, decPlumb]
theorem RoundTrip.exit : ∀ p ex, RoundTrip.Statement (.exit p ex) := by
  intro p ex _ w h
  rw [← Option.some.inj h]
  simp [decode, decPlumb]
theorem RoundTrip.null : ∀ p ta tb, RoundTrip.Statement (.null p ta tb) := by
  intro p ta tb _ w h
  rw [← Option.some.inj h]
  simp [decode, decPlumb]
theorem RoundTrip.mov : ∀ p ta tb, RoundTrip.Statement (.mov p ta tb) := by
  intro p ta tb _ w h
  rw [← Option.some.inj h]
  simp [decode, decPlumb]
theorem RoundTrip.sel : ∀ p ta tb, RoundTrip.Statement (.sel p ta tb) := by
  intro p ta tb _ w h
  rw [← Option.some.inj h]
  simp [decode, decPlumb]
theorem RoundTrip.getr : ∀ p g ta, RoundTrip.Statement (.getr p g ta) := by
  intro p g ta hw w h
  replace hw : (imm63 g) = true := hw
  rw [← Option.some.inj h]
  simp [decode, decPlumb, hw]
theorem RoundTrip.putr : ∀ p g, RoundTrip.Statement (.putr p g) := by
  intro p g hw w h
  replace hw : imm63 g = true := hw
  rw [← Option.some.inj h]
  simp [decode, decPlumb, hw, need_true]
theorem RoundTrip.const : ∀ p imm ta, RoundTrip.Statement (.const p imm ta) := by
  intro p imm ta _ w h
  rw [← Option.some.inj h]
  simp [decode, decPlumb]
theorem RoundTrip.consth : ∀ p imm ta, RoundTrip.Statement (.consth p imm ta) := by
  intro p imm ta _ w h
  rw [← Option.some.inj h]
  simp [decode, decPlumb]
theorem RoundTrip.add : ∀ p ta tb, RoundTrip.Statement (.add p ta tb) := by
  intro p ta tb _ w h
  rw [← Option.some.inj h]
  simp [decode, decInt1]
theorem RoundTrip.sub : ∀ p ta tb, RoundTrip.Statement (.sub p ta tb) := by
  intro p ta tb _ w h
  rw [← Option.some.inj h]
  simp [decode, decInt1]
theorem RoundTrip.mul : ∀ p ta tb, RoundTrip.Statement (.mul p ta tb) := by
  intro p ta tb _ w h
  rw [← Option.some.inj h]
  simp [decode, decInt1]
theorem RoundTrip.mulh : ∀ p ta tb, RoundTrip.Statement (.mulh p ta tb) := by
  intro p ta tb _ w h
  rw [← Option.some.inj h]
  simp [decode, decInt1]
theorem RoundTrip.mulhu : ∀ p ta tb, RoundTrip.Statement (.mulhu p ta tb) := by
  intro p ta tb _ w h
  rw [← Option.some.inj h]
  simp [decode, decInt1]
theorem RoundTrip.div : ∀ p ta tb, RoundTrip.Statement (.div p ta tb) := by
  intro p ta tb _ w h
  rw [← Option.some.inj h]
  simp [decode, decInt1]
theorem RoundTrip.divu : ∀ p ta tb, RoundTrip.Statement (.divu p ta tb) := by
  intro p ta tb _ w h
  rw [← Option.some.inj h]
  simp [decode, decInt1]
theorem RoundTrip.rem : ∀ p ta tb, RoundTrip.Statement (.rem p ta tb) := by
  intro p ta tb _ w h
  rw [← Option.some.inj h]
  simp [decode, decInt1]
theorem RoundTrip.remu : ∀ p ta tb, RoundTrip.Statement (.remu p ta tb) := by
  intro p ta tb _ w h
  rw [← Option.some.inj h]
  simp [decode, decInt1]
theorem RoundTrip.and : ∀ p ta tb, RoundTrip.Statement (.and p ta tb) := by
  intro p ta tb _ w h
  rw [← Option.some.inj h]
  simp [decode, decInt1]
theorem RoundTrip.or : ∀ p ta tb, RoundTrip.Statement (.or p ta tb) := by
  intro p ta tb _ w h
  rw [← Option.some.inj h]
  simp [decode, decInt1]
theorem RoundTrip.xor : ∀ p ta tb, RoundTrip.Statement (.xor p ta tb) := by
  intro p ta tb _ w h
  rw [← Option.some.inj h]
  simp [decode, decInt1]
theorem RoundTrip.andn : ∀ p ta tb, RoundTrip.Statement (.andn p ta tb) := by
  intro p ta tb _ w h
  rw [← Option.some.inj h]
  simp [decode, decInt1]
theorem RoundTrip.shl : ∀ p ta tb, RoundTrip.Statement (.shl p ta tb) := by
  intro p ta tb _ w h
  rw [← Option.some.inj h]
  simp [decode, decInt1]
theorem RoundTrip.shr : ∀ p ta tb, RoundTrip.Statement (.shr p ta tb) := by
  intro p ta tb _ w h
  rw [← Option.some.inj h]
  simp [decode, decInt1]
theorem RoundTrip.sar : ∀ p ta tb, RoundTrip.Statement (.sar p ta tb) := by
  intro p ta tb _ w h
  rw [← Option.some.inj h]
  simp [decode, decInt1]
theorem RoundTrip.rotl : ∀ p ta tb, RoundTrip.Statement (.rotl p ta tb) := by
  intro p ta tb _ w h
  rw [← Option.some.inj h]
  simp [decode, decInt2]
theorem RoundTrip.min : ∀ p ta tb, RoundTrip.Statement (.min p ta tb) := by
  intro p ta tb _ w h
  rw [← Option.some.inj h]
  simp [decode, decInt2]
theorem RoundTrip.max : ∀ p ta tb, RoundTrip.Statement (.max p ta tb) := by
  intro p ta tb _ w h
  rw [← Option.some.inj h]
  simp [decode, decInt2]
theorem RoundTrip.minu : ∀ p ta tb, RoundTrip.Statement (.minu p ta tb) := by
  intro p ta tb _ w h
  rw [← Option.some.inj h]
  simp [decode, decInt2]
theorem RoundTrip.maxu : ∀ p ta tb, RoundTrip.Statement (.maxu p ta tb) := by
  intro p ta tb _ w h
  rw [← Option.some.inj h]
  simp [decode, decInt2]
theorem RoundTrip.abs : ∀ p ta tb, RoundTrip.Statement (.abs p ta tb) := by
  intro p ta tb _ w h
  rw [← Option.some.inj h]
  simp [decode, decInt2]
theorem RoundTrip.neg : ∀ p ta tb, RoundTrip.Statement (.neg p ta tb) := by
  intro p ta tb _ w h
  rw [← Option.some.inj h]
  simp [decode, decInt2]
theorem RoundTrip.clz : ∀ p ta tb, RoundTrip.Statement (.clz p ta tb) := by
  intro p ta tb _ w h
  rw [← Option.some.inj h]
  simp [decode, decInt2]
theorem RoundTrip.ctz : ∀ p ta tb, RoundTrip.Statement (.ctz p ta tb) := by
  intro p ta tb _ w h
  rw [← Option.some.inj h]
  simp [decode, decInt2]
theorem RoundTrip.popc : ∀ p ta tb, RoundTrip.Statement (.popc p ta tb) := by
  intro p ta tb _ w h
  rw [← Option.some.inj h]
  simp [decode, decInt2]
theorem RoundTrip.bfx : ∀ p ta tb, RoundTrip.Statement (.bfx p ta tb) := by
  intro p ta tb _ w h
  rw [← Option.some.inj h]
  simp [decode, decInt2]
theorem RoundTrip.bfi : ∀ p ta tb, RoundTrip.Statement (.bfi p ta tb) := by
  intro p ta tb _ w h
  rw [← Option.some.inj h]
  simp [decode, decInt2]
theorem RoundTrip.sext : ∀ p wd ta tb, RoundTrip.Statement (.sext p wd ta tb) := by
  intro p wd ta tb _ w h
  rw [← Option.some.inj h]
  simp [decode, decInt2]
theorem RoundTrip.zext : ∀ p wd ta tb, RoundTrip.Statement (.zext p wd ta tb) := by
  intro p wd ta tb _ w h
  rw [← Option.some.inj h]
  simp [decode, decInt2]
theorem RoundTrip.teq : ∀ p ta tb, RoundTrip.Statement (.teq p ta tb) := by
  intro p ta tb _ w h
  rw [← Option.some.inj h]
  simp [decode, decTest]
theorem RoundTrip.tne : ∀ p ta tb, RoundTrip.Statement (.tne p ta tb) := by
  intro p ta tb _ w h
  rw [← Option.some.inj h]
  simp [decode, decTest]
theorem RoundTrip.tlt : ∀ p ta tb, RoundTrip.Statement (.tlt p ta tb) := by
  intro p ta tb _ w h
  rw [← Option.some.inj h]
  simp [decode, decTest]
theorem RoundTrip.tle : ∀ p ta tb, RoundTrip.Statement (.tle p ta tb) := by
  intro p ta tb _ w h
  rw [← Option.some.inj h]
  simp [decode, decTest]
theorem RoundTrip.tltu : ∀ p ta tb, RoundTrip.Statement (.tltu p ta tb) := by
  intro p ta tb _ w h
  rw [← Option.some.inj h]
  simp [decode, decTest]
theorem RoundTrip.tleu : ∀ p ta tb, RoundTrip.Statement (.tleu p ta tb) := by
  intro p ta tb _ w h
  rw [← Option.some.inj h]
  simp [decode, decTest]
theorem RoundTrip.tbit : ∀ p ta tb, RoundTrip.Statement (.tbit p ta tb) := by
  intro p ta tb _ w h
  rw [← Option.some.inj h]
  simp [decode, decTest]
theorem RoundTrip.addi : ∀ p imm ta, RoundTrip.Statement (.addi p imm ta) := by
  intro p imm ta _ w h
  rw [← Option.some.inj h]
  simp [decode, decImm]
theorem RoundTrip.muli : ∀ p imm ta, RoundTrip.Statement (.muli p imm ta) := by
  intro p imm ta _ w h
  rw [← Option.some.inj h]
  simp [decode, decImm]
theorem RoundTrip.andi : ∀ p imm ta, RoundTrip.Statement (.andi p imm ta) := by
  intro p imm ta _ w h
  rw [← Option.some.inj h]
  simp [decode, decImm]
theorem RoundTrip.ori : ∀ p imm ta, RoundTrip.Statement (.ori p imm ta) := by
  intro p imm ta _ w h
  rw [← Option.some.inj h]
  simp [decode, decImm]
theorem RoundTrip.xori : ∀ p imm ta, RoundTrip.Statement (.xori p imm ta) := by
  intro p imm ta _ w h
  rw [← Option.some.inj h]
  simp [decode, decImm]
theorem RoundTrip.shli : ∀ p k ta, RoundTrip.Statement (.shli p k ta) := by
  intro p k ta hw w h
  replace hw : (imm63 k) = true := hw
  rw [← Option.some.inj h]
  simp [decode, decImm, hw]
theorem RoundTrip.shri : ∀ p k ta, RoundTrip.Statement (.shri p k ta) := by
  intro p k ta hw w h
  replace hw : (imm63 k) = true := hw
  rw [← Option.some.inj h]
  simp [decode, decImm, hw]
theorem RoundTrip.sari : ∀ p k ta, RoundTrip.Statement (.sari p k ta) := by
  intro p k ta hw w h
  replace hw : (imm63 k) = true := hw
  rw [← Option.some.inj h]
  simp [decode, decImm, hw]
theorem RoundTrip.teqi : ∀ p imm ta, RoundTrip.Statement (.teqi p imm ta) := by
  intro p imm ta _ w h
  rw [← Option.some.inj h]
  simp [decode, decImm]
theorem RoundTrip.tnei : ∀ p imm ta, RoundTrip.Statement (.tnei p imm ta) := by
  intro p imm ta _ w h
  rw [← Option.some.inj h]
  simp [decode, decImm]
theorem RoundTrip.tlti : ∀ p imm ta, RoundTrip.Statement (.tlti p imm ta) := by
  intro p imm ta _ w h
  rw [← Option.some.inj h]
  simp [decode, decImm]
theorem RoundTrip.tlei : ∀ p imm ta, RoundTrip.Statement (.tlei p imm ta) := by
  intro p imm ta _ w h
  rw [← Option.some.inj h]
  simp [decode, decImm]
theorem RoundTrip.tltui : ∀ p imm ta, RoundTrip.Statement (.tltui p imm ta) := by
  intro p imm ta _ w h
  rw [← Option.some.inj h]
  simp [decode, decImm]
theorem RoundTrip.tleui : ∀ p imm ta, RoundTrip.Statement (.tleui p imm ta) := by
  intro p imm ta _ w h
  rw [← Option.some.inj h]
  simp [decode, decImm]
theorem RoundTrip.bfxi : ∀ p imm ta, RoundTrip.Statement (.bfxi p imm ta) := by
  intro p imm ta hw w h
  replace hw : decide (imm.toNat < 4096) = true := hw
  rw [← Option.some.inj h]
  simp [decode, decImm, fld_encI_21 _ _ _ _ (of_decide_eq_true hw), need_true]
theorem RoundTrip.fadd : ∀ p q r ta tb, RoundTrip.Statement (.fadd p q r ta tb) := by
  intro p q r ta tb hw w h
  replace hw : (r.scalar) = true := hw
  rw [← Option.some.inj h]
  simp [decode, decFp, hw]
theorem RoundTrip.fsub : ∀ p q r ta tb, RoundTrip.Statement (.fsub p q r ta tb) := by
  intro p q r ta tb hw w h
  replace hw : (r.scalar) = true := hw
  rw [← Option.some.inj h]
  simp [decode, decFp, hw]
theorem RoundTrip.fmul : ∀ p q r ta tb, RoundTrip.Statement (.fmul p q r ta tb) := by
  intro p q r ta tb hw w h
  replace hw : (r.scalar) = true := hw
  rw [← Option.some.inj h]
  simp [decode, decFp, hw]
theorem RoundTrip.fdiv : ∀ p q r ta tb, RoundTrip.Statement (.fdiv p q r ta tb) := by
  intro p q r ta tb hw w h
  replace hw : (r.scalar) = true := hw
  rw [← Option.some.inj h]
  simp [decode, decFp, hw]
theorem RoundTrip.fsqrt : ∀ p q r ta tb, RoundTrip.Statement (.fsqrt p q r ta tb) := by
  intro p q r ta tb hw w h
  replace hw : (r.scalar) = true := hw
  rw [← Option.some.inj h]
  simp [decode, decFp, hw]
theorem RoundTrip.fmin : ∀ p q ta tb, RoundTrip.Statement (.fmin p q ta tb) := by
  intro p q ta tb _ w h
  rw [← Option.some.inj h]
  simp [decode, decFp]
theorem RoundTrip.fmax : ∀ p q ta tb, RoundTrip.Statement (.fmax p q ta tb) := by
  intro p q ta tb _ w h
  rw [← Option.some.inj h]
  simp [decode, decFp]
theorem RoundTrip.fcvtFF : ∀ p q r ta tb, RoundTrip.Statement (.fcvtFF p q r ta tb) := by
  intro p q r ta tb hw w h
  replace hw : (r.scalar) = true := hw
  rw [← Option.some.inj h]
  simp [decode, decFp, hw]
theorem RoundTrip.fcvtFI : ∀ p q r ta tb, RoundTrip.Statement (.fcvtFI p q r ta tb) := by
  intro p q r ta tb hw w h
  replace hw : (r.scalar) = true := hw
  rw [← Option.some.inj h]
  simp [decode, decFp, hw]
theorem RoundTrip.fcvtIF : ∀ p q r ta tb, RoundTrip.Statement (.fcvtIF p q r ta tb) := by
  intro p q r ta tb hw w h
  replace hw : (r.scalar) = true := hw
  rw [← Option.some.inj h]
  simp [decode, decFp, hw]
theorem RoundTrip.fteq : ∀ p q ta tb, RoundTrip.Statement (.fteq p q ta tb) := by
  intro p q ta tb _ w h
  rw [← Option.some.inj h]
  simp [decode, decFp]
theorem RoundTrip.ftlt : ∀ p q ta tb, RoundTrip.Statement (.ftlt p q ta tb) := by
  intro p q ta tb _ w h
  rw [← Option.some.inj h]
  simp [decode, decFp]
theorem RoundTrip.ftle : ∀ p q ta tb, RoundTrip.Statement (.ftle p q ta tb) := by
  intro p q ta tb _ w h
  rw [← Option.some.inj h]
  simp [decode, decFp]
theorem RoundTrip.fclass : ∀ p q ta tb, RoundTrip.Statement (.fclass p q ta tb) := by
  intro p q ta tb _ w h
  rw [← Option.some.inj h]
  simp [decode, decFp]
theorem RoundTrip.ld : ∀ p lsid ag sz sx ta, RoundTrip.Statement (.ld p lsid ag sz sx ta) := by
  intro p lsid ag sz sx ta _ w h
  rw [← Option.some.inj h]
  simp [decode, decMem, bind, Except.bind, pure, Except.pure]
theorem RoundTrip.st : ∀ p lsid ag sz na, RoundTrip.Statement (.st p lsid ag sz na) := by
  intro p lsid ag sz na _ w h
  rw [← Option.some.inj h]
  simp [decode, decMem, bind, Except.bind, pure, Except.pure, need_true]
theorem RoundTrip.pref : ∀ p lsid ag, RoundTrip.Statement (.pref p lsid ag) := by
  intro p lsid ag _ w h
  rw [← Option.some.inj h]
  simp [decode, decMem, bind, Except.bind, pure, Except.pure, need_true]
theorem RoundTrip.enq : ∀ p ag, RoundTrip.Statement (.enq p ag) := by
  intro p ag _ w h
  rw [← Option.some.inj h]
  simp [decode, decCells]
theorem RoundTrip.enqm : ∀ p ag, RoundTrip.Statement (.enqm p ag) := by
  intro p ag _ w h
  rw [← Option.some.inj h]
  simp [decode, decCells]
theorem RoundTrip.strm : ∀ p ag tk f, RoundTrip.Statement (.strm p ag tk f) := by
  intro p ag tk f _ w h
  rw [← Option.some.inj h]
  simp [decode, decCells]
theorem RoundTrip.strms : ∀ p ag tk f, RoundTrip.Statement (.strms p ag tk f) := by
  intro p ag tk f _ w h
  rw [← Option.some.inj h]
  simp [decode, decCells]
theorem RoundTrip.parm : ∀ p ag, RoundTrip.Statement (.parm p ag) := by
  intro p ag _ w h
  rw [← Option.some.inj h]
  simp [decode, decCells]
theorem RoundTrip.rngp : ∀ p ta, RoundTrip.Statement (.rngp p ta) := by
  intro p ta _ w h
  rw [← Option.some.inj h]
  simp [decode, decCells]
theorem RoundTrip.getp : ∀ p ag ta, RoundTrip.Statement (.getp p ag ta) := by
  intro p ag ta _ w h
  rw [← Option.some.inj h]
  simp [decode, decCells]
theorem RoundTrip.putp : ∀ p ag, RoundTrip.Statement (.putp p ag) := by
  intro p ag _ w h
  rw [← Option.some.inj h]
  simp [decode, decCells]
theorem RoundTrip.cpy : ∀ p ag tk f ta, RoundTrip.Statement (.cpy p ag tk f ta) := by
  intro p ag tk f ta hw w h
  rw [← Option.some.inj h]
  simp [decode, decCopy]
  exact decCpy_encQ _ p ag tk f ta _ hw
theorem RoundTrip.cpyg : ∀ p ag tk f ta, RoundTrip.Statement (.cpyg p ag tk f ta) := by
  intro p ag tk f ta hw w h
  rw [← Option.some.inj h]
  simp [decode, decCopy]
  exact decCpy_encQ _ p ag tk f ta _ hw
theorem RoundTrip.cpys : ∀ p ag tk f ta, RoundTrip.Statement (.cpys p ag tk f ta) := by
  intro p ag tk f ta hw w h
  rw [← Option.some.inj h]
  simp [decode, decCopy]
  exact decCpy_encQ _ p ag tk f ta _ hw
theorem RoundTrip.cpyr : ∀ p ag tk f ta, RoundTrip.Statement (.cpyr p ag tk f ta) := by
  intro p ag tk f ta hw w h
  rw [← Option.some.inj h]
  simp [decode, decCopy]
  exact decCpy_encQ _ p ag tk f ta _ hw
theorem RoundTrip.waitn : ∀ p ld st cp tl, RoundTrip.Statement (.waitn p ld st cp tl) := by
  intro p ld st cp tl _ w h
  rw [← Option.some.inj h]
  simp [decode, decWait, bind, Except.bind, pure, Except.pure]
theorem RoundTrip.waitt : ∀ p eng ctx ta, RoundTrip.Statement (.waitt p eng ctx ta) := by
  intro p eng ctx ta hw w h
  replace hw : engOk eng ctx false = true := hw
  rw [← Option.some.inj h]
  simp [decode, decWait, bind, Except.bind, pure, Except.pure, need_true, hw]
theorem RoundTrip.waita : ∀ p ag cmp ta, RoundTrip.Statement (.waita p ag cmp ta) := by
  intro p ag cmp ta _ w h
  rw [← Option.some.inj h]
  cases cmp <;> simp [decode, decWait, bind, Except.bind, pure, Except.pure, need_true, encCmp]
theorem RoundTrip.waitb : ∀ p bs ta, RoundTrip.Statement (.waitb p bs ta) := by
  intro p bs ta _ w h
  rw [← Option.some.inj h]
  simp [decode, decWait, bind, Except.bind, pure, Except.pure, need_true]
theorem RoundTrip.tbp : ∀ p bs ta, RoundTrip.Statement (.tbp p bs ta) := by
  intro p bs ta _ w h
  rw [← Option.some.inj h]
  simp [decode, decWait, bind, Except.bind, pure, Except.pure, need_true]
theorem RoundTrip.arv : ∀ p bs, RoundTrip.Statement (.arv p bs) := by
  intro p bs _ w h
  rw [← Option.some.inj h]
  simp [decode, decWait]
theorem RoundTrip.arvx : ∀ p bs, RoundTrip.Statement (.arvx p bs) := by
  intro p bs _ w h
  rw [← Option.some.inj h]
  simp [decode, decWait]
theorem RoundTrip.expt : ∀ p bs, RoundTrip.Statement (.expt p bs) := by
  intro p bs _ w h
  rw [← Option.some.inj h]
  simp [decode, decWait]
theorem RoundTrip.fence : ∀ p e s1, RoundTrip.Statement (.fence p e s1) := by
  intro p e s1 hw w h
  replace hw : (e || s1) = true := hw
  rw [← Option.some.inj h]
  simp [decode, decWait, bind, Except.bind, need_true]
  cases e <;> cases s1 <;> first
    | exact absurd hw (by decide)
    | rfl
theorem RoundTrip.yield : ∀ p, RoundTrip.Statement (.yield p) := by
  intro p _ w h
  rw [← Option.some.inj h]
  simp [decode, decWait, bind, Except.bind, pure, Except.pure, need_true]
theorem RoundTrip.tlrd : ∀ p eng ctx ta, RoundTrip.Statement (.tlrd p eng ctx ta) := by
  intro p eng ctx ta hw w h
  replace hw : engOk eng ctx true = true := hw
  rw [← Option.some.inj h]
  simp [decode, decWait, bind, Except.bind, pure, Except.pure, need_true, hw]
theorem RoundTrip.atom : ∀ p op ag gd, RoundTrip.Statement (.atom p op ag gd) := by
  intro p op ag gd _ w h
  rw [← Option.some.inj h]
  cases op <;> simp [decode, decCombine, decAtom, encAtom, bind, Except.bind, pure, Except.pure, need_true]
theorem RoundTrip.red : ∀ p op ag, RoundTrip.Statement (.red p op ag) := by
  intro p op ag _ w h
  rw [← Option.some.inj h]
  cases op <;> simp [decode, decCombine, decRed, encRed]
theorem RoundTrip.leash : ∀ p k slot tk ta, RoundTrip.Statement (.leash p k slot tk ta) := by
  intro p k slot tk ta _ w h
  rw [← Option.some.inj h]
  cases k <;> simp [decode, decLease, decLeash, encKind]
theorem RoundTrip.lrel : ∀ p slot, RoundTrip.Statement (.lrel p slot) := by
  intro p slot _ w h
  rw [← Option.some.inj h]
  simp [decode, decLease]
theorem RoundTrip.lqry : ∀ p slot ta, RoundTrip.Statement (.lqry p slot ta) := by
  intro p slot ta _ w h
  rw [← Option.some.inj h]
  simp [decode, decLease]
theorem RoundTrip.lpri : ∀ p slot, RoundTrip.Statement (.lpri p slot) := by
  intro p slot _ w h
  rw [← Option.some.inj h]
  simp [decode, decLease]
theorem RoundTrip.launch : ∀ p ag tk, RoundTrip.Statement (.launch p ag tk) := by
  intro p ag tk _ w h
  rw [← Option.some.inj h]
  simp [decode, decLaunch]
theorem RoundTrip.qclaim : ∀ p ta, RoundTrip.Statement (.qclaim p ta) := by
  intro p ta _ w h
  rw [← Option.some.inj h]
  simp [decode, decLaunch]
theorem RoundTrip.qpub : ∀ p, RoundTrip.Statement (.qpub p) := by
  intro p _ w h
  rw [← Option.some.inj h]
  simp [decode, decLaunch]
theorem RoundTrip.cntr : ∀ p, RoundTrip.Statement (.cntr p) := by
  intro p _ w h
  rw [← Option.some.inj h]
  simp [decode, decLaunch]
theorem RoundTrip.cancel : ∀ p lev, RoundTrip.Statement (.cancel p lev) := by
  intro p lev _ w h
  rw [← Option.some.inj h]
  cases lev <;> simp [decode, decLaunch, decCancel, encLevel]
theorem RoundTrip.cfgl : ∀ p n, RoundTrip.Statement (.cfgl p n) := by
  intro p n _ w h
  rw [← Option.some.inj h]
  simp [decode, decLaunch]
theorem RoundTrip.cfgt : ∀ p, RoundTrip.Statement (.cfgt p) := by
  intro p _ w h
  rw [← Option.some.inj h]
  simp [decode, decLaunch]
theorem RoundTrip.srd : ∀ p sys ta, RoundTrip.Statement (.srd p sys ta) := by
  intro p sys ta _ w h
  rw [← Option.some.inj h]
  simp [decode, decSystem]
theorem RoundTrip.swr : ∀ p sys, RoundTrip.Statement (.swr p sys) := by
  intro p sys _ w h
  rw [← Option.some.inj h]
  simp [decode, decSystem]
theorem RoundTrip.tlbi : ∀ p form ta, RoundTrip.Statement (.tlbi p form ta) := by
  intro p form ta _ w h
  rw [← Option.some.inj h]
  simp [decode, decSystem]
theorem RoundTrip.ctxs : ∀ p, RoundTrip.Statement (.ctxs p) := by
  intro p _ w h
  rw [← Option.some.inj h]
  simp [decode, decSystem]
theorem RoundTrip.ctxr : ∀ p, RoundTrip.Statement (.ctxr p) := by
  intro p _ w h
  rw [← Option.some.inj h]
  simp [decode, decSystem]
theorem RoundTrip.eret : ∀ p skip, RoundTrip.Statement (.eret p skip) := by
  intro p skip _ w h
  rw [← Option.some.inj h]
  simp [decode, decSystem, bind, Except.bind, pure, Except.pure, need_true]
theorem RoundTrip.trap : ∀ p c, RoundTrip.Statement (.trap p c) := by
  intro p c _ w h
  rw [← Option.some.inj h]
  simp [decode, decSystem, bind, Except.bind, pure, Except.pure, need_true]
theorem RoundTrip.pwrq : ∀ p q ta, RoundTrip.Statement (.pwrq p q ta) := by
  intro p q ta _ w h
  rw [← Option.some.inj h]
  simp [decode, decSystem]
theorem RoundTrip.wr : ∀ cl port, RoundTrip.Statement (.wr cl port) := by
  intro cl port _ w h
  exact absurd h (by simp [encode])
theorem RoundTrip.wrm : ∀ cl port, RoundTrip.Statement (.wrm cl port) := by
  intro cl port _ w h
  exact absurd h (by simp [encode])
theorem RoundTrip.wacc : ∀ cl port, RoundTrip.Statement (.wacc cl port) := by
  intro cl port _ w h
  exact absurd h (by simp [encode])
theorem RoundTrip.mldb : ∀ cl me, RoundTrip.Statement (.mldb cl me) := by
  intro cl me _ w h
  exact absurd h (by simp [encode])
theorem RoundTrip.mma : ∀ cl me bad, RoundTrip.Statement (.mma cl me bad) := by
  intro cl me bad _ w h
  exact absurd h (by simp [encode])
theorem RoundTrip.mgth : ∀ cl me bad, RoundTrip.Statement (.mgth cl me bad) := by
  intro cl me bad _ w h
  exact absurd h (by simp [encode])
theorem RoundTrip.mcsr : ∀ cl me bad, RoundTrip.Statement (.mcsr cl me bad) := by
  intro cl me bad _ w h
  exact absurd h (by simp [encode])
theorem RoundTrip.mbsr : ∀ cl me bad, RoundTrip.Statement (.mbsr cl me bad) := by
  intro cl me bad _ w h
  exact absurd h (by simp [encode])
theorem RoundTrip.mzero : ∀ cl me, RoundTrip.Statement (.mzero cl me) := by
  intro cl me _ w h
  exact absurd h (by simp [encode])
theorem RoundTrip.mdrn : ∀ cl me, RoundTrip.Statement (.mdrn cl me) := by
  intro cl me _ w h
  exact absurd h (by simp [encode])
theorem RoundTrip.mchk : ∀ cl me bad, RoundTrip.Statement (.mchk cl me bad) := by
  intro cl me bad _ w h
  exact absurd h (by simp [encode])
theorem RoundTrip.msave : ∀ cl me, RoundTrip.Statement (.msave cl me) := by
  intro cl me _ w h
  exact absurd h (by simp [encode])
theorem RoundTrip.mload : ∀ cl me, RoundTrip.Statement (.mload cl me) := by
  intro cl me _ w h
  exact absurd h (by simp [encode])
theorem RoundTrip.vadd : ∀ cl ve, RoundTrip.Statement (.vadd cl ve) := by
  intro cl ve _ w h
  exact absurd h (by simp [encode])
theorem RoundTrip.vsub : ∀ cl ve, RoundTrip.Statement (.vsub cl ve) := by
  intro cl ve _ w h
  exact absurd h (by simp [encode])
theorem RoundTrip.vmul : ∀ cl ve, RoundTrip.Statement (.vmul cl ve) := by
  intro cl ve _ w h
  exact absurd h (by simp [encode])
theorem RoundTrip.vfadd : ∀ cl ve, RoundTrip.Statement (.vfadd cl ve) := by
  intro cl ve _ w h
  exact absurd h (by simp [encode])
theorem RoundTrip.vfsub : ∀ cl ve, RoundTrip.Statement (.vfsub cl ve) := by
  intro cl ve _ w h
  exact absurd h (by simp [encode])
theorem RoundTrip.vfmul : ∀ cl ve, RoundTrip.Statement (.vfmul cl ve) := by
  intro cl ve _ w h
  exact absurd h (by simp [encode])
theorem RoundTrip.vfma : ∀ cl ve, RoundTrip.Statement (.vfma cl ve) := by
  intro cl ve _ w h
  exact absurd h (by simp [encode])
theorem RoundTrip.vmin : ∀ cl ve, RoundTrip.Statement (.vmin cl ve) := by
  intro cl ve _ w h
  exact absurd h (by simp [encode])
theorem RoundTrip.vmax : ∀ cl ve, RoundTrip.Statement (.vmax cl ve) := by
  intro cl ve _ w h
  exact absurd h (by simp [encode])
theorem RoundTrip.vfmin : ∀ cl ve, RoundTrip.Statement (.vfmin cl ve) := by
  intro cl ve _ w h
  exact absurd h (by simp [encode])
theorem RoundTrip.vfmax : ∀ cl ve, RoundTrip.Statement (.vfmax cl ve) := by
  intro cl ve _ w h
  exact absurd h (by simp [encode])
theorem RoundTrip.vabs : ∀ cl ve, RoundTrip.Statement (.vabs cl ve) := by
  intro cl ve _ w h
  exact absurd h (by simp [encode])
theorem RoundTrip.vfabs : ∀ cl ve, RoundTrip.Statement (.vfabs cl ve) := by
  intro cl ve _ w h
  exact absurd h (by simp [encode])
theorem RoundTrip.vcmp : ∀ cl ve, RoundTrip.Statement (.vcmp cl ve) := by
  intro cl ve _ w h
  exact absurd h (by simp [encode])
theorem RoundTrip.vfcmp : ∀ cl ve, RoundTrip.Statement (.vfcmp cl ve) := by
  intro cl ve _ w h
  exact absurd h (by simp [encode])
theorem RoundTrip.vsel : ∀ cl ve, RoundTrip.Statement (.vsel cl ve) := by
  intro cl ve _ w h
  exact absurd h (by simp [encode])
theorem RoundTrip.vcvt : ∀ cl ve, RoundTrip.Statement (.vcvt cl ve) := by
  intro cl ve _ w h
  exact absurd h (by simp [encode])
theorem RoundTrip.vshl : ∀ cl ve, RoundTrip.Statement (.vshl cl ve) := by
  intro cl ve _ w h
  exact absurd h (by simp [encode])
theorem RoundTrip.vshr : ∀ cl ve, RoundTrip.Statement (.vshr cl ve) := by
  intro cl ve _ w h
  exact absurd h (by simp [encode])
theorem RoundTrip.vsar : ∀ cl ve, RoundTrip.Statement (.vsar cl ve) := by
  intro cl ve _ w h
  exact absurd h (by simp [encode])
theorem RoundTrip.vand : ∀ cl ve, RoundTrip.Statement (.vand cl ve) := by
  intro cl ve _ w h
  exact absurd h (by simp [encode])
theorem RoundTrip.vor : ∀ cl ve, RoundTrip.Statement (.vor cl ve) := by
  intro cl ve _ w h
  exact absurd h (by simp [encode])
theorem RoundTrip.vxor : ∀ cl ve, RoundTrip.Statement (.vxor cl ve) := by
  intro cl ve _ w h
  exact absurd h (by simp [encode])
theorem RoundTrip.vrred : ∀ cl ve, RoundTrip.Statement (.vrred cl ve) := by
  intro cl ve _ w h
  exact absurd h (by simp [encode])
theorem RoundTrip.vsred : ∀ cl ve, RoundTrip.Statement (.vsred cl ve) := by
  intro cl ve _ w h
  exact absurd h (by simp [encode])
theorem RoundTrip.vscan : ∀ cl ve, RoundTrip.Statement (.vscan cl ve) := by
  intro cl ve _ w h
  exact absurd h (by simp [encode])
theorem RoundTrip.vgth : ∀ cl ve, RoundTrip.Statement (.vgth cl ve) := by
  intro cl ve _ w h
  exact absurd h (by simp [encode])
theorem RoundTrip.vscat : ∀ cl ve, RoundTrip.Statement (.vscat cl ve) := by
  intro cl ve _ w h
  exact absurd h (by simp [encode])
theorem RoundTrip.vscatc : ∀ cl ve, RoundTrip.Statement (.vscatc cl ve) := by
  intro cl ve _ w h
  exact absurd h (by simp [encode])
theorem RoundTrip.vperm : ∀ cl ve, RoundTrip.Statement (.vperm cl ve) := by
  intro cl ve _ w h
  exact absurd h (by simp [encode])
theorem RoundTrip.vbcst : ∀ cl ve, RoundTrip.Statement (.vbcst cl ve) := by
  intro cl ve _ w h
  exact absurd h (by simp [encode])
theorem RoundTrip.sexp2 : ∀ cl, RoundTrip.Statement (.sexp2 cl) := by
  intro cl _ w h
  exact absurd h (by simp [encode])
theorem RoundTrip.slog2 : ∀ cl, RoundTrip.Statement (.slog2 cl) := by
  intro cl _ w h
  exact absurd h (by simp [encode])
theorem RoundTrip.srcp : ∀ cl, RoundTrip.Statement (.srcp cl) := by
  intro cl _ w h
  exact absurd h (by simp [encode])
theorem RoundTrip.srsq : ∀ cl, RoundTrip.Statement (.srsq cl) := by
  intro cl _ w h
  exact absurd h (by simp [encode])
theorem RoundTrip.stanh : ∀ cl, RoundTrip.Statement (.stanh cl) := by
  intro cl _ w h
  exact absurd h (by simp [encode])
theorem RoundTrip.ssin : ∀ cl, RoundTrip.Statement (.ssin cl) := by
  intro cl _ w h
  exact absurd h (by simp [encode])
theorem RoundTrip.scos : ∀ cl, RoundTrip.Statement (.scos cl) := by
  intro cl _ w h
  exact absurd h (by simp [encode])
theorem RoundTrip.sgelu : ∀ cl, RoundTrip.Statement (.sgelu cl) := by
  intro cl _ w h
  exact absurd h (by simp [encode])
theorem RoundTrip.rowsm : ∀ cl, RoundTrip.Statement (.rowsm cl) := by
  intro cl _ w h
  exact absurd h (by simp [encode])
theorem RoundTrip.lnorm : ∀ cl, RoundTrip.Statement (.lnorm cl) := by
  intro cl _ w h
  exact absurd h (by simp [encode])
theorem RoundTrip.rmsn : ∀ cl, RoundTrip.Statement (.rmsn cl) := by
  intro cl _ w h
  exact absurd h (by simp [encode])
theorem RoundTrip.xint : ∀ cl, RoundTrip.Statement (.xint cl) := by
  intro cl _ w h
  exact absurd h (by simp [encode])
theorem RoundTrip.xuni : ∀ cl, RoundTrip.Statement (.xuni cl) := by
  intro cl _ w h
  exact absurd h (by simp [encode])
theorem RoundTrip.xdif : ∀ cl, RoundTrip.Statement (.xdif cl) := by
  intro cl _ w h
  exact absurd h (by simp [encode])
theorem RoundTrip.xmrg : ∀ cl, RoundTrip.Statement (.xmrg cl) := by
  intro cl _ w h
  exact absurd h (by simp [encode])
theorem RoundTrip.xcnt : ∀ cl, RoundTrip.Statement (.xcnt cl) := by
  intro cl _ w h
  exact absurd h (by simp [encode])
theorem RoundTrip.cadd : ∀ cl, RoundTrip.Statement (.cadd cl) := by
  intro cl _ w h
  exact absurd h (by simp [encode])
theorem RoundTrip.cfadd : ∀ cl, RoundTrip.Statement (.cfadd cl) := by
  intro cl _ w h
  exact absurd h (by simp [encode])
theorem RoundTrip.cmax : ∀ cl, RoundTrip.Statement (.cmax cl) := by
  intro cl _ w h
  exact absurd h (by simp [encode])
theorem RoundTrip.cmin : ∀ cl, RoundTrip.Statement (.cmin cl) := by
  intro cl _ w h
  exact absurd h (by simp [encode])
theorem RoundTrip.cand : ∀ cl, RoundTrip.Statement (.cand cl) := by
  intro cl _ w h
  exact absurd h (by simp [encode])
theorem RoundTrip.cor : ∀ cl, RoundTrip.Statement (.cor cl) := by
  intro cl _ w h
  exact absurd h (by simp [encode])
theorem RoundTrip.cxor : ∀ cl, RoundTrip.Statement (.cxor cl) := by
  intro cl _ w h
  exact absurd h (by simp [encode])
theorem RoundTrip.cxch : ∀ cl, RoundTrip.Statement (.cxch cl) := by
  intro cl _ w h
  exact absurd h (by simp [encode])
theorem RoundTrip.ccas : ∀ cl, RoundTrip.Statement (.ccas cl) := by
  intro cl _ w h
  exact absurd h (by simp [encode])
theorem RoundTrip.cfaa : ∀ cl, RoundTrip.Statement (.cfaa cl) := by
  intro cl _ w h
  exact absurd h (by simp [encode])
theorem RoundTrip.resc : ∀ cl, RoundTrip.Statement (.resc cl) := by
  intro cl _ w h
  exact absurd h (by simp [encode])
theorem RoundTrip.barv : ∀ cl, RoundTrip.Statement (.barv cl) := by
  intro cl _ w h
  exact absurd h (by simp [encode])
theorem RoundTrip.barx : ∀ cl, RoundTrip.Statement (.barx cl) := by
  intro cl _ w h
  exact absurd h (by simp [encode])
theorem RoundTrip.bexa : ∀ cl, RoundTrip.Statement (.bexa cl) := by
  intro cl _ w h
  exact absurd h (by simp [encode])
theorem RoundTrip.bkil : ∀ cl, RoundTrip.Statement (.bkil cl) := by
  intro cl _ w h
  exact absurd h (by simp [encode])
theorem RoundTrip.bexp : ∀ cl, RoundTrip.Statement (.bexp cl) := by
  intro cl _ w h
  exact absurd h (by simp [encode])
theorem RoundTrip.xrd : ∀ cl xf, RoundTrip.Statement (.xrd cl xf) := by
  intro cl xf _ w h
  exact absurd h (by simp [encode])
theorem RoundTrip.xwr : ∀ cl xf, RoundTrip.Statement (.xwr cl xf) := by
  intro cl xf _ w h
  exact absurd h (by simp [encode])
theorem RoundTrip.xrrd : ∀ cl xf, RoundTrip.Statement (.xrrd cl xf) := by
  intro cl xf _ w h
  exact absurd h (by simp [encode])
theorem RoundTrip.xrwr : ∀ cl xf, RoundTrip.Statement (.xrwr cl xf) := by
  intro cl xf _ w h
  exact absurd h (by simp [encode])
theorem RoundTrip.xprd : ∀ cl xf, RoundTrip.Statement (.xprd cl xf) := by
  intro cl xf _ w h
  exact absurd h (by simp [encode])
theorem RoundTrip.xpwr : ∀ cl xf, RoundTrip.Statement (.xpwr cl xf) := by
  intro cl xf _ w h
  exact absurd h (by simp [encode])
theorem RoundTrip.xnet : ∀ cl xf, RoundTrip.Statement (.xnet cl xf) := by
  intro cl xf _ w h
  exact absurd h (by simp [encode])
theorem RoundTrip.kjob : ∀ cl, RoundTrip.Statement (.kjob cl) := by
  intro cl _ w h
  exact absurd h (by simp [encode])
theorem RoundTrip.kqry : ∀ cl, RoundTrip.Statement (.kqry cl) := by
  intro cl _ w h
  exact absurd h (by simp [encode])
theorem RoundTrip.csend : ∀ cl, RoundTrip.Statement (.csend cl) := by
  intro cl _ w h
  exact absurd h (by simp [encode])
theorem RoundTrip.crecv : ∀ cl, RoundTrip.Statement (.crecv cl) := by
  intro cl _ w h
  exact absurd h (by simp [encode])
theorem RoundTrip.cred : ∀ cl, RoundTrip.Statement (.cred cl) := by
  intro cl _ w h
  exact absurd h (by simp [encode])
theorem RoundTrip.cbcst : ∀ cl, RoundTrip.Statement (.cbcst cl) := by
  intro cl _ w h
  exact absurd h (by simp [encode])
theorem RoundTrip.cmpl : ∀ cl port, RoundTrip.Statement (.cmpl cl port) := by
  intro cl port _ w h
  exact absurd h (by simp [encode])
theorem RoundTrip.rcll : ∀ cl port, RoundTrip.Statement (.rcll cl port) := by
  intro cl port _ w h
  exact absurd h (by simp [encode])
theorem RoundTrip.drain : ∀ cl port, RoundTrip.Statement (.drain cl port) := by
  intro cl port _ w h
  exact absurd h (by simp [encode])
theorem RoundTrip.abrt : ∀ cl port, RoundTrip.Statement (.abrt cl port) := by
  intro cl port _ w h
  exact absurd h (by simp [encode])
theorem RoundTrip.frameTurn : ∀ core, RoundTrip.Statement (.frameTurn core) := by
  intro core _ w h
  exact absurd h (by simp [encode])
theorem RoundTrip.blockCommit : ∀ core frame, RoundTrip.Statement (.blockCommit core frame) := by
  intro core frame _ w h
  exact absurd h (by simp [encode])
theorem RoundTrip.trapTake : ∀ sid, RoundTrip.Statement (.trapTake sid) := by
  intro sid _ w h
  exact absurd h (by simp [encode])
theorem RoundTrip.loadReturn : ∀ core frame slot, RoundTrip.Statement (.loadReturn core frame slot) := by
  intro core frame slot _ w h
  exact absurd h (by simp [encode])
theorem RoundTrip.storeAck : ∀ sid, RoundTrip.Statement (.storeAck sid) := by
  intro sid _ w h
  exact absurd h (by simp [encode])
theorem RoundTrip.releaseTakeEffect : ∀ sid, RoundTrip.Statement (.releaseTakeEffect sid) := by
  intro sid _ w h
  exact absurd h (by simp [encode])
theorem RoundTrip.livenessTick : ∀ core, RoundTrip.Statement (.livenessTick core) := by
  intro core _ w h
  exact absurd h (by simp [encode])
theorem RoundTrip.waitConditionMet : ∀ core frame slot, RoundTrip.Statement (.waitConditionMet core frame slot) := by
  intro core frame slot _ w h
  exact absurd h (by simp [encode])
theorem RoundTrip.atomReply : ∀ sid, RoundTrip.Statement (.atomReply sid) := by
  intro sid _ w h
  exact absurd h (by simp [encode])
theorem RoundTrip.blockFetchReturn : ∀ sid addr, RoundTrip.Statement (.blockFetchReturn sid addr) := by
  intro sid addr _ w h
  exact absurd h (by simp [encode])
theorem RoundTrip.launchPick : ∀ q, RoundTrip.Statement (.launchPick q) := by
  intro q _ w h
  exact absurd h (by simp [encode])
theorem RoundTrip.launchAged : ∀ q queue, RoundTrip.Statement (.launchAged q queue) := by
  intro q queue _ w h
  exact absurd h (by simp [encode])
theorem RoundTrip.packStart : ∀ launch places, RoundTrip.Statement (.packStart launch places) := by
  intro launch places _ w h
  exact absurd h (by simp [encode])
theorem RoundTrip.graphBind : ∀ launch img, RoundTrip.Statement (.graphBind launch img) := by
  intro launch img _ w h
  exact absurd h (by simp [encode])
theorem RoundTrip.rangeClaim : ∀ c, RoundTrip.Statement (.rangeClaim c) := by
  intro c _ w h
  exact absurd h (by simp [encode])
theorem RoundTrip.tagAdmit : ∀ job graph, RoundTrip.Statement (.tagAdmit job graph) := by
  intro job graph _ w h
  exact absurd h (by simp [encode])
theorem RoundTrip.tagRetire : ∀ job graph, RoundTrip.Statement (.tagRetire job graph) := by
  intro job graph _ w h
  exact absurd h (by simp [encode])
theorem RoundTrip.jobCreate : ∀ job weight, RoundTrip.Statement (.jobCreate job weight) := by
  intro job weight _ w h
  exact absurd h (by simp [encode])
theorem RoundTrip.jobClose : ∀ job cctr, RoundTrip.Statement (.jobClose job cctr) := by
  intro job cctr _ w h
  exact absurd h (by simp [encode])
theorem RoundTrip.jobWeight : ∀ job weight, RoundTrip.Statement (.jobWeight job weight) := by
  intro job weight _ w h
  exact absurd h (by simp [encode])
theorem RoundTrip.cellAdmit : ∀ src, RoundTrip.Statement (.cellAdmit src) := by
  intro src _ w h
  exact absurd h (by simp [encode])
theorem RoundTrip.auction : ∀ cl, RoundTrip.Statement (.auction cl) := by
  intro cl _ w h
  exact absurd h (by simp [encode])
theorem RoundTrip.headAged : ∀ cl queue, RoundTrip.Statement (.headAged cl queue) := by
  intro cl queue _ w h
  exact absurd h (by simp [encode])
theorem RoundTrip.cellCross : ∀ cl, RoundTrip.Statement (.cellCross cl) := by
  intro cl _ w h
  exact absurd h (by simp [encode])
theorem RoundTrip.egressDrain : ∀ cl port, RoundTrip.Statement (.egressDrain cl port) := by
  intro cl port _ w h
  exact absurd h (by simp [encode])
theorem RoundTrip.purge : ∀ cl ctx col, RoundTrip.Statement (.purge cl ctx col) := by
  intro cl ctx col _ w h
  exact absurd h (by simp [encode])
theorem RoundTrip.agnFlush : ∀ key line, RoundTrip.Statement (.agnFlush key line) := by
  intro key line _ w h
  exact absurd h (by simp [encode])
theorem RoundTrip.mdrnComplete : ∀ cl me ctx, RoundTrip.Statement (.mdrnComplete cl me ctx) := by
  intro cl me ctx _ w h
  exact absurd h (by simp [encode])
theorem RoundTrip.msaveComplete : ∀ cl me ctx, RoundTrip.Statement (.msaveComplete cl me ctx) := by
  intro cl me ctx _ w h
  exact absurd h (by simp [encode])
theorem RoundTrip.mloadComplete : ∀ cl me ctx, RoundTrip.Statement (.mloadComplete cl me ctx) := by
  intro cl me ctx _ w h
  exact absurd h (by simp [encode])
theorem RoundTrip.exptReserve : ∀ core frame slot, RoundTrip.Statement (.exptReserve core frame slot) := by
  intro core frame slot _ w h
  exact absurd h (by simp [encode])
theorem RoundTrip.transferComplete : ∀ cl xf op, RoundTrip.Statement (.transferComplete cl xf op) := by
  intro cl xf op _ w h
  exact absurd h (by simp [encode])
theorem RoundTrip.kennelJobComplete : ∀ q eng, RoundTrip.Statement (.kennelJobComplete q eng) := by
  intro q eng _ w h
  exact absurd h (by simp [encode])
theorem RoundTrip.collPlace : ∀ job graph coll others, RoundTrip.Statement (.collPlace job graph coll others) := by
  intro job graph coll others _ w h
  exact absurd h (by simp [encode])
theorem RoundTrip.homeRead : ∀ core frame slot, RoundTrip.Statement (.homeRead core frame slot) := by
  intro core frame slot _ w h
  exact absurd h (by simp [encode])
theorem RoundTrip.homeWrite : ∀ sid, RoundTrip.Statement (.homeWrite sid) := by
  intro sid _ w h
  exact absurd h (by simp [encode])
theorem RoundTrip.copyProbe : ∀ op copy, RoundTrip.Statement (.copyProbe op copy) := by
  intro op copy _ w h
  exact absurd h (by simp [encode])
theorem RoundTrip.copyWrite : ∀ op copy, RoundTrip.Statement (.copyWrite op copy) := by
  intro op copy _ w h
  exact absurd h (by simp [encode])
theorem RoundTrip.copyRead : ∀ op copy, RoundTrip.Statement (.copyRead op copy) := by
  intro op copy _ w h
  exact absurd h (by simp [encode])
theorem RoundTrip.copyRepair : ∀ op copy, RoundTrip.Statement (.copyRepair op copy) := by
  intro op copy _ w h
  exact absurd h (by simp [encode])
theorem RoundTrip.majAnswer : ∀ op copy, RoundTrip.Statement (.majAnswer op copy) := by
  intro op copy _ w h
  exact absurd h (by simp [encode])
theorem RoundTrip.houndVisit : ∀ q, RoundTrip.Statement (.houndVisit q) := by
  intro q _ w h
  exact absurd h (by simp [encode])
theorem RoundTrip.rebase : ∀ part, RoundTrip.Statement (.rebase part) := by
  intro part _ w h
  exact absurd h (by simp [encode])
theorem RoundTrip.rebaseWalkerDone : ∀ part, RoundTrip.Statement (.rebaseWalkerDone part) := by
  intro part _ w h
  exact absurd h (by simp [encode])
theorem RoundTrip.streamCell : ∀ key, RoundTrip.Statement (.streamCell key) := by
  intro key _ w h
  exact absurd h (by simp [encode])
theorem RoundTrip.copyComplete : ∀ cl op, RoundTrip.Statement (.copyComplete cl op) := by
  intro cl op _ w h
  exact absurd h (by simp [encode])
theorem RoundTrip.pageWalkDone : ∀ q walk, RoundTrip.Statement (.pageWalkDone q walk) := by
  intro q walk _ w h
  exact absurd h (by simp [encode])
theorem RoundTrip.fresumeRetry : ∀ job tag, RoundTrip.Statement (.fresumeRetry job tag) := by
  intro job tag _ w h
  exact absurd h (by simp [encode])
theorem RoundTrip.fresumeAbort : ∀ job tag, RoundTrip.Statement (.fresumeAbort job tag) := by
  intro job tag _ w h
  exact absurd h (by simp [encode])
theorem RoundTrip.preemptRequest : ∀ job clusters, RoundTrip.Statement (.preemptRequest job clusters) := by
  intro job clusters _ w h
  exact absurd h (by simp [encode])
theorem RoundTrip.handlerStart : ∀ sid, RoundTrip.Statement (.handlerStart sid) := by
  intro sid _ w h
  exact absurd h (by simp [encode])
theorem RoundTrip.jobRestore : ∀ job, RoundTrip.Statement (.jobRestore job) := by
  intro job _ w h
  exact absurd h (by simp [encode])
theorem RoundTrip.leaseServe : ∀ q, RoundTrip.Statement (.leaseServe q) := by
  intro q _ w h
  exact absurd h (by simp [encode])
theorem RoundTrip.leaseWakeDone : ∀ q eng, RoundTrip.Statement (.leaseWakeDone q eng) := by
  intro q eng _ w h
  exact absurd h (by simp [encode])
theorem RoundTrip.graceExpire : ∀ q eng, RoundTrip.Statement (.graceExpire q eng) := by
  intro q eng _ w h
  exact absurd h (by simp [encode])
theorem RoundTrip.leaseDrainDone : ∀ q eng, RoundTrip.Statement (.leaseDrainDone q eng) := by
  intro q eng _ w h
  exact absurd h (by simp [encode])
theorem RoundTrip.warmTimeout : ∀ q eng, RoundTrip.Statement (.warmTimeout q eng) := by
  intro q eng _ w h
  exact absurd h (by simp [encode])
theorem RoundTrip.lscaleStep : ∀ q region up, RoundTrip.Statement (.lscaleStep q region up) := by
  intro q region up _ w h
  exact absurd h (by simp [encode])
theorem RoundTrip.vfHop : ∀ q island, RoundTrip.Statement (.vfHop q island) := by
  intro q island _ w h
  exact absurd h (by simp [encode])
theorem RoundTrip.vfHopDone : ∀ q island, RoundTrip.Statement (.vfHopDone q island) := by
  intro q island _ w h
  exact absurd h (by simp [encode])
theorem RoundTrip.droop : ∀ q island, RoundTrip.Statement (.droop q island) := by
  intro q island _ w h
  exact absurd h (by simp [encode])
theorem RoundTrip.droopClear : ∀ q island, RoundTrip.Statement (.droopClear q island) := by
  intro q island _ w h
  exact absurd h (by simp [encode])
theorem RoundTrip.retentionEnter : ∀ cl, RoundTrip.Statement (.retentionEnter cl) := by
  intro cl _ w h
  exact absurd h (by simp [encode])
theorem RoundTrip.retentionExit : ∀ cl parityOk found, RoundTrip.Statement (.retentionExit cl parityOk found) := by
  intro cl parityOk found _ w h
  exact absurd h (by simp [encode])
theorem RoundTrip.tsuaxCell : ∀ port flit, RoundTrip.Statement (.tsuaxCell port flit) := by
  intro port flit _ w h
  exact absurd h (by simp [encode])
theorem RoundTrip.tsuaxWrite : ∀ port flit, RoundTrip.Statement (.tsuaxWrite port flit) := by
  intro port flit _ w h
  exact absurd h (by simp [encode])
theorem RoundTrip.tsuaxRead : ∀ port flit, RoundTrip.Statement (.tsuaxRead port flit) := by
  intro port flit _ w h
  exact absurd h (by simp [encode])
theorem RoundTrip.tsuaxRdata : ∀ port flit, RoundTrip.Statement (.tsuaxRdata port flit) := by
  intro port flit _ w h
  exact absurd h (by simp [encode])
theorem RoundTrip.tsuaxCplt : ∀ port flit, RoundTrip.Statement (.tsuaxCplt port flit) := by
  intro port flit _ w h
  exact absurd h (by simp [encode])
theorem RoundTrip.launchFlit : ∀ port flit, RoundTrip.Statement (.launchFlit port flit) := by
  intro port flit _ w h
  exact absurd h (by simp [encode])
theorem RoundTrip.mgmtLaunch : ∀ port flit, RoundTrip.Statement (.mgmtLaunch port flit) := by
  intro port flit _ w h
  exact absurd h (by simp [encode])
theorem RoundTrip.mgmtCntr : ∀ port flit, RoundTrip.Statement (.mgmtCntr port flit) := by
  intro port flit _ w h
  exact absurd h (by simp [encode])
theorem RoundTrip.mgmtCancel : ∀ port flit, RoundTrip.Statement (.mgmtCancel port flit) := by
  intro port flit _ w h
  exact absurd h (by simp [encode])
theorem RoundTrip.mgmtCfgl : ∀ port flit, RoundTrip.Statement (.mgmtCfgl port flit) := by
  intro port flit _ w h
  exact absurd h (by simp [encode])
theorem RoundTrip.mgmtCfgt : ∀ port flit, RoundTrip.Statement (.mgmtCfgt port flit) := by
  intro port flit _ w h
  exact absurd h (by simp [encode])
theorem RoundTrip.mgmtSrd : ∀ port flit, RoundTrip.Statement (.mgmtSrd port flit) := by
  intro port flit _ w h
  exact absurd h (by simp [encode])
theorem RoundTrip.mgmtSwr : ∀ port flit, RoundTrip.Statement (.mgmtSwr port flit) := by
  intro port flit _ w h
  exact absurd h (by simp [encode])
theorem RoundTrip.tsuaxCtrl : ∀ port flit, RoundTrip.Statement (.tsuaxCtrl port flit) := by
  intro port flit _ w h
  exact absurd h (by simp [encode])
theorem RoundTrip.roceRdmaWrite : ∀ r, RoundTrip.Statement (.roceRdmaWrite r) := by
  intro r _ w h
  exact absurd h (by simp [encode])
theorem RoundTrip.roceRdmaWriteImm : ∀ r, RoundTrip.Statement (.roceRdmaWriteImm r) := by
  intro r _ w h
  exact absurd h (by simp [encode])
theorem RoundTrip.roceRdmaRead : ∀ r, RoundTrip.Statement (.roceRdmaRead r) := by
  intro r _ w h
  exact absurd h (by simp [encode])
theorem RoundTrip.roceUnsupported : ∀ r, RoundTrip.Statement (.roceUnsupported r) := by
  intro r _ w h
  exact absurd h (by simp [encode])
theorem RoundTrip.roceResponse : ∀ cl xf op data err, RoundTrip.Statement (.roceResponse cl xf op data err) := by
  intro cl xf op data err _ w h
  exact absurd h (by simp [encode])
theorem RoundTrip.roceRetryTimeout : ∀ cl xf op, RoundTrip.Statement (.roceRetryTimeout cl xf op) := by
  intro cl xf op _ w h
  exact absurd h (by simp [encode])
theorem RoundTrip.pfcPause : ∀ port prio on, RoundTrip.Statement (.pfcPause port prio on) := by
  intro port prio on _ w h
  exact absurd h (by simp [encode])
theorem RoundTrip.congestionNotification : ∀ qpn, RoundTrip.Statement (.congestionNotification qpn) := by
  intro qpn _ w h
  exact absurd h (by simp [encode])
theorem RoundTrip.rankLeftFabric : ∀ job graph rank, RoundTrip.Statement (.rankLeftFabric job graph rank) := by
  intro job graph rank _ w h
  exact absurd h (by simp [encode])
theorem RoundTrip.ucieCell : ∀ die modl flit, RoundTrip.Statement (.ucieCell die modl flit) := by
  intro die modl flit _ w h
  exact absurd h (by simp [encode])
theorem RoundTrip.ucieMreq : ∀ die modl flit, RoundTrip.Statement (.ucieMreq die modl flit) := by
  intro die modl flit _ w h
  exact absurd h (by simp [encode])
theorem RoundTrip.ucieMrsp : ∀ die modl flit, RoundTrip.Statement (.ucieMrsp die modl flit) := by
  intro die modl flit _ w h
  exact absurd h (by simp [encode])
theorem RoundTrip.ucieXlat : ∀ die modl flit, RoundTrip.Statement (.ucieXlat die modl flit) := by
  intro die modl flit _ w h
  exact absurd h (by simp [encode])
theorem RoundTrip.ucieSys : ∀ die modl flit, RoundTrip.Statement (.ucieSys die modl flit) := by
  intro die modl flit _ w h
  exact absurd h (by simp [encode])
theorem RoundTrip.ucieTime : ∀ die modl flit, RoundTrip.Statement (.ucieTime die modl flit) := by
  intro die modl flit _ w h
  exact absurd h (by simp [encode])
theorem RoundTrip.ucieCtrl : ∀ die modl flit, RoundTrip.Statement (.ucieCtrl die modl flit) := by
  intro die modl flit _ w h
  exact absurd h (by simp [encode])
theorem RoundTrip.ucieRetrainDone : ∀ die modl lo hi repaired, RoundTrip.Statement (.ucieRetrainDone die modl lo hi repaired) := by
  intro die modl lo hi repaired _ w h
  exact absurd h (by simp [encode])
theorem RoundTrip.uccmdRetrain : ∀ die modl, RoundTrip.Statement (.uccmdRetrain die modl) := by
  intro die modl _ w h
  exact absurd h (by simp [encode])
theorem RoundTrip.comparatorPair : ∀ cl, RoundTrip.Statement (.comparatorPair cl) := by
  intro cl _ w h
  exact absurd h (by simp [encode])
theorem RoundTrip.twinTimeout : ∀ cl, RoundTrip.Statement (.twinTimeout cl) := by
  intro cl _ w h
  exact absurd h (by simp [encode])
theorem RoundTrip.coldRestart : ∀ cl found, RoundTrip.Statement (.coldRestart cl found) := by
  intro cl found _ w h
  exact absurd h (by simp [encode])
theorem RoundTrip.pmQuiesce : ∀ qmask, RoundTrip.Statement (.pmQuiesce qmask) := by
  intro qmask _ w h
  exact absurd h (by simp [encode])
theorem RoundTrip.pmResume : ∀ qmask, RoundTrip.Statement (.pmResume qmask) := by
  intro qmask _ w h
  exact absurd h (by simp [encode])
theorem RoundTrip.pcfgWrite : ∀ v, RoundTrip.Statement (.pcfgWrite v) := by
  intro v _ w h
  exact absurd h (by simp [encode])
theorem RoundTrip.aceWrite : ∀ entry v, RoundTrip.Statement (.aceWrite entry v) := by
  intro entry v _ w h
  exact absurd h (by simp [encode])
theorem RoundTrip.pnodeWrite : ∀ q v, RoundTrip.Statement (.pnodeWrite q v) := by
  intro q v _ w h
  exact absurd h (by simp [encode])
theorem RoundTrip.mestatWrite : ∀ cl me v, RoundTrip.Statement (.mestatWrite cl me v) := by
  intro cl me v _ w h
  exact absurd h (by simp [encode])
theorem RoundTrip.knoutWrite : ∀ q v, RoundTrip.Statement (.knoutWrite q v) := by
  intro q v _ w h
  exact absurd h (by simp [encode])
theorem RoundTrip.jpwrWrite : ∀ job v, RoundTrip.Statement (.jpwrWrite job v) := by
  intro job v _ w h
  exact absurd h (by simp [encode])
theorem RoundTrip.vfislWrite : ∀ q island v, RoundTrip.Statement (.vfislWrite q island v) := by
  intro q island v _ w h
  exact absurd h (by simp [encode])
theorem RoundTrip.registerWrite : ∀ w, RoundTrip.Statement (.registerWrite w) := by
  intro w _ w h
  exact absurd h (by simp [encode])
theorem RoundTrip.powerGood : RoundTrip.Statement .powerGood := by
  intro  _ w h
  exact absurd h (by simp [encode])
theorem RoundTrip.firmwareVerified : ∀ imgs, RoundTrip.Statement (.firmwareVerified imgs) := by
  intro imgs _ w h
  exact absurd h (by simp [encode])
theorem RoundTrip.stackCalibrated : ∀ stack, RoundTrip.Statement (.stackCalibrated stack) := by
  intro stack _ w h
  exact absurd h (by simp [encode])
theorem RoundTrip.quarterInService : ∀ q, RoundTrip.Statement (.quarterInService q) := by
  intro q _ w h
  exact absurd h (by simp [encode])
theorem RoundTrip.deviceReset : RoundTrip.Statement .deviceReset := by
  intro  _ w h
  exact absurd h (by simp [encode])
theorem RoundTrip.loaderImageOffer : ∀ img, RoundTrip.Statement (.loaderImageOffer img) := by
  intro img _ w h
  exact absurd h (by simp [encode])
theorem RoundTrip.attReport : RoundTrip.Statement .attReport := by
  intro  _ w h
  exact absurd h (by simp [encode])
theorem RoundTrip.attExtend : RoundTrip.Statement .attExtend := by
  intro  _ w h
  exact absurd h (by simp [encode])
theorem RoundTrip.attCert : RoundTrip.Statement .attCert := by
  intro  _ w h
  exact absurd h (by simp [encode])

end Sys2Proof.Laws
end

