-- ==== Sys2Proof/Tests/Slice0.lean ====
section
/-! SUPPORT. Tests/Slice0.lean: small tests of the model. Expected words and values are those of the spec's encodings, tables and
worked examples; every statement with hypotheses has here a state and operands that meet them. -/

namespace Sys2Proof.Tests

open Sys2Proof.Machine

set_option Elab.async false

/-! ## States for the tests -/

/-- Frame 0 of core 0 holds a block of three slots of strand 0; slot 0 is in focus, with these tokens. -/
def one (w : IWord) (l r p : Option Token) : State :=
  (State.reset.setStrand 0 { live := true, pts := 9 }).setFrame 0 0
    { used := true, addr := 0x1000#64, hdr := 0x02000200#32
      slots := [{ word := w, left := l, right := r, pred := p }, { word := 0x10000000#32 }, { word := 0x0A000000#32 }] }

/-- Both operands hold values. -/
def two (l r : Word) : State := one 0x10000000#32 (some (.val l)) (some (.val r)) none

def at1 (s : State) (f : Frame → Frame) : State := s.modFrame 0 0 f

theorem ready_two (l r : Word) (u : Uses) : (two l r).ready .always u l r := ⟨rfl, trivial, fun _ => rfl, fun _ => rfl⟩

/-! ## Witnesses: the computing words -/

theorem test_witness_IntegerForms : (two 7 2).ready .always .lr 7 2 ∧ (2 : Word) ≠ 0 ∧ (two 7 2).ready .always .l 7 2 :=
  ⟨ready_two _ _ _, by decide, ready_two _ _ _⟩

theorem test_witness_DivisionLimits : (two 7 0).ready .always .lr 7 0 ∧
    (two 0x8000000000000000#64 0xFFFFFFFFFFFFFFFF#64).ready .always .lr 0x8000000000000000#64 0xFFFFFFFFFFFFFFFF#64 :=
  ⟨ready_two _ _ _, ready_two _ _ _⟩

theorem test_witness_Tests : (one 0x30000000#32 (some (.val 5)) (some (.val 64)) (some (.val 3))).ready .onTrue .lr 5 64 :=
  ⟨rfl, ⟨3, by decide, rfl⟩, fun _ => rfl, fun _ => rfl⟩

theorem test_witness_ImmediateForms : (one 0x40000000#32 (some (.val 5)) none (some (.val 0))).ready .onFalse .l 5 0 ∧
    (63#13).toNat < 64 ∧ (4095#13).toNat < 4096 :=
  ⟨⟨rfl, rfl, fun _ => rfl, nofun⟩, by decide, by decide⟩

theorem test_witness_ScalarForms : (two 1 2).ready .always .lr 1 2 ∧ (two 1 2).ready .always .l 1 2 ∧
    (0x1_00000001#64).toNat % 2 ^ 32 = (1#64).toNat % 2 ^ 32 ∧ fdec (precFmt .d) (precBits .d 0x7FF8000000000000#64) = .nan :=
  ⟨ready_two _ _ _, ready_two _ _ _, by decide, rfl⟩

theorem test_witness_Plumbing :
    (two 1 2).ready .always .none 1 2 ∧ (two 1 2).ready .always .l 1 2 ∧
    (let s := one 0x0A000000#32 (some .null) none none
     s.curSlot.fired = false ∧ Pr.always.agrees s.curSlot.pred ∧ s.curSlot.left = some .null ∧ s.curSlot.right = none) ∧
    (let s := one 0x0A000000#32 none (some (.val 4)) none
     s.curSlot.fired = false ∧ Pr.always.agrees s.curSlot.pred ∧ s.curSlot.left = none ∧ s.curSlot.right = some (.val 4)) ∧
    (two 1 2).readReg (two 1 2).fCore (two 1 2).fFrame (63#13).toNat = some 0 ∧ (two 1 2).cur.wrote (63#13).toNat = false :=
  ⟨ready_two _ _ _, ready_two _ _ _, ⟨rfl, trivial, rfl, rfl⟩, ⟨rfl, trivial, rfl, rfl⟩, rfl, rfl⟩

theorem test_witness_CommittedRegister : (two 1 2).olderFrames 0 0 = [] ∧ ((two 1 2).strand ((two 1 2).frame 0 0).sid).atoms = [] :=
  ⟨rfl, rfl⟩

/-- An exit has nothing in its way; its target at the least and the greatest address it may have; a handler's return. -/
theorem test_witness_Exits :
    let s := two 0x1FFFFFFFFFFFFFC#64 2
    (s.cur.exit = none ∧ s.cur.putLink = false ∧ s.curStrand.fetched = none ∧
      (∀ g ∈ s.framesOf s.curSid, (s.frame s.fCore g).seq ≤ s.cur.seq)) ∧
    (s.ready .always .none 0x1FFFFFFFFFFFFFC#64 2 ∧ ((0#64).toNat : Int) = (s.cur.addr.toNat : Int) + 4 * (BitVec.ofInt 19 (-0x400)).toInt ∧
      (0#64).toNat < 2 ^ 57 ∧ (0#64).toNat % 4 = 0) ∧
    (s.ready .always .l 0x1FFFFFFFFFFFFFC#64 2 ∧ (0x1FFFFFFFFFFFFFC#64).toNat < 2 ^ 57 ∧ (0x1FFFFFFFFFFFFFC#64).toNat % 4 = 0) ∧
    (s.readReg s.fCore s.fFrame 63 = some 0) ∧
    (let h := s.modStrand 0 (fun x => { x with hmode := true })
     h.ready .always .none 0x1FFFFFFFFFFFFFC#64 2 ∧ h.curStrand.hmode = true) ∧
    ((two 0x200000000000000#64 0).ready .always .l 0x200000000000000#64 0 ∧ 2 ^ 57 ≤ (0x200000000000000#64).toNat ∧
      (two 2 0).ready .always .l 2 0 ∧ (2#64).toNat % 4 ≠ 0) :=
  ⟨⟨rfl, rfl, rfl, by decide⟩, ⟨ready_two _ _ _, by decide, by decide, by decide⟩, ⟨ready_two _ _ _, by decide, by decide⟩, rfl,
   ⟨⟨rfl, trivial, fun _ => rfl, nofun⟩, rfl⟩, ready_two _ _ _, by decide, ready_two _ _ _, by decide⟩

theorem test_witness_NullOnward :
    (one 0x10000000#32 (some .null) (some (.val 1)) none).nulled .always .lr ∧
    (one 0x10000000#32 (some (.val 1)) (some (.val 1)) (some .null)).nulled .onTrue .lr ∧
    (one 0x25000000#32 (some .null) none none).nulled .always .l ∧
    (one 0x10400000#32 none none (some (.val 0))).curSlot.pred = some (.val 0) ∧
    (∃ v, v ≠ 0 ∧ (one 0x10800000#32 none none (some (.val 1))).curSlot.pred = some (.val v)) :=
  ⟨⟨rfl, .inl trivial, fun _ => nofun, fun _ => nofun, .inr (.inl ⟨nofun, rfl⟩)⟩,
   ⟨rfl, .inr ⟨nofun, rfl⟩, fun _ => nofun, fun _ => nofun, .inl ⟨nofun, rfl⟩⟩,
   ⟨rfl, .inl trivial, fun _ => nofun, nofun, .inr (.inl ⟨nofun, rfl⟩)⟩, rfl, 1, by decide, rfl⟩

theorem test_witness_ComputeFrame : ∃ t, exec (.add .always (.left 1) .none) (two 7 2) = .next t ∧
    Instr.add .always (.left 1) .none ∈ wordsLR .always .s .rne (.left 1) .none :=
  ⟨_, rfl, by simp [wordsLR]⟩

theorem test_witness_TokenDelivery :
    let s := two 7 2
    (1#7).toNat ≠ s.fSlot ∧ (2#7).toNat < s.cur.slots.length ∧ s.fSlot < s.cur.slots.length ∧ (s.cur.slot 1).left = none ∧
    isSelWord (s.cur.slot 1).word = false ∧ (s.cur.slot 1).right = none ∧ (s.cur.slot 1).pred = none ∧
    (let t := at1 s (fun f => f.modSlot 1 (fun x => { x with left := some .null }))
     (t.cur.slot 1).left ≠ none ∧ t.cur.trap = none) := by decide

/-! ## A small device: job 0 in cluster 0, with a few of everything -/

/-- An AGN record of n elements, `step` bytes apart. -/
def agnWords (role port tile trole pers esz tid base n step : Nat) : List Word :=
  [BitVec.ofNat 64 (role * 2 ^ 62 + port * 2 ^ 59 + tile * 2 ^ 55 + trole * 2 ^ 53 + pers * 2 ^ 52 + esz * 2 ^ 47 + tid * 2 ^ 35),
   BitVec.ofNat 64 base, 0x1000000000#64, 0x1000000000#64, 0x1000000000#64, BitVec.ofNat 64 (n * 2 ^ 36 + step)]

/-- AGNs of context tag 0: 0 the A buffer (64-bit), 1 a cached window, 2 and 3 a pipe's ends, 4 the A buffer (32-bit), 5 structure
memory, 6 a persistent read window, 7 the A buffer (uint32), 8 the C buffer, 9 the A buffer for writing. -/
def testAgns : Tab Agn :=
  [(0, { words := agnWords 3 1 0 0 0 4 1 0 64 8 }), (1, { words := agnWords 3 4 0 0 0 4 1 0x40000 512 8 }),
   (2, { words := agnWords 1 3 2 1 0 4 1 0 16 8 }), (3, { words := agnWords 2 3 2 1 0 4 1 0 16 8 }),
   (4, { words := agnWords 3 1 0 0 0 3 2 0 128 4 }), (5, { words := agnWords 3 3 3 2 0 4 1 0 64 8 }),
   (6, { words := agnWords 1 4 0 0 1 4 1 0x40000 64 8 }), (7, { words := agnWords 3 1 0 0 0 3 3 0 128 4 }),
   (8, { words := agnWords 3 2 0 0 0 3 2 0 128 4 }), (9, { words := agnWords 2 1 0 0 0 4 1 0 64 8 })]

/-- A leaf that allows everything, for the page at 0x40000. -/
def testLeaf : Word := 0xCC00000000040000#64

/-- Tensors 1 to 6 of job 0: int64, FP32, uint32, FP64, uint64, BF16. -/
def testTensors : Tab (BitVec 256) :=
  [(1, 4 <<< 250), (2, 0x11 <<< 250), (3, 7 <<< 250), (4, 0x10 <<< 250), (5, 8 <<< 250), (6, 0x13 <<< 250)]

def dev (l r : Word) : State :=
  { two l r with
    mem := { roles := [(2, 2), (3, 4)] }
    acc := { agns := testAgns, tlb := [(0, [{ asid := 0, base := 4, bits := 16, leaf := testLeaf }])]
             pipes := [(0x100000, { words := 16, q := [{ id := 0, v := 5, stamp := 20, vis := true }], next := 1 })] }
    work := { jobs := [(0, { state := 1, ctxs := [(0, 1)], tensors := testTensors })]
              ctxJob := [(0, 1)], launches := [(0, { used := true, range := some { size := 100 } })]
              graphs := [(0, { used := true, bars := [(0, 1)] })], queues := [(0, { cfg := 0x8000#64 })] }
    eng := { bars := [(0, { used := true, nmem := 1 })] }
    ken := { slots := [(0, { used := true })] } }

theorem ready_dev (l r : Word) (u : Uses) : (dev l r).ready .always u l r := ⟨rfl, trivial, fun _ => rfl, fun _ => rfl⟩

/-! ## Witnesses: words with effects beyond their block -/

/-- 62 loads in flight; the last element of a buffer; a translation that is cached; an AGN that is not bound. -/
theorem test_witness_LoadFires :
    let s := (dev 63 0).modStrand 0 (fun x => { x with ldc := 62 })
    let v := dev 511 0
    s.ready .always .l 63 0 ∧ s.curStrand.ldc < 63 ∧
    (∃ a, s.reach s.curCluster s.fCore (agnRec (s.agn (s.strandAgn s.curSid 0)).words) .load 63 8 = .home a) ∧
    (∃ va pl, v.reach v.curCluster v.fCore (agnRec (v.agn (v.strandAgn v.curSid 1)).words) .load 511 8 = .virt va ∧
      v.xlateCached (clusterQuarter v.curCluster) v.curJob va false false = some (.ok pl)) ∧
    (∃ c x, s.reach s.curCluster s.fCore (agnRec (s.agn (s.strandAgn s.curSid 31)).words) .load 63 8 = .fault c x) :=
  ⟨⟨rfl, trivial, fun _ => rfl, nofun⟩, by decide, ⟨_, rfl⟩, ⟨_, _, rfl, rfl⟩, ⟨_, _, rfl⟩⟩

theorem test_witness_StoreFires :
    let s := dev 0 9
    (∀ g ∈ s.framesOf s.curSid, (s.frame s.fCore g).loads = [] ∧ (s.frame s.fCore g).reads = []) ∧ s.ready .always .lr 0 9 ∧
    (∃ a, s.reach s.curCluster s.fCore (agnRec (s.agn (s.strandAgn s.curSid 0)).words) .store 0 8 = .home a ∧ s.isStruct a = false) ∧
    (∃ va pl, s.reach s.curCluster s.fCore (agnRec (s.agn (s.strandAgn s.curSid 1)).words) .store 0 8 = .virt va ∧
      s.xlateCached (clusterQuarter s.curCluster) s.curJob va true false = some (.ok pl)) ∧
    (∃ a, s.reach s.curCluster s.fCore (agnRec (s.agn (s.strandAgn s.curSid 5)).words) .store 0 8 = .home a ∧ s.isStruct a = true ∧
      (s.structMark a).structWritten a = true) ∧ s.ready .always .l 0 9 :=
  ⟨by decide, ready_dev _ _ _, ⟨_, rfl, by decide +kernel⟩, ⟨_, _, rfl, rfl⟩, ⟨_, rfl, by decide +kernel, by decide +kernel⟩, ready_dev _ _ _⟩

/-- A write-port cell (COP 0) to egress 16, from the A buffer. -/
theorem test_witness_EnqueueFires :
    let s := dev 0xFE00000000000000#64 0x0000000000000000#64
    let rec0 := agnRec (s.agn (s.strandAgn s.curSid 0)).words
    let c := cellOfDesc 0xFE00000000000000#64 0 rec0.tid
    s.ready .always .lr 0xFE00000000000000#64 0 ∧ deviceOnly c = false ∧ s.cellOk s.curCluster s.curJob c = true ∧
    s.agnCheck s.curCluster (agnRec (s.agn (s.strandAgn s.curSid 1)).words) .cells = 0 ∧
    (agnRec (s.agn (s.strandAgn s.curSid 1)).words).port = 4 ∧
    s.messageTooLong s.curCluster s.curJob c = false ∧ c.mc = false ∧
    (∃ c1 g ps s1, s.fillCell s.curCluster s.fCore s.curJob (agnRec (s.agn (s.strandAgn s.curSid 1)).words)
      (s.storesBefore s.fCore s.fFrame 0) s.curStrand.pts (ctagOff 0) c false = .ok (c1, g, ps, s1)) :=
  ⟨ready_dev _ _ _, by decide, by decide, by decide, by decide, by decide, by decide, ⟨_, _, _, _, rfl⟩⟩

theorem test_witness_StreamFires :
    let s := dev 0xFE00000000000000#64 0
    let r1 := agnRec (s.agn (s.strandAgn s.curSid 1)).words
    let r6 := agnRec (s.agn (s.strandAgn s.curSid 6)).words
    s.ready .always .lr 0xFE00000000000000#64 0 ∧ s.agnCheck s.curCluster r1 .cells = 0 ∧ r1.port ≠ 2 ∧ r1.pers = false ∧ r6.pers = true ∧ s.agnCheck s.curCluster r6 .cells = 0 ∧
    s.agnCheck s.curCluster r1 .parm = 0 ∧ parmOk r1 0x200000000FFFFFFF#64 = true ∧ parmOk r1 0x2000000010000000#64 = false :=
  ⟨ready_dev _ _ _, by decide, by decide, by decide, by decide, by decide, by decide, by decide, by decide⟩

theorem test_witness_PipesAndRanges :
    let s := dev 8 0
    let r2 := agnRec (s.agn (s.strandAgn s.curSid 2)).words
    let r3 := agnRec (s.agn (s.strandAgn s.curSid 3)).words
    s.ready .always .none 8 0 ∧ ((s.launch s.curStrand.who.launch).range).isSome = true ∧
    ((two 8 0).launch (two 8 0).curStrand.who.launch).range = none ∧ s.agnCheck s.curCluster r2 .pipeGet = 0 ∧
    s.pipeTurn 2 = true ∧ (∃ w, (s.pipe (fifoKey s.curCluster r2)).peek 1 = some [w]) ∧
    s.agnCheck s.curCluster r3 .pipePut = 0 ∧ s.cur.putsOn 3 ≤ s.fifoWords s.curCluster r3 :=
  ⟨ready_dev _ _ _, rfl, rfl, by decide, by decide, ⟨_, rfl⟩, by decide, by decide⟩

theorem test_witness_CopyFires : (dev 8 0).ready .always .lr 8 0 ∧ (dev 8 0).copiesBefore = false := ⟨ready_dev _ _ _, by decide⟩

theorem test_witness_WaitsFire :
    let s := dev 0 0
    let e := s.modStrand 0 (fun x => { x with async := 0x8000000000000000#64 })
    wbits s.curStrand.async 56 8 = 0 ∧ wbits e.curStrand.async 56 8 ≠ 0 ∧ s.ready .always .none 0 0 ∧ s.ready .always .l 0 0 ∧
    s.ready .always .lr 0 0 ∧ (∃ a, s.reach s.curCluster s.fCore (agnRec (s.agn (s.strandAgn s.curSid 0)).words) .load 0 8 = .home a) ∧
    s.barSlot s.curSid 0 = some 0 ∧ e.ready .always .lr 0 0 ∧ e.barSlot e.curSid 0 = some 0 :=
  ⟨by decide, by decide, ready_dev _ _ _, ready_dev _ _ _, ready_dev _ _ _, ⟨_, rfl⟩, rfl, ⟨rfl, trivial, fun _ => rfl, fun _ => rfl⟩, rfl⟩

theorem test_witness_BarrierAndTimelineWords :
    let s := dev 0xFFFFF 0
    s.ready .always .none 0xFFFFF 0 ∧ (14#5) ≠ 31#5 ∧ s.barSlot s.curSid 0 = some 0 ∧ s.ready .always .l 0xFFFFF 0 ∧
    (s.barrier 0).cph % 2 ≠ wbits 0xFFFFF#64 0 1 ∧ ((dev 0 0).barrier 0).cph % 2 = wbits 0#64 0 1 ∧ (0xFFFFF#64) ≠ 0 ∧
    (0xFFFFF#64).toNat < 2 ^ 20 ∧ 2 ^ 20 ≤ (0x100000#64).toNat ∧ s.barSlot s.curSid 31 = none :=
  ⟨ready_dev _ _ _, by decide, rfl, ready_dev _ _ _, by decide, by decide, by decide, by decide, by decide, rfl⟩

theorem test_witness_AtomicsFire :
    let s := dev 63 0
    s.ready .always .lr 63 0 ∧ s.atomCheck 0 63 false = (0, 0) ∧ s.atomCheck 4 63 true = (0, 0) ∧
    (63#64).toNat < 2 ^ 48 ∧ s.agnCheck s.curCluster (agnRec (s.agn (s.strandAgn s.curSid 4)).words) .load = 0 ∧
    (agnRec (s.agn (s.strandAgn s.curSid 4)).words).role = 3 ∧ (agnRec (s.agn (s.strandAgn s.curSid 4)).words).esz = 3 ∧
    s.rescCheck 4 88 = (0, 0) :=
  ⟨ready_dev _ _ _, by decide, by decide, by decide, by decide, by decide, by decide, by decide⟩

theorem test_witness_LeaseWords : (dev 7 0).leaseSlot (dev 7 0).curSid 0 = some 0 ∧ (dev 7 0).ready .always .none 7 0 ∧
    ((dev 7 0).lease 0).kind = execLeash.kindNo .fftx ∧ (dev 7 0).leashBefore 0 = false ∧ (dev 7 0).ready .always .l 7 0 ∧ (7#64).toNat ≤ 7 ∧
    (dev 8 0).ready .always .l 8 0 ∧ 7 < (8#64).toNat ∧ (dev 8 0).leaseSlot (dev 8 0).curSid 0 = some 0 :=
  ⟨rfl, ready_dev _ _ _, rfl, by decide, ready_dev _ _ _, by decide, ready_dev _ _ _, by decide, rfl⟩

theorem test_witness_LaunchWords :
    let s := dev 0 0
    s.ready .always .lr 0 0 ∧ s.packetCheck 0 40 = (0, 0) ∧ s.ready .always .l 0 0 ∧ s.queueOfJob 0 s.curJob = true ∧
    (s.queue 0).full = false ∧ s.pmHolds 0 = false ∧ (s.job s.curJob).state = 1 ∧
    (dev 1023 0).queueOfJob 1023 (dev 1023 0).curJob = false ∧ (1023#64).toNat < 1024 ∧ (1#64) ≠ 0 ∧
    (0x7FF#64).toNat < 2 ^ levelWidth .strand :=
  ⟨ready_dev _ _ _, by decide, ready_dev _ _ _, by decide, by decide, by decide, rfl, by decide, by decide, by decide, by decide⟩

/-- SRD of MKCFG, SRD of a number without a register, SWR of TVEC, TLBI of one page, CTXS of a held context, CTXR by its
handler's last block, and the last PWRQ service. -/
theorem test_witness_SystemWords :
    let s := dev 0 0
    let h := (dev 1 0).onCores (fun c => { c with holds := [(1, {})] })
    let r := ((at1 s (fun f => { f with hdr := 0x02000300#32 })).modStrand 0 (fun x => { x with serves := some (0, true) })).onCores
      (fun c => { c with saved := [(0, {})] })
    (s.ready .always .l 0 0 ∧ s.swrPending = false ∧ (∃ v, s.regRead (s.strandIssuer s.curSid) (0x100#13).toNat 0 = some v)) ∧
    s.regRead (s.strandIssuer s.curSid) (0x16#13).toNat 0 = none ∧
    (s.ready .always .lr 0 0 ∧ ∃ t, s.regWrite (s.strandIssuer s.curSid) (0x10#13).toNat 0 0 = .done t) ∧
    tlbiOk (1#13).toNat (Tgt.none != .none) 0 0 s.curJob = true ∧
    (h.ready .always .l 1 0 ∧ (1#64).toNat < 2048 ∧ thas h.core.holds (1#64).toNat = true ∧ sidCore (1#64).toNat = h.fCore ∧
      (tget h.core.holds (1#64).toNat).who.job = h.curJob) ∧
    (r.ready .always .l 0 0 ∧ (0#64).toNat = r.curSid ∧ r.curStrand.serves = some ((0#64).toNat, true) ∧
      hdrLast r.cur.hdr = true ∧ thas r.core.saved (0#64).toNat = true ∧ (tget r.core.saved (0#64).toNat).who.job = r.curJob) ∧
    (s.ready .always .none 0 0 ∧ ∃ v, s.pwrqWord s.curSid (3#13).toNat = some v) :=
  ⟨⟨ready_dev _ _ _, by decide, _, rfl⟩, by decide, ⟨ready_dev _ _ _, _, rfl⟩, by decide,
   ⟨⟨rfl, trivial, fun _ => rfl, nofun⟩, by decide, by decide, by decide, rfl⟩,
   ⟨⟨rfl, trivial, fun _ => rfl, nofun⟩, rfl, rfl, by decide, by decide, rfl⟩, ready_dev _ _ _, _, rfl⟩

theorem test_witness_SideEffectFrame : (one 0x71000000#32 (some .null) none none).curSlot.fired = false ∧
    (one 0x71000000#32 (some .null) none none).curSlot.left = some .null := ⟨rfl, rfl⟩

/-! ## Witnesses: vector engines -/

/-- A cell of the given operation, position and tensor, with two elements. -/
def opCell (cop pos tid cnt age : Nat) : MCell :=
  { cell := { dcl := 63, dport := 4, cop := BitVec.ofNat 10 cop, pos := BitVec.ofNat 2 pos, run := 1, tid := BitVec.ofNat 12 tid
              cnt := BitVec.ofNat 8 cnt, pay := 0x50000000000000003 }, age := age }

/-- Vector engine 0 of cluster 0 holds an operand of the operation for each position (position and tensor); route 0 of its context
leads to write port 0 with tensor `rt`, through AGN 1. -/
def vecDev (cop : Nat) (ops : List (Nat × Nat)) (rt cnt : Nat) : State :=
  { dev 0 0 with eng := {
      ports := [(4, { stalls := (ops.zipIdx 1).map (fun o => { cell := opCell cop o.1.1 o.1.2 cnt o.2, n := 2, age := o.2 }) })]
      routes := [(64 * 16 * 4, BitVec.ofNat 64 (63 * 2 ^ 58 + 16 * 2 ^ 53 + rt * 2 ^ 28 + 1 * 2 ^ 23 + 1))] } }

/-- The firing at the head of the engine, its state, route and format. -/
def vecHead (s : State) : Firing := ((s.port 0 4).firings.filter (fun g => s.gate g.lead.who.job (waiterCell g.lead) != .wait)).headD
  { cop := 0, ops := [], t0 := 0, t1 := 0 }

def vecAfter (s : State) : State := (s.splitFiring 0 4 (vecHead s)).getD s

def vecRt (s : State) : Route := s.route 0 4 (vecHead s).lead.cell.ctx.toNat ((vecHead s).lead.cell.aux.toNat / 4096)

def vecFmt (s : State) : EFmt :=
  (((vecAfter s).vecFrom 0 4 (vecHead s)).cellFmt (vecHead s).lead.who.job (vecRt s).tid).getD (.int 64 true)

def vecOps (s : State) : List Operand := (vecHead s).ops.map (((vecAfter s).vecFrom 0 4 (vecHead s)).operand (vecHead s))

/-- What every operation asks for, met in a state. -/
def vecMet (s : State) (cop : Nat) : Prop :=
  s.vecRoute (vecAfter s) 0 4 (vecHead s) (vecRt s) (vecFmt s) { mode := .rne, sat := false, seed := 0 } ∧
  s.vecNext (vecAfter s) 0 4 cop (vecHead s)

/-- What an elementwise operation asks for besides, whatever its lanes hold: `ok` is its own condition. -/
def laneMet (s : State) (h : EFmt) (ok : EFmt → Nat → List Operand → Bool) : Prop :=
  ((vecOps s).take 2).all (fun o => o.fmt == h) = true ∧ (vecOps s).isEmpty = false ∧
  ok (vecFmt s) (vecHead s).lead.cell.cnt.toNat (vecOps s) = true ∧
  ∀ lane, ((vecAfter s).vecFrom 0 4 (vecHead s)).cellOk 0 (vecHead s).lead.who.job (vecCell (vecHead s) (vecRt s)
    { lanes := laneResults (vecHead s) (vecOps s) lane, fmt := vecFmt s, run := (vecHead s).t1 - (vecHead s).t0 }) = true ∧
    (laneResults (vecHead s) (vecOps s) lane).length = 2 ∧ 2 * (vecFmt s).bits ≤ 1024

def okTwo (h g : EFmt) (mod : Nat) (os : List Operand) : Bool := mod == 0 && decide (os.length ≤ 2) && g == h

/-- A header check rests on these fields of the cell alone. -/
theorem cellOk_congr (s : State) (cl job : Nat) (c d : Cell) (h1 : c.dcl = d.dcl) (h2 : c.dport = d.dport) (h3 : c.mc = d.mc)
    (h4 : c.cls = d.cls) (h5 : c.cop = d.cop) (h6 : c.side = d.side) (h7 : c.run = d.run) (h8 : c.tid = d.tid) :
    s.cellOk cl job c = s.cellOk cl job d := by
  cases c; cases d; simp only at h1 h2 h3 h4 h5 h6 h7 h8; subst h1 h2 h3 h4 h5 h6 h7 h8; rfl

theorem routeCell_header (s : State) (cl job : Nat) (rt : Route) (m : Cell) (i r b : Nat) (la : Bool) (ls ls' : Lanes) (k : Bool) :
    s.cellOk cl job (routeCell rt m i r la b ls k) = s.cellOk cl job (routeCell rt m i r la b ls' k) := by
  refine cellOk_congr _ _ _ _ _ ?_ ?_ ?_ ?_ ?_ ?_ ?_ ?_ <;> simp only [routeCell, Cell.seal]

theorem laneResults_isNone (f : Firing) (os : List Operand) (lane lane' : Nat → Nat → Nat → Nat → Nat) :
    (laneResults f os lane).any Option.isNone = (laneResults f os lane').any Option.isNone := by
  simp only [laneResults, List.any_map]
  congr 1
  funext j
  simp only [Function.comp]
  split <;> rfl

theorem laneMet_of (s : State) (h : EFmt) (ok : EFmt → Nat → List Operand → Bool)
    (h1 : ((vecOps s).take 2).all (fun o => o.fmt == h) = true ∧ (vecOps s).isEmpty = false ∧
      ok (vecFmt s) (vecHead s).lead.cell.cnt.toNat (vecOps s) = true)
    (h2 : ((vecAfter s).vecFrom 0 4 (vecHead s)).cellOk 0 (vecHead s).lead.who.job (vecCell (vecHead s) (vecRt s)
      { lanes := laneResults (vecHead s) (vecOps s) (fun _ _ _ _ => 0), fmt := vecFmt s, run := (vecHead s).t1 - (vecHead s).t0 }) = true ∧
      (vecHead s).t1 + 1 - (vecHead s).t0 = 2 ∧ 2 * (vecFmt s).bits ≤ 1024) : laneMet s h ok := by
  refine ⟨h1.1, h1.2.1, h1.2.2, fun lane => ⟨?_, by simp [laneResults, h2.2.1], h2.2.2⟩⟩
  rw [← h2.1]
  simp only [vecCell, laneResults_isNone _ _ lane (fun _ _ _ _ => 0)]
  exact routeCell_header _ _ _ _ _ _ _ _ _ _ _ _

/-- What an elementwise operation asks for, met. -/
def elemMet (cop : Nat) (ops : List (Nat × Nat)) (rt cnt : Nat) (h : EFmt) (ok : EFmt → Nat → List Operand → Bool) : Prop :=
  vecMet (vecDev cop ops rt cnt) cop ∧ laneMet (vecDev cop ops rt cnt) h ok

theorem test_witness_VectorElementwise :
    elemMet 0x100 [(0, 1), (1, 1)] 1 0 (.int 64 true) (okTwo (.int 64 true)) ∧
    elemMet 0x103 [(0, 2), (1, 2)] 2 0 (.flt fp32) (okTwo (.flt fp32)) ∧
    elemMet 0x106 [(0, 4), (1, 4), (2, 4)] 4 0 (.flt fp64) (fun g mod os => mod == 0 && (os.take 3).all (fun o => o.fmt == .flt fp64) && g == .flt fp64) ∧
    elemMet 0x10B [(0, 1)] 1 0 (.int 64 true) (okTwo (.int 64 true)) ∧
    elemMet 0x10D [(0, 1), (1, 1)] 3 3 (.int 64 true) (fun g mod os => decide (mod < 4) && decide (os.length ≤ 2) && g.isInt) ∧
    elemMet 0x10E [(0, 2), (1, 2)] 3 3 (.flt fp32) (fun g mod os => decide (mod < 4) && decide (os.length ≤ 2) && g.isInt) ∧
    elemMet 0x10F [(0, 2), (1, 2), (2, 3)] 2 0 (.flt fp32) (fun g mod os => mod == 0 && g == .flt fp32 &&
      decide ((os.drop 2).length = 1) && (os.drop 2).all (fun p => p.fmt.isInt && p.fmt.bits == 32)) ∧
    elemMet 0x110 [(0, 2)] 4 0 (.flt fp32) (fun _ mod os => mod == 0 && decide (os.length ≤ 2)) ∧
    elemMet 0x116 [(0, 5), (1, 5)] 5 0 (.int 64 false) (okTwo (.int 64 false)) := by
  refine ⟨?_, ?_, ?_, ?_, ?_, ?_, ?_, ?_, ?_⟩ <;>
  exact ⟨⟨⟨rfl, rfl, rfl, by decide, rfl, rfl, rfl⟩, rfl, ⟨_, rfl⟩, rfl, rfl, rfl⟩, laneMet_of _ _ _ (by decide +kernel) (by decide +kernel)⟩

/-- What a crossing operation asks for, met: its own condition, and a result that fits. -/
def acrossMet (cop : Nat) (ops : List (Nat × Nat)) (rt cnt : Nat) (ok : EFmt → Nat → List Operand → Bool)
    (r : EFmt → Nat → List Operand → VecOut) : Prop :=
  vecMet (vecDev cop ops rt cnt) cop ∧
  (let s := vecDev cop ops rt cnt
   ok (vecFmt s) (vecHead s).lead.cell.cnt.toNat (vecOps s) = true ∧
   ((vecAfter s).vecFrom 0 4 (vecHead s)).vecFits 0 (vecHead s) (vecRt s) (r (vecFmt s) (vecHead s).lead.cell.cnt.toNat (vecOps s)))

def rneZero : Rounding := { mode := .rne, sat := false, seed := 0 }

def opA (os : List Operand) : Operand := os.headD { fmt := .int 64 true, lanes := [] }

def opB (os : List Operand) : Operand := (os[1]?).getD { fmt := .int 64 true, lanes := [] }

/-- The fold of a reduction of ints (MAX, code 8 is the last one), the segments, a scan, a permutation and the broadcast of the
second lane. -/
theorem test_witness_VectorAcross :
    acrossMet 0x117 [(0, 1)] 1 8 (fun g mod os => decide (mod < 9) && (opA os).fmt == g && redFits mod g)
      (fun g mod os => { lanes := [some (reduceTree mod g rneZero 0 ((opA os).lanes.map (fun v => v.getD (redIdentity mod g))))], fmt := g, run := 0 }) ∧
    acrossMet 0x118 [(0, 2), (2, 3)] 2 1 (fun g mod os => decide (mod < 9) && (opA os).fmt == g && redFits mod g &&
        (opB os).fmt.isInt && (opB os).fmt.bits == g.bits)
      (fun g mod os => { lanes := segReduce mod g rneZero 0 (opA os).lanes (opB os).lanes, fmt := g, run := 1, masked := true }) ∧
    acrossMet 0x119 [(0, 1)] 1 136 (fun g mod os => decide (mod < 9 ∨ 128 ≤ mod ∧ mod < 137) && (opA os).fmt == g && redFits (mod % 16) g)
      (fun g mod os => { lanes := scanLanes (mod % 16) g rneZero true 0 (redIdentity (mod % 16) g) 0 (opA os).lanes, fmt := g, run := 1 }) ∧
    acrossMet 0x11D [(0, 2), (2, 3)] 2 0 (fun g mod os => mod == 0 && (opA os).fmt == g && (opB os).fmt.isInt)
      (fun g _ os => { lanes := permLanes (opA os).lanes (opB os).lanes, fmt := g, run := 1 }) ∧
    acrossMet 0x11E [(0, 1)] 1 1 (fun g mod os => decide (mod < 2) && (opA os).fmt == g && ((opA os).lanes.getD mod none).isSome)
      (fun g mod os => { lanes := List.replicate 2 ((opA os).lanes.getD mod none), fmt := g, run := 1 }) := by
  refine ⟨?_, ?_, ?_, ?_, ?_⟩ <;>
  exact ⟨⟨⟨rfl, rfl, rfl, by decide, rfl, rfl, rfl⟩, rfl, ⟨_, rfl⟩, rfl, rfl, rfl⟩, by decide +kernel, by decide +kernel, by decide +kernel⟩

/-- An answer that is a value, and what is asked of it. -/
def okAnd {α : Type} (x : Except Nat α) (p : α → Bool) : Bool :=
  match x with
  | .ok y => p y
  | .error _ => false

theorem of_okAnd {α : Type} (x : Except Nat α) (p : α → Bool) (h : okAnd x p = true) : ∃ y, x = .ok y ∧ p y = true := by
  cases x with
  | ok y => exact ⟨y, rfl, h⟩
  | error _ => cases h

/-- The map of the indices of the memory operations, through the window AGN 1. -/
def headMap (s : State) (w : Bool) : LaneMap :=
  let st := (vecAfter s).vecFrom 0 4 (vecHead s)
  let key := agnKey 0 (vecHead s).lead.cell.ctx.toNat (vecRt s).dagn
  st.laneMap 0 (st.agn key).core (vecHead s).lead.who.job (agnRec (st.agn key).words) w ((List.range 2).map (fun j =>
    if (vecOps s).all (fun x => (x.lanes.getD j none).isSome) then (opA (vecOps s)).lanes.getD j none else none))

/-- What the memory operations ask for, met. -/
def mapMet (s : State) (cop : Nat) (w : Bool) : Prop :=
  vecMet s cop ∧
  (let st := (vecAfter s).vecFrom 0 4 (vecHead s)
   let r := agnRec (st.agn (agnKey 0 (vecHead s).lead.cell.ctx.toNat (vecRt s).dagn)).words
   ((opA (vecOps s)).fmt.isInt && st.vecAgnCheck 0 r (!w) w false == 0 && (vecHead s).lead.cell.cnt.toNat == 0 &&
     st.cellFmt (vecHead s).lead.who.job r.tid == some (if w then (opB (vecOps s)).fmt else vecFmt s) &&
     (headMap s w).fault == none && !(headMap s w).bound && !(headMap s w).odd) = true)

theorem test_witness_VectorGather : let s := vecDev 0x11A [(0, 1)] 1 0
    mapMet s 0x11A false ∧
    (let st := (vecAfter s).vecFrom 0 4 (vecHead s)
     ∃ y, st.gatherLanes 0 (vecHead s).lead.who.job (agnRec (st.agn (agnKey 0 (vecHead s).lead.cell.ctx.toNat (vecRt s).dagn)).words)
       (s.vecStart 0 4 (vecHead s)) (headMap s false).lanes = .ok y ∧
       (y.2.2.cellOk 0 (vecHead s).lead.who.job (vecCell (vecHead s) (vecRt s) { lanes := y.1, fmt := vecFmt s, run := 1 }) &&
         decide (y.1.length * (vecFmt s).bits ≤ 1024)) = true) :=
  ⟨⟨⟨⟨rfl, rfl, rfl, by decide, rfl, rfl, rfl⟩, rfl, ⟨_, rfl⟩, rfl, rfl, rfl⟩, by decide +kernel⟩, of_okAnd _ _ (by decide +kernel)⟩

/-- What a scatter writes: each lane its own, or the leading lanes theirs. -/
def scatMet (s : State) (ws : List (List (Place × Nat) × Nat × Nat)) : Prop :=
  let st := (vecAfter s).vecFrom 0 4 (vecHead s)
  let key := agnKey 0 (vecHead s).lead.cell.ctx.toNat (vecRt s).dagn
  ∃ y, st.scatterLanes 0 (vecHead s).lead.who.job (agnRec (st.agn key).words) (s.vecStart 0 4 (vecHead s)) (st.flushAgent key) none ws = y ∧
    (y.2.1 == 0 && y.2.2.cellOk 0 (vecHead s).lead.who.job (vecCell (vecHead s) (vecRt s)
      { lanes := [some 0, some 0], fmt := .int 32 false, run := 0 })) = true

theorem test_witness_VectorScatter :
    (let s := vecDev 0x11B [(0, 1), (1, 1)] 1 0
     mapMet s 0x11B true ∧ scatMet s ((List.range (headMap s true).lanes.length).filterMap (fun j =>
       ((headMap s true).lanes.getD j none).map (fun ps => (ps, j, laneOr 0 (opB (vecOps s)).lanes j))))) ∧
    (let s := vecDev 0x11C [(0, 1), (1, 1)] 3 0
     mapMet s 0x11C true ∧ vecFmt s = .int 32 false ∧ redFits 0 (opB (vecOps s)).fmt = true ∧
     scatMet s ((combineLanes 0 (opB (vecOps s)).fmt rneZero 0 (opA (vecOps s)).lanes (opB (vecOps s)).lanes (headMap s true).lanes).leads.map
       (fun l => (l.2.1, l.1, l.2.2.2)))) :=
  ⟨⟨⟨⟨⟨rfl, rfl, rfl, by decide, rfl, rfl, rfl⟩, rfl, ⟨_, rfl⟩, rfl, rfl, rfl⟩, by decide +kernel⟩, _, rfl, by decide +kernel⟩,
   ⟨⟨⟨rfl, rfl, rfl, by decide, rfl, rfl, rfl⟩, rfl, ⟨_, rfl⟩, rfl, rfl, rfl⟩, by decide +kernel⟩, rfl, by decide +kernel, _, rfl,
     by decide +kernel⟩

theorem posts_none (m : LaneMap) (h : m.bound = false ∧ m.odd = false) : m.posts = [] := by simp [LaneMap.posts, h.1, h.2]

/-! ## Witnesses: the other engines -/

/-- A cell waits at an egress port of cluster 0, whose route 0 leads to a write port with tensor `rt`. -/
def engDev (e : Nat) (c : Cell) (rt : Nat) : State :=
  { dev 0 0 with eng := {
      ports := [(e, { inbox := [{ cell := c, age := 1 }] })]
      routes := [(e * 1024, BitVec.ofNat 64 (63 * 2 ^ 58 + 16 * 2 ^ 53 + rt * 2 ^ 28 + 1))]
      bars := [(0, { used := true, nmem := 2, pend := 5, members := [{ id := 0 }, { id := 1 }] })] } }

def theCell (s : State) (e : Nat) : MCell := ((s.port 0 e).inbox).headD {}

theorem test_witness_SpecialFunctions :
    let s := engDev 8 { dcl := 63, dport := 8, cop := 0x187, tid := 2, run := 31, last := true } 2
    let m := theCell s 8
    let rt := s.route 0 8 m.cell.ctx.toNat (m.cell.aux.toNat / 4096)
    let lanes : Lanes := (List.range 32).map (fun j =>
      if m.cell.present j then some (fnGelu (rneZero.round fp32 (m.cell.itag.toNat + j) 0) (fdec fp32 (m.cell.elem 32 j))) else none)
    s.resultWaits 0 8 = false ∧ s.sfCellBad m = 0 ∧ m.cell.cnt = 0 ∧ s.sfRouteBad m.who.job rt = 0 ∧
    s.cellFmt m.who.job m.cell.tid.toNat = some (.flt fp32) ∧ s.cellFmt m.who.job rt.tid = some (.flt fp32) ∧ rndOf rt.rnd = some .rne ∧
    (∃ s1, s.takeInbox 0 8 0x187 = some (m, s1)) ∧ lanes.length * 32 ≤ 1024 ∧
    s.cellOk 0 m.who.job (routeCell rt m.cell m.cell.itag.toNat m.cell.run.toNat m.cell.last 32 lanes (lanes.any Option.isNone)) = true := by
  refine ⟨?_, ?_, ?_, ?_, ?_, ?_, ?_, ⟨_, rfl⟩, ?_, ?_⟩ <;> decide +kernel

/-- A cell at an egress port is the next one its engine takes. -/
def takes (s : State) (e cop : Nat) (m : MCell) : Bool := (s.takeInbox 0 e cop).any (fun x => x.1 == m)

/-- The state once that cell has been taken. -/
def taken (s : State) (e cop : Nat) : State := ((s.takeInbox 0 e cop).map (·.2)).getD s

/-- A row of softmax with its first cell, and the cell that comes next (LAST, or not, or out of its order). -/
def rowDev (aux : Nat) (last : Bool) : State :=
  let s := engDev 8 { dcl := 63, dport := 8, cop := 0x188, tid := 2, aux := BitVec.ofNat 16 aux, last := last, pay := 0x40000000 } 2
  s.setRows 0 [{ cop := 0x188, cells := [{ cell := { dcl := 63, dport := 8, cop := 0x188, tid := 2, pay := 0x3F800000 } }] }]

def theRow (s : State) : SfRow := (s.sfRows 0).headD {}

/-- What joining a row asks for; then what its completion asks for. -/
def joinMet (s : State) : Bool :=
  let m := theCell s 8
  takes s 8 0x188 m && m.cell.pos == 0 && m.cell.run == 0 && (s.sfRows 0).find? (fun y => rowOf y m.cell) == some (theRow s) &&
  !(theRow s).dead && s.cellFmt m.who.job m.cell.tid.toNat == some (.flt fp32) && sfFmt (.flt fp32) &&
  (theRow s).cells.all (fun y => s.cellFmt y.who.job y.cell.tid.toNat == some (.flt fp32)) && decide ((theRow s).cells.length < 8192 / 32) &&
  decide (((theRow s).cells.map (fun y => cellCount y.cell 32)).foldl (· + ·) (cellCount m.cell 32) ≤ 8192) && !s.resultWaits 0 8

def finishMet (s : State) (r : SfRow) : Bool :=
  let m := r.cells.headD {}
  let rt := s.route 0 8 r.ctx (m.cell.aux.toNat / 4096)
  s.cellFmt m.who.job m.cell.tid.toNat == some (.flt fp32) && s.cellFmt m.who.job rt.tid == some (.flt fp32) &&
  s.sfRouteBad m.who.job rt == 0 && decide (m.cell.cnt.toNat < 2) && s.cellOk 0 m.who.job (routeCell rt m.cell 0 0 false 32 [] false)

theorem test_witness_RowOperations :
    (joinMet (rowDev 1 false) ∧ (theCell (rowDev 1 false) 8).cell.aux.toNat % 4096 = (theRow (rowDev 1 false)).cells.length) ∧
    (joinMet (rowDev 1 true) ∧ (theCell (rowDev 1 true) 8).cell.last = true) ∧
    (joinMet (rowDev 2 true) ∧ (theCell (rowDev 2 true) 8).cell.aux.toNat % 4096 ≠ (theRow (rowDev 2 true)).cells.length) ∧
    finishMet (rowDev 1 true) { cop := 0x188, cells := (theRow (rowDev 1 true)).cells ++ [theCell (rowDev 1 true) 8] } := by decide +kernel

/-- A job of the intersection unit, and a cell of its left side; jobs that go on, that are done, and that fill a cell. -/
def ixDev (j : IxJob) : State :=
  let s := engDev 9 { dcl := 63, dport := 9, cop := 0x200, tid := 3, aux := 1, pos := 0 } 3
  s.setIxJobs 0 [j]

def ixWaiting : IxJob := { cop := 0x200, fmt := 32, lq := [1, 2], rq := [1], itag := some 0, cells := [] }

def ixOver : IxJob := { cop := 0x200, fmt := 32, lq := [1, 2], rq := [1, 2], lend := true, rend := true, itag := some 0 }

def ixFull : IxJob := { cop := 0x200, fmt := 32, lq := List.range 32, rq := List.range 32, itag := some 0 }

def ixMet (j : IxJob) (e : IxStop) : Bool :=
  let s := (ixDev j).modPort 0 9 (fun p => { p with inbox := [] })
  (s.takeInbox 0 9 0x200).isNone && !s.resultWaits 0 9 &&
  ((s.ixJobs 0).filter (fun y => y.cop == 0x200)).find? (s.ixMoves 0) == some j && j.pulls.itag.isSome && s.ixCheck 0 j.pulls == 0 &&
  (IxJob.run j.pulls.size j.pulls).1 == e &&
  (e == .wait || (s.ixSend 0 (IxJob.run j.pulls.size j.pulls).2 (e == .over)).isSome)

theorem test_witness_IntersectionUnit :
    (let s := ixDev { cop := 0x200, fmt := 32, lseq := 1 }
     let j := ((s.ixJobs 0).headD {})
     takes s 9 0x200 (theCell s 9) ∧ (theCell s 9).cell.pos.toNat ≤ 1 ∧ s.cellFmt 0 (theCell s 9).cell.tid.toNat = some (.int j.fmt false) ∧
     ((taken s 9 0x200).ixJobs 0).find? (fun y => ixMatches y (theCell s 9).cell) = some j ∧ cellSeq (theCell s 9).cell = j.lseq ∧ j.lq = []) ∧
    ixMet ixWaiting .wait = true ∧ ixMet ixOver .over = true ∧ ixMet ixFull .full = true ∧
    ([1, 2, 9].Pairwise (· < ·) ∧ [2].Pairwise (· < ·) ∧ [1, 2, 9].length + [2].length < 1024 / ixOver.fmt) := by decide +kernel

/-- A scalar-form cell (operation, AGN, element, operand, flags of its last word) at the combining store. -/
def combCell (cop agn el v flags : Nat) : Cell :=
  { dcl := 63, dport := 10, cop := BitVec.ofNat 10 cop, pos := 2, tid := 3
    pay := BitVec.ofNat 1024 (el + v * 2 ^ 64 + agn * 2 ^ 192 + flags * 2 ^ 256) }

def combDev (c : Cell) (routeWord : Nat) : State :=
  let s := engDev 10 c 3
  (s.modPort 0 10 (fun p => { p with inbox := p.inbox.map (fun m => { m with report := .strandOp true }) })).onEng (fun e =>
    { e with routes := [(10 * 1024, BitVec.ofNat 64 routeWord)] })

/-- What a scalar form asks for, met through an AGN of context tag 0. -/
def combMet (cop agn el flags : Nat) (f : EFmt) : Bool :=
  let s := combDev (combCell cop agn el 7 flags) 0
  let m := theCell s 10
  let st := ((taken s 10 cop).timeStart (engCtx 0 10 0)).2
  let ag := st.agn (agnKey 0 m.cell.ctx.toNat ((m.cell.word 3).toNat % 32))
  let r := agnRec ag.words
  takes s 10 cop m && (s.port 0 10).stalls == [] && m.cell.run == 0 && m.cell.pos == 2 && s.tagJob 0 m.cell.ctx.toNat == some 0 &&
  (match s.gate m.who.job (waiterCell m) with | .go => true | _ => false) && scalarOk m && bitOf (m.cell.word 4).toNat 63 == isReturning m.cell.cop.toNat &&
  !st.undefinedAgain m && st.combAgnCheck 0 r == 0 && st.cellFmt 0 r.tid == some f && r.esz == 3 && r.ebits == 32 &&
  combFits m.cell.cop.toNat f (tblk (st.tensor 0 r.tid) != 0) &&
  (let lm := st.laneMap 0 ag.core 0 r true [some (m.cell.word 0).toNat]
   lm.lanes.length == 1 && !lm.bound && !lm.odd && lm.fault.isNone &&
   okAnd (st.modPieces 0 (s.startStamp (engCtx 0 10 0) m.stamp) m.agent (((lm.lanes.getD 0 none)).getD []) (fun x => x + 7)) (fun _ => true))

theorem test_witness_CombiningScalar :
    combMet 0x280 7 127 0 (.int 32 false) = true ∧ combMet 0x281 4 127 0 (.flt fp32) = true ∧ combMet 0x282 4 0 0 (.flt fp32) = true ∧
    combMet 0x286 7 127 0 (.int 32 false) = true ∧ combMet 0x287 4 0 (2 ^ 63) (.flt fp32) = true ∧
    combMet 0x288 7 127 (2 ^ 63) (.int 32 false) = true ∧ combMet 0x289 4 127 (2 ^ 63) (.flt fp32) = true := by decide +kernel

/-- A vector-form cell with CNT operands to merge. -/
def vecForm (cop cnt : Nat) : Cell :=
  { dcl := 63, dport := 10, cop := BitVec.ofNat 10 cop, tid := 2, cnt := BitVec.ofNat 8 cnt }

/-- A route of the combining store, that forwards or not. -/
def combRoute (fwd dagn : Nat) : Nat := 63 * 2 ^ 58 + 16 * 2 ^ 53 + 2 * 2 ^ 28 + dagn * 2 ^ 23 + fwd * 2 ^ 18 + 1

def vecFormMet (s : State) (cop : Nat) : Bool :=
  let m := theCell s 10
  takes s 10 cop m && m.cell.run == 0 && m.cell.pos == 0 && s.tagJob 0 m.cell.ctx.toNat == some 0 && (s.port 0 10).stalls == [] &&
  m.cell.side == 0 && (match s.gate m.who.job (waiterCell m) with | .go => true | _ => false)

theorem test_witness_CombiningVector :
    (let s := combDev (vecForm 0x281 1) (combRoute 1 0)
     vecFormMet s 0x281 = true ∧ (s.route 0 10 0 0).v = true ∧ (s.route 0 10 0 0).fwd = true ∧
     s.cellOk 0 0 (forwardCell (s.route 0 10 0 0) (theCell s 10).cell) = true) ∧
    (let s := combDev (vecForm 0x286 2) (combRoute 1 0)
     vecFormMet s 0x286 = true ∧ 2 ≤ (theCell s 10).cell.cnt.toNat ∧ (s.takeStall 0 10 (theCell s 10).who 0 1).isSome = true) ∧
    (let s := engDev 10 (vecForm 0x28A 0) 2
     let t := s.onEng (fun e => { e with routes := [(10 * 1024, BitVec.ofNat 64 (combRoute 0 4))] })
     let m := theCell t 10
     let st := ((taken t 10 0x28A).timeStart (engCtx 0 10 0)).2
     let r := agnRec (st.agn 4).words
     let lm := st.laneMap 0 (st.agn 4).core 0 r true ((List.range 34).map some)
     vecFormMet t 0x28A = true ∧ (t.route 0 10 0 0).fwd = false ∧ (t.route 0 10 0 0).dagn = 4 ∧ st.undefinedAgain m = false ∧
     isAtomCell m = false ∧ st.combAgnCheck 0 r = 0 ∧ st.cellFmt 0 r.tid = some (.flt fp32) ∧ lm.bound = false ∧ lm.odd = false ∧
     lm.fault.isNone = true ∧ okAnd (st.modPieces 0 (t.startStamp (engCtx 0 10 0) m.stamp) 0 ((lm.lanes.filterMap id).flatten)
       (fun x => tripleNumber (rescMerge (tripleWords 34 x) (cellTriple m.cell)))) (fun _ => true) = true) := by decide +kernel

/-! ## Witnesses: barriers, write ports, matrix engines -/

/-- Barrier object 0 of cluster 0: member 0 is awaited, member 1 has arrived; 5 events are pending. The cell of an event of a member. -/
def barDev (b : Barrier) (cop id cnt pay : Nat) : State :=
  let s := engDev 10 { dcl := 63, dport := 10, cls := true, cop := BitVec.ofNat 10 cop, itag := BitVec.ofNat 24 id
                       cnt := BitVec.ofNat 8 cnt, pay := BitVec.ofNat 1024 pay } 1
  s.modBarrier 0 (fun _ => b)

def bar0 : Barrier := { used := true, nmem := 2, pend := 5, members := [{ id := 0 }, { id := 1, arr := true }] }

/-- What every barrier event asks for, met. -/
def barMet (s : State) (cop : Nat) : Bool :=
  let m := theCell s 10
  takeBarrier cop [] (s.port 0 10).inbox == some (m, []) && (s.barrier 0).used && decide (m.cell.aux.toNat < 256) && m.cell.pos == 0 &&
  decide (m.cell.itag.toNat < 2048) && m.cell.run == 0

theorem test_witness_BarrierCells :
    (barMet (barDev { bar0 with brk := true } 0x293 0 0 0) 0x293 ∧ (barDev { bar0 with brk := true } 0x293 0 0 0 |>.barrier 0).brk = true) ∧
    (barMet (barDev bar0 0x294 0 0 7) 0x294 ∧ bar0.brk = false ∧ bar0.held = []) ∧
    (barMet (barDev bar0 0x291 0 255 0) 0x291 ∧ (255 : Nat) ≠ 0 ∧ -(2 ^ 20 - 1 : Int) ≤ bar0.pend - 255) ∧
    (barMet (barDev bar0 0x290 0 0 0) 0x290 ∧ bar0.entry (theCell (barDev bar0 0x290 0 0 0) 10) = some (0, bar0) ∧
      (bar0.members.getD 0 {}).arr = false) ∧
    (barMet (barDev { bar0 with drop := true } 0x293 0 0 0) 0x293 ∧ ({ bar0 with drop := true } : Barrier).entry
      (theCell (barDev bar0 0x293 0 0 0) 10) = some (0, { bar0 with drop := true })) ∧
    (barMet (barDev bar0 0x293 0 0 0) 0x293 ∧ bar0.entry (theCell (barDev bar0 0x293 0 0 0) 10) = some (0, bar0) ∧ bar0.drop = false) ∧
    (barMet (barDev bar0 0x292 1 0 0) 0x292 ∧ bar0.entry (theCell (barDev bar0 0x292 1 0 0) 10) = some (1, bar0) ∧
      (bar0.members.getD 1 {}).arr = true ∧ ((barDev bar0 0x292 1 0 0).takeStall 0 10 {} 0 0).isSome = true) := by decide +kernel

/-- A cell with two elements at write port `p` of cluster 0, for its AGN `pos`; a matrix engine sent it. -/
def wportDev (p cop pos side : Nat) : State :=
  let s := engDev (16 + p) { dcl := 63, dport := BitVec.ofNat 5 (16 + p), cop := BitVec.ofNat 10 cop, pos := BitVec.ofNat 2 pos, tid := 1
                             side := BitVec.ofNat 6 side, car := 3, pay := 0x50000000000000003 } 1
  s.modPort 0 (16 + p) (fun q => { q with inbox := q.inbox.map (fun m => { m with origin := 16 }) })

def portKey (s : State) (p : Nat) : Nat := agnKey 0 0 (2 * p + (theCell s (16 + p)).cell.pos.toNat)

def portRec (s : State) (p : Nat) : AgnRec := agnRec (s.agn (portKey s p)).words

/-- The check of a port's cell passes. -/
def portMet (s : State) (p cop : Nat) : Bool :=
  let m := theCell s (16 + p)
  takes s (16 + p) cop m && (match s.gate 0 (waiterCell m) with | .go => true | _ => false) &&
  s.portCheck 0 (portKey s p) (portRec s p) m == 0 && (s.agn (portKey s p)).wait.isNone &&
  !((portRec s p).port == 3 && s.tileRole 0 (portRec s p).tile == 2)

/-- What a port's cell writes is what is asked. -/
def writesOk (s : State) (p : Nat) (f : List PortWrite × Nat → Bool) : Bool :=
  match s.portWrites 0 0 0 (portRec s p) (theCell s (16 + p)).cell with
  | .ok ws => f ws
  | .error _ => false

def writesMiss (s : State) (p : Nat) : Bool :=
  match s.portWrites 0 0 0 (portRec s p) (theCell s (16 + p)).cell with
  | .ok _ => false
  | .error e => e.1 == causeMiss || e.1 == causePerm

/-- Into memory behind a window; elsewhere at once, by adding too; a page that is missing; a masked write without a mask. -/
theorem test_witness_WriteCells :
    (let s := wportDev 0 0 1 0
     portMet s 0 0 = true ∧ (portRec s 0).isWindow = true ∧ writesOk s 0 (fun _ => true) = true) ∧
    (let s := wportDev 0 1 0 63
     portMet s 0 1 = true ∧ (portRec s 0).isWindow = false ∧
     writesOk s 0 (fun ws => ws.2 == 0 && ((taken s 16 1).performWrites 0 0 0 ws.1).2.1 == 0) = true) ∧
    (let s := wportDev 4 2 0 0
     portMet s 4 2 = true ∧ (portRec s 4).isWindow = false ∧
     writesOk s 4 (fun ws => ws.2 == 0 && ((taken s 20 2).accumulate 0 0 0 false (wordGroups [] ws.1)).2.1 == 0) = true) ∧
    (let s := (wportDev 0 0 1 0).onAcc (fun a => { a with tlb := [] })
     portMet s 0 0 = true ∧ writesMiss s 0 = true) ∧
    (let s := wportDev 0 1 0 0
     takes s 16 1 (theCell s 16) = true ∧ s.portCheck 0 (portKey s 0) (portRec s 0) (theCell s 16) ≠ 0) := by decide +kernel

/-! ## Witnesses: the matrix engines -/

/-- Context 0 of matrix engine 0 holds these cells; its latch is FP32, its configuration `cfg0` binds context tag 0. -/
def matDev (cfg0 : Nat) (o : Option OpenOp) (ms : List MCell) : State :=
  let s := engDev 0 {} 1
  s.modMat 0 (fun x => { x with lfmt := 0x11, cfg0 := BitVec.ofNat 64 (cfg0 * 2 + 1), opn := o, queue := ms })

def matCell (cop pos tid aux cnt : Nat) (last : Bool) (age : Nat) : MCell :=
  { cell := { dcl := 63, cop := BitVec.ofNat 10 cop, pos := BitVec.ofNat 2 pos, tid := BitVec.ofNat 12 tid, aux := BitVec.ofNat 16 aux
              cnt := BitVec.ofNat 8 cnt, last := last, side := if pos = 2 then 63 else 0, car := 3, pay := if pos = 2 then 0x100000000#1024 else 0x40000000#1024 }
    age := age }

def matFirst (s : State) : MCell := ((s.matCtx 0).queue).headD {}

/-- The context has its turn, with this cell. -/
def matNext (s : State) (cop : Nat) : Bool := s.matPick 0 0 cop == some 0 && (s.matCtx 0).nextCell == some (matFirst s)

def matSt (s : State) : State := s.matStart 0 0 0 (matFirst s)

/-- What a row asks of its context. -/
def rowMet (x : MatCtx) (f : EFmt) (q kk : Nat) (as : Except Nat (List FV)) (chk : Bool) : Bool :=
  (match x.opn with
   | some o => !o.dead && o.chk == chk
   | none => false) &&
  x.suits f false && (matClass f == some 64) == x.fp64 && decide (q < x.rows) &&
  (match ({ x with fp64 := matClass f == some 64 }).operands false kk 0 as with
   | .ok _ => true
   | .error _ => false)

theorem test_witness_MatrixCells :
    (let s := matDev 0 none [matCell 0x080 0 2 255 0 false 1]
     let x := (matSt s).matCtx 0
     matNext s 0x080 = true ∧ tfmt (s.tensor 0 2) = 0x11 ∧ s.matFmt 0 2 = some (.flt fp32, false) ∧ (matClass (.flt fp32)).isSome = true ∧
     ({ x with lfmt := 0x11, lscl := false, latch := [(255, 1)] } : MatCtx).suits (.flt fp32) false = true ∧ x.opn.isSome = true) ∧
    (let s := matDev 0 none [matCell 0x081 0 2 127 32 true 1]
     let c := (matFirst s).cell
     matNext s 0x081 = true ∧ rowK c.cnt.toNat 32 = some 32 ∧ rowMet ((matSt s).matCtx 0) (.flt fp32) 127 32
       (blockVals (.flt fp32) false c.hdr 32 (cellCodes c (.flt fp32))) false = true) ∧
    (let s := matDev 0 (some { cop := 0x081, chk := true }) [matCell 0x081 0 2 0 1 true 1]
     let c := (matFirst s).cell
     matNext s 0x081 = true ∧ rowMet ((matSt s).matCtx 0) (.flt fp32) 0 1 (blockVals (.flt fp32) false c.hdr 1 (cellCodes c (.flt fp32))) true = true) := by
  decide +kernel

/-- The entries of a sparse pair of FP32 values. -/
def csrEntries (c p : Cell) : List (Nat × FV) :=
  (List.range (min (1024 / 32) (1024 / 32))).filterMap (fun j =>
    if c.present j ∧ p.present j then some (p.elem 32 j, (EFmt.flt fp32).exact (c.elem 32 j)) else none)

/-- Two values at the indices 0 and 1; a block of 32 values at block 0. -/
theorem test_witness_MatrixPairs :
    (let i := matCell 0x083 2 3 0 4 false 2
     let s := matDev 0 none [matCell 0x083 0 2 0 4 true 1, i]
     let es := csrEntries (matFirst s).cell i.cell
     matNext s 0x083 = true ∧ (s.matCtx 0).queue.find? (fun q => q.age != 1 && q.cell.pos == 2 && pairsWith q.cell (matFirst s).cell) = some i ∧
     s.matFmt 0 3 = some (.int 32 false, false) ∧ rowK 4 32 = some 4 ∧ es.map (·.1) = [0, 1] ∧
     rowMet (((matSt s).matTake 0 i).matCtx 0) (.flt fp32) 0 4 (.ok (denseRow 4 es)) false = true) ∧
    (let i : MCell := { matCell 0x084 2 3 0 32 false 2 with cell := { (matCell 0x084 2 3 0 32 false 2).cell with pay := 0 } }
     let s := matDev 0 none [matCell 0x084 0 2 0 32 true 1, i]
     matNext s 0x084 = true ∧ (s.matCtx 0).queue.find? (fun q => q.age != 1 && q.cell.pos == 2 && pairsWith q.cell (matFirst s).cell) = some i ∧
     i.cell.elem 32 0 * 32 + 32 ≤ 1024 / 32 ∧ rowMet (((matSt s).matTake 0 i).matCtx 0) (.flt fp32) 0 32 (.ok []) false = true) := by
  decide +kernel

/-- A gather of no index from the A buffer, the zeroing, a drain in FP32 to a write port, a check, a save and a restore through AGN 0. -/
theorem test_witness_MatrixControl :
    (let s := matDev 0 none [{ matCell 0x082 2 3 0 1 true 1 with cell := { (matCell 0x082 2 3 0 1 true 1).cell with car := 0 } }]
     let m := matFirst s
     let s2 := (s.matOpen 0 0 0 m).modOpen 0 (fun o => { o with stamp := max o.stamp m.stamp })
     matNext s 0x082 = true ∧ (match s.gate 0 (waiterCell m) with | .go => true | _ => false) = true ∧
     s.cellFmt 0 m.cell.tid.toNat = some (.int 32 false) ∧ indexFmt (.int 32 false) = true ∧
     (List.range 32).filter (fun j => m.cell.present j) = [] ∧ (s2.matCtx 0).opn.isSome = true) ∧
    matNext (matDev 0 none [matCell 0x085 0 0 0 0 false 1]) 0x085 = true ∧
    (let s := matDev (31 * 2 ^ 57 + 16 * 2 ^ 52 + 2 * 2 ^ 27) none [matCell 0x086 0 0 0 1 false 1]
     let x := (matSt s).matCtx 0
     matNext s 0x086 = true ∧ (matFirst s).cell.cnt.toNat < 2 ∧ bitOf x.cfg0.toNat 0 = true ∧
     s.matFmt 0 (wbits x.cfg0 28 12) = some (.flt fp32, false) ∧ rndOf (wbits x.cfg0 20 3) = some .rne ∧
     drainCells x.fp64 (.flt fp32) = some 8 ∧ x.accUndef = false ∧ x.opn.isSome = true ∧
     s.cellOk 0 0 (drainCell x (matFirst s).cell 0x11 (.flt fp32) false .rne 0 1024 8) = true) ∧
    (let s := matDev 0 none [matCell 0x087 0 2 0 32 false 1]
     matNext s 0x087 = true ∧ (((matSt s).matCtx 0).checkRow (s.matFmt 0 2) (matFirst s).cell).1 = 0) ∧
    (let s := (matDev 0 none []).modPort 0 0 (fun p => { p with inbox := [{ matCell 0x088 0 3 0 0 false 1 with origin := 3 }] })
     takes s 0 0x088 (theCell s 0) = true ∧ s.matBound 0 0 0 = some 0 ∧ s.imageAgn 0 (theCell s 0) = some 7 ∧ (s.matCtx 0).accUndef = false ∧
     (s.matEng 0).quar = false ∧ (s.matCtx 0).saving = none ∧ (s.matCtx 0).loading = none) ∧
    (let s := (matDev 0 none []).modPort 0 0 (fun p => { p with inbox := [{ matCell 0x089 0 3 0 0 false 1 with origin := 3 }] })
     takes s 0 0x089 (theCell s 0) = true ∧ s.imageAgn 0 (theCell s 0) = some 7 ∧ (agnRec (s.agn (agnKey 0 0 7)).words).role = 3 ∧
     (s.matCtx 0).opn = none) := by
  decide +kernel

/-! ## Witnesses: transfers, kennels, collectives, tokens -/

theorem test_witness_TransferCells :
    (let s := engDev 11 { dcl := 63, dport := 11, cop := 0x302, pay := BitVec.ofNat 1024 (47 * 2 ^ 48 * 2 ^ 64) } 1
     takes s 11 0x302 (theCell s 11) = true ∧ s.xferOk 0 (theCell s 11) = true) ∧
    (let s := (engDev 12 { dcl := 63, dport := 12, cop := 0x306, pay := BitVec.ofNat 1024 (5 * 2 ^ 40 + 2 ^ 31 * 2 ^ 64) } 1).onLnk (fun l => { l with
       qps := [(5, { valid := true })] })
     takes s 12 0x306 (theCell s 12) = true ∧ s.xferOk 0 (theCell s 12) = true) ∧
    (let s := engDev 12 { dcl := 63, dport := 12, cop := 0x300, cnt := 1 } 1
     takes s 12 0x300 (theCell s 12) = true ∧ s.xferOk 0 (theCell s 12) = false) := by decide +kernel

/-- A kennel's job (an FFT of one length-2 transform, FP32) under lease slot 0, whose generation is 7; a query to the page at 0x40000. -/
def kenDev (gen aux : Nat) : State :=
  let s := engDev 13 { dcl := 63, dport := 13, cop := 0x380, aux := BitVec.ofNat 16 aux,
                       pay := BitVec.ofNat 1024 (2 ^ 32 + 0x11 * 2 ^ 8 + 1) } 1
  s.onKen (fun k => { k with slots := [(0, { used := true, state := 3, gen := gen, lgen := gen })] })

theorem test_witness_KennelCells :
    (let s := kenDev 7 7
     let m := theCell s 13
     let x := s.lease (slotKey 0 0 0)
     takes s 13 0x380 m = true ∧ m.cell.run = 0 ∧ m.cell.pos = 0 ∧ tget s.ken.ended 0 = [] ∧ x.holds (m.cell.aux.toNat % 4096) = true ∧
     kKind (cellPacket m) = x.kind ∧ kjobPacketOk (cellPacket m) = true ∧ (s.kEngine 0 (x.kind * 4 + x.eng)).jobs.length < 16) ∧
    (let s := kenDev 7 8
     let m := theCell s 13
     takes s 13 0x380 m = true ∧ (s.lease (slotKey 0 0 0)).holds (m.cell.aux.toNat % 4096) = false ∧
     (match (taken s 13 0x380).kDoneWord { cell := m } 0x62 0 0 with | .over _ _ => true | .fault _ _ => false) = true) ∧
    (let s := engDev 13 { dcl := 63, dport := 13, cop := 0x381, aux := 0x7007, pay := 0x40008 } 1
     let m := theCell s 13
     takes s 13 0x381 m = true ∧ m.cell.cnt = 0 ∧ xbits m.cell 0 0 57 % 8 = 0 ∧
     (match s.spanVa 0 0 true 8 (xbits m.cell 0 0 57) 8 with
      | .ok ps => okAnd (s.writePieces 0 0 0 ps (s.kqryWord 0 m)) (fun _ => true)
      | .error _ => false) = true) := by decide +kernel

/-- A collective's record of two ranks, that adds. -/
def collWord (kind fan rank : Nat) : Word := BitVec.ofNat 64 (kind * 2 ^ 62 + fan * 2 ^ 58 + 1 * 2 ^ 52 + 1 * 2 ^ 42 + rank * 2 ^ 36)

/-- Graph 0 with collective 0 of this record (kind, fan, rank), which holds these cells. -/
def collGraph (kind fan rank : Nat) (held : List MCell) : Graph :=
  { used := true, bound := true, img := { nodes := [9, 1] },
    colls := [(0, { record := collWord kind fan rank, placed := true, held := held, waits := held })] }

/-- A cell of it; node 1 holds rank 1. -/
def collDev (kind fan rank : Nat) (held : List MCell) (m : MCell) : State :=
  ((engDev 14 {} 1).modPort 0 14 (fun p => { p with inbox := [m] })).onWork (fun w => { w with graphs := [(0, collGraph kind fan rank held)] })

def cCell (cop itag cnt snode : Nat) : MCell :=
  { cell := { dcl := 63, dport := 14, cop := BitVec.ofNat 10 cop, itag := BitVec.ofNat 24 itag, cnt := BitVec.ofNat 8 cnt, tid := 2 }, snode := snode }

def theColl (s : State) : Coll := (s.graph 0 0).colls.headD (0, {}) |>.2

def collMet (s : State) (cop : Nat) : Bool :=
  takes s 14 cop (theCell s 14) && (taken s 14 cop).collOf (theCell s 14) == some (0, theColl s) && !(theColl s).aborted &&
  (theCell s 14).cell.pos == 0

def redMet (s : State) : Bool :=
  let m := theCell s 14
  let w := (theColl s).record
  collMet s 0x392 && collReduces w && decide (s.cellRank m w < collRanks w) && s.collFits 0 w m.cell && !collRing w &&
  m.cell.itag.toNat == s.cellRank m w

theorem test_witness_CollectiveCells :
    (let s := collDev 0 0 0 [] (cCell 0x393 0 0 0)
     collMet s 0x393 = true ∧ (theCell s 14).cell.side = 0 ∧ collKind (theColl s).record = 0 ∧
     s.cellRank (theCell s 14) (theColl s).record = collRoot (theColl s).record) ∧
    (let s := collDev 1 1 1 [] (cCell 0x392 1 0 0)
     redMet s = true ∧ (theCell s 14).snode = 0 ∧ collLead (theColl s).record 1 ≠ collRank (theColl s).record) ∧
    (let s := collDev 1 1 0 [] (cCell 0x392 0 0 0)
     redMet s = true ∧ collLead (theColl s).record 0 = collRank (theColl s).record ∧ 0 + 1 < collFan (theColl s).record) ∧
    (let s := collDev 1 1 0 [cCell 0x392 0 0 0] (cCell 0x392 1 0 1)
     redMet s = true ∧ s.cellRank (theCell s 14) (theColl s).record = 1 ∧ collLead (theColl s).record 1 = collRank (theColl s).record ∧
     collFan (theColl s).record ≤ 1 + 1) ∧
    (let s := collDev 3 0 0 [] (cCell 0x390 5 1 0)
     collMet s 0x390 = true ∧ collKind (theColl s).record = 3 ∧ (theCell s 14).cell.cnt.toNat < collRanks (theColl s).record ∧
     (theCell s 14).cell.cnt.toNat ≠ collRank (theColl s).record) ∧
    (let s := collDev 3 0 0 [] (cCell 0x391 5 1 0)
     collMet s 0x391 = true ∧ (theColl s).waits = [] ∧ (theCell s 14).snode = 0) ∧
    (let s := collDev 3 0 0 [cCell 0x391 5 1 0] (cCell 0x390 5 0 1)
     let w := (theColl s).record
     collMet s 0x390 = true ∧ (theCell s 14).cell.cnt.toNat = collRank w ∧ (theCell s 14).cell.aux.toNat < 32 ∧
     s.cellRank (theCell s 14) w < collRanks w ∧
     (theColl s).waits.filter (fun y => s.p2pKey w y == s.p2pKey w (theCell s 14)) = [cCell 0x391 5 1 0]) := by decide +kernel

/-- A token at an egress port. -/
def tokDev (e cop run : Nat) (gates : List MCell) : State :=
  let s := engDev e { dcl := 63, dport := BitVec.ofNat 5 e, cls := true, cop := BitVec.ofNat 10 cop, itag := 4, run := BitVec.ofNat 5 run } 1
  s.modPort 0 e (fun p => { p with gates := gates })

theorem test_witness_Tokens :
    (let g : MCell := { cell := { dcl := 63, dport := 16, itag := 5, gate := true, tid := 1 }, age := 9 }
     let s := tokDev 16 0x3F0 1 [g]
     let s1 := taken s 16 0x3F0
     takes s 16 0x3F0 (theCell s 16) = true ∧ (s1.port 0 16).gates.find? (fun x => covers (theCell s 16).cell x.cell) = some g ∧
     (match (s1.modPort 0 16 (fun p => { p with gates := [] })).arrive 0 16 g with | .took _ => true | _ => false) = true) ∧
    (let s := tokDev 4 0x3F0 0 []
     takes s 4 0x3F0 (theCell s 4) = true ∧ ((taken s 4 0x3F0).port 0 4).gates = [] ∧ isRendezvous 4 = true ∧
     ((taken s 4 0x3F0).takeStall 0 4 {} 4 1).isSome = true) ∧
    (let s := tokDev 16 0x3F0 0 []
     takes s 16 0x3F0 (theCell s 16) = true ∧ isRendezvous 16 = false ∧ ((taken s 16 0x3F0).port 0 16).cmpls.length < 8) ∧
    (let s := tokDev 13 0x3F1 0 []
     takes s 13 0x3F1 (theCell s 13) = true) ∧
    (let s := (tokDev 16 0x3F2 0 []).onWork (fun w => { w with graphs := [(0, { used := true, bound := true })] })
     (s.port 0 16).inbox = [theCell s 16] ∧ (theCell s 16).cell.cop = 0x3F2 ∧ (s.graph 0 0).live = true ∧ s.graphQuiet 0 0 = true) ∧
    (let s := collDev 0 0 0 [] (cCell 0x3F3 0 0 0)
     collMet s 0x3F3 = true) := by decide +kernel

/-! ## Witnesses: blocks and memory -/

/-- A block of strand 0 that is complete: it goes on at 0x2000. -/
def whole (l r : Word) : State := at1 (dev l r) (fun f => { f with exit := some (0, some 0x2000#64), hdr := 0x02000000#32 })

theorem test_witness_BlockEvents :
    ((dev 0 0).setStrand 1 { live := true, pc := 0x1000#64 }).fetchAt 1 0x1000#64 = true ∧
    (let s := (dev 0 0).setStrand 3 { live := true, fetched := some { addr := 0x100000000000000#64, hdr := 0x02000000#32, words := [] } }
     s.retained (coreCluster 0) = false ∧ (s.freeFrames 0).isEmpty = false ∧ (s.strand (mkSid 0 3)).fetched.isSome = true ∧
     ((List.range 4).map (fun d => ((s.coreSt 0).lastTurn + 1 + d) % 4)).find? (fun i => s.mapReady (mkSid 0 i) &&
       !(s.strand (mkSid 0 i)).yields.any (fun j => (s.strand (mkSid 0 j)).live) && s.mayTake 0 i) = some 3) ∧
    (let s := at1 (whole 0 0) (fun f => { f with reads := [{ wts := 1 }] })
     s.commitDue 0 0 = true ∧ (s.stand (s.strand (s.frame 0 0).sid).who (s.frame 0 0)).isNone = true) ∧
    (let s := whole 0 0
     let fr := s.frame 0 0
     s.commitDue 0 0 = true ∧ (s.stand (s.strand fr.sid).who fr).isSome = true ∧ (s.strand fr.sid).who.sid = fr.sid ∧ fr.fx = [] ∧
     fr.gets = [] ∧ fr.loads = [] ∧ fr.stores = [] ∧ fr.reads = [] ∧ fr.yields = false ∧ fr.exit = some (0, some 0x2000#64) ∧
     opOf (fr.slot 0).word ∉ [6, 7, 0xE5]) ∧
    (let s := at1 (dev 0 0) (fun f => { f with trap := some { cause := 8 } })
     (s.strand 0).live = true ∧ s.dueTrap 0 = some ({ cause := 8 }, 0x1000#64, hdrLen 0x02000200#32)) := by decide +kernel

/-- Slot 0 of frame 0 has this load under way. -/
def loadDev (l : LoadRec) : State := at1 (dev 0 0) (fun f => { f with loads := [l] })

theorem test_witness_LoadEvents :
    (let s := loadDev { struct := true, place := .home 0x1000000000C00000 }
     (s.frame 0 0).loadAt 0 = some { struct := true, place := .home 0x1000000000C00000 } ∧ s.structWritten 0x1000000000C00000 = false ∧
     s.mem.defer.contains { addr := 0x1000000000C00000, core := 0, frame := 0, slot := 0 } = false ∧ s.deferredIn 0x1000000000C00000 < 1024) ∧
    (let s := loadDev { place := .home 0x40000, n := 8 }
     ((s.frame 0 0).loadAt 0).isSome = true ∧ (s.line 0x40000).poison = false) ∧
    (let s := loadDev { stage := 1 }
     (s.frame 0 0).loadAt 0 = some { stage := 1 }) ∧
    (let s := at1 (loadDev { place := .home 0x40000, n := 8, lsid := 1 }) (fun f => { f with
       fx := [(1, .store 0 { place := .home 0x40000, n := 8, v := 7 })] })
     ownAll (s.storesBefore 0 0 1) (.home 0x40000) 8 = true) ∧
    (let s := (loadDev { place := .home 0x40000, n := 8 }).onMem (fun m => { m with lease := [(0, [{ valid := true, line := 0x40000 / 64, rts := 9 }])] })
     ownAll (s.storesBefore 0 0 0) (.home 0x40000) 8 = false ∧ placeIsHbm (.home 0x40000) = true ∧
     (s.leaseFind 0 (placeLine (.home 0x40000)) (s.strand (s.frame 0 0).sid).pts).isSome = true) := by decide +kernel

def outDev (x : Strand) : State := (dev 0 0).modStrand 0 (fun y => { y with out := x.out, replies := x.replies, atoms := x.atoms })

theorem test_witness_StrandEvents :
    (let s := outDev { out := [.rel (.cntr 0 1), .store { place := .home 0x40000, n := 8, v := 9 }] }
     s.holders 0 = [.ctx] ∧ firstStoreIdx (s.strand 0).out 0 = some (1, { place := .home 0x40000, n := 8, v := 9 }) ∧ (s.majOp 0).used = false) ∧
    (let s := outDev { out := [.store { sent := true, ack := 4 }] }
     s.holders 0 = [.ctx] ∧ firstStoreIdx (s.strand 0).out 0 = some (0, { sent := true, ack := 4 })) ∧
    (let s := outDev { out := [.rel (.cntr 1023 1)] }
     (match (s.modStrand 0 (fun y => { y with out := [] })).relEffect (s.strand 0).who (s.strand 0).pts .ctx (.cntr 1023 1) with
      | .done _ => true
      | _ => false) = true) ∧
    (let s := outDev { replies := [(62, 5, 8, 1)], atoms := [(62, 1)] }
     (s.strand 0).replies = [(62, 5, 8, 1)]) := by decide +kernel

/-- Slot 0 waits for this. -/
def waitDev (w : Wait) : State := at1 (dev 0 0) (fun f => { f with waits := [(0, w)] })

theorem test_witness_WaitEvents :
    (let s := waitDev (.counts 0 0 0 0)
     (s.frame 0 0).waits.find? (fun y => y.1 == 0) = some (0, .counts 0 0 0 0) ∧ (s.strand 0).ldc ≤ 0 ∧ (s.strand 0).stc ≤ 0 ∧
     (s.strand 0).cpc ≤ 0 ∧ (s.strand 0).tlc ≤ 0 ∧ s.isOldest 0 0 = true) ∧
    (let s := waitDev (.timeline 14 0 0)
     (0#64).toNat ≤ (s.timeline (s.timelineKey 0 14 0)).tl) ∧
    (let s := (waitDev (.barrier 0 0)).modBarrier 0 (fun b => { b with cph := 1 })
     (s.barrier 0).complete 0 = true ∨ (s.barrier 0).brk = true) ∧
    (let s := waitDev (.fence true false)
     (s.strand 0).ops = 0 ∧ s.isOldest 0 0 = true) ∧
    (let s := waitDev (.word (.home 0x40000) .eq 0)
     s.isStruct 0x40000 = false ∧ okAnd (s.engRead 0 (.home 0x40000) 8 (s.strand 0).pts) (fun x => cmpHolds .eq (BitVec.ofNat 64 x.1) 0) = true) := by
  decide +kernel

/-- Slot 0 of frame 0 (EXPT, of a count) has asked. -/
def exptDev (n : Word) (b : Barrier) : State :=
  let s := at1 (dev n 0) (fun f => { f with asks := [0] }.modSlot 0 (fun x => { x with word := 0xA7000000#32 }))
  s.modBarrier 0 (fun _ => b)

def exptMet (s : State) : Bool :=
  (s.frame 0 0).used && (s.frame 0 0).asks.contains 0 && slotInstr ((s.frame 0 0).slot 0) == some (.expt .always 0) && s.barSlot 0 0 == some 0

/-- A walk through three tables to a leaf of 2^30 bytes, for its last byte. -/
def walkDev : State :=
  let s := (dev 0 0).onAcc (fun a => { a with walks := [(0, [{ asid := 0, va := 0x3FFFFFFF }])] })
  let t := s.modJob 0 (fun j => { j with jroot := 0x1000#64 })
  ((t.writeLE (t.physHome 0 0x1000) 8 (2 ^ 63 + 0x2000)).writeLE (t.physHome 0 0x2000) 8 (2 ^ 63 + 0x3000)).writeLE
    (t.physHome 0 0x3000) 8 0xCC00000000000000

theorem test_witness_ReservationsAndWalks :
    (exptMet (exptDev 0xFFFFF { used := true }) = true ∧ (0 : Int) + 0 + 0xFFFFF ≤ 2 ^ 20 - 1) ∧
    (exptMet (exptDev 0xFFFFF { used := true, pend := 1 }) = true ∧ (2 ^ 20 - 1 : Int) < 1 + 0 + 0xFFFFF) ∧
    (exptMet (exptDev 1 { used := true, brk := true }) = true) ∧
    (tget walkDev.acc.walks 0 = [{ asid := 0, va := 0x3FFFFFFF }] ∧
      walkDev.walk (walkDev.partOf 0) 0 0x3FFFFFFF = some (30, 0xCC00000000000000#64) ∧
      okAnd (walkDev.leafAccess 0 30 0x3FFFFFFF 0xCC00000000000000#64 false false) (fun _ => true) = true) := by decide +kernel

/-! ## Witnesses: launches and the market -/

theorem test_witness_QueuePicks :
    (let s := dev 0 0
     s.work.claims1.filter (fun n => n / 2 ^ 22 == 0) = [] ∧ (s.pickQueue 0).isNone = true) ∧
    (let s := (dev 0 0).onWork (fun w => { w with queues := [(255, { cfg := 0x8000#64, pub := 1 })] })
     (s.pickQueue 0).map (·.1) = some 255) := by decide +kernel

/-- Launch 0, of graph 0 and this kind. -/
def launchDev (l : Launch) (g : Graph) : State :=
  (dev 0 0).onWork (fun w => { w with launches := [(0, { l with used := true })], graphs := [(0, g)] })

def packImage : GraphImage := { clusters := [47], pack := true, sets := [{ count := 2 }] }

theorem test_witness_BindAndStart :
    (let s := launchDev { kind := 1, quarter := 3 } {}
     let x := s.launch 0
     let img1 := argImage (cardOf x.packet) (s.launchImage 0 { clusters := [47] })
     x.used = true ∧ x.ended = false ∧ x.bound = false ∧ x.cancelled = false ∧ img1.majority = false ∧ x.kind ≠ 2 ∧ (s.graph 0 0).live = false ∧
     s.imageOk x.quarter (s.launchImage 0 img1) = true ∧ s.nodesFree 0 0 (s.launchImage 0 img1) = true ∧
     (s.takeTags 0 (imageClusters (s.launchImage 0 img1))).isSome = true) ∧
    (let s := launchDev { kind := 2, bound := true } { used := true, bound := true, img := packImage }
     let all := packStrands packImage (s.launchRank 0 packImage)
     (s.launch 0).bound = true ∧ (s.launch 0).started = false ∧ s.pmHolds 0 = false ∧ all.length = 2 ∧ [1888, 1919].Nodup ∧
     s.contextsUnclaimed 0 [47] = true ∧ (∀ e ∈ [1888, 1919].zip all, e.1 < 2048 ∧ e.1 / 32 % 16 < 12 ∧ s.contextFree e.1 = true ∧
       (setClusters packImage e.2.2).contains (sidCluster e.1) = true)) := by decide +kernel

/-- RNGP has asked; tag LO of a bound graph; jobs 4094 and 1. -/
theorem test_witness_LaunchEvents :
    (let s := at1 (dev 0 0) (fun f => { f with asks := [0] }.modSlot 0 (fun x => { x with word := 0x85000000#32 }))
     let fr := s.frame 0 0
     (s.launch (s.strand fr.sid).who.launch).range = some { size := 100 } ∧ fr.used = true ∧ fr.asks.contains 0 = true ∧
     opOf (fr.slot 0).word = 0x85 ∧ s.claimBefore 0 0 = false) ∧
    (let s := launchDev {} { used := true, bound := true, img := { clusters := [0], routes := [(0, 8, 0, 1)], demands := [(0, 8, 1)] }, adm := 5, lo := 0 }
     let x := s.graph 0 0
     x.live = true ∧ x.closedAdm = false ∧ x.adm - x.lo < s.liveEff x ∧ s.tagElsewhere 0 0 x.adm = false ∧
     (imageClusters x.img).all (fun cl => (tagDemand x.img cl).all (fun d => decide (d.2 ≤ s.unreserved cl d.1))) = true ∧
     x.lo < x.adm ∧ s.tagHeld 0 0 x.lo = false ∧ s.sourcesPast 0 0 = true) ∧
    (let s := (dev 0 0).onWork (fun w => { w with jobs := tset w.jobs 1 { state := 1 } })
     (s.job 4094).state = 0 ∧ (0 : Nat) < 4094 ∧ 4094 < 4095 ∧ (s.job 1).state = 1) := by decide +kernel

/-- A cell that is sealed. -/
def sealed (c : Cell) : MCell := { cell := c.seal, age := 1 }

/-- A cell for write port 1 in the issue buffer of core 0; one in a queue, and one that two auctions ago matched to egress 17;
two in the input buffers of egress 17. -/
def marketDev : State :=
  let c := sealed { dcl := 63, dport := 17, tid := 1 }
  let t := sealed { dcl := 63, dport := 17, cls := true, cop := 0x3F0 }
  let s := ((dev 0 0).modCoreSt 0 (fun k => { k with issue := [{ cell := c, port := 0 }] })).modAgn 1 (fun a => { a with
    buf := [{ place := .home 0x40000, bytes := [(0, 7)] }] })
  s.modMarket 0 (fun k => { k with
    slot := 1000, queues := [(34, [c])], since := [(34, 1)], heads := [(34, (1, 1))]
    matched := [{ slot := 998, cell := c, egress := 17 }], buf0 := [(17, [c])], buf1 := [(17, [t])] })

theorem test_witness_MarketEvents :
    (let s := marketDev
     let m := s.market 0
     (s.coreSt 0).issue.map (·.held) = [false] ∧
     m.matched.all (fun x => x.crossed || decide (m.slot < x.slot + 3)) = true ∧
     m.queue 34 ≠ [] ∧ m.headAged 34 = true ∧ m.agedQ.contains 34 = false ∧
     (m.matched.filter (fun x => !x.crossed && decide (x.slot + 2 ≤ m.slot))).length = 1 ∧
     (match s.deliver 0 17 ((tget m.buf1 17).headD {}) with | .took _ => true | _ => false) = true ∧
     (s.agn 1).buf.length = 1) ∧
    (let s := marketDev.modMarket 0 (fun k => { k with buf1 := [] })
     tget (s.market 0).buf1 17 = [] ∧ (match s.deliver 0 17 ((tget (s.market 0).buf0 17).headD {}) with | .took _ => true | _ => false) = true) ∧
    (let s := (dev 0 0).onWork (fun w => { w with graphs := [(0, { used := true, bound := true, img := { dyn := true }
                                                                   acts := [{ colour := 255 }] })] })
     let t := s.purgeCancelled 0 0 (some 255)
     t.tagJob 0 0 = some 0 ∧ t.dynamicGraphs 0 = [0] ∧ t.hurtColour 0 0 255 = false ∧ (t.activation 0 0 255).isSome = true) := by decide +kernel

/-- The cell enters its queue, whatever its check: one that fails it is discarded there. -/
theorem test_witness_CellAdmit :
    ∃ t, (marketDev.modCoreSt 0 (fun k => { k with issue := [] })).enterMarket 0 0 (sealed { dcl := 63, dport := 17, tid := 1 }) = some t := by
  unfold State.enterMarket
  split
  · exact ⟨_, rfl⟩
  · exact ⟨_, rfl⟩

/-! ## Witnesses: what engines complete -/

def goes (s : State) (w : Nat) : Bool :=
  match s.gate 0 w with
  | .go => true
  | _ => false

/-- Data that have been read. -/
def hasData (d : Data) (f : Nat → State → Bool) : Bool :=
  match d with
  | .got _ t s => f t s
  | _ => false

def spanPlaces (x : Span) : Bool :=
  match x with
  | .places _ => true
  | _ => false

/-- A transfer of 8 bytes between element 0 of an AGN and address 0x40100. -/
def xferCell (cop : Nat) : Cell :=
  { dcl := 63, dport := 11, cop := BitVec.ofNat 10 cop, pay := BitVec.ofNat 1024 (8 * 2 ^ 40 + (if cop = 0x300 then 9 else 6) * 2 ^ 35 + 0x40100 * 2 ^ 64) }

def xferDev (cop : Nat) : State :=
  (dev 0 0).onAcc (fun a => { a with xfers := [(0, { used := true, num := 1, cell := { cell := xferCell cop } })] })

theorem test_witness_MatrixCompletes :
    (let s := (dev 0 0).modMat 0 (fun x => { x with drainOp := some (0, {}) })
     (s.matCtx 0).drainOp.isSome = true ∧ (s.matCtx 0).drains = 0) ∧
    (let s := (dev 0 0).modMat 0 (fun x => { x with saving := some {} })
     (s.matCtx 0).saving = some {} ∧ (s.matCtx 0).saves = 0) := by decide +kernel

theorem test_witness_TransferCompletes : ∀ cop ∈ [0x300, 0x301],
    let s := xferDev cop
    let m := (s.xferOp 0).cell
    let out := cop == 0x301
    let src := if out then s.localSide 0 m false else s.remoteSide 0 m false
    let dst := if out then s.remoteSide 0 m true else s.localSide 0 m true
    (s.xferOp (xferKey 0 0 0)).used = true ∧ m.cell.cop.toNat = cop ∧ goes s (waiterXfer 0) = true ∧ spanPlaces src.span = true ∧
    hasData (s.readSpan 0 0 src.span) (fun _ s1 => match dst.span with
      | .places ds => okAnd (s1.writePieces 0 0 0 ds 0) (fun _ => true)
      | _ => false) = true := by decide +kernel

def sortCell : Cell :=
  { dcl := 63, dport := 13, cop := 0x380, pay := BitVec.ofNat 1024 (2 ^ 60 + 2 ^ 32 + 3 * 2 ^ 24 + 0x40000 * 2 ^ 64 + 0x40000 * 2 ^ 128 +
      0x40040 * 2 ^ 320 + 0x40080 * 2 ^ 384) }

/-- Kennel engine 4 (SORT) of quarter 0 holds a job: one int32 key at 0x40000, in place. -/
def sortDev : State :=
  (dev 0 0).onKen (fun k => { k with engines := [(4, { state := 3, jobs := [{ cell := { cell := sortCell } }] })] })

theorem test_witness_KennelJobCompletes :
    let s := sortDev
    let j := ((s.kEngine 0 4).jobs).headD {}
    let w := kWork (s.kView 0 0) s.freshAt (cellPacket j.cell)
    (s.kEngine 0 4).jobs.length = 1 ∧ 3 ≤ (s.kEngine 0 4).state ∧ j.stat = 0 ∧ j.fin = none ∧ goes s (waiterCell j.cell) = true ∧
    hasData ((s.freshUp w.frees).kReads 0 0 0 w.reads) (fun _ s1 => hasData (s1.kWrites 0 0 0 0 w.writes) (fun _ _ => true)) = true := by
  decide +kernel

/-- An instance that waits to be placed; one whose switch boxes hold all that it needs. -/
theorem test_witness_CollPlace :
    let s := (dev 0 0).onWork (fun w => { w with graphs := [(0, { collGraph 1 1 0 [] with colls := [(31, { record := collWord 1 1 0 })] })] })
    let c := s.coll 0 0 31
    c.owe = none ∧ (s.graph 0 0).live = true ∧ thas (s.graph 0 0).colls 31 = true ∧ c.placed = false ∧ c.doneW = false ∧ c.aborted = false ∧
    tget s.lnk.slots (s.slotCluster (s.collCluster 0 0 31)) + (collNeeds c.record).1 ≤ 4 ∧ tget s.lnk.gates 4 + (collNeeds c.record).2 ≤ 16 := by
  decide +kernel

/-- AGN 0's stream to write port 1, this far. -/
def streamDev (sent : Nat) : State :=
  (dev 0 0).modAgn 0 (fun a => { a with stream := some { cdesc := 0xFE20000000000000#64, sent := sent } })

theorem test_witness_Streams :
    (let s := streamDev 4
     let st := ((s.agn 0).stream).getD {}
     s.streamNext (agnRec (s.agn 0).words) st = none ∧ st.pers = false ∧ st.stopped = false ∧ st.hurt = false ∧ (s.agn 0).cellOut = none ∧
     s.retained (agnCl 0) = false ∧ goes s (waiterStream 0) = true) ∧
    (let s := streamDev 3
     let st := ((s.agn 0).stream).getD {}
     let r := agnRec (s.agn 0).words
     match s.streamNext r st with
     | none => False
     | some y =>
       let h := s.streamHead 0 r st y
       let os := (List.range r.perCell).map (fun j => if j < y.n then some (y.first + j) else none)
       s.cellOk 0 0 h = true ∧ deviceOnly h = false ∧ h.side = 0 ∧
       okAnd ((s.readElems 0 0 0 (h.cop.toNat / 128) r [] 0 os).mapError (·.1)) (fun _ => true) = true) := by
  refine ⟨by decide +kernel, ?_⟩
  show _ ∧ _ ∧ _
  decide +kernel

theorem test_witness_CopyCompletes :
    let s := (dev 0 0).onAcc (fun a => { a with copies := [(copyKey 0 0, { used := true, c := { src := 0x40000, len := 8 } })] })
    let o := s.copyOp (copyKey 0 0)
    o.used = true ∧ o.hurt = false ∧ goes s (waiterCopy (copyKey 0 0)) = true ∧ o.c.kind < 3 ∧ o.status = 0 ∧
    hasData (s.copyData 0 o) (fun _ _ => true) = true := by decide +kernel

/-! ## Witness: a matrix context is restored. Every element of its image's AGN is one word of buffer A, which gives a valid state cell. -/

def imgRec : AgnRec :=
  { role := 3, port := 1, tile := 0, trole := 0, pers := false, esz := 4, tid := 3, base := 0, ext := [1, 1, 1, 0x6000], str := [0, 0, 0, 0] }

/-- Context 0 of matrix engine 0 loads its image through AGN 7; the line of the word has been read before. -/
def imgDev : State :=
  let s := ((dev 0 0).modMat 0 (fun x => { x with loading := some { matCell 0x089 0 3 0 0 false 1 with origin := 3 } })).modAgn 7 (fun a =>
    { a with words := agnWords 3 1 0 0 0 4 3 0 0x6000 0 })
  (s.writeLE (bufBase 0 1) 8 0x4D49010000000000).setLine (bufBase 0 1) { rts := 1000 }

theorem img_addr (n : Nat) (h : n < 0x6000) : imgRec.addr n = some 0 := by
  simp [AgnRec.addr, AgnRec.count, imgRec, Nat.not_le.mpr h]

def imgGot : Got := { v := 0x4D49010000000000, t := 0, wts := 0, lease := 1000 }

theorem img_pieces : imgDev.pieces 0 0 0 imgRec 0 imgRec.ebytes false = .ok [(.home (bufBase 0 1), 8)] := rfl

theorem img_read : imgDev.readPieces (imgDev.partOfCluster 0) [] 0 [(.home (bufBase 0 1), 8)] = .ok (imgGot, imgDev) := by
  obtain ⟨⟨g, s1⟩, e, h⟩ := of_okAnd (imgDev.readPieces (imgDev.partOfCluster 0) [] 0 [(.home (bufBase 0 1), 8)])
    (fun x => decide (x.1 = imgGot ∧ x.2 = imgDev)) (by decide +kernel)
  obtain ⟨h1, h2⟩ := of_decide_eq_true h
  simp only at h1 h2
  rw [e, h1, h2]

theorem img_elem (n : Nat) (h : n < 0x6000) :
    imgDev.readElem 0 0 0 1 imgRec [] 0 n = .ok (imgGot, [(.home (bufBase 0 1), 8)], imgDev) := by
  simp only [State.readElem, img_addr n h, img_pieces, img_read]
  rfl

theorem img_elems (os : List (Option Nat)) (h : ∀ o ∈ os, ∃ n, o = some n ∧ n < 0x6000) : ∃ g ps,
    imgDev.readElems 0 0 0 1 imgRec [] 0 os = .ok (os.map (fun _ => 0x4D49010000000000), g, ps, imgDev) := by
  induction os with
  | nil => exact ⟨_, _, rfl⟩
  | cons o os ih =>
    obtain ⟨n, rfl, hn⟩ := h o List.mem_cons_self
    obtain ⟨g, ps, e⟩ := ih (fun o ho => h o (List.mem_cons_of_mem _ ho))
    exact ⟨_, _, by simp only [State.readElems, img_elem n hn, e, List.map_cons]; rfl⟩

/-- The payload of every cell of the image. -/
def imgPay : BitVec 1024 := packElems 64 (List.replicate 16 0x4D49010000000000)

theorem img_cell (off : Nat) (c : Cell) (hc : c.cop.toNat / 128 = 1) (hs : c.side = 0) (h : off + 16 ≤ 0x6000) : ∃ g ps,
    imgDev.fillCell 0 0 0 imgRec [] 0 off c false = .ok ({ c with pay := imgPay, car := 0 }, g, ps, imgDev) := by
  have he : cellElems imgRec off = (List.range 16).map (fun j => some (off + j)) := by
    have h1 : imgRec.perCell = 16 := by decide
    have h2 : imgRec.count = 0x6000 := by decide
    simp only [cellElems, h1, h2]
    exact List.map_congr_left (fun j hj => if_pos (by have := List.mem_range.mp hj; omega))
  obtain ⟨g, ps, e⟩ := img_elems ((List.range 16).map (fun j => some (off + j))) (fun o ho => by
    obtain ⟨j, hj, rfl⟩ := List.mem_map.mp ho
    exact ⟨_, rfl, by have := List.mem_range.mp hj; omega⟩)
  refine ⟨g, ps, ?_⟩
  have hn : (List.map (fun j => some (off + j)) (List.range 16)).findIdx? (fun o => o.isNone) = none := by
    simp [List.findIdx?_eq_none_iff]
  simp only [State.fillCell, he, hs, hn, hc, e]
  rfl

theorem img_cells (m : Cell) (hm : m.cop.toNat / 128 = 1) (n : Nat) : ∀ i, m.aux.toNat + i + n ≤ 0x600 →
    ∃ ps t, imgDev.readImage 0 0 (imgDev.agn 7) m 0 i n = .ok (ps, t, imgDev) ∧ ps = List.replicate n imgPay := by
  induction n with
  | zero => exact fun i _ => ⟨_, _, rfl, rfl⟩
  | succ n ih =>
    intro i h
    obtain ⟨ps, t, e, rfl⟩ := ih (i + 1) (by omega)
    have hr : agnRec (imgDev.agn 7).words = imgRec := by decide
    have hk : (imgDev.agn 7).core = 0 := by decide
    have hp : imgRec.perCell = 16 := by decide
    obtain ⟨g, qs, f⟩ := img_cell ((m.aux.toNat + i) % 65536 * 16) { m with side := 0 } hm rfl (by omega)
    exact ⟨_, _, by simp only [State.readImage, hr, hk, hp, f, e]; rfl, rfl⟩

theorem test_witness_MatrixRestore :
    let m : MCell := { matCell 0x089 0 3 0 0 false 1 with origin := 3 }
    (imgDev.matCtx (matKey 0 0 0)).loading = some m ∧ goes imgDev (waiterCell m) = true ∧ imgDev.imageAgn 0 m = some 7 ∧
    imgDev.agnCheck 0 (agnRec (imgDev.agn (agnKey 0 m.cell.ctx.toNat 7)).words) .cells = 0 ∧
    imgDev.startStamp (engCtx 0 0 0) m.stamp = 0 ∧
    ∃ hd t0 h ps t1, imgDev.readImage 0 0 (imgDev.agn (agnKey 0 m.cell.ctx.toNat 7)) m.cell 0 0 1 = .ok (hd, t0, imgDev) ∧
      imageHead (hd.headD 0) = some h ∧
      imgDev.readImage 0 0 (imgDev.agn (agnKey 0 m.cell.ctx.toNat 7)) m.cell 0 1 h.cells = .ok (ps, t1, imgDev) := by
  refine ⟨by decide +kernel, by decide +kernel, by decide +kernel, by decide +kernel, by decide +kernel, ?_⟩
  have hm : (matCell 0x089 0 3 0 0 false 1).cell.cop.toNat / 128 = 1 := by decide
  obtain ⟨hd, t0, e, rfl⟩ := img_cells (matCell 0x089 0 3 0 0 false 1).cell hm 1 0 (by decide)
  have hh : ((imageHead imgPay).map ImageHead.cells) = some 1408 := by decide +kernel
  obtain ⟨h, e2, e3⟩ := Option.map_eq_some_iff.mp hh
  obtain ⟨ps, t1, e4, -⟩ := img_cells (matCell 0x089 0 3 0 0 false 1).cell hm h.cells 1 (by rw [e3]; decide)
  exact ⟨_, _, h, _, _, e, e2, e4⟩

/-! ## Witnesses: majority accesses, faults and pre-emption -/

/-- Majority operation 1: its copies stand in stacks 0, 1 and 2; its first leg is this far, the second has an answer. -/
def majDev (o : MajOp) (stage : Nat) : State :=
  ((dev 0 0).onMem (fun m => { m with
    majOps := [(1, { o with used := true, legs := [(0, { stage := stage }), (1, { stage := 3, rts := 9 })] })], majCells := [(0, 0)] })).modPart 0 (fun p => { p with
      sset := [(0, 0x8000000000000210#64)] })

theorem test_witness_MajorityEvents :
    (let s := majDev { write := true } 1
     let o := s.majOp 1
     o.used = true ∧ s.copyAnswers 0 0 o.addr = true ∧ (o.leg 0).stage = 1 ∧ o.write = true ∧ o.writing = false) ∧
    (let s := majDev {} 1
     let o := s.majOp 1
     s.copyAnswers 0 0 o.addr = true ∧ (o.leg 0).stage = 1 ∧ o.write = false) ∧
    (let s := majDev { write := true, writing := true } 1
     let o := s.majOp 1
     o.writing = true ∧ (o.leg 0).stage = 1 ∧ s.stackUp 0 0 = true) ∧
    (let s := majDev {} 4
     (s.majOp 1).write = false ∧ ((s.majOp 1).leg 0).stage = 4 ∧ s.stackUp 0 0 = true) ∧
    (let s := majDev { write := true } 2
     let o := s.majOp 1
     let got := ((List.range (s.ssetStacks 0 o.sset).length).map (o.modLeg 0 (fun l => { l with stage := 3 })).leg).filter (fun l => l.stage == 3)
     o.write = true ∧ o.writing = false ∧ o.taken = false ∧ (o.leg 0).stage = 2 ∧ majorityOf (s.ssetStacks 0 o.sset).length ≤ got.length) ∧
    (let s := (majDev { write := true } 2).onMem (fun m => { m with majOps := [(1, { used := true, write := true, legs := [(0, { stage := 2 })] })] })
     let o := s.majOp 1
     let got := ((List.range (s.ssetStacks 0 o.sset).length).map (o.modLeg 0 (fun l => { l with stage := 3 })).leg).filter (fun l => l.stage == 3)
     (o.leg 0).stage = 2 ∧ got.length < majorityOf (s.ssetStacks 0 o.sset).length) ∧
    (let s := majDev {} 0
     bitOf (s.hound 0).cfg.toNat 31 = true ∧ (s.houndCells 0)[(s.hound 0).pos]? = some 0) := by decide +kernel

theorem test_witness_Rebase :
    (let s := (dev 0 0).onMem (fun m => { m with lines := [(0x1000, { rts := 3 * 2 ^ 45 })] })
     s.partOf 0 = 0 ∧ (s.part 0).walker = false ∧ 3 * 2 ^ 45 ≤ s.maxStamp 0) ∧
    (let s := (dev 0 0).modPart 3 (fun p => { p with walker := true })
     (s.part 3).walker = true) := by decide +kernel

/-- Strand 0 has left its context; its job has been pre-empted. -/
def heldDev (img : GraphImage) (held : Bool) : State :=
  let s := (dev 0 0).setStrand 0 {}
  (s.onWork (fun w => { w with
    graphs := [(0, { used := true, img := img })], jobs := tmod w.jobs 0 (fun j => { j with csave := 0x40000 }) })).onCores (fun c => { c with
      holds := if held then [(0, { pts := 5 })] else [], saved := if held then [] else [(0, { pts := 5 })], outs := [(0, 1)] })

theorem test_witness_FaultAndPreemptEvents :
    (let s := (dev 0 0).modJob 0 (fun j => { j with faults := [{ cause := 0x19, tag := 7 }], blocked := [(3, 7)] })
     ((s.job 0).faults.find? (fun g => g.tag == 7)).isSome = true) ∧
    ((dev 0 0).job 0).state ≠ 0 ∧ (dev 0 0).covered 0 [5] = [] ∧
    (let s := heldDev { sets := [{}, { handler := true, entry := 0x3000#64 }] } true
     thas s.core.holds 0 = true ∧ (s.strand 0).live = false ∧ tgetD 0 s.core.switch 0 = 0 ∧
     handlerOf (s.graph 0 0).img = some (1, { handler := true, entry := 0x3000#64 })) ∧
    (let s := heldDev {} true
     thas s.core.holds 0 = true ∧ (s.strand 0).live = false ∧ handlerOf (s.graph 0 0).img = none ∧ s.saveAreaBad 0 0 true = 0) ∧
    (let s := heldDev {} false
     s.core.outs.filter (fun e => e.2 == 0 + 1) = [(0, 0 + 1)] ∧ s.canReturn 0 = true ∧ s.pmHolds (0 / 512) = false ∧
     thas s.core.saved 0 = true ∧ handlerOf (s.graph 0 0).img = none) := by decide +kernel

/-! ## Witnesses: leases, power, the host -/

/-- Kennel state of quarter 0: a request of priority 2 for lease slot 0 (kind 0), with these engines. -/
def leaseDev (prio : Nat) (es : Tab KEngine) : State :=
  (dev 0 0).onKen (fun k => { k with
    engines := es, queues := [(0, [{ slot := 0, prio := prio }])], slots := [(0, { used := true }), (5, { used := true, prio := 1 })] })

def kennelOwn (s : State) : List Nat := ((List.range 4).map (fun n => 0 * 4 + n)).filter (fun n => !(s.kEngine 0 n).out)

theorem test_witness_LeaseServe :
    (let s := leaseDev 2 []
     s.kHeads 0 = [{ slot := 0, prio := 2 }] ∧ s.awakeCount 0 < s.kBudget 0 ∧ s.kFree 0 (s.lease 0).kind = some 0) ∧
    (let s := leaseDev 2 ((List.range 4).map (fun i => (i, { state := 3, slot := 6 })))
     (kennelOwn s).all (fun m => (s.kEngine 0 m).awake) = true ∧ s.kFree 0 0 = none ∧ s.kVictim 0 2 (kennelOwn s) = some 0) ∧
    (let s := leaseDev 2 ((List.range 8).map (fun i => (i + 4, { state := 3, slot := 6 })))
     (kennelOwn s).all (fun m => (s.kEngine 0 m).awake) = false ∧ s.kBudget 0 ≤ s.awakeCount 0 ∧ s.kVictim 0 2 (List.range 32) = some 4) := by
  decide +kernel

theorem test_witness_LeaseEngines :
    (let e := (leaseDev 0 [(31, { state := 2, slot := 1 })]).kEngine 0 31
     e.state = 2 ∧ e.rel = false ∧ e.slot = 0 + 1) ∧
    ((leaseDev 0 [(31, { state := 2, rel := true })]).kEngine 0 31).rel = true ∧ ((leaseDev 0 [(31, { state := 4 })]).kEngine 0 31).state = 4 ∧
    ((leaseDev 0 [(31, { state := 5 })]).kEngine 0 31).jobs = [] ∧
    (let s := leaseDev 0 [(30, { state := 1, age := 3 }), (31, { state := 1, age := 2 })]
     (s.kEngine 0 31).state = 1 ∧ (List.range 32).all (fun n => (s.kEngine 0 n).state != 1 || decide ((s.kEngine 0 31).age ≤ (s.kEngine 0 n).age)) = true) := by
  decide +kernel

/-- Job 0 is bound in cluster 0; this scale and drop of region 0, and this island. -/
def powerDev (scale drop : Nat) (x : Island) : State :=
  ((dev 0 0).onWork (fun w => { w with graphs := [(0, { used := true, bound := true, img := { clusters := [0] } })] })).onKen (fun k => { k with
    lscale := (List.range 12).map (fun i => (i, scale)), drops := if drop = 0 then [] else [(0, drop)], islands := [(0, x)] })

theorem test_witness_PowerController :
    (let s := powerDev 255 0 {}
     s.scaleFloor 0 0 < s.lscaleOf 0 0) ∧
    (let s := powerDev 0 0 {}
     s.lscaleOf 0 0 ≤ s.scaleFloor 0 0 ∧ (∀ r ∈ s.regionsOf 0, s.lscaleOf 0 r ≤ s.scaleFloor 0 r) ∧ s.regionRequest 0 0 = some 7 ∧
     s.dropOf 0 0 + 1 < 7) ∧
    (let s := powerDev 0 6 {}
     0 < s.dropOf 0 0) ∧
    (let s := powerDev 254 0 {}
     s.dropOf 0 0 = 0 ∧ ∀ r ∈ s.regionsOf 0, s.dropOf 0 r = 0) := by decide +kernel

theorem test_witness_Islands :
    (let s := (powerDev 255 0 { cur := 1 }).onSys (fun y => { y with bustate := buFull })
     s.levelTarget 0 0 = some 7 ∧ (s.island 0 0).ret = false ∧ (s.island 0 0).str = false ∧ (s.island 0 0).hop = none ∧ 7 ≠ (s.island 0 0).cur) ∧
    ((powerDev 255 0 { hop := some 3 }).island 0 0).hop = some 3 ∧ ((powerDev 255 0 { str := true }).island 0 0).str = true ∧
    (let s := powerDev 255 0 {}
     (s.island 3 11).ret = false ∧ (s.island 3 11).hop = none ∧ s.clusterIdle 47 = true) ∧
    (let s := powerDev 255 0 { ret := true, wake := true }
     (s.island 0 0).ret = true ∧ (s.island 0 0).wake = true) := by decide +kernel

theorem test_witness_HostRegisterEvents :
    (dev 0 0).canQuiesce 15 = true ∧
    (let s := (dev 0 0).onSys (fun y => { y with pmstat := pmQuiescing, pmask := 15 })
     s.sys.pmstat = pmQuiescing ∧ s.sys.pmask = 15 ∧ s.launching 15 = false ∧ s.claimsOpen 15 = false ∧
     (s.onWork (fun w => { w with queues := [(0, { claim := 1 })] })).claimsOpen 15 = true) ∧
    (let s := (dev 0 0).onSys (fun y => { y with pmstat := pmQuiesced, pmask := 15 })
     s.canResume 15 = true ∧ pcfgOk 0xE4 = true ∧ s.quiesced (pcfgChanges s.sys.pcfg 0xE4) = true) ∧
    (pcfgOk 0xA0 = true ∧ (dev 0 0).quiesced (pcfgChanges (dev 0 0).sys.pcfg 0xA0) = false ∧ (0xA0 : Word) ≠ (dev 0 0).sys.pcfg) ∧
    pcfgOk 0xE5 = false ∧ (wbits 0xFFFFFF8000000000#64 38 3 = 0 ∨ wbits 0x40#64 38 3 = 0 ∧ wbits 0x40#64 0 6 = 0) ∧
    ((0xFFFE#64).toNat < 0xFFFF ∧ (0xFFFE#64) ≠ 0) ∧ (0xFF7F : Word) &&& ~~~(0xFF7F : Word) = 0 ∧ (0xFFFFFFFF#64).toNat < 2 ^ 32 ∧
    2 ^ 32 ≤ (0x100000000#64).toNat ∧ (dev 0 0).contextMode 0 = false ∧
    ((dev 0 0).onKen (fun k => { k with pwcfg := [(0, 0x10032)] })).contextMode 0 = true ∧
    ((0xFF77 : Word) &&& ~~~(0xFF77 : Word) = 0 ∧ wbits (0xFF77#64) 0 3 ≠ 0) ∧ (255#64).toNat < 256 := by decide +kernel

/-- MKCFG of cluster 47 by way of the host, and one write that the register refuses. -/
theorem test_witness_RegisterWrite :
    (let i := hostIssuer ((dev 0 0).partOf (47 / 12)) 0
     ∃ r sc u, sysReg 0x100 = some (r, sc) ∧ (dev 0 0).selUnit i sc 47#64 = some u ∧ r.access.w = true ∧ r.own = false ∧
       (∃ t, (dev 0 0).sysRegWrite i u 0x400100#64 r = .done t) ∧ (dev 0 0).sysRegWrite i u (BitVec.allOnes 64) r = .badsys) :=
  ⟨_, _, _, rfl, rfl, rfl, rfl, ⟨_, rfl⟩, rfl⟩

theorem test_witness_TrustEvents :
    (dev 0 0).sys.bustate = 0 ∧ ((dev 0 0).onSys (fun y => { y with bustate := 1 })).sys.bustate = 1 ∧
    (let s := (dev 0 0).onSys (fun y => { y with bustate := 4, qver := 8 })
     1 ≤ s.sys.bustate ∧ s.sys.bustate ≤ 4 ∧ 11 < 12 ∧ s.sys.bustate = 4 ∧ 3 < 4 ∧ s.sys.qver.getLsbD 3 = true) ∧
    ((dev 0 0).onSys (fun y => { y with bustate := 3 })).sys.bustate = 3 ∧
    (let s := ((dev 0 0).onSys (fun y => { y with attreq := some (5, 0x10000) })).modJob 0 (fun j => { j with jexpb := 0x10000, jexpl := 1 })
     s.sys.attreq = some (5, 0x10000) ∧ s.inHostWindow 0x10000 16520 = true) ∧
    (let s := (dev 0 0).onSys (fun y => { y with attreq := some (1, 0x10000) })
     s.sys.attreq = some (1, 0x10000) ∧ s.inHostWindow 0x10000 16520 = false) := by decide +kernel

/-- An image whose signature has the wrong length is not one that may run. -/
theorem test_firmware_refused : fwImageOk { key := 0, sig := [0], body := [], digest := 0, version := 0 } = false := by
  simp [fwImageOk]
/-! ## Witnesses: links, modules, reliability -/

/-- CRC-32 with its accumulator taken apart at each byte, which the kernel evaluates byte by byte. -/
def crcSteps (v : Nat) : Nat → Nat → Nat → Nat
  | 0, _, c => c
  | n + 1, i, c => match crc32Byte c (bits v (8 * i) 8) with
    | 0 => crcSteps v n (i + 1) 0
    | k + 1 => crcSteps v n (i + 1) (k + 1)

theorem crcSteps_eq (v n i c : Nat) : crcSteps v n i c = crc32Go v n i c := by
  induction n generalizing i c with
  | zero => rfl
  | succ n ih => unfold crcSteps crc32Go; split <;> simp_all

theorem flitCrcOk_of (f : Flit) (h : (flitBits f 1920 96 == 0 && flitBits f 2016 32 == Nat.xor (crcSteps f.toNat 240 0 0xFFFFFFFF) 0xFFFFFFFF) =
    true) : flitCrcOk f = true := by
  rw [crcSteps_eq] at h; exact h

theorem ucCrcOk_of (f : Flit) (h : (flitBits f 2016 32 == Nat.xor (crcSteps f.toNat 252 0 0xFFFFFFFF) 0xFFFFFFFF) = true) :
    ucCrcOk f = true := by
  rw [crcSteps_eq] at h; exact h

/-- A flit for node 0 from node 9: lane, type, the words of its body, and the CRC that goes with them. -/
def tsFlit (vl typ : Nat) (body : List Nat) (crc : Nat) : Flit :=
  BitVec.ofNat 2048 ((mkFlit 0 9 vl typ 0 (bodyWords body)).toNat + at' 2016 crc)
def ucFlit (typ rk : Nat) (body : List Nat) (crc : Nat) : Flit :=
  BitVec.ofNat 2048 ((mkUcFlit typ rk 1 0 (bodyWords body)).toNat + at' 2016 crc)

def tsCtrl : Flit := tsFlit 6 7 [] 0xFDD7770A
def tsCell : Flit := tsFlit 0 0 [0, 0x8000000000000] 0x3492F147
def tsWrite : Flit := tsFlit 2 1 [0x40000, 0x50008, 7] 0x3DCAE719
def tsRead : Flit := tsFlit 2 2 [0x40000, 0x50008] 0x709CF9EF
def tsReadOut : Flit := tsFlit 2 2 [0x90000, 0x50008] 0x5CA7E048
def tsRdata : Flit := tsFlit 3 3 [3, 0] 0x1CAF9285
def tsCplt : Flit := tsFlit 3 4 [4] 0x3B1FB0F1
def tsLaunch : Flit := tsFlit 4 5 [0] 0x9C7C9E74
def tsMgmtLaunch : Flit := tsFlit 5 6 [0, 0x40000, 0] 0x793FA983
def tsMgmtCntr : Flit := tsFlit 5 6 [1, 4, 5] 0xFBE0959F
def tsMgmtCancel : Flit := tsFlit 5 6 [2, 0, 0, 3] 0x3E20AB29
def tsMgmtCancelNone : Flit := tsFlit 5 6 [2, 77, 0, 3] 0x009CC4E8
def tsMgmtCfgl : Flit := tsFlit 5 6 [3, 0x40001, 0, 0] 0x59C615FB
def tsMgmtCfgt : Flit := tsFlit 5 6 [4, 64, 0] 0x0815A533
def tsMgmtSrd : Flit := tsFlit 5 6 [5, 0, 0, 0x100] 0x31AD16B2
def tsMgmtSwr : Flit := tsFlit 5 6 [6, 0, 0x400100, 0x100] 0x4870E9CD
def ucCellF : Flit := ucFlit 1 0 [] 0x52632BE9
def ucMreqF : Flit := ucFlit 2 0 [0, 0, 0x10000] 0xDF7900AE
def ucMrspF : Flit := ucFlit 3 3 [1] 0x6F225695
def ucXlatF : Flit := ucFlit 4 0 [] 0x7E88DD63
def ucSysF : Flit := ucFlit 5 0 [] 0x77EAB9E1
def ucTimeF : Flit := ucFlit 6 0 [] 0x6C4C1467
def ucCtrlF : Flit := ucFlit 0 0 [] 0x5B014F6B

/-- The check value of CRC-32 (IEEE 802.3): the nine bytes "123456789". -/
theorem test_crc32 : crc32 0x393837363534333231 9 = 0xCBF43926 := by
  unfold crc32; rw [← crcSteps_eq]; decide +kernel

/-- Job 0 may be reached by node 9, has a page at 0x40000 in its export window, a graph in cluster 0, and requests under way. -/
def meshDev (ace : Bool) : State :=
  let d := (dev 0 0).countUp {}
  { d with
    work := { d.work with
      graphs := [(0, { used := true, bound := true, img := { clusters := [0] } })]
      jobs := tmod d.work.jobs 0 (fun j => { j with jexpb := 0x40000, jexpl := 1 }) }
    acc := { d.acc with tlb := [(0, [{ asid := 0, base := 4, bits := 16, leaf := 0xCE00000000040000#64 }])]
                        copies := [(1, { used := true })] }
    lnk := { d.lnk with
      ace := if ace then [(0, 0x9FE3FFC00FFC0#64)] else []
      reqs := [{ tag := 3, copy := some 1, len := 8 }, { tag := 4, xfer := some 0, len := 8 }] } }

theorem next_of (s : State) (typ : Nat) (f : Flit)
    (hc : (flitBits f 1920 96 == 0 && flitBits f 2016 32 == Nat.xor (crcSteps f.toNat 240 0 0xFFFFFFFF) 0xFFFFFFFF) = true)
    (h : flitType f = typ ∧ flitSeq f = ((s.tsPort 0).rxSeq + 1) % 4096 ∧ laneOk f = true ∧ s.rootOfNode (flitDnode f) = some 0) :
    s.flitNext 0 typ f 0 := ⟨flitCrcOk_of f hc, h⟩

theorem test_witness_TsuaxEvents_next (b : Bool) :
    (meshDev b).flitNext 0 7 tsCtrl 0 ∧
    (meshDev b).flitNext 0 0 tsCell 0 ∧
    (meshDev b).flitNext 0 1 tsWrite 0 ∧
    (meshDev b).flitNext 0 2 tsRead 0 ∧
    (meshDev b).flitNext 0 2 tsReadOut 0 ∧
    (meshDev b).flitNext 0 3 tsRdata 0 ∧
    (meshDev b).flitNext 0 4 tsCplt 0 ∧
    (meshDev b).flitNext 0 5 tsLaunch 0 ∧
    (meshDev b).flitNext 0 6 tsMgmtLaunch 0 ∧
    (meshDev b).flitNext 0 6 tsMgmtCntr 0 ∧
    (meshDev b).flitNext 0 6 tsMgmtCancel 0 ∧
    (meshDev b).flitNext 0 6 tsMgmtCancelNone 0 ∧
    (meshDev b).flitNext 0 6 tsMgmtCfgl 0 ∧
    (meshDev b).flitNext 0 6 tsMgmtCfgt 0 ∧
    (meshDev b).flitNext 0 6 tsMgmtSrd 0 ∧
    (meshDev b).flitNext 0 6 tsMgmtSwr 0 := by
  cases b <;>
    exact ⟨next_of _ _ _ (by decide +kernel) (by decide +kernel),
      next_of _ _ _ (by decide +kernel) (by decide +kernel),
      next_of _ _ _ (by decide +kernel) (by decide +kernel),
      next_of _ _ _ (by decide +kernel) (by decide +kernel),
      next_of _ _ _ (by decide +kernel) (by decide +kernel),
      next_of _ _ _ (by decide +kernel) (by decide +kernel),
      next_of _ _ _ (by decide +kernel) (by decide +kernel),
      next_of _ _ _ (by decide +kernel) (by decide +kernel),
      next_of _ _ _ (by decide +kernel) (by decide +kernel),
      next_of _ _ _ (by decide +kernel) (by decide +kernel),
      next_of _ _ _ (by decide +kernel) (by decide +kernel),
      next_of _ _ _ (by decide +kernel) (by decide +kernel),
      next_of _ _ _ (by decide +kernel) (by decide +kernel),
      next_of _ _ _ (by decide +kernel) (by decide +kernel),
      next_of _ _ _ (by decide +kernel) (by decide +kernel),
      next_of _ _ _ (by decide +kernel) (by decide +kernel)⟩

theorem test_witness_TsuaxEvents_bad : flitCrcOk (BitVec.ofNat 2048 (at' 1920 1)) = false := by decide +kernel

theorem test_witness_TsuaxEvents :
    (let t := (meshDev true).flitTaken 0 tsCell
     let c := cellOfNumber (flitBits tsCell 128 1280)
     c.dcl.toNat < 48 ∧ t.partOfCluster c.dcl.toNat = 0 ∧ t.ctxTag (flitJob tsCell) c.dcl.toNat = some 0 ∧
     (t.graphFor (flitJob tsCell) c (flitSnode tsCell)).isSome = true) ∧
    ((1 ≤ flitLen tsWrite ∧ flitLen tsWrite ≤ 192) ∧
     ((meshDev true).flitTaken 0 tsWrite).allowed (flitSnode tsWrite) 43 (flitJob tsWrite) none = true ∧
     (((meshDev true).flitTaken 0 tsWrite).outWrite 0 (flitJob tsWrite) (flitWord tsWrite 0) (flitBytes tsWrite 16 8)).2.1 = 0 ∧
     ((meshDev false).flitTaken 0 tsWrite).allowed (flitSnode tsWrite) 43 (flitJob tsWrite) none = false) ∧
    ((1 ≤ flitLen tsRead ∧ flitLen tsRead ≤ 192) ∧ (1 ≤ flitLen tsReadOut ∧ flitLen tsReadOut ≤ 192) ∧
     ((meshDev true).flitTaken 0 tsRead).allowed (flitSnode tsRead) 44 (flitJob tsRead) none = true ∧
     okAnd (((meshDev true).flitTaken 0 tsRead).outRead 0 (flitJob tsRead) (flitWord tsRead 0) 8) (fun bs => bs.length == 8) = true ∧
     okAnd (((meshDev true).flitTaken 0 tsReadOut).outRead 0 (flitJob tsReadOut) (flitWord tsReadOut 0) 8) (fun _ => true) = false ∧
     ((meshDev false).flitTaken 0 tsRead).allowed (flitSnode tsRead) 44 (flitJob tsRead) none = false) ∧
    (let t := (meshDev true).flitTaken 0 tsRdata
     let r : PeerReq := { tag := 3, copy := some 1, len := 8 }
     bits (flitWord tsRdata 0) 56 8 = 0 ∧ t.lnk.reqs.find? (fun x => x.tag == flitWord tsRdata 0 % 65536) = some r ∧
     r.copy = some 1 ∧ r.xfer = none ∧ ((t.onLnk (fun l => { l with reqs := l.reqs.filter (fun x => x.tag != 3) })).copyOp 1).used = true) := by decide +kernel

theorem test_witness_TsuaxEvents_requests :
    (let t := (meshDev true).flitTaken 0 tsCplt
     let r : PeerReq := { tag := 4, xfer := some 0, len := 8 }
     bits (flitWord tsCplt 0) 56 8 = 0 ∧ t.lnk.reqs.find? (fun x => x.tag == flitWord tsCplt 0 % 65536) = some r) ∧
    (let t := (meshDev true).flitTaken 0 tsLaunch
     let qk := flitWord tsLaunch 0 % 1024
     t.allowed (flitSnode tsLaunch) 46 0 (some qk) = true ∧ t.queueOfJob qk 0 = true ∧ (t.job 0).state = 1 ∧ (t.queue qk).full = false ∧
     t.pmHolds (qk / 256) = false ∧
     ((meshDev false).flitTaken 0 tsLaunch).allowed (flitSnode tsLaunch) 46 0 (some qk) = false) ∧
    (let t := (meshDev true).flitTaken 0 tsMgmtLaunch
     t.allowed (flitSnode tsMgmtLaunch) 46 0 (some 0) = true ∧
     okAnd ((t.cfgWordsFrom 0 0 (flitWord tsMgmtLaunch 1) 0 24).mapError (fun e => e.1)) (fun r => r.2.2.queueOfJob 0 0 && (r.2.2.job 0).state == 1 &&
       !(r.2.2.queue 0).full && !r.2.2.pmHolds 0) = true) ∧
    (let t := (meshDev true).flitTaken 0 tsMgmtCntr
     t.allowed (flitSnode tsMgmtCntr) 46 0 none = true ∧ flitWord tsMgmtCntr 1 < 1024) ∧
    (let t := (meshDev true).flitTaken 0 tsMgmtCancel
     t.allowed (flitSnode tsMgmtCancel) 45 0 none = true ∧ flitWord tsMgmtCancel 3 = 3 ∧ flitWord tsMgmtCancel 1 < 2 ^ 32 ∧
     (t.cancelOf 0 3 (flitWord tsMgmtCancel 1)).isSome = true) ∧
    (let t := (meshDev true).flitTaken 0 tsMgmtCancelNone
     t.cancelOf 0 3 (flitWord tsMgmtCancelNone 1) = none) ∧
    (let t := (meshDev true).flitTaken 0 tsMgmtCfgl
     t.allowed (flitSnode tsMgmtCfgl) 42 0 none = true ∧ flitWord tsMgmtCfgl 2 = 0 ∧
     (match t.cfglRun 0 0 (flitWord tsMgmtCfgl 1) 0 0 with | .finish _ _ _ _ => true | _ => false) = true) ∧
    (let t := (meshDev true).flitTaken 0 tsMgmtCfgt
     t.partOfCluster 0 = 0 ∧ (match t.cfgtRun 64#64 0#64 0 with | .finish _ _ _ _ => true | _ => false) = true) ∧
    (let t := (meshDev true).flitTaken 0 tsMgmtSrd
     t.allowed (flitSnode tsMgmtSrd) 41 0 none = true ∧ (t.regRead (t.flitIssuer 0 tsMgmtSrd) (flitWord tsMgmtSrd 3) 0#64).isSome = true) ∧
    (let t := (meshDev true).flitTaken 0 tsMgmtSwr
     (match t.regWrite (t.flitIssuer 0 tsMgmtSwr) (flitWord tsMgmtSwr 3) 0#64 0x400100#64 with | .done _ => true | _ => false) = true) ∧
    ((meshDev false).flitTaken 0 tsMgmtSrd).allowed (flitSnode tsMgmtSrd) 41 0 none = false := by decide +kernel

def netDev (cop stage nop : Nat) : State :=
  { meshDev true with
    acc := { (meshDev true).acc with xfers := [(0, { used := true, num := 0, stage := stage
                                                     cell := { cell := { cop := BitVec.ofNat 10 cop, pay := BitVec.ofNat 1024 (nop * 2 ^ 36 + 16 * 2 ^ 64) } } })] }
    lnk := { (meshDev true).lnk with qps := [(3, { valid := true })] } }

/-- What a good key allows rests on Config.rkeyOk, whose values no test can know. -/
theorem test_witness_EthernetEvents :
    (let s := netDev 0x306 1 1
     let qp := tget s.lnk.qps 3
     qp.valid = true ∧ (s.outWrite qp.part qp.job 0x40000 [1, 2]).2.1 = 0 ∧ okAnd (s.outRead qp.part qp.job 0x40000 2) (fun _ => true) = true ∧
     (s.xferOp (xferKey 0 0 0)).used = true ∧ isXnet (s.xferOp (xferKey 0 0 0)).cell.cell = true ∧ (s.xferOp (xferKey 0 0 0)).stage = 1 ∧
     xferNop (s.xferOp (xferKey 0 0 0)).cell.cell ≠ 2) ∧
    (let s := netDev 0x306 1 2
     let o := s.xferOp (xferKey 0 0 0)
     xferNop o.cell.cell = 2 ∧ xferLen o.cell.cell ≤ ((o.data ++ List.replicate 16 7#8).take (xferLen o.cell.cell)).length ∧
     ((o.data ++ [7#8]).take (xferLen o.cell.cell)).length < xferLen o.cell.cell) ∧
    (let s := heldDev {} true
     (s.modGraph 0 0 (fun g => { g with bound := true })).graph 0 0 |>.live) = true := by decide +kernel

/-- Module 0 of quarter 0, and its far end, module 0 of quarter 1, which holds the flit if `held`. -/
def ucDev (u : UcMod) (held : Bool) (h : Nat) : State :=
  (dev 0 0).onLnk (fun l => { l with
    ucs := [(0, u), (64, if held then { replay := [ucCellF], cells := [{ cell := ucCell ucCellF, rseq := 1 }] } else {})], wins := [(64, { h := h })] })

theorem uc_next_of (s : State) (typ : Nat) (f : Flit)
    (hc : (flitBits f 2016 32 == Nat.xor (crcSteps f.toNat 252 0 0xFFFFFFFF) 0xFFFFFFFF) = true)
    (h : (s.ucMod 0 0).state < 2 ∧ ucType f = typ ∧ ucSeq f = (s.ucMod 0 0).expects)
    (h2 : s.ucHas 0 0 f = false ∧ (s.ucFresh 0 0 f).isSome = true) : ∃ base, s.ucNext base 0 0 typ f true := by
  obtain ⟨b, hb⟩ := Option.isSome_iff_exists.mp h2.2
  exact ⟨b, h.1, ucCrcOk_of f hc, h.2.1, h.2.2, .inr ⟨h2.1, rfl, hb⟩⟩

theorem test_witness_UcieEvents_next :
    ((ucDev {} true 5).ucNext (ucDev {} true 5) 0 0 1 ucCellF false) ∧
    (∃ b, (ucDev {} false 0).ucNext b 0 0 2 ucMreqF true) ∧ (∃ b, (ucDev {} false 1).ucNext b 0 0 2 ucMreqF true) ∧
    (∃ b, (ucDev {} false 0).ucNext b 0 0 3 ucMrspF true) ∧ (∃ b, (ucDev {} false 0).ucNext b 0 0 4 ucXlatF true) ∧
    (∃ b, (ucDev {} false 0).ucNext b 0 0 5 ucSysF true) ∧ (∃ b, (ucDev {} false 0).ucNext b 0 0 6 ucTimeF true) :=
  ⟨⟨by decide +kernel, ucCrcOk_of _ (by decide +kernel), by decide +kernel, by decide +kernel, .inl ⟨by decide +kernel, rfl⟩⟩,
   uc_next_of _ _ _ (by decide +kernel) (by decide +kernel) (by decide +kernel), uc_next_of _ _ _ (by decide +kernel) (by decide +kernel) (by decide +kernel),
   uc_next_of _ _ _ (by decide +kernel) (by decide +kernel) (by decide +kernel), uc_next_of _ _ _ (by decide +kernel) (by decide +kernel) (by decide +kernel),
   uc_next_of _ _ _ (by decide +kernel) (by decide +kernel) (by decide +kernel), uc_next_of _ _ _ (by decide +kernel) (by decide +kernel) (by decide +kernel)⟩

theorem test_witness_UcieEvents_crc : ucCrcOk ucCtrlF = true ∧ ucCrcOk (BitVec.ofNat 2048 (at' 2016 1)) = false := by
  constructor
  · exact ucCrcOk_of _ (by decide +kernel)
  · unfold ucCrcOk crc32; rw [← crcSteps_eq]; decide +kernel

theorem test_witness_UcieEvents :
    (let t := (ucDev {} true 5).ucTaken 0 0 ucCellF
     ucFar 0 0 = (1, 0) ∧ ucRk ucCellF = 0 ∧
     ((takeFirst (fun (x : MCell) => x.cell == ucCell ucCellF && x.stamp % 2 ^ 48 == ucStamp ucCellF && x.rk == ucRk ucCellF &&
       x.rseq == ucRseq ucCellF) (t.ucMod 1 0).cells).map (fun r => clusterQuarter r.1.cell.dcl.toNat)) = some 0) ∧
    (((ucDev {} false 0).ucTaken 0 0 ucMreqF).winTake (ucWinKey 0 0 1 0) (bits (ucWord ucMreqF 2) 16 16)).isSome = true ∧
    ((ucDev {} false 1).ucTaken 0 0 ucMreqF).winTake (ucWinKey 0 0 1 0) (bits (ucWord ucMreqF 2) 16 16) = none ∧
    (((ucDev {} false 0).ucTaken 0 0 ucMrspF).winTake (ucWinKey 0 3 1 0) (ucWord ucMrspF 0 % 65536)).isSome = true ∧
    (ucType ucCtrlF = 0 ∧ ((ucDev { nakked := true } false 5).ucMod 0 0).state < 2 ∧ ((ucDev { nakked := true } false 5).ucMod 0 0).nakked = true) ∧
    ((ucDev { state := 2 } false 5).ucMod 0 0).state = 2 := by decide +kernel

/-- The comparator of cluster 0 with two exit cells of a twin. -/
def twinDev (x y : BitVec 1024) : State :=
  (dev 0 0).onEng (fun e => { e with comps := [(0, [{ cell := { pay := x }, cmp := 1, age := 1 }, { cell := { pay := y }, cmp := 2, age := 2 }])] })

/-- A dynamic graph in cluster 0. -/
def restartDev : State := heldDev { clusters := [0], dyn := true } true |>.modGraph 0 0 (fun g => { g with bound := true })

theorem test_witness_ReliabilityEvents :
    (match findPair (tget (twinDev 5 5).eng.comps 0) with | some (a, b) => exitEqual a.cell b.cell | none => false) = true ∧
    (match findPair (tget (twinDev 5 6).eng.comps 0) with | some (a, b) => !exitEqual a.cell b.cell | none => false) = true ∧
    (let l := [({ cell := {}, cmp := 1, age := 1 } : MCell)]
     (l.find? (fun a => !l.any (fun b => twinCopyOf a != twinCopyOf b && pairKey a b))).isSome = true) ∧
    3 ≤ ((restartDev.modGraph 0 0 (fun g => { g with mism := 2 })).graph 0 0).mism + 1 ∧
    ((((dev 0 0).freeNumber 1).2.freeNumber 1).2.errRecord 0 6 0 0 0 0 0).liveGraphs.filter (fun e => (imageClusters e.2.img).contains 0) = [] ∧
    (let s := (restartDev.freeNumber 1).2.freeNumber 1 |>.2.errRecord 0 6 0 0 0 (restartDev.freeNumber 1).1 0
     (s.liveGraphs.filter (fun e => (imageClusters e.2.img).contains 0)).map (fun e => e.1) = [0] ∧
     s.newRegion 0 0 (s.graph 0 0) [] = none ∧ s.newRegion 0 0 (s.graph 0 0) [(0, [1])] = some [1]) ∧
    (inCluster 0 (2 ^ 60) = true ∧ inCluster 0 0 = false) := by decide +kernel

/-! ## Witnesses: the whole machine -/

theorem test_witness_MemoryLaws : State.reset.Sound ∧ ((State.reset.setByte 64 7).setByte 65 9).Sound ∧
    (∀ a, State.reset.byteAt a = State.reset.byteAt a) := ⟨rfl, rfl, fun _ => rfl⟩

/-- A slot of a mapped block, a slot that none holds, an event, and an instruction of a block that is no event: each as the next pick. -/
theorem test_witness_StepRunsInstruction :
    (let s := (dev 1 2).onSched (fun c => { c with agenda := [.slot 0 0 0, .slot 0 1 0] })
     s.sched.agenda = .slot 0 0 0 :: [.slot 0 1 0] ∧ (s.frame 0 0).used = true ∧ 0 < (s.frame 0 0).slots.length ∧
     decode ((s.frame 0 0).slot 0).word = .ok (.add .always .none .none) ∧ (s.frame 0 1).used = false ∧ (s.frame 0 0).slots.length ≤ 3) ∧
    (let s := (dev 1 2).onSched (fun c => { c with agenda := [.event .attReport] })
     s.sched.agenda = .event .attReport :: [] ∧ Instr.attReport.isWord = false ∧ Instr.attReport.wf = true) ∧
    Instr.isWord (.ret .always 0) = true ∧ (dev 1 2).sched.agenda = [] ∧ decode (BitVec.ofNat 32 0x05000000) = .ok (.ret .always 0) :=
  ⟨⟨rfl, rfl, by decide, rfl, rfl, by decide⟩, ⟨rfl, rfl, rfl⟩, rfl, rfl, rfl⟩

theorem test_witness_TrapAndReturn :
    (let b := (dev 0 0).abortAll 0
     (b.strand 0).hmode = false ∧ (b.job (b.strand 0).who.job).tvec = 0) ∧
    (let b := ((dev 0 0).modJob 0 (fun j => { j with tvec := 0x8000#64 })).abortAll 0
     (b.strand 0).hmode = false ∧ (b.job (b.strand 0).who.job).tvec ≠ 0) ∧
    (let b := ((dev 0 0).modStrand 0 (fun x => { x with hmode := true })).abortAll 0
     (b.strand 0).hmode = true) := by decide +kernel

theorem test_witness_UntilCommit :
    (let s := (dev 1 2).onSched (fun c => { c with agenda := [.slot 0 0 0] })
     (∃ ps, s.sched.agenda = .slot 0 0 0 :: ps) ∧ ∃ t, step s = .next t) :=
  ⟨⟨[], rfl⟩, ⟨_, rfl⟩⟩

/-- Every slot of the test device holds a word that decodes. -/
theorem test_witness_NothingStops : ∀ n, n < (((dev 1 2).frame 0 0).slots).length →
    ∃ i, decode (((dev 1 2).frame 0 0).slot n).word = .ok i := by
  intro n h
  have : n = 0 ∨ n = 1 ∨ n = 2 := by have : n < 3 := h; omega
  rcases this with rfl | rfl | rfl <;> exact ⟨_, rfl⟩

/-! ## Worked examples of the spec -/

/-- What the left position of slot 1 holds once an instruction whose operands are l and r has run. -/
def sent (i : Instr) (l r : Word) : Option Token :=
  match exec i (two l r) with
  | .next t => ((t.frame 0 0).slot 1).left
  | _ => none

/-- R114, R115: the chain that builds 0x123456789ABCDEF0. -/
theorem test_const_chain :
    sent (.const .always 0x123 (.left 1)) 0 0 = some (.val 0x123) ∧
    sent (.consth .always 0x8AC (.left 1)) 0x123 0 = some (.val 0x2468AC) ∧
    sent (.consth .always 0x15E6 (.left 1)) 0x48D159E26 0 = some (.val 0x91A2B3C4D5E6) ∧
    sent (.consth .always 0x1EF0 (.left 1)) 0x91A2B3C4D5E6 0 = some (.val 0x123456789ABCDEF0) := by decide +kernel

/-- R117: divisions at their limits. -/
theorem test_division_limits :
    sent (.div .always (.left 1) .none) 0x8000000000000000 0xFFFFFFFFFFFFFFFF = some (.val 0x8000000000000000) ∧
    sent (.rem .always (.left 1) .none) 0x8000000000000000 0xFFFFFFFFFFFFFFFF = some (.val 0) ∧
    sent (.div .always (.left 1) .none) 0xFFFFFFFFFFFFFFF9 2 = some (.val 0xFFFFFFFFFFFFFFFD) ∧
    sent (.rem .always (.left 1) .none) 0xFFFFFFFFFFFFFFF9 2 = some (.val 0xFFFFFFFFFFFFFFFF) ∧
    sent (.div .always (.left 1) .none) 7 0xFFFFFFFFFFFFFFFE = some (.val 0xFFFFFFFFFFFFFFFD) ∧
    sent (.rem .always (.left 1) .none) 7 0xFFFFFFFFFFFFFFFE = some (.val 1) ∧
    sent (.divu .always (.left 1) .none) 0xFFFFFFFFFFFFFFF9 2 = some (.val 0x7FFFFFFFFFFFFFFC) ∧
    sent (.remu .always (.left 1) .none) 0xFFFFFFFFFFFFFFF9 2 = some (.val 1) := by decide +kernel

/-- R118, R120: the worked cases of SEXT and BFXI; a field put in by BFI. -/
theorem test_fields :
    sent (.sext .always .w (.left 1) .none) 0x80000001 0 = some (.val 0xFFFFFFFF80000001) ∧
    sent (.bfxi .always 0x203 (.left 1)) 0xABCD 0 = some (.val 0xB) ∧
    sent (.bfi .always (.left 1) .none) 0xFFFF 0x2030000000000005 = some (.val 0xF5FF) := by decide +kernel

/-- R121 to R127: the tie of the worked case in four modes, and −2.75 as an integer. -/
theorem test_rounding_modes :
    sent (.fadd .always .s .rne (.left 1) .none) 0x3F800000 0x33800000 = some (.val 0x3F800000) ∧
    sent (.fadd .always .s .rtz (.left 1) .none) 0x3F800000 0x33800000 = some (.val 0x3F800000) ∧
    sent (.fadd .always .s .rup (.left 1) .none) 0x3F800000 0x33800000 = some (.val 0x3F800001) ∧
    sent (.fadd .always .s .rdn (.left 1) .none) 0x3F800000 0x33800000 = some (.val 0x3F800000) ∧
    sent (.fcvtFI .always .d .rtz (.left 1) .none) 0xC006000000000000 0 = some (.val 0xFFFFFFFFFFFFFFFE) ∧
    sent (.fcvtFI .always .d .rdn (.left 1) .none) 0xC006000000000000 0 = some (.val 0xFFFFFFFFFFFFFFFD) ∧
    sent (.fcvtFI .always .d .rup (.left 1) .none) 0xC006000000000000 0 = some (.val 0xFFFFFFFFFFFFFFFE) := by decide +kernel

/-- R122, R124, R125: canonical NaN, the order of zeros, compares with a NaN. -/
theorem test_special_floats :
    sent (.fadd .always .s .rne (.left 1) .none) 0x7F800000 0xFF800000 = some (.val 0x7FC00000) ∧
    sent (.fmin .always .d (.left 1) .none) 0 0x8000000000000000 = some (.val 0x8000000000000000) ∧
    sent (.fteq .always .s (.left 1) .none) 0x7FC00000 0x7FC00000 = some (.val 0) ∧
    sent (.fteq .always .s (.left 1) .none) 0 0x80000000 = some (.val 1) := by decide +kernel

/-- R220 of spec/11: two codes of E4M3: 256 is 8 times 2 to the fifth, 448 is 14 times it. -/
theorem test_e4m3_values : fdec e4m3 0x78 = .fin false 8 1 5 ∧ fdec e4m3 0x7E = .fin false 14 1 5 := by decide +kernel

/-- R88, R96, R147 and the routes of spec/08: the descriptors dal and dml. -/
theorem test_cell_descriptors :
    (let c := cellOfDesc 0xFC820600000F0000 0 0
     c.dcl = 63 ∧ c.dport = 4 ∧ c.cop = 0x103 ∧ c.pos = 0 ∧ c.run = 15) ∧
    (let c := cellOfDesc 0xFCA20A80000F0000 0 0
     c.dcl = 63 ∧ c.dport = 5 ∧ c.cop = 0x105 ∧ c.pos = 1 ∧ c.run = 15) := by decide +kernel

/-- The CFAA header of spec/04: COP 0x289 stands at bits 114 to 105. -/
theorem test_cell_header : ({ cop := 0x289 } : Cell).number = 0x289 * 2 ^ 105 ∧ (cellOfNumber (0x289 * 2 ^ 105)).cop = 0x289 := by
  decide +kernel

/-- The SCALL of spec/13 in slot 8 of a block at 0x40_0000_2000 with LEN 9; then the return. -/
theorem test_scall_trap :
    (let s := ((dev 0 0).modJob 0 (fun j => { j with tvec := 0x8000#64 })).takeTrap 0 { cause := 7, slot := some 8, arg := 0x2A } 0x400000202C 9
     let x := s.strand 0
     let y := ({ x with tbank2 := 0x2B } : Strand).leaveTrap true
     tget x.regs 60 = 0x0744000000000000 ∧ tget x.regs 61 = 0x400000202C ∧ x.tresume = 0x400000202C ∧ tget x.regs 62 = 0x2A ∧
     x.hmode = true ∧ x.pc = 0x8000 ∧ y.pc = 0x400000202C ∧ tget y.regs 62 = 0x2B ∧ tget y.regs 60 = 0 ∧ y.hmode = false) := by decide +kernel

/-! ## Words of the spec's encodings, and terms that the check refuses -/

theorem test_decode_exits :
    decode 0x016FFFCF#32 = .ok (.bro .onTrue 5 (-49)) ∧
    decode 0x03AFFFCF#32 = .ok (.callo .onFalse 5 (-49)) ∧
    decode 0x02300000#32 = .ok (.bri .always 6) ∧
    decode 0x04700000#32 = .ok (.calli .onTrue 6) ∧
    decode 0x05B00000#32 = .ok (.ret .onFalse 6) ∧
    decode 0x06300000#32 = .ok (.scall .always 6) ∧
    decode 0x07700000#32 = .ok (.exit .onTrue 6) := by
  refine ⟨rfl, rfl, rfl, rfl, rfl, rfl, rfl⟩

theorem test_decode_plumbing :
    decode 0x08829A85#32 = .ok (.null .onFalse (.left 5) (.right 77)) ∧
    decode 0x09029A85#32 = .ok (.mov .always (.left 5) (.right 77)) ∧
    decode 0x0A429A85#32 = .ok (.sel .onTrue (.left 5) (.right 77)) ∧
    decode 0x0B407FFF#32 = .ok (.getr .onTrue 63 (.pred 127)) ∧
    decode 0x0C805200#32 = .ok (.putr .onFalse 41) ∧
    decode 0x0D20014D#32 = .ok (.const .always (-4096) (.right 77)) ∧
    decode 0x0E3FFE85#32 = .ok (.consth .always 8191 (.left 5)) := by
  refine ⟨rfl, rfl, rfl, rfl, rfl, rfl, rfl⟩

theorem test_decode_integer_a :
    decode 0x10829A85#32 = .ok (.add .onFalse (.left 5) (.right 77)) ∧
    decode 0x11029A85#32 = .ok (.sub .always (.left 5) (.right 77)) ∧
    decode 0x12429A85#32 = .ok (.mul .onTrue (.left 5) (.right 77)) ∧
    decode 0x13829A85#32 = .ok (.mulh .onFalse (.left 5) (.right 77)) ∧
    decode 0x14029A85#32 = .ok (.mulhu .always (.left 5) (.right 77)) ∧
    decode 0x15429A85#32 = .ok (.div .onTrue (.left 5) (.right 77)) ∧
    decode 0x16829A85#32 = .ok (.divu .onFalse (.left 5) (.right 77)) ∧
    decode 0x17029A85#32 = .ok (.rem .always (.left 5) (.right 77)) ∧
    decode 0x18429A85#32 = .ok (.remu .onTrue (.left 5) (.right 77)) ∧
    decode 0x19829A85#32 = .ok (.and .onFalse (.left 5) (.right 77)) ∧
    decode 0x1A029A85#32 = .ok (.or .always (.left 5) (.right 77)) ∧
    decode 0x1B429A85#32 = .ok (.xor .onTrue (.left 5) (.right 77)) ∧
    decode 0x1C829A85#32 = .ok (.andn .onFalse (.left 5) (.right 77)) ∧
    decode 0x1D029A85#32 = .ok (.shl .always (.left 5) (.right 77)) := by
  refine ⟨rfl, rfl, rfl, rfl, rfl, rfl, rfl, rfl, rfl, rfl, rfl, rfl, rfl, rfl⟩

theorem test_decode_integer_b :
    decode 0x1E429A85#32 = .ok (.shr .onTrue (.left 5) (.right 77)) ∧
    decode 0x1F829A85#32 = .ok (.sar .onFalse (.left 5) (.right 77)) ∧
    decode 0x20029A85#32 = .ok (.rotl .always (.left 5) (.right 77)) ∧
    decode 0x21429A85#32 = .ok (.min .onTrue (.left 5) (.right 77)) ∧
    decode 0x22829A85#32 = .ok (.max .onFalse (.left 5) (.right 77)) ∧
    decode 0x23029A85#32 = .ok (.minu .always (.left 5) (.right 77)) ∧
    decode 0x24429A85#32 = .ok (.maxu .onTrue (.left 5) (.right 77)) ∧
    decode 0x25829A85#32 = .ok (.abs .onFalse (.left 5) (.right 77)) ∧
    decode 0x26029A85#32 = .ok (.neg .always (.left 5) (.right 77)) ∧
    decode 0x27429A85#32 = .ok (.clz .onTrue (.left 5) (.right 77)) ∧
    decode 0x28829A85#32 = .ok (.ctz .onFalse (.left 5) (.right 77)) ∧
    decode 0x29029A85#32 = .ok (.popc .always (.left 5) (.right 77)) ∧
    decode 0x2A429A85#32 = .ok (.bfx .onTrue (.left 5) (.right 77)) ∧
    decode 0x2B829A85#32 = .ok (.bfi .onFalse (.left 5) (.right 77)) ∧
    decode 0x2C050BFF#32 = .ok (.sext .always .h (.pred 127) (.left 5)) ∧
    decode 0x2D490BFF#32 = .ok (.zext .onTrue .w (.pred 127) (.left 5)) := by
  refine ⟨rfl, rfl, rfl, rfl, rfl, rfl, rfl, rfl, rfl, rfl, rfl, rfl, rfl, rfl, rfl, rfl⟩

theorem test_decode_tests :
    decode 0x30810BFF#32 = .ok (.teq .onFalse (.pred 127) (.left 5)) ∧
    decode 0x31010BFF#32 = .ok (.tne .always (.pred 127) (.left 5)) ∧
    decode 0x32410BFF#32 = .ok (.tlt .onTrue (.pred 127) (.left 5)) ∧
    decode 0x33810BFF#32 = .ok (.tle .onFalse (.pred 127) (.left 5)) ∧
    decode 0x34010BFF#32 = .ok (.tltu .always (.pred 127) (.left 5)) ∧
    decode 0x35410BFF#32 = .ok (.tleu .onTrue (.pred 127) (.left 5)) ∧
    decode 0x36810BFF#32 = .ok (.tbit .onFalse (.pred 127) (.left 5)) := by
  refine ⟨rfl, rfl, rfl, rfl, rfl, rfl, rfl⟩

theorem test_decode_immediates :
    decode 0x403FFC85#32 = .ok (.addi .always (-2) (.left 5)) ∧
    decode 0x417FFC85#32 = .ok (.muli .onTrue (-2) (.left 5)) ∧
    decode 0x42BFFC85#32 = .ok (.andi .onFalse (-2) (.left 5)) ∧
    decode 0x433FFC85#32 = .ok (.ori .always (-2) (.left 5)) ∧
    decode 0x447FFC85#32 = .ok (.xori .onTrue (-2) (.left 5)) ∧
    decode 0x48BFFC85#32 = .ok (.teqi .onFalse (-2) (.left 5)) ∧
    decode 0x493FFC85#32 = .ok (.tnei .always (-2) (.left 5)) ∧
    decode 0x4A7FFC85#32 = .ok (.tlti .onTrue (-2) (.left 5)) ∧
    decode 0x4BBFFC85#32 = .ok (.tlei .onFalse (-2) (.left 5)) ∧
    decode 0x4C3FFC85#32 = .ok (.tltui .always (-2) (.left 5)) ∧
    decode 0x4D7FFC85#32 = .ok (.tleui .onTrue (-2) (.left 5)) ∧
    decode 0x45807E85#32 = .ok (.shli .onFalse 63 (.left 5)) ∧
    decode 0x46007E85#32 = .ok (.shri .always 63 (.left 5)) ∧
    decode 0x47407E85#32 = .ok (.sari .onTrue 63 (.left 5)) ∧
    decode 0x4E1F8B4D#32 = .ok (.bfxi .always 0xFC5 (.right 77)) := by
  refine ⟨rfl, rfl, rfl, rfl, rfl, rfl, rfl, rfl, rfl, rfl, rfl, rfl, rfl, rfl, rfl⟩

theorem test_decode_floating_point :
    decode 0x60829A85#32 = .ok (.fadd .onFalse .s .rne (.left 5) (.right 77)) ∧
    decode 0x61269A85#32 = .ok (.fsub .always .d .rtz (.left 5) (.right 77)) ∧
    decode 0x624A9A85#32 = .ok (.fmul .onTrue .s .rup (.left 5) (.right 77)) ∧
    decode 0x63AE9A85#32 = .ok (.fdiv .onFalse .d .rdn (.left 5) (.right 77)) ∧
    decode 0x64029A85#32 = .ok (.fsqrt .always .s .rne (.left 5) (.right 77)) ∧
    decode 0x67669A85#32 = .ok (.fcvtFF .onTrue .d .rtz (.left 5) (.right 77)) ∧
    decode 0x688A9A85#32 = .ok (.fcvtFI .onFalse .s .rup (.left 5) (.right 77)) ∧
    decode 0x692E9A85#32 = .ok (.fcvtIF .always .d .rdn (.left 5) (.right 77)) ∧
    decode 0x65629A85#32 = .ok (.fmin .onTrue .d (.left 5) (.right 77)) ∧
    decode 0x66829A85#32 = .ok (.fmax .onFalse .s (.left 5) (.right 77)) ∧
    decode 0x6A229A85#32 = .ok (.fteq .always .d (.left 5) (.right 77)) ∧
    decode 0x6B429A85#32 = .ok (.ftlt .onTrue .s (.left 5) (.right 77)) ∧
    decode 0x6CA29A85#32 = .ok (.ftle .onFalse .d (.left 5) (.right 77)) ∧
    decode 0x6D029A85#32 = .ok (.fclass .always .s (.left 5) (.right 77)) := by
  refine ⟨rfl, rfl, rfl, rfl, rfl, rfl, rfl, rfl, rfl, rfl, rfl, rfl, rfl, rfl⟩

theorem test_decode_memory :
    decode 0x707F1A85#32 = .ok (.ld .onTrue 31 17 2 true (.left 5)) ∧
    decode 0x7113EE00#32 = .ok (.st .always 9 30 3 true) ∧
    decode 0x72822000#32 = .ok (.pref .onFalse 1 2) := by
  refine ⟨rfl, rfl, rfl⟩

theorem test_decode_cells :
    decode 0x8042A000#32 = .ok (.enq .onTrue 21) ∧
    decode 0x8182A000#32 = .ok (.enqm .onFalse 21) ∧
    decode 0x8402A000#32 = .ok (.parm .always 21) ∧
    decode 0x8742A000#32 = .ok (.putp .onTrue 21) ∧
    decode 0x82815A00#32 = .ok (.strm .onFalse 10 6 true) ∧
    decode 0x83015A00#32 = .ok (.strms .always 10 6 true) ∧
    decode 0x8500014D#32 = .ok (.rngp .always (.right 77)) ∧
    decode 0x8643E14D#32 = .ok (.getp .onTrue 31 (.right 77)) := by
  refine ⟨rfl, rfl, rfl, rfl, rfl, rfl, rfl, rfl⟩

theorem test_decode_copies :
    decode 0x90426E85#32 = .ok (.cpy .onTrue 19 3 true (.left 5)) ∧
    decode 0x91826E85#32 = .ok (.cpyg .onFalse 19 3 true (.left 5)) ∧
    decode 0x92026E85#32 = .ok (.cpys .always 19 3 true (.left 5)) ∧
    decode 0x93426E85#32 = .ok (.cpyr .onTrue 19 3 true (.left 5)) := by
  refine ⟨rfl, rfl, rfl, rfl⟩

theorem test_decode_waits :
    decode 0xA02133E2#32 = .ok (.waitn .always 33 12 31 2) ∧
    decode 0xA1470085#32 = .ok (.waitt .onTrue 3 2 (.left 5)) ∧
    decode 0xA228C085#32 = .ok (.waita .always 20 .gt (.left 5)) ∧
    decode 0xA33E014D#32 = .ok (.waitb .always 31 (.right 77)) ∧
    decode 0xA48E01FF#32 = .ok (.tbp .onFalse 7 (.pred 127)) ∧
    decode 0xA5824000#32 = .ok (.arv .onFalse 18) ∧
    decode 0xA6024000#32 = .ok (.arvx .always 18) ∧
    decode 0xA7424000#32 = .ok (.expt .onTrue 18) ∧
    decode 0xA8000002#32 = .ok (.fence .always true false) ∧
    decode 0xA9400000#32 = .ok (.yield .onTrue) ∧
    decode 0xAA3E0085#32 = .ok (.tlrd .always 31 0 (.left 5)) := by
  refine ⟨rfl, rfl, rfl, rfl, rfl, rfl, rfl, rfl, rfl, rfl, rfl⟩

theorem test_decode_atomics :
    decode 0xB009A02D#32 = .ok (.atom .always .ccas 13 45) ∧
    decode 0xB15EC000#32 = .ok (.red .onTrue .resc 22) := by
  refine ⟨rfl, rfl⟩

theorem test_decode_leases :
    decode 0xC010BC85#32 = .ok (.leash .always .trsv 5 7 (.left 5)) ∧
    decode 0xC140C000#32 = .ok (.lrel .onTrue 6) ∧
    decode 0xC200E14D#32 = .ok (.lqry .always 7 (.right 77)) ∧
    decode 0xC3806000#32 = .ok (.lpri .onFalse 3) := by
  refine ⟨rfl, rfl, rfl, rfl⟩

theorem test_decode_launches :
    decode 0xD0013000#32 = .ok (.launch .always 9 4) ∧
    decode 0xD1400085#32 = .ok (.qclaim .onTrue (.left 5)) ∧
    decode 0xD2000000#32 = .ok (.qpub .always) ∧
    decode 0xD3800000#32 = .ok (.cntr .onFalse) ∧
    decode 0xD40C0000#32 = .ok (.cancel .always .phase) ∧
    decode 0xD53FFE00#32 = .ok (.cfgl .always 8191) ∧
    decode 0xD6400000#32 = .ok (.cfgt .onTrue) := by
  refine ⟨rfl, rfl, rfl, rfl, rfl, rfl, rfl⟩

theorem test_decode_system :
    decode 0xE0271685#32 = .ok (.srd .always 5003 (.left 5)) ∧
    decode 0xE1600200#32 = .ok (.swr .onTrue 4097) ∧
    decode 0xE200054D#32 = .ok (.tlbi .always 2 (.right 77)) ∧
    decode 0xE3000000#32 = .ok (.ctxs .always) ∧
    decode 0xE4800000#32 = .ok (.ctxr .onFalse) ∧
    decode 0xE5080000#32 = .ok (.eret .always true) ∧
    decode 0xE60000A5#32 = .ok (.trap .always 0xA5) ∧
    decode 0xE7400285#32 = .ok (.pwrq .onTrue 1 (.left 5)) := by
  refine ⟨rfl, rfl, rfl, rfl, rfl, rfl, rfl, rfl⟩

theorem test_ill_formed_0 : (([
    .getr .always 64 .none, .putr .always 64, .shli .always 64 .none, .shri .always 64 .none, .sari .always 64 .none,
    .bfxi .always 4096 .none, .fadd .always .s .sr .none .none, .fsub .always .s .sr .none .none,
    .fmul .always .s .sr .none .none, .fdiv .always .s .sr .none .none, .fsqrt .always .s .sr .none .none,
    .fcvtFF .always .s .sr .none .none, .fcvtFI .always .s .sr .none .none, .fcvtIF .always .s .sr .none .none,
    .cpy .always 1 0 false .none, .cpyg .always 1 0 false .none, .cpys .always 1 0 false .none,
    .cpyr .always 1 0 false .none, .waitt .always 31 0 .none, .waitt .always 15 0 .none, .waitt .always 4 1 .none,
    .tlrd .always 15 0 .none, .tlrd .always 31 1 .none, .fence .always false false, .wr 48 0, .wr 0 16, .wrm 48 0,
    .wrm 0 16, .wacc 48 0, .wacc 0 16, .mldb 48 0, .mldb 0 4, .mma 48 0 none, .mma 0 4 none, .mgth 48 0 none,
    .mgth 0 4 none, .mcsr 48 0 none, .mcsr 0 4 none, .mbsr 48 0 none, .mbsr 0 4 none, .mzero 48 0, .mzero 0 4,
    .mdrn 48 0, .mdrn 0 4, .mchk 48 0 none, .mchk 0 4 none, .msave 48 0, .msave 0 4, .mload 48 0, .mload 0 4,
    .vadd 48 0, .vadd 0 4, .vsub 48 0, .vsub 0 4, .vmul 48 0, .vmul 0 4, .vfadd 48 0, .vfadd 0 4, .vfsub 48 0,
    .vfsub 0 4] : List Instr).all (fun i => !i.wf)) = true := by decide +kernel

theorem test_ill_formed_1 : (([
    .vfmul 48 0, .vfmul 0 4, .vfma 48 0, .vfma 0 4, .vmin 48 0, .vmin 0 4, .vmax 48 0, .vmax 0 4, .vfmin 48 0,
    .vfmin 0 4, .vfmax 48 0, .vfmax 0 4, .vabs 48 0, .vabs 0 4, .vfabs 48 0, .vfabs 0 4, .vcmp 48 0, .vcmp 0 4,
    .vfcmp 48 0, .vfcmp 0 4, .vsel 48 0, .vsel 0 4, .vcvt 48 0, .vcvt 0 4, .vshl 48 0, .vshl 0 4, .vshr 48 0,
    .vshr 0 4, .vsar 48 0, .vsar 0 4, .vand 48 0, .vand 0 4, .vor 48 0, .vor 0 4, .vxor 48 0, .vxor 0 4, .vrred 48 0,
    .vrred 0 4, .vsred 48 0, .vsred 0 4, .vscan 48 0, .vscan 0 4, .vgth 48 0, .vgth 0 4, .vscat 48 0, .vscat 0 4,
    .vscatc 48 0, .vscatc 0 4, .vperm 48 0, .vperm 0 4, .vbcst 48 0, .vbcst 0 4, .sexp2 48, .slog2 48, .srcp 48,
    .srsq 48, .stanh 48, .ssin 48, .scos 48, .sgelu 48] : List Instr).all (fun i => !i.wf)) = true := by decide +kernel

theorem test_ill_formed_2 : (([
    .rowsm 48, .lnorm 48, .rmsn 48, .xint 48, .xuni 48, .xdif 48, .xmrg 48, .xcnt 48, .cadd 48, .cfadd 48, .cmax 48,
    .cmin 48, .cand 48, .cor 48, .cxor 48, .cxch 48, .ccas 48, .cfaa 48, .resc 48, .barv 48, .barx 48, .bexa 48,
    .bkil 48, .bexp 48, .xrd 48 0, .xrd 0 2, .xwr 48 0, .xwr 0 2, .xrrd 48 0, .xrrd 0 2, .xrwr 48 0, .xrwr 0 2,
    .xprd 48 0, .xprd 0 2, .xpwr 48 0, .xpwr 0 2, .xnet 48 0, .xnet 0 2, .kjob 48, .kqry 48, .csend 48, .crecv 48,
    .cred 48, .cbcst 48, .cmpl 48 0, .cmpl 0 32, .rcll 48 0, .rcll 0 32, .drain 48 0, .drain 0 32, .abrt 48 0,
    .abrt 0 32, .frameTurn 384, .blockCommit 384 0, .blockCommit 0 8, .trapTake 384, .trapTake 2048,
    .loadReturn 384 0 0, .loadReturn 0 8 0, .loadReturn 0 0 128] : List Instr).all (fun i => !i.wf)) = true := by decide +kernel

theorem test_ill_formed_3 : (([
    .storeAck 384, .storeAck 2048, .releaseTakeEffect 384, .releaseTakeEffect 2048, .livenessTick 384,
    .waitConditionMet 384 0 0, .waitConditionMet 0 8 0, .waitConditionMet 0 0 128, .atomReply 384, .atomReply 2048,
    .blockFetchReturn 384 0, .blockFetchReturn 2048 0, .blockFetchReturn 0 0x200000000000000, .blockFetchReturn 0 2,
    .launchPick 4, .launchAged 4 0, .launchAged 0 256, .tagAdmit 4096 0, .tagAdmit 0 65536, .tagRetire 4096 0,
    .tagRetire 0 65536, .jobCreate 4096 0, .jobCreate 0 256, .jobClose 4096 0, .jobClose 0 1024, .jobWeight 4096 0,
    .jobWeight 0 256, .auction 48, .headAged 48 0, .cellCross 48, .egressDrain 48 0, .egressDrain 0 32,
    .purge 48 0 none, .purge 0 64 none, .mdrnComplete 48 0 0, .mdrnComplete 0 4 0, .mdrnComplete 0 0 4,
    .msaveComplete 48 0 0, .msaveComplete 0 4 0, .msaveComplete 0 0 4, .mloadComplete 48 0 0, .mloadComplete 0 4 0,
    .mloadComplete 0 0 4, .exptReserve 384 0 0, .exptReserve 0 8 0, .exptReserve 0 0 128, .transferComplete 48 0 0,
    .transferComplete 0 2 0, .kennelJobComplete 4 0, .kennelJobComplete 0 32, .homeRead 384 0 0, .homeRead 0 8 0,
    .homeRead 0 0 128, .homeWrite 384, .homeWrite 2048, .houndVisit 4, .rebase 4, .rebaseWalkerDone 4,
    .copyComplete 48 0, .pageWalkDone 4 0] : List Instr).all (fun i => !i.wf)) = true := by decide +kernel

theorem test_ill_formed_4 : (([
    .fresumeRetry 4096 0, .fresumeAbort 4096 0, .preemptRequest 4096 [], .preemptRequest 0 [48], .handlerStart 384,
    .handlerStart 2048, .jobRestore 4096, .leaseServe 4, .leaseWakeDone 4 0, .leaseWakeDone 0 32, .graceExpire 4 0,
    .graceExpire 0 32, .leaseDrainDone 4 0, .leaseDrainDone 0 32, .warmTimeout 4 0, .warmTimeout 0 32,
    .lscaleStep 4 0 false, .lscaleStep 0 16 false, .vfHop 4 0, .vfHop 0 16, .vfHopDone 4 0, .vfHopDone 0 16,
    .droop 4 0, .droop 0 16, .droopClear 4 0, .droopClear 0 16, .retentionEnter 48, .retentionExit 48 false [],
    .retentionExit 0 false [(0, [48])], .tsuaxCell 18 0, .tsuaxWrite 18 0, .tsuaxRead 18 0, .tsuaxRdata 18 0,
    .tsuaxCplt 18 0, .launchFlit 18 0, .mgmtLaunch 18 0, .mgmtCntr 18 0, .mgmtCancel 18 0, .mgmtCfgl 18 0,
    .mgmtCfgt 18 0, .mgmtSrd 18 0, .mgmtSwr 18 0, .tsuaxCtrl 18 0, .ucieCell 6 0 0, .ucieCell 0 32 0, .ucieMreq 6 0 0,
    .ucieMreq 0 32 0, .ucieMrsp 6 0 0, .ucieMrsp 0 32 0, .ucieXlat 6 0 0, .ucieXlat 0 32 0, .ucieSys 6 0 0,
    .ucieSys 0 32 0, .ucieTime 6 0 0, .ucieTime 0 32 0, .ucieCtrl 6 0 0, .ucieCtrl 0 32 0,
    .ucieRetrainDone 6 0 false false 0, .ucieRetrainDone 0 32 false false 0, .uccmdRetrain 6 0] : List Instr).all (fun i => !i.wf)) = true := by decide +kernel

theorem test_ill_formed_5 : (([
    .uccmdRetrain 0 32, .roceResponse 48 0 0 [] false, .roceResponse 0 2 0 [] false, .roceRetryTimeout 48 0 0,
    .roceRetryTimeout 0 2 0, .comparatorPair 48, .twinTimeout 48, .coldRestart 48 [], .coldRestart 0 [(0, [48])],
    .pmQuiesce 16, .pmResume 16, .aceWrite 256 0, .pnodeWrite 4 0, .mestatWrite 48 0 0, .mestatWrite 0 4 0,
    .knoutWrite 4 0, .jpwrWrite 4096 0, .vfislWrite 4 0 0, .vfislWrite 0 16 0, .stackCalibrated 12, .quarterInService 4] : List Instr).all (fun i => !i.wf)) = true := by decide +kernel

end Sys2Proof.Tests
end

/-! # Where a token goes that a firing slot sends (spec/01 R16, spec/03 R101, spec/05 R111). -/

namespace Sys2Proof.Machine

/-! ## Slots of a block -/

theorem length_listMod {α : Type} (xs : List α) (i : Nat) (f : α → α) : (listMod xs i f).length = xs.length := by
  induction xs generalizing i with
  | nil => rfl
  | cons x xs ih =>
    cases i with
    | zero => rfl
    | succ i => simp [listMod, ih]

@[simp] theorem fire_slots_length (f : Frame) (i : Nat) : (f.fire i).slots.length = f.slots.length := length_listMod ..

theorem slot_modSlot_same {f : Frame} {i : Nat} (g : Slot → Slot) (hi : i < f.slots.length) :
    (f.modSlot i g).slot i = g (f.slot i) := by
  simp [slot_modSlot, hi]

theorem slot_modSlot_ne (f : Frame) {i j : Nat} (g : Slot → Slot) (hne : j ≠ i) : (f.modSlot i g).slot j = f.slot j := by
  simp [slot_modSlot, hne.symm]

theorem fire_slot_ne (f : Frame) {i j : Nat} (hne : j ≠ i) : (f.fire i).slot j = f.slot j :=
  slot_modSlot_ne f _ hne

theorem fire_slot_fired {f : Frame} {i : Nat} (hi : i < f.slots.length) : ((f.fire i).slot i).fired = true := by
  simp [Frame.fire, slot_modSlot_same _ hi]

@[simp] theorem hold_slot (f : Frame) (t : Trap) (i : Nat) : (f.hold t).slot i = f.slot i := by
  unfold Frame.hold
  split
  · rfl
  · split <;> rfl

theorem hold_trap_of_none {f : Frame} (t : Trap) (h : f.trap = none) : (f.hold t).trap = some t := by
  simp [Frame.hold, h]

/-! ## A token arrives at a position -/

section
variable {f : Frame} {i : Nat} (k : Token)

theorem put_left_empty (h : (f.slot i).left = none) (hsel : isSelWord (f.slot i).word = false) :
    f.put 1 i k = f.modSlot i (fun x => { x with left := some k }) := by
  simp [Frame.put, h, hsel]

theorem put_right_empty (h : (f.slot i).right = none) (hsel : isSelWord (f.slot i).word = false) :
    f.put 2 i k = f.modSlot i (fun x => { x with right := some k }) := by
  simp [Frame.put, h, hsel]

theorem put_pred_empty (h : (f.slot i).pred = none) :
    f.put 3 i k = f.modSlot i (fun x => { x with pred := some k }) := by
  simp [Frame.put, h]

theorem put_left_filled (h : (f.slot i).left ≠ none) :
    f.put 1 i k = f.hold { cause := causeIllegal, slot := some i } := by
  simp [Frame.put, Option.isSome_iff_ne_none.mpr h]

/-- A token that arrives at a slot leaves the other slots of the block as they were. -/
theorem put_slot_ne {j : Nat} (pos : Nat) (hne : j ≠ i) : (f.put pos i k).slot j = f.slot j := by
  unfold Frame.put
  dsimp only
  split_ifs <;> simp [slot_modSlot_ne f _ hne]

end

/-! ## The slot in focus sends its token -/

theorem cur_finish_left (s : State) (k : Token) (j : BitVec 7) :
    (s.finish k [.left j]).cur = (s.cur.fire s.fSlot).put 1 j.toNat k := cur_modCur ..
theorem cur_finish_right (s : State) (k : Token) (j : BitVec 7) :
    (s.finish k [.right j]).cur = (s.cur.fire s.fSlot).put 2 j.toNat k := cur_modCur ..
theorem cur_finish_pred (s : State) (k : Token) (j : BitVec 7) :
    (s.finish k [.pred j]).cur = (s.cur.fire s.fSlot).put 3 j.toNat k := cur_modCur ..

/-- Settles O11: firing leaves the target slot as it was, so what the arrival at each position does decides. -/
theorem tokenDelivery : Obligations.TokenDelivery := by
  intro s k j hne hj hi
  have hslot : (s.cur.fire s.fSlot).slot j.toNat = s.cur.slot j.toNat := fire_slot_ne _ hne
  have hlen : j.toNat < (s.cur.fire s.fSlot).slots.length := by simpa using hj
  refine ⟨fun hempty hsel => ?_, fun hempty hsel => ?_, fun hempty => ?_, ?_, fun hfull htrap => ?_⟩
  · rw [← hslot] at hempty hsel
    rw [cur_finish_left, put_left_empty k hempty hsel, slot_modSlot_same _ hlen]
    exact ⟨rfl, rfl⟩
  · rw [← hslot] at hempty hsel
    rw [cur_finish_right, put_right_empty k hempty hsel, slot_modSlot_same _ hlen]
    exact ⟨rfl, rfl⟩
  · rw [← hslot] at hempty
    rw [cur_finish_pred, put_pred_empty k hempty, slot_modSlot_same _ hlen]
    exact ⟨rfl, rfl⟩
  · show ((s.finish k [.left j]).cur.slot s.fSlot).fired = true
    rw [cur_finish_left, put_slot_ne k 1 hne.symm]
    exact fire_slot_fired hi
  · rw [← hslot] at hfull
    rw [cur_finish_left, put_left_filled k hfull]
    exact hold_trap_of_none _ htrap

end Sys2Proof.Machine

/-! # A side effect that resolves stays in its block, and a null resolves it (spec/01 R24, spec/02 R34,
spec/03 R74). -/

namespace Sys2Proof.Machine

theorem resolve_onlyBlock (s : State) (e : Effect) : OnlyBlock s (s.resolve e) := .inr ⟨_, rfl⟩

@[simp] theorem cur_resolve_fx (s : State) (e : Effect) : (s.resolve e).cur.fx = s.cur.fx ++ [(s.fSlot, e)] := by
  simp [State.resolve]

/-- A null on the left decides before the predicate and the right position are asked. -/
theorem sideReady_of_left_null {s : State} (p : Pr) {u : Uses} (hf : s.curSlot.fired = false)
    (hl : s.curSlot.left = some .null) (hu : u ≠ .none) : s.sideReady p u = .null := by
  have htok : tokReady (u != .none) s.curSlot.left = .null := by simp [tokReady, hl, hu]
  simp [State.sideReady, readySide, hf, htok]

/-- A side-effect word resolves without effect where its left position holds a null, whatever it does when it fires. -/
theorem fireSide_left_null {s : State} (p : Pr) {u : Uses} (act : State → State) (hf : s.curSlot.fired = false)
    (hl : s.curSlot.left = some .null) (hu : u ≠ .none) : fireSide p u act s = .next (s.resolve .null) := by
  simp [fireSide, sideReady_of_left_null p hf hl hu]

/-- Settles O24: resolving changes the block in focus alone, and every word of the list is a `fireSide` that uses its left
position. -/
theorem sideEffectFrame : Obligations.SideEffectFrame := by
  refine ⟨fun s e => ?_, fun s p lsid ag sz na f tk n ta op gd ro hf hl i hi => ?_⟩
  · obtain ⟨-, hmem, hacc, hwork, heng, hmat, hken, hlnk, hsys, hstrands, hcores, -, -, -, -, -, hframes, -⟩ :=
      onlyBlock_frame (resolve_onlyBlock s e)
    exact ⟨hmem, hacc, hwork, heng, hmat, hken, hlnk, hsys, hstrands, hcores, hframes, cur_resolve_fx s e⟩
  · have one : ∀ act, fireSide p .l act s = .next (s.resolve .null) :=
      fun act => fireSide_left_null p act hf hl (by decide)
    have two : ∀ act, fireSide p .lr act s = .next (s.resolve .null) :=
      fun act => fireSide_left_null p act hf hl (by decide)
    have copy : ∀ kind, fireCopy kind p ag tk f ta s = .next (s.resolve .null) := fun _ => two _
    revert i hi
    simp only [List.forall_mem_cons]
    exact ⟨(exec_st ..).trans (two _), (exec_enq ..).trans (two _), (exec_enqm ..).trans (two _),
      (exec_strm ..).trans (two _), (exec_strms ..).trans (two _), (exec_parm ..).trans (one _),
      (exec_putp ..).trans (one _), (exec_cpy ..).trans (copy 0), (exec_cpyg ..).trans (copy 1),
      (exec_cpys ..).trans (copy 2), (exec_cpyr ..).trans (copy 3), (exec_expt ..).trans (one _),
      (exec_atom ..).trans (two _), (exec_red ..).trans (two _), (exec_lpri ..).trans (one _),
      (exec_launch ..).trans (two _), (exec_qpub ..).trans (two _), (exec_cntr ..).trans (two _),
      (exec_cfgl ..).trans (two _), (exec_cfgt ..).trans (two _), (exec_swr ..).trans (two _),
      (exec_tlbi ..).trans (two _), (exec_ctxs ..).trans (one _), (exec_ctxr ..).trans (one _), List.forall_mem_nil _⟩

end Sys2Proof.Machine

/-! # RNGP, GETP and PUTP fire (spec/01 R21, R22, spec/06 R155, R156). -/

namespace Sys2Proof.Machine

/-! ## Ranges -/

section
variable {s : State} {p : Pr} {l r : Word} (ta : Tgt)

theorem exec_rngp_asks (h : s.ready p .none l r) (hr : ((s.launch s.curStrand.who.launch).range).isSome = true) :
    exec (.rngp p ta) s = .next (s.modCur (fun f => { (f.fire s.fSlot) with asks := s.fSlot :: f.asks })) := by
  obtain ⟨range, hrange⟩ := Option.isSome_iff_exists.mp hr
  rw [exec_rngp, execRngp, fireAct_go h, hrange]

theorem exec_rngp_illegal (h : s.ready p .none l r) (hr : (s.launch s.curStrand.who.launch).range = none) :
    exec (.rngp p ta) s = .next (s.stopAt causeIllegal) := by
  rw [exec_rngp, execRngp, fireAct_go h, hr]

end

/-! ## Pipes -/

/-- The word `w` leaves the pipe `k` for the slot in focus: it is taken and noted in the block, and the strand's timestamp is
raised to the word's. -/
def State.getWord (s : State) (k : Nat) (w : PipeWord) : State :=
  ((s.modPipe k (fun p => p.take [w.id])).modCur (fun f => { f with gets := f.gets ++ [(s.fSlot, k, w.id)] })).modStrand
    s.curSid (fun x => { x with pts := max x.pts w.stamp })

theorem getWord_pipe (s : State) (k : Nat) (w : PipeWord) : (s.getWord k w).pipe k = (s.pipe k).take [w.id] :=
  pipe_modPipe_same ..

theorem getWord_pts (s : State) (k : Nat) (w : PipeWord) :
    ((s.getWord k w).strand s.curSid).pts = max s.curStrand.pts w.stamp := by
  rw [State.getWord, modStrand_def, strand_setStrand_same]
  rfl

theorem getWord_mem (s : State) (k : Nat) (w : PipeWord) : (s.getWord k w).mem = s.mem := rfl

@[simp] theorem finish_pipe (s : State) (k : Token) (ts : List Tgt) (i : Nat) : (s.finish k ts).pipe i = s.pipe i := rfl
@[simp] theorem finish_mem (s : State) (k : Token) (ts : List Tgt) : (s.finish k ts).mem = s.mem := rfl

section
variable {s : State} {ag : BitVec 5} {rec0 : AgnRec}
  (hr : agnRec (s.agn (s.strandAgn s.curSid ag.toNat)).words = rec0)
include hr

/-- A GETP in its turn takes the first word that stands ready and sends it. -/
theorem fireGetp_takes (ta : Tgt) {w : PipeWord} (hc : s.agnCheck s.curCluster rec0 .pipeGet = 0)
    (ht : s.pipeTurn ag.toNat = true) (hw : (s.pipe (fifoKey s.curCluster rec0)).peek 1 = some [w]) :
    s.fireGetp ag ta = (s.getWord (fifoKey s.curCluster rec0) w).finish (.val w.v) [ta] := by
  simp only [State.fireGetp, hr, hc, ht, hw, bne_self_eq_false, Bool.not_true, Bool.false_eq_true, if_false]
  rfl

/-- A PUTP whose pipe can hold what its block puts resolves with its word. -/
theorem firePutp_resolves (hc : s.agnCheck s.curCluster rec0 .pipePut = 0)
    (hn : s.cur.putsOn ag.toNat ≤ s.fifoWords s.curCluster rec0) :
    s.firePutp ag = s.resolve (.put (fifoKey s.curCluster rec0) s.opL) := by
  simp only [State.firePutp, hr, hc, bne_self_eq_false, Bool.false_eq_true, if_false, Nat.not_lt.mpr hn]

end

/-- Settles O16: once ready, each of the three words does what its `fire` operation does with its checks passed. -/
theorem pipesAndRanges : Obligations.PipesAndRanges := by
  intro s p ag ta l r
  refine ⟨exec_rngp_asks ta, exec_rngp_illegal ta, fun w h hc ht hw => ?_, fun h hc hn => ?_⟩
  · refine ⟨_, (exec_getp ..).trans (fireAct_go h), ?_⟩
    rw [fireGetp_takes rfl ta hc ht hw, finish_pipe, strand_finish, finish_mem]
    exact ⟨getWord_pipe .., getWord_pts .., getWord_mem ..⟩
  · rw [exec_putp, execPutp, fireSide_go h, firePutp_resolves rfl hc hn, opL_of_ready h (by decide)]

end Sys2Proof.Machine

/-! # What one step runs (spec/01 R13, R15, spec/02 R28). -/

namespace Sys2Proof.Machine

/-! ## A pick -/

theorem runSlot_mapped {s : State} {core f n : Nat} {i : Instr} (hu : (s.frame core f).used = true)
    (hn : n < (s.frame core f).slots.length) (hd : decode ((s.frame core f).slot n).word = .ok i) :
    runSlot core f n s = exec i (s.onSched (fun c => { c with focus := (core, f, n) })) := by
  simp [runSlot, hu, hn, hd]

theorem runSlot_unmapped {s : State} {core f n : Nat}
    (h : (s.frame core f).used = false ∨ (s.frame core f).slots.length ≤ n) : runSlot core f n s = .next s := by
  rcases h with hu | hn
  · simp [runSlot, hu]
  · simp [runSlot, Nat.not_lt.mpr hn]

theorem runPick_event {s : State} {i : Instr} (hw : i.isWord = false) (hwf : i.wf = true) :
    runPick (.event i) s = exec i s := by
  simp [runPick, hw, hwf]

theorem runPick_not_event {s : State} {i : Instr} (h : i.isWord = true ∨ i.wf = false) :
    runPick (.event i) s = .next s := by
  rcases h with hw | hwf
  · simp [runPick, hw]
  · simp [runPick, hwf]

/-- Running the pick `p` from the state `t` answers `o`, case by case: a slot of a mapped block whose word decodes, a slot that
is not mapped, an event, and a term that is no event of the device. -/
def PickAnswers (p : Pick) (t : State) (o : Res) : Prop :=
  (∀ core f n i, p = .slot core f n → (t.frame core f).used = true → n < (t.frame core f).slots.length →
    decode ((t.frame core f).slot n).word = .ok i → o = exec i (t.onSched (fun c => { c with focus := (core, f, n) }))) ∧
  (∀ core f n, p = .slot core f n → (t.frame core f).used = false ∨ (t.frame core f).slots.length ≤ n → o = .next t) ∧
  (∀ i, p = .event i → i.isWord = false → i.wf = true → o = exec i t) ∧
  (∀ i, p = .event i → i.isWord = true ∨ i.wf = false → o = .next t)

theorem runPick_answers (p : Pick) (t : State) : PickAnswers p t (runPick p t) := by
  refine ⟨?_, ?_, ?_, ?_⟩
  · rintro core f n i rfl hu hn hd
    exact runSlot_mapped hu hn hd
  · rintro core f n rfl h
    exact runSlot_unmapped h
  · rintro i rfl hw hwf
    exact runPick_event hw hwf
  · rintro i rfl h
    exact runPick_not_event h

/-! ## Which pick a step takes -/

theorem step_agenda_cons {s : State} {p : Pick} {ps : List Pick} (h : s.sched.agenda = p :: ps) :
    step s = runPick p (s.onSched (fun c => { c with agenda := ps })) := by
  simp [step, h]

theorem step_agenda_nil {s : State} (h : s.sched.agenda = []) :
    step s = runPick (Config.pick s.sched.picks) (s.onSched (fun c => { c with picks := c.picks + 1 })) := by
  simp [step, h]

/-! ## A placed word -/

@[simp] theorem withFetchWord_agenda (s : State) (n w : Nat) : (s.withFetchWord n w).sched.agenda = [.slot 0 0 0] := rfl

@[simp] theorem withFetchWord_frame (s : State) (n w : Nat) :
    (s.withFetchWord n w).frame 0 0 = placedFrame (BitVec.ofNat 32 w) := frame_setFrame_same ..

/-- The next step runs the placed word in slot 0 of frame 0 of core 0. -/
theorem step_withFetchWord (s : State) (n : Nat) {w : Nat} {i : Instr} (hd : decode (BitVec.ofNat 32 w) = .ok i) :
    step (s.withFetchWord n w) =
      exec i ((s.withFetchWord n w).onSched (fun c => { c with agenda := [], focus := (0, 0, 0) })) := by
  have hframe : ((s.withFetchWord n w).onSched (fun c => { c with agenda := [] })).frame 0 0 =
      placedFrame (BitVec.ofNat 32 w) := withFetchWord_frame s n w
  rw [step_agenda_cons (withFetchWord_agenda s n w)]
  exact runSlot_mapped (by rw [hframe]; rfl) (by rw [hframe]; exact Nat.one_pos) (by rw [hframe]; exact hd)

/-- Settles O57: the step takes the head of the agenda or the free pick, and the pick decides what runs. -/
theorem stepRunsInstruction : Obligations.StepRunsInstruction := by
  intro s head free runs
  refine ⟨fun p ps h => ?_, fun h => ?_, fun n w i hd => step_withFetchWord s n hd⟩
  · show PickAnswers p (head ps) (step s)
    rw [step_agenda_cons h]
    exact runPick_answers p _
  · show PickAnswers (Config.pick s.sched.picks) free (step s)
    rw [step_agenda_nil h]
    exact runPick_answers _ _

end Sys2Proof.Machine

/-! # A computing word changes nothing but its block (spec/02 R34, spec/05 R113 to R121). -/

namespace Sys2Proof.Machine

/-- Whenever the word answers a next state, nothing but the block in focus differs. -/
def StaysInBlock (i : Instr) : Prop := ∀ s t, exec i s = .next t → OnlyBlock s t

section
variable {i : Instr} {p : Pr} {u : Uses} {ts : List Tgt} {f : Word → Word → Word}

theorem staysInBlock_with (h : ∀ s, exec i s = fireWith p u ts f s) : StaysInBlock i :=
  fun s t ht => fireWith_only p u ts f s t ((h s).symm.trans ht)

theorem staysInBlock_trap {bad : Word → Word → Nat} (h : ∀ s, exec i s = fireTrap p u ts bad f s) : StaysInBlock i :=
  fun s t ht => fireTrap_only p u ts bad f s t ((h s).symm.trans ht)

theorem staysInBlock_act {act : State → State} (h : ∀ s, exec i s = fireAct p u ts act s)
    (hact : ∀ s, OnlyBlock s (act s)) : StaysInBlock i :=
  fun s t ht => fireAct_only p u ts act s t (hact s) ((h s).symm.trans ht)

end

theorem finish_onlyBlock (s : State) (k : Token) (ts : List Tgt) : OnlyBlock s (s.finish k ts) := .inr ⟨_, rfl⟩
theorem stopAt_onlyBlock (s : State) (c : Nat) (a : Word) (n : Option Nat) : OnlyBlock s (s.stopAt c a n) := .inr ⟨_, rfl⟩
theorem putReg_onlyBlock (s : State) (g : Nat) (v : Option Word) : OnlyBlock s (s.putReg g v) := .inr ⟨_, rfl⟩

theorem null_staysInBlock (p : Pr) (ta tb : Tgt) : StaysInBlock (.null p ta tb) :=
  staysInBlock_act (exec_null p ta tb) fun s => finish_onlyBlock s ..

theorem getr_staysInBlock (p : Pr) (g : BitVec 13) (ta : Tgt) : StaysInBlock (.getr p g ta) :=
  staysInBlock_act (exec_getr p g ta) fun s => by
    split
    · exact .inl rfl
    · exact finish_onlyBlock s ..

/-- SEL waits, is skipped, traps on a second token or forwards the one that came (R111). -/
theorem sel_staysInBlock (p : Pr) (ta tb : Tgt) : StaysInBlock (.sel p ta tb) := by
  intro s t h
  rw [exec_sel, execSel] at h
  split at h
  · cases h; exact .inl rfl
  · cases h; exact .inl rfl
  · split at h <;> cases h
    · exact stopAt_onlyBlock s ..
    · exact finish_onlyBlock s ..

/-- PUTR waits, is skipped, resolves without a value, traps on a second write or notes its write in the block (R113). -/
theorem putr_staysInBlock (p : Pr) (g : BitVec 13) : StaysInBlock (.putr p g) := by
  intro s t h
  rw [exec_putr, execPutr] at h
  split at h
  · cases h; exact .inl rfl
  · cases h; exact .inl rfl
  · cases h; exact putReg_onlyBlock s ..
  · split at h <;> cases h
    · exact stopAt_onlyBlock s ..
    · exact putReg_onlyBlock s ..

section
variable (p : Pr) (q : Prec) (m : Rnd) (wd : Width) (im : BitVec 13) (ta tb : Tgt)

theorem wordsLR_stayInBlock : ∀ i ∈ wordsLR p q m ta tb, StaysInBlock i := by
  simp only [wordsLR, List.forall_mem_cons]
  exact ⟨staysInBlock_with (exec_add p ta tb), staysInBlock_with (exec_sub p ta tb),
    staysInBlock_with (exec_mul p ta tb), staysInBlock_with (exec_mulh p ta tb),
    staysInBlock_with (exec_mulhu p ta tb), staysInBlock_trap (exec_div p ta tb),
    staysInBlock_trap (exec_divu p ta tb), staysInBlock_trap (exec_rem p ta tb),
    staysInBlock_trap (exec_remu p ta tb), staysInBlock_with (exec_and p ta tb), staysInBlock_with (exec_or p ta tb),
    staysInBlock_with (exec_xor p ta tb), staysInBlock_with (exec_andn p ta tb),
    staysInBlock_with (exec_shl p ta tb), staysInBlock_with (exec_shr p ta tb), staysInBlock_with (exec_sar p ta tb),
    staysInBlock_with (exec_rotl p ta tb), staysInBlock_with (exec_min p ta tb),
    staysInBlock_with (exec_max p ta tb), staysInBlock_with (exec_minu p ta tb),
    staysInBlock_with (exec_maxu p ta tb), staysInBlock_with (exec_bfx p ta tb),
    staysInBlock_with (exec_bfi p ta tb), staysInBlock_with (exec_teq p ta tb), staysInBlock_with (exec_tne p ta tb),
    staysInBlock_with (exec_tlt p ta tb), staysInBlock_with (exec_tle p ta tb),
    staysInBlock_with (exec_tltu p ta tb), staysInBlock_with (exec_tleu p ta tb),
    staysInBlock_with (exec_tbit p ta tb), staysInBlock_with (exec_fadd p q m ta tb),
    staysInBlock_with (exec_fsub p q m ta tb), staysInBlock_with (exec_fmul p q m ta tb),
    staysInBlock_with (exec_fdiv p q m ta tb), staysInBlock_with (exec_fmin p q ta tb),
    staysInBlock_with (exec_fmax p q ta tb), staysInBlock_with (exec_fteq p q ta tb),
    staysInBlock_with (exec_ftlt p q ta tb), staysInBlock_with (exec_ftle p q ta tb), List.forall_mem_nil _⟩

theorem wordsL_stayInBlock : ∀ i ∈ wordsL p q m wd ta tb, StaysInBlock i := by
  simp only [wordsL, List.forall_mem_cons]
  exact ⟨staysInBlock_with (exec_mov p ta tb), staysInBlock_with (exec_abs p ta tb),
    staysInBlock_with (exec_neg p ta tb), staysInBlock_with (exec_clz p ta tb), staysInBlock_with (exec_ctz p ta tb),
    staysInBlock_with (exec_popc p ta tb), staysInBlock_with (exec_sext p wd ta tb),
    staysInBlock_with (exec_zext p wd ta tb), staysInBlock_with (exec_fsqrt p q m ta tb),
    staysInBlock_with (exec_fcvtFF p q m ta tb), staysInBlock_with (exec_fcvtFI p q m ta tb),
    staysInBlock_with (exec_fcvtIF p q m ta tb), staysInBlock_with (exec_fclass p q ta tb), List.forall_mem_nil _⟩

theorem wordsI_stayInBlock : ∀ i ∈ wordsI p im ta, StaysInBlock i := by
  simp only [wordsI, List.forall_mem_cons]
  exact ⟨staysInBlock_with (exec_consth p im ta), staysInBlock_with (exec_addi p im ta),
    staysInBlock_with (exec_muli p im ta), staysInBlock_with (exec_andi p im ta),
    staysInBlock_with (exec_ori p im ta), staysInBlock_with (exec_xori p im ta),
    staysInBlock_with (exec_shli p im ta), staysInBlock_with (exec_shri p im ta),
    staysInBlock_with (exec_sari p im ta), staysInBlock_with (exec_teqi p im ta),
    staysInBlock_with (exec_tnei p im ta), staysInBlock_with (exec_tlti p im ta),
    staysInBlock_with (exec_tlei p im ta), staysInBlock_with (exec_tltui p im ta),
    staysInBlock_with (exec_tleui p im ta), staysInBlock_with (exec_bfxi p im ta), List.forall_mem_nil _⟩

theorem wordsPlumb_stayInBlock : ∀ i ∈ wordsPlumb p im ta tb, StaysInBlock i := by
  simp only [wordsPlumb, List.forall_mem_cons]
  exact ⟨null_staysInBlock p ta tb, sel_staysInBlock p ta tb, getr_staysInBlock p im ta, putr_staysInBlock p im,
    staysInBlock_with (exec_const p im ta), List.forall_mem_nil _⟩

end

/-- Settles O10: each word of the four lists changes at most the block in focus, which leaves every other part alone. -/
theorem computeFrame : Obligations.ComputeFrame := by
  intro s t p q m wd im ta tb i hi h
  refine onlyBlock_frame (s := s) (t := t) ?_
  simp only [List.mem_append] at hi
  obtain ((hi | hi) | hi) | hi := hi
  · exact wordsLR_stayInBlock p q m ta tb i hi s t h
  · exact wordsL_stayInBlock p q m wd ta tb i hi s t h
  · exact wordsI_stayInBlock p im ta i hi s t h
  · exact wordsPlumb_stayInBlock p im ta tb i hi s t h

end Sys2Proof.Machine

/-! # What a reader of the decoder answers (spec/03 R66 to R72, spec/04 R90 to R97). -/

namespace Sys2Proof

/-- Every instruction that a reader answers satisfies `P`. -/
def Answers (P : Instr → Prop) (x : Except Reject Instr) : Prop := ∀ i, x = .ok i → P i

section
variable {P : Instr → Prop} {w : IWord}

theorem Answers.error (r : Reject) : Answers P (.error r) := by
  intro i h
  cases h

theorem Answers.ok {i : Instr} (h : P i) : Answers P (.ok i) := by
  intro j hj
  cases hj
  exact h

theorem Answers.bind {α : Type} {x : Except Reject α} {f : α → Except Reject Instr} (h : ∀ a, Answers P (f a)) :
    Answers P (x >>= f) := by
  cases x with
  | error r => exact .error r
  | ok a => exact h a

theorem Answers.need {b : Bool} {r : Reject} {x : Except Reject Instr} (h : Answers P x) : Answers P (need b r x) :=
  fun i hi => h i (need_inv hi).2

theorem Answers.decGAny {mk : Pr → Tgt → Tgt → Instr} (h : ∀ p ta tb, P (mk p ta tb)) : Answers P (decGAny w mk) :=
  .bind fun p => .bind fun ta => .bind fun tb => .ok (h p ta tb)

theorem Answers.decG {mk : Pr → Tgt → Tgt → Instr} (h : ∀ p ta tb, P (mk p ta tb)) : Answers P (decG w mk) :=
  .need (.decGAny h)

theorem Answers.decF {mk : Pr → Prec → Rnd → Tgt → Tgt → Instr} (h : ∀ p q r ta tb, P (mk p q r ta tb)) :
    Answers P (decF w mk) := by
  unfold Sys2Proof.decF
  dsimp only
  split
  · exact .decGAny fun p => h p _ .rne
  · exact .decGAny fun p => h p _ .rtz
  · exact .decGAny fun p => h p _ .rup
  · exact .decGAny fun p => h p _ .rdn
  · exact .error _

theorem Answers.decFN {mk : Pr → Prec → Tgt → Tgt → Instr} (h : ∀ p q ta tb, P (mk p q ta tb)) :
    Answers P (decFN w mk) :=
  .need (.decGAny fun p => h p _)

theorem Answers.decExt {mk : Pr → Width → Tgt → Tgt → Instr} (h : ∀ p x ta tb, P (mk p x ta tb)) :
    Answers P (decExt w mk) := by
  unfold Sys2Proof.decExt
  split
  · exact .decGAny fun p => h p .b
  · exact .decGAny fun p => h p .h
  · exact .decGAny fun p => h p .w
  · exact .error _

theorem Answers.decI {mk : Pr → BitVec 13 → Tgt → Instr} (h : ∀ p i ta, P (mk p i ta)) : Answers P (decI w mk) :=
  .bind fun p => .bind fun ta => .ok (h p _ ta)

theorem Answers.decI63 {mk : Pr → BitVec 13 → Tgt → Instr} (h : ∀ p i ta, P (mk p i ta)) : Answers P (decI63 w mk) :=
  .need (.decI h)

theorem Answers.decX {mk : Pr → BitVec 3 → BitVec 19 → Instr} (h : ∀ p e o, P (mk p e o)) : Answers P (decX w mk) :=
  .bind fun p => .ok (h p _ _)

theorem Answers.decX0 {mk : Pr → BitVec 3 → Instr} (h : ∀ p e, P (mk p e)) : Answers P (decX0 w mk) :=
  .need (.decX fun p e _ => h p e)

theorem Answers.decQ {okX okA okK okF okT : Bool}
    {mk : Pr → BitVec 4 → BitVec 5 → BitVec 3 → Bool → Tgt → Except Reject Instr}
    (h : ∀ p x a k f ta, Answers P (mk p x a k f ta)) : Answers P (decQ w okX okA okK okF okT mk) := by
  intro i hi
  obtain ⟨p, ta, hmk, -⟩ := decQ_inv hi
  exact h _ _ _ _ _ _ i hmk

theorem Answers.decCpy {mk : Pr → BitVec 5 → BitVec 3 → Bool → Tgt → Instr} (h : ∀ p a k f ta, P (mk p a k f ta)) :
    Answers P (decCpy w mk) :=
  .decQ fun p _ a k f ta => .need (.ok (h p a k f ta))

theorem Answers.decK {okS okT : Bool} {mk : Pr → BitVec 13 → Tgt → Instr} (h : ∀ p n ta, P (mk p n ta)) :
    Answers P (decK w okS okT mk) :=
  .need (.decI h)

end

end Sys2Proof

/-! # Until its block commits, a word changes nothing that a program sees (spec/02 R34, R35). -/

namespace Sys2Proof.Machine

/-- Whenever the word answers a next state, memory stays canonical and strands keep what a program sees. -/
def KeepsSeen (i : Instr) : Prop := ∀ s t, exec i s = .next t → s.Kept t

theorem OnlyBlock.kept {s t : State} (h : OnlyBlock s t) : s.Kept t := by
  obtain ⟨-, hmem, -, -, -, -, -, -, -, hstrands, -⟩ := onlyBlock_frame h
  exact .of_parts (congrArg Memory.bytes hmem) hstrands

theorem StaysInBlock.keepsSeen {i : Instr} (h : StaysInBlock i) : KeepsSeen i := fun s t ht => (h s t ht).kept

section
variable {i : Instr} {p : Pr} {u : Uses} {ts : List Tgt} {act : State → State}

theorem keepsSeen_with {f : Word → Word → Word} (h : ∀ s, exec i s = fireWith p u ts f s) : KeepsSeen i :=
  (staysInBlock_with h).keepsSeen

theorem keepsSeen_trap {bad : Word → Word → Nat} {f : Word → Word → Word} (h : ∀ s, exec i s = fireTrap p u ts bad f s) :
    KeepsSeen i := (staysInBlock_trap h).keepsSeen

theorem keepsSeen_act (h : ∀ s, exec i s = fireAct p u ts act s) (hact : ∀ s : State, s.Kept (act s)) : KeepsSeen i :=
  fun s _ ht => .fireAct ((h s).symm.trans ht) (hact s)

theorem keepsSeen_side (h : ∀ s, exec i s = fireSide p u act s) (hact : ∀ s : State, s.Kept (act s)) : KeepsSeen i :=
  fun s _ ht => .fireSide ((h s).symm.trans ht) (hact s)

theorem keepsSeen_exit (h : ∀ s, exec i s = fireExit p u act s) (hact : ∀ s : State, s.Kept (act s)) : KeepsSeen i :=
  fun s _ ht => .fireExit ((h s).symm.trans ht) (hact s)

theorem keepsSeen_copy {k : Nat} {ag : BitVec 5} {tk : BitVec 3} {f : Bool} {ta : Tgt}
    (h : ∀ s, exec i s = fireCopy k p ag tk f ta s) : KeepsSeen i :=
  fun s _ ht => .fireCopy ((h s).symm.trans ht)

end

/-! ## Exits and traps -/

theorem ret_keepsSeen (p : Pr) (ex : BitVec 3) : KeepsSeen (.ret p ex) :=
  keepsSeen_exit (exec_ret p ex) fun s => by
    split
    · exact .refl s
    · exact .exitTo ..

theorem eret_keepsSeen (p : Pr) (skip : Bool) : KeepsSeen (.eret p skip) :=
  keepsSeen_exit (exec_eret p skip) fun s => by
    split
    · exact .takeExit ..
    · exact .stopAt ..

/-! ## Memory, pipes and ranges -/

theorem pref_keepsSeen (p : Pr) (l ag : BitVec 5) : KeepsSeen (.pref p l ag) :=
  keepsSeen_act (exec_pref p l ag) fun s => (State.Kept.prefetch s ag).trans (.modCur ..)

theorem rngp_keepsSeen (p : Pr) (ta : Tgt) : KeepsSeen (.rngp p ta) :=
  keepsSeen_act (exec_rngp p ta) fun s => by
    split
    · exact .stopAt ..
    · exact .modCur ..

/-! ## Waits, barriers and timelines -/

theorem waita_keepsSeen (p : Pr) (ag : BitVec 5) (c : Cmp) (ta : Tgt) : KeepsSeen (.waita p ag c ta) :=
  keepsSeen_act (exec_waita p ag c ta) fun _ => .fireWaita ..

theorem fence_keepsSeen (p : Pr) (e q : Bool) : KeepsSeen (.fence p e q) :=
  keepsSeen_act (exec_fence p e q) fun _ => .startWait ..

theorem waitb_keepsSeen (p : Pr) (bs : BitVec 5) (ta : Tgt) : KeepsSeen (.waitb p bs ta) :=
  keepsSeen_act (exec_waitb p bs ta) fun s => by
    split
    · exact .stopAt ..
    · exact .startWait ..

theorem State.Kept.raisePts (s : State) (sid t : Nat) : s.Kept (s.raisePts sid t) := .modStrand _ _ _ fun _ => .refl _

theorem tbp_keepsSeen (p : Pr) (bs : BitVec 5) (ta : Tgt) : KeepsSeen (.tbp p bs ta) :=
  keepsSeen_act (exec_tbp p bs ta) fun s => by
    split
    · exact .stopAt ..
    · dsimp only
      split
      · exact (State.Kept.finish ..).trans (.raisePts ..)
      · exact .finish ..

theorem arv_keepsSeen (p : Pr) (bs : BitVec 5) : KeepsSeen (.arv p bs) :=
  keepsSeen_side (exec_arv p bs) fun s => by
    split
    · exact .stopAt ..
    · exact .resolve ..

theorem arvx_keepsSeen (p : Pr) (bs : BitVec 5) : KeepsSeen (.arvx p bs) :=
  keepsSeen_side (exec_arvx p bs) fun s => by
    split
    · exact .stopAt ..
    · exact .resolve ..

theorem expt_keepsSeen (p : Pr) (bs : BitVec 5) : KeepsSeen (.expt p bs) :=
  keepsSeen_side (exec_expt p bs) fun s => by
    split
    · exact .stopAt ..
    · split
      · exact .resolve ..
      · split
        · exact .stopAt ..
        · exact .modCur ..

theorem tlrd_keepsSeen (p : Pr) (e : BitVec 5) (c : BitVec 2) (ta : Tgt) : KeepsSeen (.tlrd p e c ta) :=
  keepsSeen_act (exec_tlrd p e c ta) fun s => by
    split
    · exact .finish ..
    · exact .finish ..

/-! ## Combining words -/

theorem atom_keepsSeen (p : Pr) (op : AtomOp) (ag : BitVec 5) (gd : BitVec 6) : KeepsSeen (.atom p op ag gd) :=
  keepsSeen_side (exec_atom p op ag gd) fun s => by
    dsimp only
    split
    · exact .stopAt ..
    · exact (State.Kept.resolve ..).trans (.tickUp _)

theorem red_keepsSeen (p : Pr) (op : RedOp) (ag : BitVec 5) : KeepsSeen (.red p op ag) :=
  keepsSeen_side (exec_red p op ag) fun s => by
    split
    · exact .fireResc ..
    · dsimp only
      split
      · exact .stopAt ..
      · exact .resolve ..

/-! ## Leases -/

theorem leash_keepsSeen (p : Pr) (k : KKind) (slot : BitVec 5) (tk : BitVec 3) (ta : Tgt) :
    KeepsSeen (.leash p k slot tk ta) :=
  keepsSeen_side (exec_leash p k slot tk ta) fun s => by
    split
    · exact .stopAt ..
    · split
      · exact .stopAt ..
      · split
        · exact .refl s
        · exact (State.Kept.onKen ..).trans ((State.Kept.resolve ..).trans (.modCur ..))

theorem lrel_keepsSeen (p : Pr) (slot : BitVec 5) : KeepsSeen (.lrel p slot) :=
  keepsSeen_side (exec_lrel p slot) fun s => by
    split
    · exact .stopAt ..
    · exact .resolve ..

theorem lqry_keepsSeen (p : Pr) (slot : BitVec 5) (ta : Tgt) : KeepsSeen (.lqry p slot ta) :=
  keepsSeen_act (exec_lqry p slot ta) fun s => by
    split
    · exact .stopAt ..
    · exact (State.Kept.finish ..).trans (.onSched ..)

theorem lpri_keepsSeen (p : Pr) (slot : BitVec 5) : KeepsSeen (.lpri p slot) :=
  keepsSeen_side (exec_lpri p slot) fun s => by
    split
    · exact .stopAt ..
    · split
      · exact .stopAt ..
      · exact .resolve ..

/-! ## Launches, queues and control -/

theorem launch_keepsSeen (p : Pr) (ag : BitVec 5) (tk : BitVec 3) : KeepsSeen (.launch p ag tk) :=
  keepsSeen_side (exec_launch p ag tk) fun s => by
    dsimp only
    split
    · exact .stopAt ..
    · exact .resolve ..

theorem qclaim_keepsSeen (p : Pr) (ta : Tgt) : KeepsSeen (.qclaim p ta) :=
  keepsSeen_act (exec_qclaim p ta) fun s => by
    dsimp only
    split
    · exact .stopAt ..
    · split
      · exact .finish ..
      · exact (State.Kept.onWork ..).trans ((State.Kept.modCur ..).trans (.finish ..))

theorem cntr_keepsSeen (p : Pr) : KeepsSeen (.cntr p) :=
  keepsSeen_side (exec_cntr p) fun s => by
    split
    · exact .stopAt ..
    · split
      · exact .resolve ..
      · exact .resolve ..

theorem cancel_keepsSeen (p : Pr) (lev : Level) : KeepsSeen (.cancel p lev) :=
  keepsSeen_side (exec_cancel p lev) fun s => by
    split
    · exact .stopAt ..
    · exact .resolve ..

/-! ## System words -/

theorem srd_keepsSeen (p : Pr) (n : BitVec 13) (ta : Tgt) : KeepsSeen (.srd p n ta) :=
  keepsSeen_act (exec_srd p n ta) fun s => by
    split
    · exact .refl s
    · split
      · exact .stopAt ..
      · exact .finish ..

theorem swr_keepsSeen (p : Pr) (n : BitVec 13) : KeepsSeen (.swr p n) :=
  keepsSeen_side (exec_swr p n) fun s => by
    split
    · exact .resolve ..
    · exact .stopAt ..

theorem tlbi_keepsSeen (p : Pr) (n : BitVec 13) (ta : Tgt) : KeepsSeen (.tlbi p n ta) :=
  keepsSeen_side (exec_tlbi p n ta) fun s => by
    dsimp only
    split
    · exact .stopAt ..
    · split
      · exact .resolve ..
      · exact .resolve ..

theorem ctxs_keepsSeen (p : Pr) : KeepsSeen (.ctxs p) :=
  keepsSeen_side (exec_ctxs p) fun s => by
    dsimp only
    split
    · exact .resolve ..
    · exact .stopAt ..

theorem ctxr_keepsSeen (p : Pr) : KeepsSeen (.ctxr p) :=
  keepsSeen_side (exec_ctxr p) fun s => by
    dsimp only
    split
    · exact .resolve ..
    · exact .stopAt ..

theorem pwrq_keepsSeen (p : Pr) (q : BitVec 13) (ta : Tgt) : KeepsSeen (.pwrq p q ta) :=
  keepsSeen_act (exec_pwrq p q ta) fun s => by
    split
    · exact .stopAt ..
    · exact .finish ..

/-! ## Every word, in the decoder's groups -/

section
variable (w : IWord)

theorem decPlumb_keepsSeen : Answers KeepsSeen (decPlumb w) := by
  unfold decPlumb
  split
  · exact .error _
  · exact .decX fun p e o => keepsSeen_exit (exec_bro p e o) fun _ => .exitTo ..
  · exact .decX0 fun p e => keepsSeen_exit (exec_bri p e) fun _ => .exitTo ..
  · exact .decX fun p e o => keepsSeen_exit (exec_callo p e o) fun _ => .exitTo ..
  · exact .decX0 fun p e => keepsSeen_exit (exec_calli p e) fun _ => .exitTo ..
  · exact .decX0 fun p e => ret_keepsSeen p e
  · exact .decX0 fun p e => keepsSeen_exit (exec_scall p e) fun _ => .takeExit ..
  · exact .decX0 fun p e => keepsSeen_exit (exec_exit p e) fun _ => .takeExit ..
  · exact .decG fun p ta tb => (null_staysInBlock p ta tb).keepsSeen
  · exact .decG fun p ta tb => keepsSeen_with (exec_mov p ta tb)
  · exact .decG fun p ta tb => (sel_staysInBlock p ta tb).keepsSeen
  · exact .decI63 fun p g ta => (getr_staysInBlock p g ta).keepsSeen
  · exact .need (.decI63 fun p g _ => (putr_staysInBlock p g).keepsSeen)
  · exact .decI fun p i ta => keepsSeen_with (exec_const p i ta)
  · exact .decI fun p i ta => keepsSeen_with (exec_consth p i ta)
  · exact .error _

theorem decInt1_keepsSeen : Answers KeepsSeen (decInt1 w) := by
  unfold decInt1
  split
  · exact .decG fun p ta tb => keepsSeen_with (exec_add p ta tb)
  · exact .decG fun p ta tb => keepsSeen_with (exec_sub p ta tb)
  · exact .decG fun p ta tb => keepsSeen_with (exec_mul p ta tb)
  · exact .decG fun p ta tb => keepsSeen_with (exec_mulh p ta tb)
  · exact .decG fun p ta tb => keepsSeen_with (exec_mulhu p ta tb)
  · exact .decG fun p ta tb => keepsSeen_trap (exec_div p ta tb)
  · exact .decG fun p ta tb => keepsSeen_trap (exec_divu p ta tb)
  · exact .decG fun p ta tb => keepsSeen_trap (exec_rem p ta tb)
  · exact .decG fun p ta tb => keepsSeen_trap (exec_remu p ta tb)
  · exact .decG fun p ta tb => keepsSeen_with (exec_and p ta tb)
  · exact .decG fun p ta tb => keepsSeen_with (exec_or p ta tb)
  · exact .decG fun p ta tb => keepsSeen_with (exec_xor p ta tb)
  · exact .decG fun p ta tb => keepsSeen_with (exec_andn p ta tb)
  · exact .decG fun p ta tb => keepsSeen_with (exec_shl p ta tb)
  · exact .decG fun p ta tb => keepsSeen_with (exec_shr p ta tb)
  · exact .decG fun p ta tb => keepsSeen_with (exec_sar p ta tb)

theorem decInt2_keepsSeen : Answers KeepsSeen (decInt2 w) := by
  unfold decInt2
  split
  · exact .decG fun p ta tb => keepsSeen_with (exec_rotl p ta tb)
  · exact .decG fun p ta tb => keepsSeen_with (exec_min p ta tb)
  · exact .decG fun p ta tb => keepsSeen_with (exec_max p ta tb)
  · exact .decG fun p ta tb => keepsSeen_with (exec_minu p ta tb)
  · exact .decG fun p ta tb => keepsSeen_with (exec_maxu p ta tb)
  · exact .decG fun p ta tb => keepsSeen_with (exec_abs p ta tb)
  · exact .decG fun p ta tb => keepsSeen_with (exec_neg p ta tb)
  · exact .decG fun p ta tb => keepsSeen_with (exec_clz p ta tb)
  · exact .decG fun p ta tb => keepsSeen_with (exec_ctz p ta tb)
  · exact .decG fun p ta tb => keepsSeen_with (exec_popc p ta tb)
  · exact .decG fun p ta tb => keepsSeen_with (exec_bfx p ta tb)
  · exact .decG fun p ta tb => keepsSeen_with (exec_bfi p ta tb)
  · exact .decExt fun p x ta tb => keepsSeen_with (exec_sext p x ta tb)
  · exact .decExt fun p x ta tb => keepsSeen_with (exec_zext p x ta tb)
  · exact .error _

theorem decTest_keepsSeen : Answers KeepsSeen (decTest w) := by
  unfold decTest
  split
  · exact .decG fun p ta tb => keepsSeen_with (exec_teq p ta tb)
  · exact .decG fun p ta tb => keepsSeen_with (exec_tne p ta tb)
  · exact .decG fun p ta tb => keepsSeen_with (exec_tlt p ta tb)
  · exact .decG fun p ta tb => keepsSeen_with (exec_tle p ta tb)
  · exact .decG fun p ta tb => keepsSeen_with (exec_tltu p ta tb)
  · exact .decG fun p ta tb => keepsSeen_with (exec_tleu p ta tb)
  · exact .decG fun p ta tb => keepsSeen_with (exec_tbit p ta tb)
  · exact .error _

theorem decImm_keepsSeen : Answers KeepsSeen (decImm w) := by
  unfold decImm
  split
  · exact .decI fun p i ta => keepsSeen_with (exec_addi p i ta)
  · exact .decI fun p i ta => keepsSeen_with (exec_muli p i ta)
  · exact .decI fun p i ta => keepsSeen_with (exec_andi p i ta)
  · exact .decI fun p i ta => keepsSeen_with (exec_ori p i ta)
  · exact .decI fun p i ta => keepsSeen_with (exec_xori p i ta)
  · exact .decI63 fun p i ta => keepsSeen_with (exec_shli p i ta)
  · exact .decI63 fun p i ta => keepsSeen_with (exec_shri p i ta)
  · exact .decI63 fun p i ta => keepsSeen_with (exec_sari p i ta)
  · exact .decI fun p i ta => keepsSeen_with (exec_teqi p i ta)
  · exact .decI fun p i ta => keepsSeen_with (exec_tnei p i ta)
  · exact .decI fun p i ta => keepsSeen_with (exec_tlti p i ta)
  · exact .decI fun p i ta => keepsSeen_with (exec_tlei p i ta)
  · exact .decI fun p i ta => keepsSeen_with (exec_tltui p i ta)
  · exact .decI fun p i ta => keepsSeen_with (exec_tleui p i ta)
  · exact .need (.decI fun p i ta => keepsSeen_with (exec_bfxi p i ta))
  · exact .error _

theorem decFp_keepsSeen : Answers KeepsSeen (decFp w) := by
  unfold decFp
  split
  · exact .decF fun p q r ta tb => keepsSeen_with (exec_fadd p q r ta tb)
  · exact .decF fun p q r ta tb => keepsSeen_with (exec_fsub p q r ta tb)
  · exact .decF fun p q r ta tb => keepsSeen_with (exec_fmul p q r ta tb)
  · exact .decF fun p q r ta tb => keepsSeen_with (exec_fdiv p q r ta tb)
  · exact .decF fun p q r ta tb => keepsSeen_with (exec_fsqrt p q r ta tb)
  · exact .decFN fun p q ta tb => keepsSeen_with (exec_fmin p q ta tb)
  · exact .decFN fun p q ta tb => keepsSeen_with (exec_fmax p q ta tb)
  · exact .decF fun p q r ta tb => keepsSeen_with (exec_fcvtFF p q r ta tb)
  · exact .decF fun p q r ta tb => keepsSeen_with (exec_fcvtFI p q r ta tb)
  · exact .decF fun p q r ta tb => keepsSeen_with (exec_fcvtIF p q r ta tb)
  · exact .decFN fun p q ta tb => keepsSeen_with (exec_fteq p q ta tb)
  · exact .decFN fun p q ta tb => keepsSeen_with (exec_ftlt p q ta tb)
  · exact .decFN fun p q ta tb => keepsSeen_with (exec_ftle p q ta tb)
  · exact .decFN fun p q ta tb => keepsSeen_with (exec_fclass p q ta tb)
  · exact .error _

theorem decMem_keepsSeen : Answers KeepsSeen (decMem w) := by
  unfold decMem
  split
  · exact .bind fun p => .bind fun ta => .ok (keepsSeen_act (exec_ld p _ _ _ _ ta) fun _ => .fireLd ..)
  · exact .need (.bind fun p => .ok (keepsSeen_side (exec_st p _ _ _ _) fun _ => .fireSt ..))
  · exact .need (.bind fun p => .ok (pref_keepsSeen p _ _))
  · exact .error _

theorem decCells_keepsSeen : Answers KeepsSeen (decCells w) := by
  unfold decCells
  split
  · exact .decQ fun p _ a _ _ _ => .ok (keepsSeen_side (exec_enq p a) fun _ => .fireEnq ..)
  · exact .decQ fun p _ a _ _ _ => .ok (keepsSeen_side (exec_enqm p a) fun _ => .fireEnq ..)
  · exact .decQ fun p _ a k f _ => .ok (keepsSeen_side (exec_strm p a k f) fun _ => .fireStrm ..)
  · exact .decQ fun p _ a k f _ => .ok (keepsSeen_side (exec_strms p a k f) fun _ => .fireStrm ..)
  · exact .decQ fun p _ a _ _ _ => .ok (keepsSeen_side (exec_parm p a) fun _ => .fireParm ..)
  · exact .decQ fun p _ _ _ _ ta => .ok (rngp_keepsSeen p ta)
  · exact .decQ fun p _ a _ _ ta => .ok (keepsSeen_act (exec_getp p a ta) fun _ => .fireGetp ..)
  · exact .decQ fun p _ a _ _ _ => .ok (keepsSeen_side (exec_putp p a) fun _ => .firePutp ..)
  · exact .error _

theorem decCopy_keepsSeen : Answers KeepsSeen (decCopy w) := by
  unfold decCopy
  split
  · exact .decCpy fun p a k f ta => keepsSeen_copy (exec_cpy p a k f ta)
  · exact .decCpy fun p a k f ta => keepsSeen_copy (exec_cpyg p a k f ta)
  · exact .decCpy fun p a k f ta => keepsSeen_copy (exec_cpys p a k f ta)
  · exact .decCpy fun p a k f ta => keepsSeen_copy (exec_cpyr p a k f ta)
  · exact .error _

theorem decWait_keepsSeen : Answers KeepsSeen (decWait w) := by
  unfold decWait
  split
  · exact .bind fun p => .ok (keepsSeen_act (exec_waitn p _ _ _ _) fun _ => .startWait ..)
  · exact .need (.bind fun p => .bind fun ta => .ok (keepsSeen_act (exec_waitt p _ _ ta) fun _ => .startWait ..))
  · refine .need (.bind fun p => .bind fun ta => ?_)
    split
    · exact .ok (waita_keepsSeen p _ .ge ta)
    · exact .ok (waita_keepsSeen p _ .eq ta)
    · exact .ok (waita_keepsSeen p _ .ne ta)
    · exact .ok (waita_keepsSeen p _ .gt ta)
    · exact .error _
  · exact .need (.bind fun p => .bind fun ta => .ok (waitb_keepsSeen p _ ta))
  · exact .need (.bind fun p => .bind fun ta => .ok (tbp_keepsSeen p _ ta))
  · exact .decQ fun p _ a _ _ _ => .ok (arv_keepsSeen p a)
  · exact .decQ fun p _ a _ _ _ => .ok (arvx_keepsSeen p a)
  · exact .decQ fun p _ a _ _ _ => .ok (expt_keepsSeen p a)
  · refine .need (.bind fun p => ?_)
    split
    · exact .ok (fence_keepsSeen p false true)
    · exact .ok (fence_keepsSeen p true false)
    · exact .ok (fence_keepsSeen p true true)
    · exact .error _
  · exact .need (.bind fun p => .ok (keepsSeen_act (exec_yield p) fun _ => .modCur ..))
  · exact .need (.bind fun p => .bind fun ta => .ok (tlrd_keepsSeen p _ _ ta))
  · exact .error _

theorem decAtom_keepsSeen (op : AtomOp) : Answers KeepsSeen (decAtom w op) :=
  .need (.bind fun p => .ok (atom_keepsSeen p op _ _))

theorem decRed_keepsSeen (op : RedOp) : Answers KeepsSeen (decRed w op) :=
  .decQ fun p _ a _ _ _ => .ok (red_keepsSeen p op a)

theorem decCombine_keepsSeen : Answers KeepsSeen (decCombine w) := by
  unfold decCombine
  split
  · split
    · exact decAtom_keepsSeen w .cfaa
    · exact decAtom_keepsSeen w .cxch
    · exact decAtom_keepsSeen w .ccas
    · exact .error _
  · split
    · exact decRed_keepsSeen w .cadd
    · exact decRed_keepsSeen w .cfadd
    · exact decRed_keepsSeen w .cmax
    · exact decRed_keepsSeen w .cmin
    · exact decRed_keepsSeen w .cand
    · exact decRed_keepsSeen w .cor
    · exact decRed_keepsSeen w .cxor
    · exact decRed_keepsSeen w .resc
    · exact .error _
  · exact .error _

theorem decLeash_keepsSeen (k : KKind) : Answers KeepsSeen (decLeash w k) :=
  .decQ fun p _ a tk _ ta => .ok (leash_keepsSeen p k a tk ta)

theorem decLease_keepsSeen : Answers KeepsSeen (decLease w) := by
  unfold decLease
  split
  · split
    · exact decLeash_keepsSeen w .fftx
    · exact decLeash_keepsSeen w .sort
    · exact decLeash_keepsSeen w .infl
    · exact decLeash_keepsSeen w .spga
    · exact decLeash_keepsSeen w .trsv
    · exact decLeash_keepsSeen w .embg
    · exact decLeash_keepsSeen w .topk
    · exact decLeash_keepsSeen w .sten
    · exact .error _
  · exact .decQ fun p _ a _ _ _ => .ok (lrel_keepsSeen p a)
  · exact .decQ fun p _ a _ _ ta => .ok (lqry_keepsSeen p a ta)
  · exact .decQ fun p _ a _ _ _ => .ok (lpri_keepsSeen p a)
  · exact .error _

theorem decCancel_keepsSeen (lev : Level) : Answers KeepsSeen (decCancel w lev) :=
  .decQ fun p _ _ _ _ _ => .ok (cancel_keepsSeen p lev)

theorem decLaunch_keepsSeen : Answers KeepsSeen (decLaunch w) := by
  unfold decLaunch
  split
  · exact .decQ fun p _ a k _ _ => .ok (launch_keepsSeen p a k)
  · exact .decQ fun p _ _ _ _ ta => .ok (qclaim_keepsSeen p ta)
  · exact .decQ fun p _ _ _ _ _ => .ok (keepsSeen_side (exec_qpub p) fun _ => .resolve ..)
  · exact .decQ fun p _ _ _ _ _ => .ok (cntr_keepsSeen p)
  · split
    · exact decCancel_keepsSeen w .strand
    · exact decCancel_keepsSeen w .launch
    · exact decCancel_keepsSeen w .graph
    · exact decCancel_keepsSeen w .phase
    · exact decCancel_keepsSeen w .job
    · exact .error _
  · exact .decK fun p n _ => keepsSeen_side (exec_cfgl p n) fun _ => .resolve ..
  · exact .decK fun p _ _ => keepsSeen_side (exec_cfgt p) fun _ => .resolve ..
  · exact .error _

theorem decSystem_keepsSeen : Answers KeepsSeen (decSystem w) := by
  unfold decSystem
  split
  · exact .decK fun p n ta => srd_keepsSeen p n ta
  · exact .decK fun p n _ => swr_keepsSeen p n
  · exact .decK fun p n ta => tlbi_keepsSeen p n ta
  · exact .decK fun p _ _ => ctxs_keepsSeen p
  · exact .decK fun p _ _ => ctxr_keepsSeen p
  · exact .need (.bind fun p => .ok (eret_keepsSeen p _))
  · exact .need (.bind fun p => .ok (keepsSeen_act (exec_trap p _) fun _ => .stopAt ..))
  · exact .decK fun p n ta => pwrq_keepsSeen p n ta
  · exact .error _

/-- Every word that decodes keeps what a program sees. -/
theorem decode_keepsSeen : Answers KeepsSeen (decode w) := by
  unfold decode
  split
  · exact decPlumb_keepsSeen w
  · exact decInt1_keepsSeen w
  · exact decInt2_keepsSeen w
  · exact decTest_keepsSeen w
  · exact decImm_keepsSeen w
  · exact .error _
  · exact decFp_keepsSeen w
  · exact decMem_keepsSeen w
  · exact decCells_keepsSeen w
  · exact decCopy_keepsSeen w
  · exact decWait_keepsSeen w
  · exact decCombine_keepsSeen w
  · exact decLease_keepsSeen w
  · exact decLaunch_keepsSeen w
  · exact decSystem_keepsSeen w
  · exact .error _

end

/-! ## A step that runs a slot -/

/-- A pick of a slot runs the word of a mapped slot, and changes nothing where there is none. -/
theorem runSlot_kept {s t : State} {core f n : Nat} (h : runSlot core f n s = .next t) : s.Kept t := by
  unfold runSlot at h
  split at h
  · split at h
    next i hd => exact (State.Kept.onSched ..).trans (decode_keepsSeen _ i hd _ t h)
    next => cases h
  · cases h
    exact .refl s

/-- Settles O59: taking the pick from the agenda or the free order keeps what a program sees, and so does the word it runs. -/
theorem untilCommit : Obligations.UntilCommit := by
  intro s t core f n hpick h
  obtain ⟨ps, hag⟩ | ⟨hag, hfree⟩ := hpick
  · rw [step_agenda_cons hag] at h
    exact (State.Kept.onSched ..).trans (runSlot_kept h)
  · rw [step_agenda_nil hag, hfree] at h
    exact (State.Kept.onSched ..).trans (runSlot_kept h)

end Sys2Proof.Machine

/-! # Blocks are fetched, mapped, committed and trapped, and the clock ticks (spec/02 R31 to R36, spec/15 R299, R300). -/

namespace Sys2Proof.Machine

/-- A fold whose step leaves what is read leaves it altogether. -/
theorem foldl_read {σ α β : Type} (r : σ → β) {f : σ → α → σ} (h : ∀ s a, r (f s a) = r s) (l : List α) (s : σ) :
    r (l.foldl f s) = r s := by
  induction l generalizing s with
  | nil => rfl
  | cons a l ih => rw [List.foldl_cons, ih, h]

/-! ## A frame turn -/

@[simp] theorem coreSt_modCoreSt_same (s : State) (c : Nat) (f : CoreSt → CoreSt) :
    (s.modCoreSt c f).coreSt c = f (s.coreSt c) := by
  simp [State.coreSt, State.modCoreSt]

@[simp] theorem frame_modCoreSt (s : State) (k c i : Nat) (f : CoreSt → CoreSt) :
    (s.modCoreSt k f).frame c i = s.frame c i := rfl

/-- A context that owes another context of its core a frame, and owes it no longer once it has taken one. -/
def State.payYield (ctx : Nat) (s : State) (sid : Nat) : State :=
  if (s.strand sid).yields.contains ctx then
    s.modStrand sid (fun x => { x with yields := x.yields.filter (fun c => c != ctx) })
  else s

theorem payYield_frame (ctx c i : Nat) (s : State) (sid : Nat) : (s.payYield ctx sid).frame c i = s.frame c i := by
  unfold State.payYield
  split <;> rfl

theorem payYield_coreSt (ctx c : Nat) (s : State) (sid : Nat) : (s.payYield ctx sid).coreSt c = s.coreSt c := by
  unfold State.payYield
  split <;> rfl

/-- The frame that a fetched block of a context is mapped into. -/
def State.mappedFrame (s : State) (sid : Nat) (b : Fetched) : Frame :=
  { used := true, sid := sid, addr := b.addr, hdr := b.hdr, seq := (s.strand sid).seq + 1,
    slots := b.words.map (fun w => { word := w }) }

section
variable (s : State) (core ctx f : Nat) (b : Fetched)

/-- What mapping does before what the other contexts owe is settled. -/
def State.placeBlock : State :=
  let s1 := s.modStrand (mkSid core ctx) (fun x => { x with seq := (s.strand (mkSid core ctx)).seq + 1, fetched := none })
  (s1.setFrame core f (s.mappedFrame (mkSid core ctx) b)).modCoreSt core (fun k => { k with lastTurn := ctx })

theorem mapBlock_eq : s.mapBlock core ctx f b = (coreSids core).foldl (State.payYield ctx) (s.placeBlock core ctx f b) := rfl

theorem mapBlock_lastTurn : ((s.mapBlock core ctx f b).coreSt core).lastTurn = ctx := by
  have hfold := foldl_read (fun t => t.coreSt core) (payYield_coreSt ctx core) (coreSids core) (s.placeBlock core ctx f b)
  rw [mapBlock_eq]
  exact (congrArg CoreSt.lastTurn hfold).trans (by simp [State.placeBlock])

theorem mapBlock_frame (c i : Nat) : (s.mapBlock core ctx f b).frame c i =
    if c * 8 + i = core * 8 + f then s.mappedFrame (mkSid core ctx) b else s.frame c i := by
  have hfold := foldl_read (fun t => t.frame c i) (payYield_frame ctx c i) (coreSids core) (s.placeBlock core ctx f b)
  rw [mapBlock_eq]
  exact hfold.trans (by simp [State.placeBlock, frame_setFrame])

end

theorem frameTurn_maps {s : State} {core c f : Nat} {fs : List Nat} {b : Fetched}
    (hr : s.retained (coreCluster core) = false) (hf : s.freeFrames core = f :: fs)
    (hb : (s.strand (mkSid core c)).fetched = some b)
    (hc : ((List.range 4).map (fun d => ((s.coreSt core).lastTurn + 1 + d) % 4)).find? (fun i => s.mapReady (mkSid core i) &&
      !(s.strand (mkSid core i)).yields.any (fun j => (s.strand (mkSid core j)).live) && s.mayTake core i) = some c) :
    s.frameTurn core = s.mapBlock core c f b := by
  unfold State.frameTurn
  dsimp only
  rw [hr, hf, hc]
  simp [hb]

/-! ## A commit -/

theorem blockCommit_aborts {s : State} {core f : Nat} (hdue : s.commitDue core f = true)
    (h : s.stand (s.strand (s.frame core f).sid).who (s.frame core f) = none) :
    exec (.blockCommit core f) s = .next (s.abortFrom core f) := by
  simp [execBlockCommit, hdue, h]

theorem blockCommit_commits {s s1 : State} {core f p : Nat} {rs : List StoreRec} (hdue : s.commitDue core f = true)
    (h : s.stand (s.strand (s.frame core f).sid).who (s.frame core f) = some (p, rs, s1)) :
    exec (.blockCommit core f) s = .next (s1.commitBlock core f p rs) := by
  simp [execBlockCommit, hdue, h]

/-- A block without loads and reads stands at the strand's own timestamp. -/
theorem stand_without_accesses {s : State} {who : Owner} {fr : Frame} (hl : fr.loads = []) (hs : fr.stores = [])
    (hr : fr.reads = []) : s.stand who fr = some ((s.strand who.sid).pts, [], s) := by
  simp [State.stand, Frame.memOps, hl, hs, hr, standReads, State.standOps]

theorem effects_of_no_fx {fr : Frame} (h : fr.fx = []) : fr.effects = [] := by simp [Frame.effects, h]

theorem colourFor_no_fx (s : State) (who : Owner) : s.colourFor who [] = some none := by simp [State.colourFor]

/-- An exit other than EXIT, SCALL and ERET sends the strand to its next block. -/
theorem leaveBlock_next {s : State} {core i : Nat} {a : Word} {fr : Frame} (he : fr.exit = some (i, some a))
    (hop : opOf (fr.slot i).word ∉ [6, 7, 0xE5]) :
    s.leaveBlock core fr = s.modStrand fr.sid (fun x => { x with pc := a }) := by
  simp only [List.mem_cons, List.not_mem_nil, or_false, not_or] at hop
  obtain ⟨h6, h7, hE5⟩ := hop
  simp only [State.leaveBlock, he, if_neg h6, if_neg h7, if_neg hE5, Option.getD_some]

/-- A block that leaves nothing but register writes writes them, frees its frame and goes on at its exit. -/
theorem commitBlock_registers {s : State} {core f i : Nat} {a : Word} {fr : Frame} (hfr : s.frame core f = fr)
    (hfx : fr.fx = []) (hg : fr.gets = []) (hy : fr.yields = false) (he : fr.exit = some (i, some a))
    (hop : opOf (fr.slot i).word ∉ [6, 7, 0xE5]) :
    s.commitBlock core f (s.strand fr.sid).pts [] =
      ((s.modStrand fr.sid (fun x => { x with regs := fr.newRegs x.regs })).setFrame core f {}).modStrand fr.sid
        (fun x => { x with pc := a }) := by
  simp only [State.commitBlock, hfr, effects_of_no_fx hfx, colourFor_no_fx, hg, hy, leaveBlock_next he hop,
    Option.getD_some, List.foldl_nil, State.releaseStores, State.releasePuts, putsByPipe, State.recordActivation,
    Bool.false_eq_true, if_false, modStrand_def, Nat.max_self]

/-! ## The tick -/

def Strand.ticked (x : Strand) : Strand := if x.live then { x with pts := x.pts + 1 } else x

def State.tickStrand (s : State) (sid : Nat) : State :=
  if (s.strand sid).live then s.modStrand sid (fun x => { x with pts := x.pts + 1 }) else s

theorem execLivenessTick_eq (core : Nat) (s : State) :
    execLivenessTick core s = .next ((coreSids core).foldl State.tickStrand s) := rfl

theorem strand_tickStrand (s : State) (sid k : Nat) :
    (s.tickStrand sid).strand k = if k = sid then (s.strand k).ticked else s.strand k := by
  unfold State.tickStrand Strand.ticked
  by_cases hk : k = sid
  · subst hk
    cases hl : (s.strand k).live <;> simp [hl]
  · cases hl : (s.strand sid).live <;> simp [hk, strand_setStrand_ne _ _ hk]

theorem strand_tickAll (k : Nat) {l : List Nat} (hl : l.Nodup) (s : State) :
    (l.foldl State.tickStrand s).strand k = if k ∈ l then (s.strand k).ticked else s.strand k := by
  induction l generalizing s with
  | nil => simp
  | cons a l ih =>
    obtain ⟨ha, hl⟩ := List.nodup_cons.mp hl
    rw [List.foldl_cons, ih hl, strand_tickStrand]
    by_cases hk : k = a
    · subst hk
      simp [ha]
    · simp [hk]

theorem coreSids_nodup (core : Nat) : (coreSids core).Nodup :=
  List.nodup_range.map fun a b h => by
    simp only [mkSid] at h
    omega

theorem mem_coreSids {core sid : Nat} : sid ∈ coreSids core ↔ ∃ c < 4, sid = mkSid core c := by
  simp [coreSids, eq_comm]

/-- Settles O39: each event's conditions select its branch, and the fold of a turn and of a tick reads strand by strand. -/
theorem blockEvents : Obligations.BlockEvents := by
  refine ⟨fun s sid a h => ?_, fun s core c f fs b hr hf hb hc => ?_, fun s core f hdue => ?_,
    fun s sid t blk len hlive hdue => ?_, fun s core => ?_⟩
  · simp [execBlockFetchReturn, h]
  · refine ⟨_, (exec_frameTurn core s).trans (congrArg Host.Outcome.next (frameTurn_maps hr hf hb hc)), mapBlock_lastTurn .., ?_, ?_⟩
    · rw [mapBlock_frame, if_pos rfl]
      rfl
    · intro d g hne hg hf8
      rw [mapBlock_frame, if_neg (by omega)]
  · intro fr who
    refine ⟨blockCommit_aborts hdue, fun p rs s1 => blockCommit_commits hdue, fun i a hwho hfx hg hl hs hrd hy he hop => ?_⟩
    have hstand := stand_without_accesses (s := s) (who := who) hl hs hrd
    rw [hwho] at hstand
    rw [blockCommit_commits hdue hstand, commitBlock_registers rfl hfx hg hy he hop]
  · simp [execTrapTake, hlive, hdue]
  · refine ⟨_, (exec_livenessTick core s).trans (execLivenessTick_eq core s), fun c hc => ?_, fun sid hne => ?_⟩
    · rw [strand_tickAll _ (coreSids_nodup core), if_pos (mem_coreSids.mpr ⟨c, hc, rfl⟩)]
      rfl
    · rw [strand_tickAll _ (coreSids_nodup core), if_neg]
      rintro hmem
      obtain ⟨c, hc, hsid⟩ := mem_coreSids.mp hmem
      exact hne c hc hsid

end Sys2Proof.Machine

/-! # Control tokens at a port (spec/02 R48, spec/07 R202, R203, spec/18 R357, spec/20 R400). -/

namespace Sys2Proof.Machine

section
variable {s s1 : State} {cl e : Nat} {m : MCell}

/-! ## CMPL -/

theorem cmpl_lets_gate_through {gc : MCell} {s3 : State} (ht : s.takeInbox cl e 0x3F0 = some (m, s1))
    (hg : (s1.port cl e).gates.find? (fun x => covers m.cell x.cell) = some gc)
    (ha : (s1.modPort cl e (fun p => { p with gates := p.gates.filter (fun x => x.age != gc.age) })).arrive cl e gc = .took s3) :
    exec (.cmpl cl e) s = .next (s3.cellEnd cl m 0 m.stamp) := by
  simp only [exec_cmpl, execCmpl, State.cmplToken, ht, hg, ha]

/-- At a rendezvous port a token that covers no gate cell waits in the stall it gets. -/
theorem cmpl_waits_in_stall {k : Nat} (ht : s.takeInbox cl e 0x3F0 = some (m, s1))
    (hg : (s1.port cl e).gates.find? (fun x => covers m.cell x.cell) = none) (he : isRendezvous e = true)
    (hk : s1.takeStall cl e m.who m.cell.itag.toNat (m.cell.run.toNat + 1) = some k) :
    exec (.cmpl cl e) s =
      .next ((s1.modPort cl e (fun p => { p with cmpls := p.cmpls ++ [{ m with stall := k }] })).clearShort cl e m.age) := by
  simp only [exec_cmpl, execCmpl, State.cmplToken, ht, hg, he, hk, if_true]

/-- At another port a token that covers no gate cell waits while the store has room. -/
theorem cmpl_waits_in_store (ht : s.takeInbox cl e 0x3F0 = some (m, s1))
    (hg : (s1.port cl e).gates.find? (fun x => covers m.cell x.cell) = none) (he : isRendezvous e = false)
    (hroom : (s1.port cl e).cmpls.length < 8) :
    exec (.cmpl cl e) s = .next (s1.modPort cl e (fun p => { p with cmpls := p.cmpls ++ [{ m with stall := 0 }] })) := by
  have hstore : (s1.port cl e).cmpls.length < cmplStore := hroom
  simp only [exec_cmpl, execCmpl, State.cmplToken, ht, hg, he, Bool.false_eq_true, if_false, if_pos hstore]

/-! ## Recalls, drains and aborts -/

theorem rcll_ends (ht : s.takeInbox cl e 0x3F1 = some (m, s1)) :
    exec (.rcll cl e) s = .next (s1.cellEnd cl m 0 m.stamp) := by
  simp only [exec_rcll, execRcll, State.rcllToken, ht]

/-- A drain token at the head of a write port's inbox is the one that acts once its graph is quiet. -/
theorem drain_returns_agn {rest : List MCell} (hin : (s.port cl e).inbox = m :: rest) (hc : m.cell.cop = 0x3F2) (he : 16 ≤ e)
    (hl : (s.graph m.who.job m.who.graph).live = true) (hq : s.graphQuiet m.who.job m.who.graph = true) :
    exec (.drain cl e) s = .next (((s.modPort cl e (fun p => { p with inbox := rest })).cellEnd cl m 0 m.stamp).agnReturn
      m.who.job m.who.graph (agnKey cl m.cell.ctx.toNat m.cell.aux.toNat)) := by
  have hwrite : ¬ e < 16 := Nat.not_lt.mpr he
  simp [execDrain, State.drainToken, hin, takeFirst, hc, hq, hl, hwrite]

/-- A token of a collective that stands aborts it here and, where this device sent it, goes on to the other ranks. -/
theorem abrt_aborts {i : Nat} {c : Coll} (ht : s.takeInbox cl 14 0x3F3 = some (m, s1)) (hi : s1.collOf m = some (i, c))
    (hc : c.aborted = false) :
    exec (.abrt cl 14) s = .next (((if m.snode = 0 then s1.toOthers cl m i c.record m.cell else s1).collAbort cl m.who.job
      m.who.graph i 0x70).cellEnd cl m 0 m.stamp) := by
  simp only [exec_abrt, execAbrt, State.abrtToken, ht, hi, hc, bne_self_eq_false, Bool.or_self, Bool.false_eq_true, if_false]

end

/-- Settles O38: each token's conditions select its branch. -/
theorem tokens : Obligations.Tokens := by
  intro s s1 cl e m covered
  refine ⟨fun ht => ⟨fun gc s3 => cmpl_lets_gate_through ht, fun k => cmpl_waits_in_stall ht, cmpl_waits_in_store ht⟩,
    rcll_ends, fun rest => drain_returns_agn, fun ht i c => abrt_aborts ht⟩

end Sys2Proof.Machine

/-! # Queue picks, binding, starts, range claims, the tag window and jobs (spec/02 R41 to R43, R50 to R60, spec/09 R204). -/

namespace Sys2Proof.Machine

/-! ## The pick of a queue -/

/-- The earlier published of two heads. -/
def State.olderHead (s : State) (b : Option Nat) (k : Nat) : Option Nat :=
  match b with
  | none => some k
  | some j => if (s.queue k).headTime < (s.queue j).headTime then some k else some j

theorem oldestHead_cons (s : State) (a : Nat) (qs : List Nat) :
    s.oldestHead (a :: qs) = qs.foldl s.olderHead (some a) := rfl

/-- From a head on, the fold ends at that head or at a later one of the list. -/
theorem olderHead_foldl_some (s : State) (qs : List Nat) (j : Nat) :
    ∃ k ∈ j :: qs, qs.foldl s.olderHead (some j) = some k := by
  induction qs generalizing j with
  | nil => exact ⟨j, List.mem_singleton_self j, rfl⟩
  | cons a qs ih =>
    rw [List.foldl_cons]
    by_cases hlt : (s.queue a).headTime < (s.queue j).headTime
    · obtain ⟨k, hk, hfold⟩ := ih a
      refine ⟨k, List.mem_cons_of_mem j hk, ?_⟩
      rw [State.olderHead, if_pos hlt, hfold]
    · obtain ⟨k, hk, hfold⟩ := ih j
      refine ⟨k, ?_, ?_⟩
      · simp only [List.mem_cons] at hk ⊢
        tauto
      · rw [State.olderHead, if_neg hlt, hfold]

theorem oldestHead_mem {s : State} {qs : List Nat} {k : Nat} (h : s.oldestHead qs = some k) : k ∈ qs := by
  cases qs with
  | nil => cases h
  | cons a qs =>
    obtain ⟨j, hj, hfold⟩ := olderHead_foldl_some s qs a
    rw [oldestHead_cons, hfold] at h
    cases h
    exact hj

theorem oldestHead_none {s : State} {qs : List Nat} (h : s.oldestHead qs = none) : qs = [] := by
  cases qs with
  | nil => rfl
  | cons a qs =>
    obtain ⟨j, -, hfold⟩ := olderHead_foldl_some s qs a
    rw [oldestHead_cons, hfold] at h
    cases h

theorem le_foldl_max_init {α : Type} (f : α → Nat) (l : List α) (m : Nat) : m ≤ l.foldl (fun n a => max n (f a)) m := by
  induction l generalizing m with
  | nil => exact Nat.le_refl m
  | cons a l ih => exact (Nat.le_max_left m (f a)).trans (ih _)

theorem le_foldl_max {α : Type} (f : α → Nat) {l : List α} {a : α} (ha : a ∈ l) (m : Nat) :
    f a ≤ l.foldl (fun n b => max n (f b)) m := by
  induction l generalizing m with
  | nil => cases ha
  | cons b l ih =>
    rcases List.mem_cons.mp ha with rfl | ha
    · exact (Nat.le_max_right m _).trans (le_foldl_max_init f l _)
    · exact ih ha _

/-- The queues of a quarter whose heads may dispatch. -/
def State.eligibleQueues (s : State) (q : Nat) : List Nat := ((List.range 256).map (fun k => q * 256 + k)).filter s.eligible

theorem mem_eligibleQueues {s : State} {q k : Nat} : k ∈ s.eligibleQueues q ↔ (∃ j < 256, k = q * 256 + j) ∧ s.eligible k = true := by
  simp only [State.eligibleQueues, List.mem_filter, List.mem_map, List.mem_range, eq_comm]

/-- The highest priority among the eligible heads. -/
def State.topPrio (s : State) (q : Nat) : Nat := (s.eligibleQueues q).foldl (fun m k => max m (s.queue k).prio) 0

/-- What a pick takes: the oldest of the aged eligible heads, or, with none aged, an eligible head of the highest priority. -/
theorem pickQueue_cases {s s2 : State} {q k : Nat} (h : s.pickQueue q = some (k, s2)) :
    k ∈ s.eligibleQueues q ∧
      ((s.queue k).aged = true ∨
        (∀ j ∈ s.eligibleQueues q, (s.queue j).aged = false) ∧ (s.queue k).prio = s.topPrio q) := by
  unfold State.pickQueue at h
  dsimp only at h
  split at h
  next j hj =>
    cases h
    obtain ⟨hmem, haged⟩ := List.mem_filter.mp (oldestHead_mem hj)
    exact ⟨hmem, .inl haged⟩
  next hnone =>
    have hyoung : ∀ j ∈ s.eligibleQueues q, (s.queue j).aged = false := fun j hj => by
      simpa using List.filter_eq_nil_iff.mp (oldestHead_none hnone) j hj
    split at h
    next => cases h
    next =>
      split at h
      next => cases h
      next j hj =>
        cases h
        obtain ⟨htop, -⟩ := List.mem_filter.mp (oldestHead_mem hj)
        obtain ⟨hmem, hprio⟩ := List.mem_filter.mp htop
        exact ⟨hmem, .inr ⟨hyoung, eq_of_beq hprio⟩⟩

section
variable {s : State} {q : Nat} (hclaims : s.work.claims1.filter (fun n => n / 2 ^ 22 == q) = [])
include hclaims

theorem launchPick_none (h : s.pickQueue q = none) : exec (.launchPick q) s = .next s := by
  simp only [exec_launchPick, execLaunchPick, State.launchPick, hclaims, List.foldl_nil, h]

theorem launchPick_dispatches {k : Nat} {s2 : State} (h : s.pickQueue q = some (k, s2)) :
    exec (.launchPick q) s = .next (s2.dispatch k) := by
  simp only [exec_launchPick, execLaunchPick, State.launchPick, hclaims, List.foldl_nil, h]

end

/-- A head that is picked and not aged has the highest priority of the eligible heads, none of which is aged. -/
theorem pickQueue_priority {s s2 : State} {q k : Nat} (h : s.pickQueue q = some (k, s2)) (haged : (s.queue k).aged = false)
    {j : Nat} (hj : j ∈ s.eligibleQueues q) : (s.queue j).aged = false ∧ (s.queue j).prio ≤ (s.queue k).prio := by
  obtain ⟨-, hold | ⟨hyoung, hprio⟩⟩ := pickQueue_cases h
  · rw [haged] at hold
    cases hold
  · exact ⟨hyoung j hj, hprio ▸ le_foldl_max (fun i => (s.queue i).prio) hj 0⟩

/-! ## The loader binds and a pack starts -/

theorem graphBind_binds {s s1 : State} {l : Nat} {img0 : GraphImage} (hu : (s.launch l).used = true)
    (he : (s.launch l).ended = false) (hb : (s.launch l).bound = false) (hc : (s.launch l).cancelled = false)
    (hl : (s.graph (s.launch l).job (s.launch l).graph).live = false)
    (hi : s.imageOk (s.launch l).quarter (s.launchImage l img0) = true)
    (hn : s.nodesFree l (s.launch l).job (s.launchImage l img0) = true)
    (ht : s.takeTags (s.launch l).job (imageClusters (s.launchImage l img0)) = some s1) :
    s.graphBind l img0 =
      ((imageClusters (s.launchImage l img0)).foldl (fun t c => t.wakeIsland c) s1).bindNodes l (s.launchImage l img0) := by
  simp [State.graphBind, hu, he, hb, hc, hl, hi, hn, ht]

/-- The loader passes on a launch whose stacks have calibrated where they must and whose pack its region can hold. -/
theorem exec_graphBind_passes {s : State} {l : Nat} {img0 img : GraphImage} (hu : (s.launch l).used = true)
    (he : (s.launch l).ended = false) (hb : (s.launch l).bound = false) (hc : (s.launch l).cancelled = false)
    (himg : argImage (cardOf (s.launch l).packet) (s.launchImage l img0) = img)
    (hm : img.majority = true → s.allCalibrated (s.partOf (s.launch l).quarter) = true)
    (hp : (s.launch l).kind = 2 → (packStrands img (s.launchRank l img)).length ≤ 32 * img.clusters.length) :
    exec (.graphBind l img0) s = .next (s.graphBind l img) := by
  have hcal : (img.majority && !s.allCalibrated (s.partOf (s.launch l).quarter)) = false := by
    cases hmaj : img.majority with
    | false => rfl
    | true => simp [hm hmaj]
  have hsize : ((s.launch l).kind = 2 && decide ((packStrands img (s.launchRank l img)).length > 32 * img.clusters.length)) =
      false := by
    simpa using hp
  simp [execGraphBind, State.loaderBind, himg, hu, he, hb, hc, hcal, hsize]

theorem exec_packStart_starts {s : State} {l : Nat} {places : List Nat} (hu : (s.launch l).used = true)
    (he : (s.launch l).ended = false) (hk : (s.launch l).kind = 2) (hb : (s.launch l).bound = true)
    (hs : (s.launch l).started = false) (hc : (s.launch l).cancelled = false) (hpm : s.pmHolds (s.launch l).quarter = false)
    {img : GraphImage} (himg : (s.graph (s.launch l).job (s.launch l).graph).img = img)
    {all : List (Nat × SetDecl)} (hall : packStrands img (s.launchRank l img) = all)
    (hlen : places.length = all.length) (hnd : places.Nodup) (hcl : s.contextsUnclaimed l img.clusters = true)
    (hp : ∀ e ∈ places.zip all, e.1 < 2048 ∧ e.1 / 32 % 16 < 12 ∧ s.contextFree e.1 = true ∧
      (setClusters img e.2.2).contains (sidCluster e.1) = true) :
    exec (.packStart l places) s =
      .next (((places.zip all).foldl (fun t e => t.startStrand l e.2.1 e.2.2 e.1) s).allStarted l) := by
  have hplaces : (places.zip all).all (fun e => decide (e.1 < 2048) && decide (e.1 / 32 % 16 < 12) && s.contextFree e.1 &&
      (setClusters img e.2.2).contains (sidCluster e.1)) = true := by
    rw [List.all_eq_true]
    intro e hmem
    obtain ⟨hsid, hcluster, hfree, hin⟩ := hp e hmem
    rw [hfree, hin, decide_eq_true hsid, decide_eq_true hcluster]
    rfl
  simp only [exec_packStart, execPackStart, State.packStart, himg, hall, hplaces, hu, he, hk, hb, hs, hc, hpm, hlen, hnd, hcl]
  simp

/-! ## The range server -/

/-- The chunk that the claim's formula gives a set of `k` live strands (R42). -/
def Range.chunk (r : Range) (k : Nat) : Nat :=
  min (r.size - r.next) (max r.minchk ((r.size - r.next + 2 * max 1 k - 1) / (2 * max 1 k)))

/-- Without returned chunks a claim takes the formula's chunk. -/
theorem Range.claim_fresh {r : Range} (hback : r.back = []) (k : Nat) :
    r.claim k = ((r.next, r.chunk k), { r with next := r.next + r.chunk k }) := by
  simp [Range.claim, Range.chunk, hback]

/-- An RNGP in its turn gets the chunk claimed for it, which its block notes. -/
theorem exec_rangeClaim_serves {s : State} {core f i : Nat} {r r' : Range} {fr : Frame} {x : Strand} {first n : Nat}
    (hf : f < 8) (hfr : s.frame core f = fr) (hx : s.strand fr.sid = x) (hr : (s.launch x.who.launch).range = some r)
    (hu : fr.used = true) (ha : fr.asks.contains i = true) (hop : opOf (fr.slot i).word = 0x85)
    (hcb : s.claimBefore core f = false) (hclaim : r.claim (tgetD 0 (s.launch x.who.launch).setLive x.set) = ((first, n), r')) :
    exec (.rangeClaim (.slot (core * 8 + f) i)) s =
      .next ((s.modLaunch x.who.launch (fun y => { y with range := some r' })).modFrame core f
        (fun y => { (y.send (.val (BitVec.ofNat 64 (first * 2 ^ 32 + n))) (loadTargets (y.slot i))) with
          asks := y.asks.filter (fun j => j != i), rngs := y.rngs ++ [(i, first, n)] })) := by
  have hcore : (core * 8 + f) / 8 = core := by omega
  have hframe : (core * 8 + f) % 8 = f := by omega
  simp only [exec_rangeClaim, execRangeClaim, State.serveClaim, hcore, hframe, hfr, hx, hr, hu, ha, hop, hcb, hclaim,
    Bool.not_true, Bool.or_self, bne_self_eq_false, Bool.false_eq_true, if_false]

/-! ## The tag window -/

theorem exec_tagAdmit_admits {s : State} {job g : Nat} (hl : (s.graph job g).live = true)
    (hc : (s.graph job g).closedAdm = false) (hw : (s.graph job g).adm - (s.graph job g).lo < s.liveEff (s.graph job g))
    (he : s.tagElsewhere job g (s.graph job g).adm = false)
    (hroom : ∀ cl ∈ imageClusters (s.graph job g).img, ∀ d ∈ tagDemand (s.graph job g).img cl, d.2 ≤ s.unreserved cl d.1) :
    exec (.tagAdmit job g) s = .next (s.modGraph job g (fun y => { y with adm := y.adm + 1 })) := by
  have hall : (imageClusters (s.graph job g).img).all (fun cl =>
      (tagDemand (s.graph job g).img cl).all (fun d => decide (d.2 ≤ s.unreserved cl d.1))) = true := by
    simpa using hroom
  simp only [exec_tagAdmit, execTagAdmit, State.tagAdmit, hl, hc, he, hall, decide_eq_true hw]
  rfl

theorem exec_tagRetire_retires {s : State} {job g : Nat} (hl : (s.graph job g).live = true)
    (hlo : (s.graph job g).lo < (s.graph job g).adm) (hheld : s.tagHeld job g (s.graph job g).lo = false)
    (hpast : s.sourcesPast job g = true) :
    exec (.tagRetire job g) s = .next ((s.modGraph job g (fun y => { y with lo := y.lo + 1 })).tryRetire job g) := by
  simp [execTagRetire, State.tagRetire, hl, Nat.not_le.mpr hlo, hheld, hpast]

/-! ## Jobs -/

theorem exec_jobCreate_creates {s : State} {job w : Nat} (hs : (s.job job).state = 0) (hpos : 0 < job) (hlt : job < 4095) :
    exec (.jobCreate job w) s = .next (((s.onWork (fun x => { x with counts := x.counts.filter (fun e =>
      !(e.1 / 2048 / 2 ^ 46 == 3 && e.1 / 2048 % 2 ^ 46 / 2 ^ 32 == job)) })).modJob job (fun _ =>
        { state := 1, weight := shareWeight w })).setCount 4 job 3 0 1) := by
  have hne : job ≠ 0 := by omega
  have hmax : ¬ job ≥ 4095 := by omega
  simp [execJobCreate, State.createJob, hs, hne, hmax]

theorem exec_jobClose_closes {s : State} {job : Nat} (c : Nat) (hs : (s.job job).state = 1) (hne : job ≠ 0) :
    exec (.jobClose job c) s =
      .next (((s.modJob job (fun j => { j with state := 2, closeCtr := some c })).countDownFrom 4 job 0 0).endUpper 4 job) := by
  simp [execJobClose, State.closeJob, hs, hne]

theorem exec_jobWeight_weighs {s : State} {job : Nat} (w : Nat) (hs : (s.job job).state = 1) (hne : job ≠ 0) :
    exec (.jobWeight job w) s = .next (s.modJob job (fun j => { j with weight := shareWeight w })) := by
  simp [execJobWeight, State.weighJob, hs, hne]

/-- Settles O41: the pick by what `pickQueue` can take, the other events by the branch that their conditions select. -/
theorem launchEvents : Obligations.LaunchEvents := by
  intro s q job g l
  refine ⟨fun hclaims => ⟨launchPick_none hclaims, fun k s2 hk => ⟨launchPick_dispatches hclaims hk, ?_⟩⟩, fun n => rfl,
    fun img0 s1 => ?_, fun places => ?_, fun core f i r => ?_, fun hl => ⟨exec_tagAdmit_admits hl, exec_tagRetire_retires hl⟩,
    fun w => exec_jobCreate_creates, exec_jobClose_closes, exec_jobWeight_weighs⟩
  · obtain ⟨hmem, -⟩ := pickQueue_cases hk
    obtain ⟨⟨j, hj, hkj⟩, helig⟩ := mem_eligibleQueues.mp hmem
    exact ⟨helig, by omega, fun haged i hi hel => pickQueue_priority hk haged (mem_eligibleQueues.mpr ⟨⟨i, hi, rfl⟩, hel⟩)⟩
  · intro x img1 img hu he hb hc hm hp hl hi hn ht
    rw [exec_graphBind_passes hu he hb hc rfl hm hp, graphBind_binds hu he hb hc hl hi hn ht]
  · intro x img all hu he hk hb hs hc hpm hlen hnd hcl hp
    exact exec_packStart_starts hu he hk hb hs hc hpm rfl rfl hlen hnd hcl hp
  · intro fr who k n hf hr hback hu ha hop hcb
    have hserved := exec_rangeClaim_serves hf rfl rfl hr hu ha hop hcb (Range.claim_fresh hback _)
    exact hserved

end Sys2Proof.Machine

/-! # The host quiesces, repartitions and resumes, and writes registers (spec/02 R51, spec/12 R264, spec/18 R362, R376, R379,
spec/20 R411, spec/23 R449 to R458). -/

namespace Sys2Proof.Machine

/-! ## Fields of a value -/

theorem only_iff {v : Word} {mask : Nat} : only v mask = true ↔ v &&& ~~~(BitVec.ofNat 64 mask) = 0 := by
  simp [only, num]

/-- A value has no bits outside a mask exactly when the mask leaves it as it is. -/
theorem only_iff_and {v : Word} {mask : Nat} : only v mask = true ↔ v &&& BitVec.ofNat 64 mask = v := by
  rw [only_iff]
  generalize BitVec.ofNat 64 mask = m
  constructor
  · intro h
    ext i hi
    have hbit := congrArg (fun x : Word => x[i]'hi) h
    simpa using hbit
  · intro h
    rw [← h, BitVec.and_assoc]
    simp

theorem toNat_le_of_only {v : Word} {mask : Nat} (hmask : mask < 2 ^ 64) (h : only v mask = true) : v.toNat ≤ mask := by
  have hand := congrArg BitVec.toNat (only_iff_and.mp h)
  rw [BitVec.toNat_and, BitVec.toNat_ofNat, Nat.mod_eq_of_lt hmask] at hand
  exact hand ▸ Nat.and_le_right

/-- The low n bits hold exactly the values below 2^n. -/
theorem only_low_iff {v : Word} {n : Nat} (hn : n ≤ 64) : only v (2 ^ n - 1) = true ↔ v.toNat < 2 ^ n := by
  have hpos := Nat.two_pow_pos n
  have hle : 2 ^ n ≤ 2 ^ 64 := Nat.pow_le_pow_right (by decide) hn
  rw [only_iff_and, ← BitVec.toNat_inj, BitVec.toNat_and, BitVec.toNat_ofNat, Nat.mod_eq_of_lt (by omega),
    Nat.and_two_pow_sub_one_eq_mod]
  exact ⟨fun h => h ▸ Nat.mod_lt _ hpos, Nat.mod_eq_of_lt⟩

theorem wbits_lt (v : Word) (lo n : Nat) : wbits v lo n < 2 ^ n := Nat.mod_lt _ (Nat.two_pow_pos n)

theorem bitOf_eq_false {v i : Nat} (h : v < 2 ^ i) : bitOf v i = false := by
  simp [bitOf, Nat.div_eq_of_lt h]

/-! ## Quiesce and resume -/

/-- PMSTAT accepts no second QUIESCE while one goes on. -/
theorem canQuiesce_of_quiescing {s : State} (m : Nat) (h : s.sys.pmstat = pmQuiescing) : s.canQuiesce m = false := by
  simp [State.canQuiesce, h, pmQuiescing, pmIdle, pmBusy]

theorem exec_pmQuiesce_starts {s : State} {m : Nat} (h : s.canQuiesce m = true) :
    exec (.pmQuiesce m) s = .next (s.pmStart m) := by
  simp [execPmQuiesce, State.pmQuiesce, h]

theorem exec_pmQuiesce_goesOn {s : State} {m : Nat} (h : s.sys.pmstat = pmQuiescing) (hm : s.sys.pmask = m) :
    exec (.pmQuiesce m) s = .next s.quiesce := by
  simp [execPmQuiesce, State.pmQuiesce, canQuiesce_of_quiescing m h, h, hm]

theorem quiesce_busy {s : State} (hl : s.launching s.sys.pmask = false) (hc : s.claimsOpen s.sys.pmask = true) :
    s.quiesce = s.onSys (fun y => { y with pmstat := pmBusy }) := by
  simp [State.quiesce, hl, hc]

/-- Without launches and open claims the quarters are quiesced unless work is left. -/
theorem quiesce_ends {s : State} (hl : s.launching s.sys.pmask = false) (hc : s.claimsOpen s.sys.pmask = false) :
    s.quiesce.workLeft s.sys.pmask = true ∨ s.quiesce.sys.pmstat = pmQuiesced := by
  simp only [State.quiesce, hl, hc, Bool.false_eq_true, if_false]
  split
  next hw => exact .inl hw
  next => exact .inr rfl

theorem exec_pmResume_resumes {s : State} {m : Nat} (h : s.canResume m = true) :
    exec (.pmResume m) s =
      let qs := (List.range 4).filter (fun n => bitOf m n)
      let t := ((qs.map s.partOf).eraseDups.foldl (fun st r => st.formPart r) ((s.onAcc (fun a => { a with
        tlb := a.tlb.filter (fun e => !qs.contains e.1) })).dropCaches qs)).onSys (fun y => { y with pmstat := pmIdle, pmask := 0 })
      .next (t.splitGraphs.foldl (fun st g => st.graphLost g.1 g.2) t) := by
  simp only [exec_pmResume, execPmResume, State.pmResume, h, Bool.true_or, Bool.not_true, Bool.false_eq_true, if_false]

/-! ## Registers written one by one -/

section
variable {s : State} {v : Word}

theorem writePcfg_legal (hv : pcfgOk v = true) (hq : s.quiesced (pcfgChanges s.sys.pcfg v) = true) :
    s.writePcfg v = .done ((s.onSys (fun y => { y with pcfg := v })).measureAccess) := by
  simp [State.writePcfg, hv, hq]

theorem writePcfg_running (hv : pcfgOk v = true) (hq : s.quiesced (pcfgChanges s.sys.pcfg v) = false)
    (hne : v ≠ s.sys.pcfg) : s.writePcfg v = .badsys := by
  simp [State.writePcfg, hv, hq, hne]

theorem writePcfg_illegal (hv : pcfgOk v = false) : s.writePcfg v = .badsys := by
  simp [State.writePcfg, hv]

theorem writeAce_eq (s : State) (v : Word) (k : Nat) : s.writeAce k v =
    if wbits v 38 3 = 0 ∧ wbits v 0 6 = 0 then .done ((s.onLnk (fun l => { l with ace := tset l.ace k v })).measureAccess)
    else .badsys := by
  unfold State.writeAce
  split_ifs <;> simp_all

/-- A node number has 16 bits and is neither 0 nor all ones. -/
theorem pnode_illegal_iff (v : Word) :
    (!only v 0xFFFF || decide (v = 0) || decide (v = 0xFFFF)) = true ↔ ¬(v.toNat < 0xFFFF ∧ v ≠ 0) := by
  have hlow : only v 0xFFFF = true ↔ v.toNat < 2 ^ 16 := only_low_iff (n := 16) (by decide)
  have hzero : v = 0 ↔ v.toNat = 0 := by simp [← BitVec.toNat_inj]
  have hones : v = 0xFFFF ↔ v.toNat = 0xFFFF := by simp [← BitVec.toNat_inj]
  rw [Bool.or_eq_true, Bool.or_eq_true, Bool.not_eq_true', Bool.eq_false_iff, decide_eq_true_eq, decide_eq_true_eq, ne_eq, ne_eq,
    hlow, hzero, hones]
  omega

theorem writePnode_eq (s : State) (v : Word) (root : Nat) : s.writePnode root v =
    if v.toNat < 0xFFFF ∧ v ≠ 0 then .done ((s.modPart root (fun p => { p with pnode := v })).leaveLink) else .badsys := by
  rw [State.writePnode, if_congr (pnode_illegal_iff v) rfl rfl, ite_not]

theorem writeMestat_legal (k : Nat) (hv : v &&& ~~~(0xFF7F : Word) = 0) :
    s.writeMestat k v = .done (s.modMatEng k (fun e => { e with quar := false })) := by
  have ho : only v 0xFF7F = true := only_iff.mpr hv
  have hle : v.toNat ≤ 0xFF7F := toNat_le_of_only (by decide) ho
  have hbit : bitOf v.toNat 63 = false := bitOf_eq_false (by omega)
  simp [State.writeMestat, ho, hbit]

theorem writeKnout_legal (q : Nat) (hv : v.toNat < 2 ^ 32) :
    s.writeKnout q v = .done (((List.range 32).foldl (fun st i => if bitOf v.toNat i then st
      else st.modKEngine q i (fun e => { e with out := false })) s).kServe q) := by
  have ho : only v (2 ^ 32 - 1) = true := (only_low_iff (by decide)).mpr hv
  simp only [State.writeKnout, ho, Bool.not_true, Bool.false_eq_true, if_false]

theorem writeKnout_illegal (q : Nat) (hv : 2 ^ 32 ≤ v.toNat) : s.writeKnout q v = .badsys := by
  have ho : only v (2 ^ 32 - 1) = false := by
    rw [Bool.eq_false_iff, ne_eq, only_low_iff (by decide)]
    omega
  simp only [State.writeKnout, ho, Bool.not_false, if_true]

/-- In context mode JPWR takes a legal value as it is. -/
theorem writeJpwr_context {i : Issuer} (hm : s.contextMode i.root = true)
    (hv : v &&& ~~~(0xFF77 : Word) = 0) (hp : wbits v 0 3 ≠ 0) :
    s.writeJpwr i v = .done (s.setJob i (fun x => { x with jpwr := v })) := by
  have ho : only v 0xFF77 = true := only_iff.mpr hv
  have hr : inRange v 0 3 1 7 = true := by
    have := wbits_lt v 0 3
    exact decide_eq_true (by omega)
  simp [State.writeJpwr, hm, ho, hr, wif]

theorem writeVfisl_legal (q n : Nat) (hv : v.toNat < 256) :
    s.writeVfisl q n v =
      .done (s.setIsland q n { s.island q n with floor := wbits v 0 3, wake := (s.island q n).wake || (s.island q n).ret }) := by
  have ho : only v 0xFF = true := (only_low_iff (n := 8) (by decide)).mpr hv
  simp only [State.writeVfisl, ho, wif, if_true]

end

/-! ## Any register -/

/-- The host's issuer of a register write: the partition is that of the selector's unit. -/
def hostWriter (s : State) (w : RegWrite) : Issuer :=
  hostIssuer (s.partOf (if wbits w.sel 0 6 ≠ 0 ∧ wbits w.sel 0 6 < 48 then wbits w.sel 0 6 / 12 else wbits w.sel 6 2)) w.job

/-- A write of a register that programs may write and that is no handler's own reaches the register. -/
theorem regWrite_reaches {s : State} {i : Issuer} {n u : Nat} {sel v : Word} {r : SysReg} {sc : Scope}
    (hreg : sysReg n = some (r, sc)) (hsel : s.selUnit i sc sel = some u) (hw : r.access.w = true) (hown : r.own = false)
    (hhost : i.host = true) : s.regWrite i n sel v = s.sysRegWrite i u v r := by
  simp [State.regWrite, hreg, hsel, hw, hown, hhost]

theorem exec_registerWrite_eq (s : State) (w : RegWrite) :
    exec (.registerWrite w) s = .next ((s.regWrite (hostWriter s w) w.sysnum w.sel w.val).state s) := by
  simp only [exec_registerWrite, execRegisterWrite, hostWriter, Bool.and_eq_true, bne_iff_ne, decide_eq_true_eq]

/-- Settles O47: each command and each write by the branch that its conditions select. -/
theorem hostRegisterEvents : Obligations.HostRegisterEvents := by
  intro s v m q k
  refine ⟨exec_pmQuiesce_starts, fun hst hm hl => ?_, exec_pmResume_resumes, fun hv => ⟨fun hq => ?_, fun hq hne => ?_⟩,
    fun hv => ?_, ?_, ?_, fun hv => ?_, fun hv => ?_, fun hv => ?_, ⟨fun hm => ?_, fun hm hv hp => ?_⟩, fun hv => ?_,
    fun w r sc u hreg => ?_⟩
  · subst hm
    rw [exec_pmQuiesce_goesOn hst rfl]
    exact ⟨fun hc => congrArg _ (quiesce_busy hl hc), fun hc => ⟨_, rfl, quiesce_ends hl hc⟩⟩
  · rw [exec_pcfgWrite, execPcfgWrite, writePcfg_legal hv hq]
    rfl
  · rw [exec_pcfgWrite, execPcfgWrite, writePcfg_running hv hq hne]
    rfl
  · rw [exec_pcfgWrite, execPcfgWrite, writePcfg_illegal hv]
    rfl
  · rw [exec_aceWrite, execAceWrite, writeAce_eq]
    split <;> rfl
  · rw [exec_pnodeWrite, execPnodeWrite, writePnode_eq]
    split <;> rfl
  · rw [exec_mestatWrite, execMestatWrite, writeMestat_legal _ hv]
    rfl
  · rw [exec_knoutWrite, execKnoutWrite, writeKnout_legal q hv]
    rfl
  · rw [exec_knoutWrite, execKnoutWrite, writeKnout_illegal q hv]
    rfl
  · have hroot : s.contextMode (hostIssuer 0 k).root = false := hm
    simp only [exec_jpwrWrite, execJpwrWrite, State.writeJpwr, hroot, Bool.false_eq_true, if_false]
    rfl
  · rw [exec_jpwrWrite, execJpwrWrite, writeJpwr_context hm hv hp]
    rfl
  · rw [exec_vfislWrite, execVfislWrite, writeVfisl_legal q k hv]
    rfl
  · intro c i hsel hw hown
    have hreach : s.regWrite (hostWriter s w) w.sysnum w.sel w.val = s.sysRegWrite i u w.val r :=
      regWrite_reaches hreg hsel hw hown rfl
    rw [exec_registerWrite_eq, hreach]
    exact ⟨fun t ht => by rw [ht]; rfl, fun hbad => by rw [hbad]; rfl⟩

end Sys2Proof.Machine

/-! # A word decodes to an instruction exactly when it is its encoding (spec/03 R66 to R72, spec/04 R90 to R97). -/

namespace Sys2Proof

/-- The instruction is well formed, and its encoding is the word. -/
def Spells (w : IWord) (i : Instr) : Prop := i.wf = true ∧ encode i = some w

/-! ## Fields -/

theorem encPrec_fld (w : IWord) : encPrec (if fld w 21 1 = 1#1 then .d else .s) = fld w 21 1 := by
  generalize fld w 21 1 = b
  revert b
  decide

theorem eq_none_of_decTgt_zero {ta : Tgt} (h : decTgt 0#9 = .ok ta) : ta = .none := by
  cases h
  rfl

/-- A field that must be zero where the instruction does not define it. -/
theorem eq_cond_zero {n : Nat} {ok : Bool} {x : BitVec n} (h : (ok || x == 0#n) = true) : x = cond ok x 0#n := by
  cases ok
  · exact eq_of_beq h
  · rfl

/-- A target that must be absent where the instruction does not define it. -/
theorem eq_cond_none {ok : Bool} {f : BitVec 9} {ta : Tgt} (h : (ok || f == 0#9) = true) (hta : decTgt f = .ok ta) :
    ta = cond ok ta .none := by
  cases ok
  · have hf : f = 0#9 := eq_of_beq h
    exact eq_none_of_decTgt_zero (hf ▸ hta)
  · rfl

/-- A flag that must be clear where the instruction does not define it. -/
theorem eq_cond_false {ok : Bool} {b : BitVec 1} (h : (ok || b == 0#1) = true) : (b == 1#1) = cond ok (b == 1#1) false := by
  cases ok
  · have hb : b = 0#1 := eq_of_beq h
    rw [hb]
    rfl
  · rfl

/-! ## The readers of the formats -/

section
variable {w : IWord} {op : BitVec 8}

/-- What a check guards may use that the check passes. -/
theorem Answers.need_of {P : Instr → Prop} {b : Bool} {r : Reject} {x : Except Reject Instr} (h : b = true → Answers P x) :
    Answers P (Sys2Proof.need b r x) := fun i hi => h (need_inv hi).1 i (need_inv hi).2

theorem decGAny_spells {mk : Pr → Tgt → Tgt → Instr} (hop : fld w 24 8 = op)
    (h : ∀ p ta tb, Spells (encG op p (fld w 18 4) ta tb) (mk p ta tb)) : Answers (Spells w) (decGAny w mk) := by
  intro i hi
  obtain ⟨p, ta, tb, rfl, hw⟩ := decGAny_inv hi
  have hs := h p ta tb
  rwa [← hop, ← hw] at hs

theorem decG_spells {mk : Pr → Tgt → Tgt → Instr} (hop : fld w 24 8 = op)
    (h : ∀ p ta tb, Spells (encG op p 0#4 ta tb) (mk p ta tb)) : Answers (Spells w) (decG w mk) :=
  .need_of fun hx => decGAny_spells hop (by rwa [eq_of_beq hx])

theorem decGAny_spells_rounded {q : Prec} {r : Rnd} {mk : Pr → Tgt → Tgt → Instr} (hop : fld w 24 8 = op)
    (hq : encPrec q = fld w 21 1) (hr : encRnd r = fld w 18 3)
    (h : ∀ p ta tb, Spells (encF op p q r ta tb) (mk p ta tb)) : Answers (Spells w) (decGAny w mk) :=
  decGAny_spells hop (by rwa [fld_split w 18 1 3, ← hq, ← hr])

theorem decF_spells {mk : Pr → Prec → Rnd → Tgt → Tgt → Instr} (hop : fld w 24 8 = op)
    (h : ∀ p q r ta tb, r.scalar = true → Spells (encF op p q r ta tb) (mk p q r ta tb)) :
    Answers (Spells w) (decF w mk) := by
  have rounded {r : Rnd} (hr : (encRnd r).toNat = (fld w 18 3).toNat) (hs : r.scalar = true) :
      Answers (Spells w) (decGAny w fun p ta tb => mk p (if fld w 21 1 = 1#1 then .d else .s) r ta tb) :=
    decGAny_spells_rounded hop (encPrec_fld w) (BitVec.eq_of_toNat_eq hr) fun p ta tb => h p _ r ta tb hs
  unfold decF
  dsimp only
  split
  next hr => exact rounded (r := .rne) hr.symm rfl
  next hr => exact rounded (r := .rtz) hr.symm rfl
  next hr => exact rounded (r := .rup) hr.symm rfl
  next hr => exact rounded (r := .rdn) hr.symm rfl
  next => exact .error _

theorem decFN_spells {mk : Pr → Prec → Tgt → Tgt → Instr} (hop : fld w 24 8 = op)
    (h : ∀ p q ta tb, Spells (encF op p q .rne ta tb) (mk p q ta tb)) : Answers (Spells w) (decFN w mk) :=
  .need_of fun hx => decGAny_spells_rounded hop (r := .rne) (encPrec_fld w) (eq_of_beq hx).symm fun p => h p _

theorem decExt_spells {mk : Pr → Width → Tgt → Tgt → Instr} (hop : fld w 24 8 = op)
    (h : ∀ p x ta tb, Spells (encG op p (encWidth x) ta tb) (mk p x ta tb)) : Answers (Spells w) (decExt w mk) := by
  have width {x : Width} (hx : (fld w 18 4).toNat = (encWidth x).toNat) :
      Answers (Spells w) (decGAny w fun p ta tb => mk p x ta tb) :=
    decGAny_spells hop (by rw [BitVec.eq_of_toNat_eq hx]; exact fun p => h p x)
  unfold decExt
  split
  next hx => exact width (x := .b) hx
  next hx => exact width (x := .h) hx
  next hx => exact width (x := .w) hx
  next => exact .error _

theorem decI_spells {mk : Pr → BitVec 13 → Tgt → Instr} (hop : fld w 24 8 = op)
    (h : ∀ p ta, decTgt (fld w 0 9) = .ok ta → Spells (encI op p (fld w 9 13) ta) (mk p (fld w 9 13) ta)) :
    Answers (Spells w) (decI w mk) := by
  intro i hi
  obtain ⟨p, ta, rfl, hta, hw⟩ := decI_inv hi
  have hs := h p ta hta
  rwa [← hop, ← hw] at hs

/-- R97: the upper seven bits of the immediate are zero. -/
theorem imm63_fld (h : (fld w 15 7 == 0#7) = true) : imm63 (fld w 9 13) = true := by
  have hz : (fld w 9 13).extractLsb' 6 7 = 0#7 := (fld_fld w (by omega)).trans (eq_of_beq h)
  exact decide_eq_true (lt_of_extract_zero _ (k := 6) rfl hz)

theorem decI63_spells {mk : Pr → BitVec 13 → Tgt → Instr} (hop : fld w 24 8 = op)
    (h : ∀ p i ta, imm63 i = true → decTgt (fld w 0 9) = .ok ta → Spells (encI op p i ta) (mk p i ta)) :
    Answers (Spells w) (decI63 w mk) :=
  .need_of fun hz => decI_spells hop fun p ta => h p _ ta (imm63_fld hz)

theorem decX_spells {mk : Pr → BitVec 3 → BitVec 19 → Instr} (hop : fld w 24 8 = op)
    (h : ∀ p, Spells (encX op p (fld w 19 3) (fld w 0 19)) (mk p (fld w 19 3) (fld w 0 19))) :
    Answers (Spells w) (decX w mk) := by
  intro i hi
  obtain ⟨p, rfl, hw⟩ := decX_inv hi
  have hs := h p
  rwa [← hop, ← hw] at hs

theorem decX0_spells {mk : Pr → BitVec 3 → Instr} (hop : fld w 24 8 = op)
    (h : ∀ p e, Spells (encX op p e 0#19) (mk p e)) : Answers (Spells w) (decX0 w mk) :=
  .need_of fun hz => decX_spells hop fun p => by
    rw [eq_of_beq hz]
    exact h p _

/-- R71: the fields of a Q word that the instruction does not define are zero. -/
theorem decQ_spells {okX okA okK okF okT : Bool}
    {mk : Pr → BitVec 4 → BitVec 5 → BitVec 3 → Bool → Tgt → Except Reject Instr} (hop : fld w 24 8 = op)
    (h : ∀ p a k f ta, Answers
      (Spells (encQ op p (cond okX (fld w 18 4) 0#4) (cond okA a 0#5) (cond okK k 0#3) (cond okF f false) (cond okT ta .none)))
      (mk p (cond okX (fld w 18 4) 0#4) (cond okA a 0#5) (cond okK k 0#3) (cond okF f false) (cond okT ta .none))) :
    Answers (Spells w) (decQ w okX okA okK okF okT mk) := by
  intro i hi
  obtain ⟨p, ta, hmk, hx, ha, hk, hf, ht, hta, hw⟩ := decQ_inv hi
  have hs := h p (fld w 13 5) (fld w 10 3) (fld w 9 1 == 1#1) ta i
  rw [← eq_cond_zero hx, ← eq_cond_zero ha, ← eq_cond_zero hk, ← eq_cond_false hf, ← eq_cond_none ht hta, ← hop, ← hw] at hs
  exact hs hmk

/-- R158: without the flag, AG of a copy is zero. -/
theorem decCpy_spells {mk : Pr → BitVec 5 → BitVec 3 → Bool → Tgt → Instr} (hop : fld w 24 8 = op)
    (h : ∀ p a k f ta, (f || a == 0#5) = true → Spells (encQ op p 0#4 a k f ta) (mk p a k f ta)) :
    Answers (Spells w) (decCpy w mk) :=
  decQ_spells hop fun p a k f ta => .need_of fun hfa => .ok (h p a k f ta hfa)

theorem decK_spells {okS okT : Bool} {mk : Pr → BitVec 13 → Tgt → Instr} (hop : fld w 24 8 = op)
    (h : ∀ p n ta, Spells (encI op p (cond okS n 0#13) (cond okT ta .none)) (mk p (cond okS n 0#13) (cond okT ta .none))) :
    Answers (Spells w) (decK w okS okT mk) :=
  .need_of fun hz => decI_spells hop fun p ta hta => by
    obtain ⟨hs, ht⟩ := Bool.and_eq_true_iff.mp hz
    have hk := h p (fld w 9 13) ta
    rwa [← eq_cond_zero hs, ← eq_cond_none ht hta] at hk

/-! ## Words with a layout of their own -/

/-- The predicate of a word, and what its low 22 bits then answer. -/
theorem decPr_bind_spells {f : Pr → Except Reject Instr} (hop : fld w 24 8 = op)
    (h : ∀ p, Answers (Spells (encWord op p (fld w 0 22))) (f p)) : Answers (Spells w) (decPr w >>= f) := by
  intro i hi
  cases hp : decPr w with
  | error r =>
    rw [hp] at hi
    cases hi
  | ok p =>
    rw [hp] at hi
    have hs := h p i hi
    rwa [← hop, encWord_fields hp] at hs

/-- A word of a predicate and a target, whose 13 bits between them are of the instruction's own layout. -/
theorem decPrTgt_spells {f : Pr → Tgt → Except Reject Instr} (hop : fld w 24 8 = op)
    (h : ∀ p ta, Answers (Spells (encWord op p (fld w 9 13 ++ encTgt ta))) (f p ta)) :
    Answers (Spells w) (decPr w >>= fun p => decTgt (fld w 0 9) >>= fun ta => f p ta) :=
  decPr_bind_spells hop fun p i hi => by
    rw [fld_split w 0 13 9]
    cases hta : decTgt (fld w 0 9) with
    | error r =>
      rw [hta] at hi
      cases hi
    | ok ta =>
      rw [hta] at hi
      rw [← encTgt_of_decTgt hta]
      exact h p ta i hi

/-- LSID, AG, SIZE and the flag of a memory word (R142, R144). -/
theorem load_fields (w : IWord) : fld w 9 13 = fld w 17 5 ++ fld w 12 5 ++ fld w 10 2 ++ encBit (fld w 9 1 == 1#1) := by
  rw [fld_split w 9 12 1, fld_split w 10 10 2, fld_split w 12 5 5, encBit_fld]

/-- ENG, CTX and six zero bits before the target (R164, R168). -/
theorem timeline_fields (h : fld w 9 6 = 0#6) : fld w 9 13 = fld w 17 5 ++ fld w 15 2 ++ 0#6 := by
  rw [fld_split w 9 7 6, fld_split w 15 5 2, h]

/-- A number of five bits and eight zero bits before the target (R339, R340). -/
theorem barrier_fields (h : fld w 9 8 = 0#8) : fld w 9 13 = fld w 17 5 ++ 0#8 := by
  rw [fld_split w 9 5 8, h]

/-- WAITT, and TLRD, which may name ENG 31 (R164, R168). -/
theorem decWaitt_spells {async : Bool} {mk : Pr → BitVec 5 → BitVec 2 → Tgt → Instr} {r : Reject} (hop : fld w 24 8 = op)
    (h : ∀ p e c ta, engOk e c async = true → Spells (encWord op p (e ++ c ++ 0#6 ++ encTgt ta)) (mk p e c ta)) :
    Answers (Spells w) (need (fld w 9 6 == 0#6 && engOk (fld w 17 5) (fld w 15 2) async) r (do
      let p ← decPr w
      let ta ← decTgt (fld w 0 9)
      return mk p (fld w 17 5) (fld w 15 2) ta)) :=
  .need_of fun hz => decPrTgt_spells hop fun p ta => by
    obtain ⟨hz, he⟩ := Bool.and_eq_true_iff.mp hz
    rw [timeline_fields (eq_of_beq hz)]
    exact .ok (h p _ _ ta he)

/-- WAITB and TBP (R339, R340). -/
theorem decWaitb_spells {mk : Pr → BitVec 5 → Tgt → Instr} {r : Reject} (hop : fld w 24 8 = op)
    (h : ∀ p b ta, Spells (encWord op p (b ++ 0#8 ++ encTgt ta)) (mk p b ta)) :
    Answers (Spells w) (need (fld w 9 8 == 0#8) r (do
      let p ← decPr w
      let ta ← decTgt (fld w 0 9)
      return mk p (fld w 17 5) ta)) :=
  .need_of fun hz => decPrTgt_spells hop fun p ta => by
    rw [barrier_fields (eq_of_beq hz)]
    exact .ok (h p _ ta)

/-- PUTR names a register and has no target (R113). -/
theorem decPutr_spells {mk : Pr → BitVec 13 → Instr} {r : Reject} (hop : fld w 24 8 = op)
    (h : ∀ p i, imm63 i = true → Spells (encI op p i .none) (mk p i)) :
    Answers (Spells w) (need (fld w 0 9 == 0#9) r (decI63 w fun p i _ => mk p i)) :=
  .need_of fun hz => decI63_spells hop fun p i ta hi hta => by
    rw [eq_of_beq hz] at hta
    rw [eq_none_of_decTgt_zero hta]
    exact h p i hi

/-- WAITA has AG, CMP and five zero bits before the target (R165). -/
theorem waita_spells {c : Cmp} {p : Pr} {ta : Tgt} (hz : fld w 9 5 = 0#5) (hc : fld w 14 3 = encCmp c) :
    Spells (encWord 0xA2#8 p (fld w 9 13 ++ encTgt ta)) (.waita p (fld w 17 5) c ta) := by
  refine ⟨rfl, ?_⟩
  rw [fld_split w 9 8 5, fld_split w 14 5 3, hz, hc]
  rfl

/-- FENCE has twenty zero bits and its two flags (R97, R166). -/
theorem fence_spells {p : Pr} {e s : Bool} (hz : fld w 2 20 = 0#20) (hs : fld w 0 2 = encBit e ++ encBit s) (he : (e || s) = true) :
    Spells (encWord 0xA8#8 p (fld w 0 22)) (.fence p e s) := by
  refine ⟨he, ?_⟩
  rw [fld_split w 0 20 2, hz, hs]
  exact congrArg (fun low => some (encWord 0xA8#8 p low)) BitVec.append_assoc

/-- ATOM has seven zero bits between AG and its register (R346). -/
theorem decAtom_spells {o : AtomOp} (hop : fld w 24 8 = 0xB0#8) (ho : fld w 18 4 = encAtom o) :
    Answers (Spells w) (decAtom w o) :=
  .need_of fun hz => decPr_bind_spells hop fun p => .ok ⟨rfl, by
    rw [fld_split w 0 16 6, fld_split w 6 9 7, fld_split w 13 4 5, ho, eq_of_beq hz]
    rfl⟩

theorem decRed_spells {o : RedOp} (hop : fld w 24 8 = 0xB1#8) (ho : fld w 18 4 = encRed o) :
    Answers (Spells w) (decRed w o) :=
  decQ_spells hop fun p a k f ta => .ok ⟨rfl, by
    rw [ho]
    rfl⟩

theorem decLeash_spells {k : KKind} (hop : fld w 24 8 = 0xC0#8) (hk : fld w 18 4 = encKind k) :
    Answers (Spells w) (decLeash w k) :=
  decQ_spells hop fun p a tk f ta => .ok ⟨rfl, by
    rw [hk]
    rfl⟩

theorem decCancel_spells {l : Level} (hop : fld w 24 8 = 0xD4#8) (hl : fld w 18 4 = encLevel l) :
    Answers (Spells w) (decCancel w l) :=
  decQ_spells hop fun p a k f ta => .ok ⟨rfl, by
    rw [hl]
    rfl⟩

/-! ## Every word, in the decoder's groups -/

theorem decPlumb_spells (hg : (fld w 28 4).toNat = 0) : Answers (Spells w) (decPlumb w) := by
  unfold decPlumb
  split
  next => exact .error _
  next ho => exact decX_spells (fld_op hg ho) fun _ => ⟨rfl, rfl⟩
  next ho => exact decX0_spells (fld_op hg ho) fun _ _ => ⟨rfl, rfl⟩
  next ho => exact decX_spells (fld_op hg ho) fun _ => ⟨rfl, rfl⟩
  iterate 4 next ho => exact decX0_spells (fld_op hg ho) fun _ _ => ⟨rfl, rfl⟩
  iterate 3 next ho => exact decG_spells (fld_op hg ho) fun _ _ _ => ⟨rfl, rfl⟩
  next ho => exact decI63_spells (fld_op hg ho) fun _ _ _ hi _ => ⟨hi, rfl⟩
  next ho => exact decPutr_spells (fld_op hg ho) fun _ _ hi => ⟨hi, rfl⟩
  iterate 2 next ho => exact decI_spells (fld_op hg ho) fun _ _ _ => ⟨rfl, rfl⟩
  next => exact .error _

theorem decInt1_spells (hg : (fld w 28 4).toNat = 1) : Answers (Spells w) (decInt1 w) := by
  unfold decInt1
  split
  iterate 15 next ho => exact decG_spells (fld_op hg ho) fun _ _ _ => ⟨rfl, rfl⟩
  next =>
    have ho : (fld w 24 4).toNat = 15 := by
      have := (fld w 24 4).isLt
      simp only [imp_false] at *
      omega
    exact decG_spells (fld_op hg ho) fun _ _ _ => ⟨rfl, rfl⟩

theorem decInt2_spells (hg : (fld w 28 4).toNat = 2) : Answers (Spells w) (decInt2 w) := by
  unfold decInt2
  split
  iterate 12 next ho => exact decG_spells (fld_op hg ho) fun _ _ _ => ⟨rfl, rfl⟩
  iterate 2 next ho => exact decExt_spells (fld_op hg ho) fun _ _ _ _ => ⟨rfl, rfl⟩
  next => exact .error _

theorem decTest_spells (hg : (fld w 28 4).toNat = 3) : Answers (Spells w) (decTest w) := by
  unfold decTest
  split
  iterate 7 next ho => exact decG_spells (fld_op hg ho) fun _ _ _ => ⟨rfl, rfl⟩
  next => exact .error _

theorem decImm_spells (hg : (fld w 28 4).toNat = 4) : Answers (Spells w) (decImm w) := by
  unfold decImm
  split
  iterate 5 next ho => exact decI_spells (fld_op hg ho) fun _ _ _ => ⟨rfl, rfl⟩
  iterate 3 next ho => exact decI63_spells (fld_op hg ho) fun _ _ _ hi _ => ⟨hi, rfl⟩
  iterate 6 next ho => exact decI_spells (fld_op hg ho) fun _ _ _ => ⟨rfl, rfl⟩
  next ho => exact .need_of fun hz => decI_spells (fld_op hg ho) fun p ta _ =>
    ⟨decide_eq_true (lt_of_extract_zero _ (k := 12) rfl ((fld_fld w (by omega)).trans (eq_of_beq hz))), rfl⟩
  next => exact .error _

theorem decFp_spells (hg : (fld w 28 4).toNat = 6) : Answers (Spells w) (decFp w) := by
  unfold decFp
  split
  iterate 5 next ho => exact decF_spells (fld_op hg ho) fun _ _ _ _ _ hr => ⟨hr, rfl⟩
  iterate 2 next ho => exact decFN_spells (fld_op hg ho) fun _ _ _ _ => ⟨rfl, rfl⟩
  iterate 3 next ho => exact decF_spells (fld_op hg ho) fun _ _ _ _ _ hr => ⟨hr, rfl⟩
  iterate 4 next ho => exact decFN_spells (fld_op hg ho) fun _ _ _ _ => ⟨rfl, rfl⟩
  next => exact .error _

theorem decMem_spells (hg : (fld w 28 4).toNat = 7) : Answers (Spells w) (decMem w) := by
  unfold decMem
  split
  next ho => exact decPrTgt_spells (fld_op hg ho) fun p ta => .ok ⟨rfl, by
    rw [load_fields]
    rfl⟩
  next ho => exact .need_of fun hz => decPr_bind_spells (fld_op hg ho) fun p => .ok ⟨rfl, by
    rw [fld_split w 0 13 9, load_fields, eq_of_beq hz]
    rfl⟩
  next ho => exact .need_of fun hz => decPr_bind_spells (fld_op hg ho) fun p => .ok ⟨rfl, by
    rw [fld_split w 0 10 12, fld_split w 12 5 5, eq_of_beq hz]
    rfl⟩
  next => exact .error _

theorem decCells_spells (hg : (fld w 28 4).toNat = 8) : Answers (Spells w) (decCells w) := by
  unfold decCells
  split
  iterate 8 next ho => exact decQ_spells (fld_op hg ho) fun _ _ _ _ _ => .ok ⟨rfl, rfl⟩
  next => exact .error _

theorem decCopy_spells (hg : (fld w 28 4).toNat = 9) : Answers (Spells w) (decCopy w) := by
  unfold decCopy
  split
  iterate 4 next ho => exact decCpy_spells (fld_op hg ho) fun _ _ _ _ _ hf => ⟨hf, rfl⟩
  next => exact .error _

theorem decWait_spells (hg : (fld w 28 4).toNat = 10) : Answers (Spells w) (decWait w) := by
  unfold decWait
  split
  next ho => exact decPr_bind_spells (fld_op hg ho) fun p => .ok ⟨rfl, by
    rw [fld_split w 0 17 5, fld_split w 5 12 5, fld_split w 10 6 6]
    rfl⟩
  next ho => exact decWaitt_spells (fld_op hg ho) fun _ _ _ _ he => ⟨he, rfl⟩
  next ho =>
    refine .need_of fun hz => decPrTgt_spells (fld_op hg ho) fun p ta => ?_
    split
    next hc => exact .ok (waita_spells (eq_of_beq hz) (BitVec.eq_of_toNat_eq (y := encCmp .ge) hc))
    next hc => exact .ok (waita_spells (eq_of_beq hz) (BitVec.eq_of_toNat_eq (y := encCmp .eq) hc))
    next hc => exact .ok (waita_spells (eq_of_beq hz) (BitVec.eq_of_toNat_eq (y := encCmp .ne) hc))
    next hc => exact .ok (waita_spells (eq_of_beq hz) (BitVec.eq_of_toNat_eq (y := encCmp .gt) hc))
    next => exact .error _
  iterate 2 next ho => exact decWaitb_spells (fld_op hg ho) fun _ _ _ => ⟨rfl, rfl⟩
  iterate 3 next ho => exact decQ_spells (fld_op hg ho) fun _ _ _ _ _ => .ok ⟨rfl, rfl⟩
  next ho =>
    refine .need_of fun hz => decPr_bind_spells (fld_op hg ho) fun p => ?_
    split
    iterate 3 next hs => exact .ok (fence_spells (eq_of_beq hz) (BitVec.eq_of_toNat_eq hs) rfl)
    next => exact .error _
  next ho => exact .need_of fun hz => decPr_bind_spells (fld_op hg ho) fun p => .ok ⟨rfl, by
    rw [eq_of_beq hz]
    rfl⟩
  next ho => exact decWaitt_spells (fld_op hg ho) fun _ _ _ _ he => ⟨he, rfl⟩
  next => exact .error _

theorem decCombine_spells (hg : (fld w 28 4).toNat = 11) : Answers (Spells w) (decCombine w) := by
  unfold decCombine
  split
  next ho =>
    split
    next hx => exact decAtom_spells (fld_op hg ho) (BitVec.eq_of_toNat_eq (y := encAtom .cfaa) hx)
    next hx => exact decAtom_spells (fld_op hg ho) (BitVec.eq_of_toNat_eq (y := encAtom .cxch) hx)
    next hx => exact decAtom_spells (fld_op hg ho) (BitVec.eq_of_toNat_eq (y := encAtom .ccas) hx)
    next => exact .error _
  next ho =>
    split
    next hx => exact decRed_spells (fld_op hg ho) (BitVec.eq_of_toNat_eq (y := encRed .cadd) hx)
    next hx => exact decRed_spells (fld_op hg ho) (BitVec.eq_of_toNat_eq (y := encRed .cfadd) hx)
    next hx => exact decRed_spells (fld_op hg ho) (BitVec.eq_of_toNat_eq (y := encRed .cmax) hx)
    next hx => exact decRed_spells (fld_op hg ho) (BitVec.eq_of_toNat_eq (y := encRed .cmin) hx)
    next hx => exact decRed_spells (fld_op hg ho) (BitVec.eq_of_toNat_eq (y := encRed .cand) hx)
    next hx => exact decRed_spells (fld_op hg ho) (BitVec.eq_of_toNat_eq (y := encRed .cor) hx)
    next hx => exact decRed_spells (fld_op hg ho) (BitVec.eq_of_toNat_eq (y := encRed .cxor) hx)
    next hx => exact decRed_spells (fld_op hg ho) (BitVec.eq_of_toNat_eq (y := encRed .resc) hx)
    next => exact .error _
  next => exact .error _

theorem decLease_spells (hg : (fld w 28 4).toNat = 12) : Answers (Spells w) (decLease w) := by
  unfold decLease
  split
  next ho =>
    split
    next hx => exact decLeash_spells (fld_op hg ho) (BitVec.eq_of_toNat_eq (y := encKind .fftx) hx)
    next hx => exact decLeash_spells (fld_op hg ho) (BitVec.eq_of_toNat_eq (y := encKind .sort) hx)
    next hx => exact decLeash_spells (fld_op hg ho) (BitVec.eq_of_toNat_eq (y := encKind .infl) hx)
    next hx => exact decLeash_spells (fld_op hg ho) (BitVec.eq_of_toNat_eq (y := encKind .spga) hx)
    next hx => exact decLeash_spells (fld_op hg ho) (BitVec.eq_of_toNat_eq (y := encKind .trsv) hx)
    next hx => exact decLeash_spells (fld_op hg ho) (BitVec.eq_of_toNat_eq (y := encKind .embg) hx)
    next hx => exact decLeash_spells (fld_op hg ho) (BitVec.eq_of_toNat_eq (y := encKind .topk) hx)
    next hx => exact decLeash_spells (fld_op hg ho) (BitVec.eq_of_toNat_eq (y := encKind .sten) hx)
    next => exact .error _
  iterate 3 next ho => exact decQ_spells (fld_op hg ho) fun _ _ _ _ _ => .ok ⟨rfl, rfl⟩
  next => exact .error _

theorem decLaunch_spells (hg : (fld w 28 4).toNat = 13) : Answers (Spells w) (decLaunch w) := by
  unfold decLaunch
  split
  iterate 4 next ho => exact decQ_spells (fld_op hg ho) fun _ _ _ _ _ => .ok ⟨rfl, rfl⟩
  next ho =>
    split
    next hx => exact decCancel_spells (fld_op hg ho) (BitVec.eq_of_toNat_eq (y := encLevel .strand) hx)
    next hx => exact decCancel_spells (fld_op hg ho) (BitVec.eq_of_toNat_eq (y := encLevel .launch) hx)
    next hx => exact decCancel_spells (fld_op hg ho) (BitVec.eq_of_toNat_eq (y := encLevel .graph) hx)
    next hx => exact decCancel_spells (fld_op hg ho) (BitVec.eq_of_toNat_eq (y := encLevel .phase) hx)
    next hx => exact decCancel_spells (fld_op hg ho) (BitVec.eq_of_toNat_eq (y := encLevel .job) hx)
    next => exact .error _
  iterate 2 next ho => exact decK_spells (fld_op hg ho) fun _ _ _ => ⟨rfl, rfl⟩
  next => exact .error _

theorem decSystem_spells (hg : (fld w 28 4).toNat = 14) : Answers (Spells w) (decSystem w) := by
  unfold decSystem
  split
  iterate 5 next ho => exact decK_spells (fld_op hg ho) fun _ _ _ => ⟨rfl, rfl⟩
  next ho => exact .need_of fun hz => decPr_bind_spells (fld_op hg ho) fun p => .ok ⟨rfl, by
    obtain ⟨hhigh, hlow⟩ := Bool.and_eq_true_iff.mp hz
    rw [fld_split w 0 3 19, fld_split w 19 2 1, eq_of_beq hhigh, eq_of_beq hlow]
    exact congrArg (fun b => some (encX 0xE5#8 p (0#2 ++ b) 0#19)) (encBit_fld w 19)⟩
  next ho => exact .need_of fun hz => decPr_bind_spells (fld_op hg ho) fun p => .ok ⟨rfl, by
    rw [fld_split w 0 14 8, eq_of_beq hz]
    exact congrArg (fun low => some (encWord 0xE6#8 p low)) (BitVec.append_assoc' (x₁ := 0#3) (x₂ := 0#11))⟩
  next ho => exact decK_spells (fld_op hg ho) fun _ _ _ => ⟨rfl, rfl⟩
  next => exact .error _

/-- What a word decodes to is well formed, and the word is its encoding. -/
theorem decode_spells : Answers (Spells w) (decode w) := by
  unfold decode
  split
  next hg => exact decPlumb_spells hg
  next hg => exact decInt1_spells hg
  next hg => exact decInt2_spells hg
  next hg => exact decTest_spells hg
  next hg => exact decImm_spells hg
  next => exact .error _
  next hg => exact decFp_spells hg
  next hg => exact decMem_spells hg
  next hg => exact decCells_spells hg
  next hg => exact decCopy_spells hg
  next hg => exact decWait_spells hg
  next hg => exact decCombine_spells hg
  next hg => exact decLease_spells hg
  next hg => exact decLaunch_spells hg
  next hg => exact decSystem_spells hg
  next => exact .error _

end

/-- The encoding of a well-formed instruction decodes to it; the cell operations and the events have no encoding. -/
theorem decode_of_spells {w : IWord} {i : Instr} (hwf : i.wf = true) (h : encode i = some w) : decode w = .ok i := by
  cases i with
  | bro p ex off => exact Laws.RoundTrip.bro p ex off hwf w h
  | bri p ex => exact Laws.RoundTrip.bri p ex hwf w h
  | callo p ex off => exact Laws.RoundTrip.callo p ex off hwf w h
  | calli p ex => exact Laws.RoundTrip.calli p ex hwf w h
  | ret p ex => exact Laws.RoundTrip.ret p ex hwf w h
  | scall p ex => exact Laws.RoundTrip.scall p ex hwf w h
  | exit p ex => exact Laws.RoundTrip.exit p ex hwf w h
  | null p ta tb => exact Laws.RoundTrip.null p ta tb hwf w h
  | mov p ta tb => exact Laws.RoundTrip.mov p ta tb hwf w h
  | sel p ta tb => exact Laws.RoundTrip.sel p ta tb hwf w h
  | getr p g ta => exact Laws.RoundTrip.getr p g ta hwf w h
  | putr p g => exact Laws.RoundTrip.putr p g hwf w h
  | const p imm ta => exact Laws.RoundTrip.const p imm ta hwf w h
  | consth p imm ta => exact Laws.RoundTrip.consth p imm ta hwf w h
  | add p ta tb => exact Laws.RoundTrip.add p ta tb hwf w h
  | sub p ta tb => exact Laws.RoundTrip.sub p ta tb hwf w h
  | mul p ta tb => exact Laws.RoundTrip.mul p ta tb hwf w h
  | mulh p ta tb => exact Laws.RoundTrip.mulh p ta tb hwf w h
  | mulhu p ta tb => exact Laws.RoundTrip.mulhu p ta tb hwf w h
  | div p ta tb => exact Laws.RoundTrip.div p ta tb hwf w h
  | divu p ta tb => exact Laws.RoundTrip.divu p ta tb hwf w h
  | rem p ta tb => exact Laws.RoundTrip.rem p ta tb hwf w h
  | remu p ta tb => exact Laws.RoundTrip.remu p ta tb hwf w h
  | and p ta tb => exact Laws.RoundTrip.and p ta tb hwf w h
  | or p ta tb => exact Laws.RoundTrip.or p ta tb hwf w h
  | xor p ta tb => exact Laws.RoundTrip.xor p ta tb hwf w h
  | andn p ta tb => exact Laws.RoundTrip.andn p ta tb hwf w h
  | shl p ta tb => exact Laws.RoundTrip.shl p ta tb hwf w h
  | shr p ta tb => exact Laws.RoundTrip.shr p ta tb hwf w h
  | sar p ta tb => exact Laws.RoundTrip.sar p ta tb hwf w h
  | rotl p ta tb => exact Laws.RoundTrip.rotl p ta tb hwf w h
  | min p ta tb => exact Laws.RoundTrip.min p ta tb hwf w h
  | max p ta tb => exact Laws.RoundTrip.max p ta tb hwf w h
  | minu p ta tb => exact Laws.RoundTrip.minu p ta tb hwf w h
  | maxu p ta tb => exact Laws.RoundTrip.maxu p ta tb hwf w h
  | abs p ta tb => exact Laws.RoundTrip.abs p ta tb hwf w h
  | neg p ta tb => exact Laws.RoundTrip.neg p ta tb hwf w h
  | clz p ta tb => exact Laws.RoundTrip.clz p ta tb hwf w h
  | ctz p ta tb => exact Laws.RoundTrip.ctz p ta tb hwf w h
  | popc p ta tb => exact Laws.RoundTrip.popc p ta tb hwf w h
  | bfx p ta tb => exact Laws.RoundTrip.bfx p ta tb hwf w h
  | bfi p ta tb => exact Laws.RoundTrip.bfi p ta tb hwf w h
  | sext p wd ta tb => exact Laws.RoundTrip.sext p wd ta tb hwf w h
  | zext p wd ta tb => exact Laws.RoundTrip.zext p wd ta tb hwf w h
  | teq p ta tb => exact Laws.RoundTrip.teq p ta tb hwf w h
  | tne p ta tb => exact Laws.RoundTrip.tne p ta tb hwf w h
  | tlt p ta tb => exact Laws.RoundTrip.tlt p ta tb hwf w h
  | tle p ta tb => exact Laws.RoundTrip.tle p ta tb hwf w h
  | tltu p ta tb => exact Laws.RoundTrip.tltu p ta tb hwf w h
  | tleu p ta tb => exact Laws.RoundTrip.tleu p ta tb hwf w h
  | tbit p ta tb => exact Laws.RoundTrip.tbit p ta tb hwf w h
  | addi p imm ta => exact Laws.RoundTrip.addi p imm ta hwf w h
  | muli p imm ta => exact Laws.RoundTrip.muli p imm ta hwf w h
  | andi p imm ta => exact Laws.RoundTrip.andi p imm ta hwf w h
  | ori p imm ta => exact Laws.RoundTrip.ori p imm ta hwf w h
  | xori p imm ta => exact Laws.RoundTrip.xori p imm ta hwf w h
  | shli p k ta => exact Laws.RoundTrip.shli p k ta hwf w h
  | shri p k ta => exact Laws.RoundTrip.shri p k ta hwf w h
  | sari p k ta => exact Laws.RoundTrip.sari p k ta hwf w h
  | teqi p imm ta => exact Laws.RoundTrip.teqi p imm ta hwf w h
  | tnei p imm ta => exact Laws.RoundTrip.tnei p imm ta hwf w h
  | tlti p imm ta => exact Laws.RoundTrip.tlti p imm ta hwf w h
  | tlei p imm ta => exact Laws.RoundTrip.tlei p imm ta hwf w h
  | tltui p imm ta => exact Laws.RoundTrip.tltui p imm ta hwf w h
  | tleui p imm ta => exact Laws.RoundTrip.tleui p imm ta hwf w h
  | bfxi p imm ta => exact Laws.RoundTrip.bfxi p imm ta hwf w h
  | fadd p q r ta tb => exact Laws.RoundTrip.fadd p q r ta tb hwf w h
  | fsub p q r ta tb => exact Laws.RoundTrip.fsub p q r ta tb hwf w h
  | fmul p q r ta tb => exact Laws.RoundTrip.fmul p q r ta tb hwf w h
  | fdiv p q r ta tb => exact Laws.RoundTrip.fdiv p q r ta tb hwf w h
  | fsqrt p q r ta tb => exact Laws.RoundTrip.fsqrt p q r ta tb hwf w h
  | fmin p q ta tb => exact Laws.RoundTrip.fmin p q ta tb hwf w h
  | fmax p q ta tb => exact Laws.RoundTrip.fmax p q ta tb hwf w h
  | fcvtFF p q r ta tb => exact Laws.RoundTrip.fcvtFF p q r ta tb hwf w h
  | fcvtFI p q r ta tb => exact Laws.RoundTrip.fcvtFI p q r ta tb hwf w h
  | fcvtIF p q r ta tb => exact Laws.RoundTrip.fcvtIF p q r ta tb hwf w h
  | fteq p q ta tb => exact Laws.RoundTrip.fteq p q ta tb hwf w h
  | ftlt p q ta tb => exact Laws.RoundTrip.ftlt p q ta tb hwf w h
  | ftle p q ta tb => exact Laws.RoundTrip.ftle p q ta tb hwf w h
  | fclass p q ta tb => exact Laws.RoundTrip.fclass p q ta tb hwf w h
  | ld p lsid ag sz sx ta => exact Laws.RoundTrip.ld p lsid ag sz sx ta hwf w h
  | st p lsid ag sz na => exact Laws.RoundTrip.st p lsid ag sz na hwf w h
  | pref p lsid ag => exact Laws.RoundTrip.pref p lsid ag hwf w h
  | enq p ag => exact Laws.RoundTrip.enq p ag hwf w h
  | enqm p ag => exact Laws.RoundTrip.enqm p ag hwf w h
  | strm p ag tk f => exact Laws.RoundTrip.strm p ag tk f hwf w h
  | strms p ag tk f => exact Laws.RoundTrip.strms p ag tk f hwf w h
  | parm p ag => exact Laws.RoundTrip.parm p ag hwf w h
  | rngp p ta => exact Laws.RoundTrip.rngp p ta hwf w h
  | getp p ag ta => exact Laws.RoundTrip.getp p ag ta hwf w h
  | putp p ag => exact Laws.RoundTrip.putp p ag hwf w h
  | cpy p ag tk f ta => exact Laws.RoundTrip.cpy p ag tk f ta hwf w h
  | cpyg p ag tk f ta => exact Laws.RoundTrip.cpyg p ag tk f ta hwf w h
  | cpys p ag tk f ta => exact Laws.RoundTrip.cpys p ag tk f ta hwf w h
  | cpyr p ag tk f ta => exact Laws.RoundTrip.cpyr p ag tk f ta hwf w h
  | waitn p ld st cp tl => exact Laws.RoundTrip.waitn p ld st cp tl hwf w h
  | waitt p eng ctx ta => exact Laws.RoundTrip.waitt p eng ctx ta hwf w h
  | waita p ag cmp ta => exact Laws.RoundTrip.waita p ag cmp ta hwf w h
  | waitb p bs ta => exact Laws.RoundTrip.waitb p bs ta hwf w h
  | tbp p bs ta => exact Laws.RoundTrip.tbp p bs ta hwf w h
  | arv p bs => exact Laws.RoundTrip.arv p bs hwf w h
  | arvx p bs => exact Laws.RoundTrip.arvx p bs hwf w h
  | expt p bs => exact Laws.RoundTrip.expt p bs hwf w h
  | fence p e s1 => exact Laws.RoundTrip.fence p e s1 hwf w h
  | yield p => exact Laws.RoundTrip.yield p hwf w h
  | tlrd p eng ctx ta => exact Laws.RoundTrip.tlrd p eng ctx ta hwf w h
  | atom p op ag gd => exact Laws.RoundTrip.atom p op ag gd hwf w h
  | red p op ag => exact Laws.RoundTrip.red p op ag hwf w h
  | leash p k slot tk ta => exact Laws.RoundTrip.leash p k slot tk ta hwf w h
  | lrel p slot => exact Laws.RoundTrip.lrel p slot hwf w h
  | lqry p slot ta => exact Laws.RoundTrip.lqry p slot ta hwf w h
  | lpri p slot => exact Laws.RoundTrip.lpri p slot hwf w h
  | launch p ag tk => exact Laws.RoundTrip.launch p ag tk hwf w h
  | qclaim p ta => exact Laws.RoundTrip.qclaim p ta hwf w h
  | qpub p => exact Laws.RoundTrip.qpub p hwf w h
  | cntr p => exact Laws.RoundTrip.cntr p hwf w h
  | cancel p lev => exact Laws.RoundTrip.cancel p lev hwf w h
  | cfgl p n => exact Laws.RoundTrip.cfgl p n hwf w h
  | cfgt p => exact Laws.RoundTrip.cfgt p hwf w h
  | srd p sys ta => exact Laws.RoundTrip.srd p sys ta hwf w h
  | swr p sys => exact Laws.RoundTrip.swr p sys hwf w h
  | tlbi p form ta => exact Laws.RoundTrip.tlbi p form ta hwf w h
  | ctxs p => exact Laws.RoundTrip.ctxs p hwf w h
  | ctxr p => exact Laws.RoundTrip.ctxr p hwf w h
  | eret p skip => exact Laws.RoundTrip.eret p skip hwf w h
  | trap p c => exact Laws.RoundTrip.trap p c hwf w h
  | pwrq p q ta => exact Laws.RoundTrip.pwrq p q ta hwf w h
  | _ => cases h

/-- Settles O53: the decoder's groups answer only what the word spells, and each instruction's word is read back. -/
theorem decodeEncode : Obligations.DecodeEncode := by
  intro w i
  exact ⟨decode_spells i, fun ⟨hwf, h⟩ => decode_of_spells hwf h⟩

/-- Settles O54: each word is the encoding of its instruction. -/
theorem decodedWords : Obligations.DecodedWords :=
  ⟨⟨decode_of_spells rfl rfl, decode_of_spells rfl rfl, decode_of_spells rfl rfl⟩,
   ⟨decode_of_spells rfl rfl, decode_of_spells rfl rfl, decode_of_spells rfl rfl⟩,
   ⟨decode_of_spells rfl rfl, decode_of_spells rfl rfl, decode_of_spells rfl rfl⟩, rfl, rfl⟩

end Sys2Proof

/-! # Memory reads what was written (spec/03 R62, spec/11 R217, spec/15 R293). -/

namespace Sys2Proof.Machine

/-! ## The canonical list of bytes -/

theorem canonAbove_cons {lo k : Nat} {v : Byte} {m : List Host.Cell} :
    canonAbove lo ((k, v) :: m) = true ↔ lo ≤ k ∧ v ≠ emptyByte ∧ canonAbove (k + 1) m = true := by
  simp [canonAbove, and_assoc]

theorem mget_cons_ne {k a : Nat} (v : Byte) (m : List Host.Cell) (h : a ≠ k) : mget ((k, v) :: m) a = mget m a := if_neg h

@[simp] theorem mget_cons_self (k : Nat) (v : Byte) (m : List Host.Cell) : mget ((k, v) :: m) k = v := if_pos rfl

/-- A canonical list that reads at another's first address what the other does starts no higher. -/
theorem head_le_of_mget_eq {lo k j : Nat} {v w : Byte} {m n : List Host.Cell} (hm : canonAbove lo ((k, v) :: m) = true)
    (hn : canonAbove lo ((j, w) :: n) = true) (h : mget ((k, v) :: m) k = mget ((j, w) :: n) k) : j ≤ k := by
  obtain ⟨-, hv, -⟩ := canonAbove_cons.mp hm
  obtain ⟨-, hw, htail⟩ := canonAbove_cons.mp hn
  by_contra hlt
  have hbelow : canonAbove j ((j, w) :: n) = true := canonAbove_cons.mpr ⟨Nat.le_refl j, hw, htail⟩
  rw [mget_cons_self, mget_below _ hbelow (Nat.lt_of_not_le hlt)] at h
  exact hv h

/-- Two canonical lists that read alike are equal: their heads are, and so are the bytes above them. -/
theorem canonAbove_ext {m n : List Host.Cell} {lo : Nat} (hm : canonAbove lo m = true) (hn : canonAbove lo n = true)
    (h : ∀ a, mget m a = mget n a) : m = n := by
  induction m generalizing lo n with
  | nil =>
    cases n with
    | nil => rfl
    | cons e n =>
      obtain ⟨j, w⟩ := e
      obtain ⟨-, hw, -⟩ := canonAbove_cons.mp hn
      exact absurd ((mget_cons_self j w n).symm.trans (h j).symm) hw
  | cons e m ih =>
    obtain ⟨k, v⟩ := e
    cases n with
    | nil =>
      obtain ⟨-, hv, -⟩ := canonAbove_cons.mp hm
      exact absurd ((mget_cons_self k v m).symm.trans (h k)) hv
    | cons e n =>
      obtain ⟨j, w⟩ := e
      obtain rfl : k = j := Nat.le_antisymm (head_le_of_mget_eq hn hm (h j).symm) (head_le_of_mget_eq hm hn (h k))
      obtain rfl : v = w := by simpa using h k
      obtain ⟨-, -, htm⟩ := canonAbove_cons.mp hm
      obtain ⟨-, -, htn⟩ := canonAbove_cons.mp hn
      have htail (a : Nat) : mget m a = mget n a := by
        by_cases ha : a = k
        · rw [mget_below m htm (by omega), mget_below n htn (by omega)]
        · rw [← mget_cons_ne v m ha, h a, mget_cons_ne v n ha]
      rw [ih htm htn htail]

/-! ## Bytes and words of a state -/

theorem State.Sound.setByte {s : State} (h : s.Sound) (a : Nat) (b : Byte) : (s.setByte a b).Sound :=
  (State.Kept.setByte s a b).1 h

theorem byteAt_setByte_same {s : State} (h : s.Sound) (a : Nat) (b : Byte) : (s.setByte a b).byteAt a = b :=
  mget_mset_same _ b h

theorem byteAt_setByte_ne (s : State) {a c : Nat} (b : Byte) (h : c ≠ a) : (s.setByte a b).byteAt c = s.byteAt c :=
  mget_mset_ne _ b h

theorem writeLE_succ (s : State) (a n v : Nat) :
    s.writeLE a (n + 1) v = (s.setByte a (BitVec.ofNat 8 v)).writeLE (a + 1) n (v / 256) := rfl

theorem State.Sound.writeLE {s : State} (h : s.Sound) (a n v : Nat) : (s.writeLE a n v).Sound :=
  (State.Kept.writeBytes _ s a).1 h

theorem byteAt_writeLE_outside (s : State) {a c n : Nat} (v : Nat) (h : c < a ∨ a + n ≤ c) :
    (s.writeLE a n v).byteAt c = s.byteAt c := by
  induction n generalizing s a v with
  | zero => rfl
  | succ n ih =>
    rw [writeLE_succ, ih _ _ (by omega), byteAt_setByte_ne _ _ (by omega)]

/-- The lowest byte of the word is its remainder modulo 256, and the bytes above it are its quotient. -/
theorem readLE_writeLE {s : State} (h : s.Sound) (a n v : Nat) : (s.writeLE a n v).readLE a n = v % 2 ^ (8 * n) := by
  induction n generalizing s a v with
  | zero => exact (Nat.mod_one v).symm
  | succ n ih =>
    have hlow : ((s.writeLE a (n + 1) v).byteAt a).toNat = v % 256 := by
      rw [writeLE_succ, byteAt_writeLE_outside _ _ (by omega), byteAt_setByte_same h, BitVec.toNat_ofNat]
    have hhigh : (s.writeLE a (n + 1) v).readLE (a + 1) n = v / 256 % 2 ^ (8 * n) := ih (h.setByte a _) (a + 1) (v / 256)
    calc (s.writeLE a (n + 1) v).readLE a (n + 1)
        = v % 256 + 256 * (v / 256 % 2 ^ (8 * n)) := by rw [State.readLE, hlow, hhigh]
      _ = v % (256 * 2 ^ (8 * n)) := Nat.mod_mul.symm
      _ = v % 2 ^ (8 * (n + 1)) := by rw [Nat.mul_succ, Nat.pow_add, Nat.mul_comm]

/-- Settles O55, from the laws of one byte, of a word by induction on its width, and of the canonical list. -/
theorem memoryLaws : Obligations.MemoryLaws := by
  intro s t hs
  exact ⟨fun a b => ⟨hs.setByte a b, byteAt_setByte_same hs a b, fun _ hc => byteAt_setByte_ne s b hc⟩,
    fun a n v => ⟨hs.writeLE a n v, readLE_writeLE hs a n v, fun _ hc => byteAt_writeLE_outside s v hc⟩,
    fun ht h => canonAbove_ext ht hs h⟩

end Sys2Proof.Machine

/-! # A null is sent onward, and a word whose predicate does not match does nothing (spec/01 R17, R20, spec/03 R74). -/

namespace Sys2Proof.Machine

/-- The word computes one token from the positions it uses, or traps on their values. -/
def Computes (p : Pr) (u : Uses) (ts : List Tgt) (i : Instr) : Prop :=
  ∃ (bad : Word → Word → Nat) (f : Word → Word → Word), ∀ s, exec i s = fireTrap p u ts bad f s

/-! ## When a predicate does not match -/

theorem plainReady_of_skip {s : State} {p : Pr} (u : Uses) (h : predReady p s.curSlot.pred = .skip) :
    s.plainReady p u = .wait ∨ s.plainReady p u = .skip := by
  unfold State.plainReady readyPlain
  cases s.curSlot.fired
  · exact .inr (by simp [h])
  · exact .inl rfl

theorem fireTrap_skip {s : State} {p : Pr} {u : Uses} {ts : List Tgt} {bad : Word → Word → Nat} {f : Word → Word → Word}
    (h : predReady p s.curSlot.pred = .skip) : fireTrap p u ts bad f s = .next s := by
  unfold fireTrap
  obtain hw | hs := plainReady_of_skip u h
  · rw [hw]
  · rw [hs]

/-- R17: the two ways in which a predicate token does not match. -/
theorem predReady_eq_skip {p : Pr} {t : Option Token}
    (h : p = .onTrue ∧ t = some (.val 0) ∨ p = .onFalse ∧ ∃ v, v ≠ 0 ∧ t = some (.val v)) : predReady p t = .skip := by
  obtain ⟨rfl, rfl⟩ | ⟨rfl, v, hv, rfl⟩ := h
  · rfl
  · exact if_neg hv

/-! ## Words that compute -/

section
variable {p : Pr} {u : Uses} {ts : List Tgt} {i : Instr} {s : State}

theorem computes_trap {bad : Word → Word → Nat} {f : Word → Word → Word} (h : ∀ s, exec i s = fireTrap p u ts bad f s) :
    Computes p u ts i := ⟨bad, f, h⟩

/-- A word that never traps is one with no cause to. -/
theorem computes_with {f : Word → Word → Word} (h : ∀ s, exec i s = fireWith p u ts f s) : Computes p u ts i :=
  ⟨fun _ _ => 0, f, h⟩

theorem Computes.sends_null (h : Computes p u ts i) (hn : s.nulled p u) : exec i s = .next (s.finish .null ts) := by
  obtain ⟨bad, f, hi⟩ := h
  rw [hi, fireTrap_null hn]

theorem Computes.does_nothing (h : Computes p u ts i) (hp : predReady p s.curSlot.pred = .skip) : exec i s = .next s := by
  obtain ⟨bad, f, hi⟩ := h
  rw [hi, fireTrap_skip hp]

end

section
variable (p : Pr) (q : Prec) (m : Rnd) (wd : Width) (im : BitVec 13) (ta tb : Tgt)

theorem wordsLR_compute : ∀ i ∈ wordsLR p q m ta tb, Computes p .lr [ta, tb] i := by
  simp only [wordsLR, List.forall_mem_cons]
  exact ⟨computes_with (exec_add p ta tb), computes_with (exec_sub p ta tb),
    computes_with (exec_mul p ta tb), computes_with (exec_mulh p ta tb),
    computes_with (exec_mulhu p ta tb), computes_trap (exec_div p ta tb),
    computes_trap (exec_divu p ta tb), computes_trap (exec_rem p ta tb),
    computes_trap (exec_remu p ta tb), computes_with (exec_and p ta tb), computes_with (exec_or p ta tb),
    computes_with (exec_xor p ta tb), computes_with (exec_andn p ta tb),
    computes_with (exec_shl p ta tb), computes_with (exec_shr p ta tb), computes_with (exec_sar p ta tb),
    computes_with (exec_rotl p ta tb), computes_with (exec_min p ta tb),
    computes_with (exec_max p ta tb), computes_with (exec_minu p ta tb),
    computes_with (exec_maxu p ta tb), computes_with (exec_bfx p ta tb),
    computes_with (exec_bfi p ta tb), computes_with (exec_teq p ta tb), computes_with (exec_tne p ta tb),
    computes_with (exec_tlt p ta tb), computes_with (exec_tle p ta tb),
    computes_with (exec_tltu p ta tb), computes_with (exec_tleu p ta tb),
    computes_with (exec_tbit p ta tb), computes_with (exec_fadd p q m ta tb),
    computes_with (exec_fsub p q m ta tb), computes_with (exec_fmul p q m ta tb),
    computes_with (exec_fdiv p q m ta tb), computes_with (exec_fmin p q ta tb),
    computes_with (exec_fmax p q ta tb), computes_with (exec_fteq p q ta tb),
    computes_with (exec_ftlt p q ta tb), computes_with (exec_ftle p q ta tb), List.forall_mem_nil _⟩

theorem wordsL_compute : ∀ i ∈ wordsL p q m wd ta tb, Computes p .l [ta, tb] i := by
  simp only [wordsL, List.forall_mem_cons]
  exact ⟨computes_with (exec_mov p ta tb), computes_with (exec_abs p ta tb),
    computes_with (exec_neg p ta tb), computes_with (exec_clz p ta tb), computes_with (exec_ctz p ta tb),
    computes_with (exec_popc p ta tb), computes_with (exec_sext p wd ta tb),
    computes_with (exec_zext p wd ta tb), computes_with (exec_fsqrt p q m ta tb),
    computes_with (exec_fcvtFF p q m ta tb), computes_with (exec_fcvtFI p q m ta tb),
    computes_with (exec_fcvtIF p q m ta tb), computes_with (exec_fclass p q ta tb), List.forall_mem_nil _⟩

theorem wordsI_compute : ∀ i ∈ wordsI p im ta, Computes p .l [ta] i := by
  simp only [wordsI, List.forall_mem_cons]
  exact ⟨computes_with (exec_consth p im ta), computes_with (exec_addi p im ta),
    computes_with (exec_muli p im ta), computes_with (exec_andi p im ta),
    computes_with (exec_ori p im ta), computes_with (exec_xori p im ta),
    computes_with (exec_shli p im ta), computes_with (exec_shri p im ta),
    computes_with (exec_sari p im ta), computes_with (exec_teqi p im ta),
    computes_with (exec_tnei p im ta), computes_with (exec_tlti p im ta),
    computes_with (exec_tlei p im ta), computes_with (exec_tltui p im ta),
    computes_with (exec_tleui p im ta), computes_with (exec_bfxi p im ta), List.forall_mem_nil _⟩

end

/-- Settles O9: each word of the three lists computes, so a null among its tokens goes onward, and a predicate that does not
match leaves the state as it is. -/
theorem nullOnward : Obligations.NullOnward := by
  refine ⟨fun s p q m wd im ta tb => ⟨fun hn i hi => ?_, fun hn i hi => ?_, fun hn i hi => ?_⟩,
    fun s p q m wd im ta tb hp i hi => ?_⟩
  · exact (wordsLR_compute p q m ta tb i hi).sends_null hn
  · exact (wordsL_compute p q m wd ta tb i hi).sends_null hn
  · exact (wordsI_compute p im ta i hi).sends_null hn
  · have hskip := predReady_eq_skip hp
    simp only [List.mem_append] at hi
    obtain (hi | hi) | hi := hi
    · exact (wordsLR_compute p q m ta tb i hi).does_nothing hskip
    · exact (wordsL_compute p q m wd ta tb i hi).does_nothing hskip
    · exact (wordsI_compute p im ta i hi).does_nothing hskip

end Sys2Proof.Machine

/-! # What a ready word that computes sends (spec/05 R116 to R120). -/

namespace Sys2Proof.Machine

/-! ## A word that computes, once its operands are there -/

section
variable {i : Instr} {s : State} {p : Pr} {ts : List Tgt} {l r v : Word} {f : Word → Word → Word}

theorem sends_of_lr (h : s.ready p .lr l r) (hi : exec i s = fireWith p .lr ts f s) (hv : f l r = v) :
    exec i s = .next (s.finish (.val v) ts) := by
  rw [hi, fireWith_lr h, hv]

theorem sends_of_l (h : s.ready p .l l r) (hi : exec i s = fireWith p .l ts f s) (hv : ∀ x, f l x = v) :
    exec i s = .next (s.finish (.val v) ts) := by
  simp [hi, fireWith, plainReady_of_ready h, opL_of_ready h, hv]

theorem divides_of_ne_zero (h : s.ready p .lr l r) (hi : exec i s = fireTrap p .lr ts divZero f s) (hv : f l r = v)
    (hr : r ≠ 0) : exec i s = .next (s.finish (.val v) ts) := by
  rw [hi, fireTrap_lr h, divZero, if_neg hr, if_pos rfl, hv]

theorem divides_by_zero (h : s.ready p .lr l 0) (hi : exec i s = fireTrap p .lr ts divZero f s) :
    exec i s = .next (s.stopAt 6) := by
  rw [hi, fireTrap_lr h]
  rfl

end

/-! ## The results of the integer forms (R116, R117) -/

theorem aluRem_eq (l r : Word) : aluRem l r = l - r * BitVec.ofInt 64 (l.toInt.tdiv r.toInt) := by
  rw [aluRem, Int.tmod_def, Int.sub_eq_add_neg, BitVec.ofInt_add, BitVec.ofInt_neg, BitVec.ofInt_mul, BitVec.ofInt_toInt,
    BitVec.ofInt_toInt, BitVec.sub_eq_add_neg]

theorem aluMin_eq (l r : Word) : aluMin l r = if l.toInt ≤ r.toInt then l else r := by
  simp only [aluMin, BitVec.slt_iff_toInt_lt, ← Int.not_le, ite_not]

theorem aluMax_eq (l r : Word) : aluMax l r = if r.toInt ≤ l.toInt then l else r := by
  simp only [aluMax, BitVec.slt_iff_toInt_lt, ← Int.not_le, ite_not]

theorem aluMinu_eq (l r : Word) : aluMinu l r = if l.toNat ≤ r.toNat then l else r := by
  simp only [aluMinu, BitVec.ult_iff_lt, BitVec.lt_def, ← Nat.not_le, ite_not]

theorem aluMaxu_eq (l r : Word) : aluMaxu l r = if r.toNat ≤ l.toNat then l else r := by
  simp only [aluMaxu, BitVec.ult_iff_lt, BitVec.lt_def, ← Nat.not_le, ite_not]

theorem aluAbs_eq (l r : Word) : aluAbs l r = BitVec.ofInt 64 (if l.toInt < 0 then -l.toInt else l.toInt) := by
  have hslt : l.slt 0 = true ↔ l.toInt < 0 := BitVec.slt_iff_toInt_lt
  by_cases h : l.toInt < 0
  · rw [aluAbs, if_pos (hslt.mpr h), if_pos h, BitVec.ofInt_neg, BitVec.ofInt_toInt, zero_sub]
  · rw [aluAbs, if_neg (hslt.not.mpr h), if_neg h, BitVec.ofInt_toInt]

/-- The value a width suffix keeps of a token. -/
theorem low_bits_eq (l : Word) (w : Nat) : BitVec.ofNat 64 (l.toNat % 2 ^ w) = (l.setWidth w).setWidth 64 := by
  rw [← BitVec.toNat_setWidth, BitVec.ofNat_toNat]

/-! ## The counts, by the bits (R116) -/

theorem bitAt_eq_testBit (v i : Nat) : firstSet.bitAt v i = v.testBit i := by
  rw [Nat.testBit_eq_decide_div_mod_eq]
  rfl

theorem firstSet_le (v n i : Nat) : firstSet v n i ≤ i + n := by
  induction n generalizing i with
  | zero => exact Nat.le_refl i
  | succ n ih =>
    rw [firstSet]
    split
    · exact Nat.le_add_right ..
    · have := ih (i + 1)
      omega

theorem testBit_below_firstSet {v n i j : Nat} (hi : i ≤ j) (hj : j < firstSet v n i) : v.testBit j = false := by
  induction n generalizing i with
  | zero => exact absurd hi (Nat.not_le.mpr hj)
  | succ n ih =>
    rw [firstSet] at hj
    split at hj
    · exact absurd hi (Nat.not_le.mpr hj)
    next hbit =>
      rw [bitAt_eq_testBit, Bool.not_eq_true] at hbit
      obtain rfl | hlt := Nat.eq_or_lt_of_le hi
      · exact hbit
      · exact ih hlt hj

theorem testBit_firstSet {v n i : Nat} (h : firstSet v n i < i + n) : v.testBit (firstSet v n i) = true := by
  induction n generalizing i with
  | zero => exact absurd h (Nat.lt_irrefl i)
  | succ n ih =>
    rw [firstSet] at h ⊢
    split at h
    next hbit => rwa [if_pos hbit, ← bitAt_eq_testBit]
    next hbit =>
      rw [if_neg hbit]
      exact ih (by omega)

theorem popCount_eq_countP (v n : Nat) : popCount v n = (List.range n).countP v.testBit := by
  induction n with
  | zero => rfl
  | succ n ih =>
    rw [popCount, ih, List.range_succ, List.countP_append, List.countP_singleton, Nat.testBit_eq_decide_div_mod_eq]
    obtain hbit | hbit := Nat.mod_two_eq_zero_or_one (v / 2 ^ n)
    · simp [hbit]
    · simp [hbit, Nat.add_comm]

theorem aluPopc_eq (l r : Word) : aluPopc l r = BitVec.ofNat 64 ((List.range 64).countP (fun i => l.getLsbD i)) := by
  rw [aluPopc, popCount_eq_countP]
  rfl

/-- The trailing zeros of a word: every bit below the count is clear, and the bit at it, if it is one, is set. -/
theorem aluCtz_counts (l r : Word) : ∃ n : Nat, aluCtz l r = BitVec.ofNat 64 n ∧ n ≤ 64 ∧
    (∀ i, i < n → l.getLsbD i = false) ∧ (n < 64 → l.getLsbD n = true) :=
  ⟨firstSet l.toNat 64 0, rfl, firstSet_le .., fun i hi => testBit_below_firstSet (Nat.zero_le i) hi,
    fun hn => testBit_firstSet (i := 0) hn⟩

/-- The leading zeros of a word: every bit above the highest set one is clear. -/
theorem aluClz_counts (l r : Word) : ∃ n : Nat, aluClz l r = BitVec.ofNat 64 n ∧ n ≤ 64 ∧
    (∀ i, 64 - n ≤ i → l.getLsbD i = false) ∧ (n < 64 → l.getLsbD (63 - n) = true) := by
  by_cases hl : l = 0
  · subst hl
    exact ⟨64, rfl, Nat.le_refl 64, fun i _ => BitVec.getLsbD_zero, fun h => absurd h (Nat.lt_irrefl 64)⟩
  · have hne : l.toNat ≠ 0 := fun h => hl (BitVec.eq_of_toNat_eq h)
    have hlog : l.toNat.log2 < 64 := (Nat.log2_lt hne).mpr l.isLt
    refine ⟨63 - l.toNat.log2, if_neg hl, by omega, fun i hi => ?_, fun _ => ?_⟩
    · have hlt : l.toNat < 2 ^ i :=
        Nat.lt_of_lt_of_le Nat.lt_log2_self (Nat.pow_le_pow_right (by decide) (by omega))
      exact Nat.testBit_lt_two_pow hlt
    · rw [show 63 - (63 - l.toNat.log2) = l.toNat.log2 by omega]
      exact Nat.testBit_log2 hne

/-- Settles O1: each word sends what its function of Machine/Alu.lean gives, which is the result of the table. -/
theorem integerForms : Obligations.IntegerForms := by
  refine ⟨fun s p ta tb l r h => ?_, fun s p ta tb l r h => ?_⟩
  · exact ⟨sends_of_lr h (exec_add ..) rfl, sends_of_lr h (exec_sub ..) rfl, sends_of_lr h (exec_mul ..) rfl,
      sends_of_lr h (exec_mulh ..) rfl, sends_of_lr h (exec_mulhu ..) rfl,
      divides_of_ne_zero h (exec_div ..) rfl, divides_of_ne_zero h (exec_divu ..) rfl,
      divides_of_ne_zero h (exec_rem ..) (aluRem_eq l r), divides_of_ne_zero h (exec_remu ..) rfl,
      sends_of_lr h (exec_and ..) rfl, sends_of_lr h (exec_or ..) rfl, sends_of_lr h (exec_xor ..) rfl,
      sends_of_lr h (exec_andn ..) rfl, sends_of_lr h (exec_shl ..) rfl, sends_of_lr h (exec_shr ..) rfl,
      sends_of_lr h (exec_sar ..) rfl, sends_of_lr h (exec_rotl ..) rfl,
      sends_of_lr h (exec_min ..) (aluMin_eq l r), sends_of_lr h (exec_max ..) (aluMax_eq l r),
      sends_of_lr h (exec_minu ..) (aluMinu_eq l r), sends_of_lr h (exec_maxu ..) (aluMaxu_eq l r),
      sends_of_lr h (exec_bfx ..) rfl, sends_of_lr h (exec_bfi ..) rfl⟩
  · obtain ⟨z, hz, leading⟩ := aluClz_counts l r
    obtain ⟨c, hc, trailing⟩ := aluCtz_counts l r
    have sext (n : Nat) (hn : n ≤ 64) : (l.extractLsb' 0 n).signExtend 64 = (l.setWidth n).signExtend 64 := by
      rw [BitVec.setWidth_eq_extractLsb' hn]
    exact ⟨sends_of_l h (exec_abs ..) (aluAbs_eq l), sends_of_l h (exec_neg ..) fun _ => rfl,
      ⟨z, sends_of_l h (exec_clz ..) fun _ => hz, leading⟩, ⟨c, sends_of_l h (exec_ctz ..) fun _ => hc, trailing⟩,
      sends_of_l h (exec_popc ..) (aluPopc_eq l),
      sends_of_l h (exec_sext ..) fun _ => sext 8 (by decide), sends_of_l h (exec_sext ..) fun _ => sext 16 (by decide),
      sends_of_l h (exec_sext ..) fun _ => sext 32 (by decide), sends_of_l h (exec_zext ..) fun _ => low_bits_eq l 8,
      sends_of_l h (exec_zext ..) fun _ => low_bits_eq l 16, sends_of_l h (exec_zext ..) fun _ => low_bits_eq l 32⟩

/-- Settles O2: the four divisions share the check of their divisor, and the wrapping quotient is that of the integers. -/
theorem divisionLimits : Obligations.DivisionLimits := by
  refine ⟨fun s p ta tb l h => ?_, fun s p ta tb h => ?_⟩
  · simp only [List.forall_mem_cons]
    exact ⟨divides_by_zero h (exec_div ..), divides_by_zero h (exec_divu ..), divides_by_zero h (exec_rem ..),
      divides_by_zero h (exec_remu ..), List.forall_mem_nil _⟩
  · exact ⟨divides_of_ne_zero h (exec_div ..) (by decide) (by decide),
      divides_of_ne_zero h (exec_rem ..) (by decide) (by decide)⟩

/-! ## Tests (R119) -/

section
variable (l r : Word)

theorem testEq_eq : testEq l r = if l = r then 1 else 0 := by simp only [testEq, flagWord, beq_iff_eq]
theorem testNe_eq : testNe l r = if l ≠ r then 1 else 0 := by simp only [testNe, flagWord, bne_iff_ne]
theorem testLt_eq : testLt l r = if l.toInt < r.toInt then 1 else 0 := by
  simp only [testLt, flagWord, BitVec.slt_iff_toInt_lt]
theorem testLe_eq : testLe l r = if l.toInt ≤ r.toInt then 1 else 0 := by
  simp only [testLe, flagWord, BitVec.sle_iff_toInt_le]
theorem testLtu_eq : testLtu l r = if l.toNat < r.toNat then 1 else 0 := by
  simp only [testLtu, flagWord, BitVec.ult_iff_lt, BitVec.lt_def]
theorem testLeu_eq : testLeu l r = if l.toNat ≤ r.toNat then 1 else 0 := by
  simp only [testLeu, flagWord, BitVec.ule_iff_le, BitVec.le_def]

end

/-- Settles O3: each test sends the flag of its relation. -/
theorem tests : Obligations.Tests := fun _ _ _ _ l r h =>
  ⟨sends_of_lr h (exec_teq ..) (testEq_eq l r), sends_of_lr h (exec_tne ..) (testNe_eq l r),
    sends_of_lr h (exec_tlt ..) (testLt_eq l r), sends_of_lr h (exec_tle ..) (testLe_eq l r),
    sends_of_lr h (exec_tltu ..) (testLtu_eq l r), sends_of_lr h (exec_tleu ..) (testLeu_eq l r),
    sends_of_lr h (exec_tbit ..) rfl⟩

/-! ## Immediate forms (R120) -/

theorem shamt_of_lt {i : BitVec 13} (h : i.toNat < 64) : shamt (i.setWidth 64) = i.toNat := by
  rw [shamt, BitVec.toNat_setWidth]
  omega

theorem aluBfxi_of_lt {i : BitVec 13} (h : i.toNat < 4096) (l r : Word) :
    aluBfxi i l r = (l >>> (i.toNat / 64)) &&& BitVec.ofNat 64 (2 ^ (i.toNat % 64 + 1) - 1) := by
  rw [aluBfxi, Nat.mod_eq_of_lt (by omega)]
  rfl

/-- Settles O4: each immediate form is the form of two tokens with its immediate as the right one. -/
theorem immediateForms : Obligations.ImmediateForms := fun _ _ _ _ l _ h =>
  ⟨sends_of_l h (exec_addi ..) fun _ => rfl, sends_of_l h (exec_muli ..) fun _ => rfl,
    sends_of_l h (exec_andi ..) fun _ => rfl, sends_of_l h (exec_ori ..) fun _ => rfl,
    sends_of_l h (exec_xori ..) fun _ => rfl,
    fun hi => sends_of_l h (exec_shli ..) fun _ => congrArg (l <<< ·) (shamt_of_lt hi),
    fun hi => sends_of_l h (exec_shri ..) fun _ => congrArg (l >>> ·) (shamt_of_lt hi),
    fun hi => sends_of_l h (exec_sari ..) fun _ => congrArg l.sshiftRight (shamt_of_lt hi),
    sends_of_l h (exec_teqi ..) fun _ => testEq_eq l _, sends_of_l h (exec_tnei ..) fun _ => testNe_eq l _,
    sends_of_l h (exec_tlti ..) fun _ => testLt_eq l _, sends_of_l h (exec_tlei ..) fun _ => testLe_eq l _,
    sends_of_l h (exec_tltui ..) fun _ => testLtu_eq l _, sends_of_l h (exec_tleui ..) fun _ => testLeu_eq l _,
    fun hi => sends_of_l h (exec_bfxi ..) (aluBfxi_of_lt hi l)⟩

end Sys2Proof.Machine

/-! # Registers, plumbing and exits (spec/05 R103 to R115). -/

namespace Sys2Proof.Machine

/-! ## Registers and plumbing (R109 to R115) -/

/-- Settles O7: no older block writes the register and no reply is owed, so the read falls through to the context. -/
theorem committedRegister : Obligations.CommittedRegister := by
  intro s core f g holder hatoms
  rw [State.readReg, holder, State.regThrough, hatoms, List.any_nil, if_neg Bool.false_ne_true]

section
variable {s : State} {p : Pr} {l r : Word}

theorem exec_null_sends (ta tb : Tgt) (h : s.ready p .none l r) : exec (.null p ta tb) s = .next (s.finish .null [ta, tb]) :=
  (exec_null ..).trans (fireAct_go h)

/-- R111: one token at either position is enough for SEL. -/
theorem selReady_of_token {k : Token} (hf : s.curSlot.fired = false) (hp : p.agrees s.curSlot.pred)
    (hk : s.curSlot.left = some k ∧ s.curSlot.right = none ∨ s.curSlot.left = none ∧ s.curSlot.right = some k) :
    s.selReady p = .go := by
  obtain ⟨hl, hr⟩ | ⟨hl, hr⟩ := hk <;> simp [State.selReady, hf, predReady_of_agrees hp, hl, hr]

theorem selToken_single {left right : Option Token} {k : Token}
    (hk : left = some k ∧ right = none ∨ left = none ∧ right = some k) : selToken left right = some k := by
  obtain ⟨rfl, rfl⟩ | ⟨rfl, rfl⟩ := hk
  · rfl
  · rfl

theorem exec_sel_forwards (ta tb : Tgt) {k : Token} (hf : s.curSlot.fired = false) (hp : p.agrees s.curSlot.pred)
    (hk : s.curSlot.left = some k ∧ s.curSlot.right = none ∨ s.curSlot.left = none ∧ s.curSlot.right = some k) :
    exec (.sel p ta tb) s = .next (s.finish k [ta, tb]) := by
  rw [exec_sel, execSel, selReady_of_token hf hp hk, selToken_single hk]
  rfl

theorem exec_getr_sends {g : BitVec 13} (ta : Tgt) {v : Word} (h : s.ready p .none l r)
    (hv : s.readReg s.fCore s.fFrame g.toNat = some v) : exec (.getr p g ta) s = .next (s.finish (.val v) [ta]) := by
  rw [exec_getr, execGetr, fireAct_go h, hv]

theorem exec_putr_writes {g : BitVec 13} (h : s.ready p .l l r) (hw : s.cur.wrote g.toNat = false) :
    exec (.putr p g) s = .next (s.putReg g.toNat (some l)) := by
  rw [exec_putr, execPutr, sideReady_of_ready h, opL_of_ready h (by decide), hw]
  rfl

end

/-- Settles O6: each word by what it does once it may fire. -/
theorem plumbing : Obligations.Plumbing :=
  ⟨fun _ _ ta tb _ _ h => exec_null_sends ta tb h, fun _ _ _ _ _ _ h => sends_of_l h (exec_mov ..) fun _ => rfl,
    fun _ _ ta tb _ hf hp hk => exec_sel_forwards ta tb hf hp hk,
    fun _ _ _ _ _ _ h => (exec_const ..).trans (fireWith_none h),
    fun _ _ _ _ _ _ h => sends_of_l h (exec_consth ..) fun _ => rfl,
    fun _ _ _ ta _ _ _ h hv => exec_getr_sends ta h hv, fun _ _ _ _ _ h hw => exec_putr_writes h hw⟩

/-! ## Exits (R103 to R108, R271) -/

section
variable {s : State} {p : Pr} {l r : Word}

theorem fireExit_go {u : Uses} {act : State → State} (h : s.ready p u l r) : fireExit p u act s = .next (act s) := by
  rw [fireExit, plainReady_of_ready h]

/-- R104: which words are the address of a block. -/
theorem legalTarget_iff (a : Word) : legalTarget a.toNat = true ↔ a.toNat < 2 ^ 57 ∧ a.toNat % 4 = 0 := by
  simp only [legalTarget, decide_eq_true_eq]
  omega

theorem exitTo_legal (s : State) {a : Word} (hlt : a.toNat < 2 ^ 57) (hmod : a.toNat % 4 = 0) :
    s.exitTo a.toNat = s.takeExit (some a) := by
  rw [State.exitTo, if_pos ((legalTarget_iff a).mpr ⟨hlt, hmod⟩), BitVec.ofInt_natCast, BitVec.ofNat_toNat, BitVec.setWidth_eq]

theorem exitTo_badTarget {a : Word} (hexit : s.cur.exit = none) (hbad : a.toNat % 4 ≠ 0 ∨ 2 ^ 57 ≤ a.toNat) :
    s.exitTo a.toNat = s.stopAt causeBadTarget (BitVec.ofInt 64 a.toNat) := by
  have hill : ¬ legalTarget a.toNat = true := by
    rw [legalTarget_iff]
    omega
  rw [State.exitTo, if_neg hill, hexit, Option.isSome_none, if_neg Bool.false_ne_true]

theorem exec_bro_exits (ex : BitVec 3) {off : BitVec 19} {a : Int} (h : s.ready p .none l r)
    (ha : a = offTarget s.cur.addr off) : exec (.bro p ex off) s = .next (s.exitTo a) := by
  rw [exec_bro, execBro, fireExit_go h, ha]

theorem exec_callo_exits (ex : BitVec 3) {off : BitVec 19} {a : Int} (h : s.ready p .none l r)
    (ha : a = offTarget s.cur.addr off) : exec (.callo p ex off) s = .next (s.exitTo a) := by
  rw [exec_callo, execCallo, fireExit_go h, ha]

theorem exec_bri_exits (ex : BitVec 3) (h : s.ready p .l l r) : exec (.bri p ex) s = .next (s.exitTo l.toNat) := by
  rw [exec_bri, execBri, fireExit_go h, opL_of_ready h (by decide)]

theorem exec_calli_exits (ex : BitVec 3) (h : s.ready p .l l r) : exec (.calli p ex) s = .next (s.exitTo l.toNat) := by
  rw [exec_calli, execCalli, fireExit_go h, opL_of_ready h (by decide)]

theorem exec_ret_exits (ex : BitVec 3) {v : Word} (h : s.ready p .none l r)
    (hv : s.readReg s.fCore s.fFrame 63 = some v) : exec (.ret p ex) s = .next (s.exitTo v.toNat) := by
  rw [exec_ret, execRet, fireExit_go h, hv]

theorem exec_scall_exits (ex : BitVec 3) (h : s.ready p .l l r) : exec (.scall p ex) s = .next (s.takeExit none) := by
  rw [exec_scall, execScall, fireExit_go h]

theorem exec_exit_exits (ex : BitVec 3) (h : s.ready p .none l r) : exec (.exit p ex) s = .next (s.takeExit none) := by
  rw [exec_exit, execExit, fireExit_go h]

theorem exec_eret_exits (skip : Bool) (h : s.ready p .none l r) (hmode : s.curStrand.hmode = true) :
    exec (.eret p skip) s = .next (s.takeExit none) := by
  rw [exec_eret, execEret, fireExit_go h, if_pos hmode]

end

/-- Settles O8: each exit goes to its address or to none; one alone in its block takes effect, and a bad address holds its
fault. -/
theorem exits : Obligations.Exits := by
  refine ⟨fun s p ex l r hexit hlink hfetch hyoung => ?_, fun s p ex l r h hexit hbad => ?_⟩
  · have alone (n : Option Word) := takeExit_alone (n := n) hexit hlink hfetch hyoung
    have taken {i : Instr} {a : Word} (hlt : a.toNat < 2 ^ 57) (hmod : a.toNat % 4 = 0)
        (hi : exec i s = .next (s.exitTo a.toNat)) :
        exec i s = .next (s.modCur (fun f => { (f.fire s.fSlot) with exit := some (s.fSlot, some a) })) := by
      rw [hi, exitTo_legal s hlt hmod, (alone (some a)).1 rfl]
    have ended {i : Instr} (hi : exec i s = .next (s.takeExit none)) :
        ∃ t, exec i s = .next t ∧ t.cur.exit = some (s.fSlot, none) := ⟨_, hi, (alone none).2⟩
    exact ⟨fun _ _ h ha hlt hmod => ⟨taken hlt hmod (exec_bro_exits ex h ha), taken hlt hmod (exec_callo_exits ex h ha)⟩,
      fun h hlt hmod => ⟨taken hlt hmod (exec_bri_exits ex h), taken hlt hmod (exec_calli_exits ex h)⟩,
      fun _ h hv hlt hmod => taken hlt hmod (exec_ret_exits ex h hv), fun h => ended (exec_scall_exits ex h),
      fun h => ended (exec_exit_exits ex h), fun skip h hmode => ended (exec_eret_exits skip h hmode)⟩
  · have held {i : Instr} (hi : exec i s = .next (s.exitTo l.toNat)) : ∃ t, exec i s = .next t ∧ t = s.modCur (fun f =>
        (f.fire s.fSlot).hold { cause := 0x05, slot := some s.fSlot, arg := BitVec.ofInt 64 l.toNat }) :=
      ⟨_, hi, exitTo_badTarget hexit hbad⟩
    simp only [List.forall_mem_cons]
    exact ⟨held (exec_bri_exits ex h), held (exec_calli_exits ex h), List.forall_mem_nil _⟩

end Sys2Proof.Machine

/-! # Loads, stores and prefetches fire (spec/06 R142 to R145). -/

namespace Sys2Proof.Machine

/-- The decoded record of the AGN that a word of the block in focus names. -/
abbrev State.wordAgn (s : State) (ag : BitVec 5) : AgnRec := agnRec (s.agn (s.strandAgn s.curSid ag.toNat)).words

/-! ## Loads -/

/-- The load of `z` bytes that an LD in focus starts, before its place is known. -/
def State.loadOf (s : State) (lsid ag : BitVec 5) (z : Nat) (sx : Bool) : LoadRec :=
  { slot := s.fSlot, lsid := lsid.toNat, n := z, sx := sx, bank := (s.wordAgn ag).port == 4, ag := ag.toNat }

section
variable {s : State} {lsid ag : BitVec 5} {z : Nat} {sx : Bool}

theorem fireLd_home {a : Nat} (hr : s.reach s.curCluster s.fCore (s.wordAgn ag) .load s.opL z = .home a)
    (hroom : s.curStrand.ldc < 63) :
    s.fireLd lsid ag z sx = s.startLoad { s.loadOf lsid ag z sx with place := .home a, struct := s.isStruct a } := by
  simp only [State.fireLd, hr, ge_iff_le, Nat.not_le.mpr hroom, if_false]
  rfl

/-- A load of a virtual address whose translation is cached starts at the place it maps to. -/
theorem fireLd_cached {va : Nat} {pl : Place} (hr : s.reach s.curCluster s.fCore (s.wordAgn ag) .load s.opL z = .virt va)
    (hroom : s.curStrand.ldc < 63)
    (hx : s.xlateCached (clusterQuarter s.curCluster) s.curJob va false false = some (.ok pl)) :
    s.fireLd lsid ag z sx = s.startLoad { s.loadOf lsid ag z sx with place := pl, va := BitVec.ofNat 64 va } := by
  simp only [State.fireLd, hr, hx, ge_iff_le, Nat.not_le.mpr hroom, if_false]
  rfl

theorem fireLd_fault {c : Nat} {x : Word} (hr : s.reach s.curCluster s.fCore (s.wordAgn ag) .load s.opL z = .fault c x) :
    s.fireLd lsid ag z sx = s.stopAt c x (some ag.toNat) := by
  simp only [State.fireLd, hr]

end

theorem startLoad_ldc (s : State) (y : LoadRec) : ((s.startLoad y).strand s.curSid).ldc = s.curStrand.ldc + 1 := by
  simp [State.startLoad, State.modCur, State.curStrand]

theorem startLoad_loads (s : State) (y : LoadRec) : (s.startLoad y).cur.loads = s.cur.loads ++ [y] := by
  rw [State.startLoad, cur_modStrand, cur_modCur]

/-- Settles O12: once ready, LD does what the outcome of its address's checks decides, and starting a load counts it. -/
theorem loadFires : Obligations.LoadFires := by
  intro s p lsid ag sz sx ta l r h rec0 base
  have hfire : exec (.ld p lsid ag sz sx ta) s = .next (s.fireLd lsid ag (2 ^ sz.toNat) sx) :=
    (exec_ld ..).trans (fireAct_go h)
  have hl : s.opL = l := opL_of_ready h (by decide)
  subst hl
  refine ⟨fun a hroom hr => ?_, fun va pl hroom hr hx => ?_, fun c x hr => ?_,
    fun y => ⟨startLoad_ldc s y, startLoad_loads s y, rfl⟩⟩
  · rw [hfire, fireLd_home hr hroom]
    rfl
  · rw [hfire, fireLd_cached hr hroom hx]
    rfl
  · rw [hfire, fireLd_fault hr]

/-! ## Stores -/

/-- The store of `z` bytes that an ST in focus records, before its place is known. -/
def State.storeOf (s : State) (ag : BitVec 5) (z : Nat) (na : Bool) : StoreRec :=
  { n := z, v := s.opR, na := na || (s.wordAgn ag).port != 4, bank := (s.wordAgn ag).isWindow, off := s.opL,
    cls := treuse (s.tensor s.curJob (s.wordAgn ag).tid), rk := trk (s.tensor s.curJob (s.wordAgn ag).tid) }

/-- Resolving changes slots and effects of the block in focus, and nothing else of any frame. -/
theorem resolve_frame (s : State) (e : Effect) (c f : Nat) :
    ∃ sl fx, (s.resolve e).frame c f = { s.frame c f with slots := sl, fx := fx } := by
  by_cases hk : c * 8 + f = s.fCore * 8 + s.fFrame
  · refine ⟨(s.cur.fire s.fSlot).slots, s.cur.fx ++ [(s.fSlot, e)], ?_⟩
    have hcur : s.frame c f = s.cur := by simp [State.cur, State.frame, hk]
    simp only [State.resolve, State.modCur, modFrame_def, frame_setFrame, if_pos hk, hcur]
    rfl
  · refine ⟨(s.frame c f).slots, (s.frame c f).fx, ?_⟩
    simp only [State.resolve, State.modCur, modFrame_def, frame_setFrame, if_neg hk]

/-- A strand whose blocks have no load and no payload read in flight has nothing that a store comes too late for. -/
theorem orderCheck_without_accesses {s : State} {core f lsid : Nat} {r : StoreRec}
    (h : ∀ g ∈ s.framesOf (s.frame core f).sid, (s.frame core g).loads = [] ∧ (s.frame core g).reads = []) :
    s.orderCheck core f lsid r = s := by
  unfold State.orderCheck
  dsimp only
  rw [List.find?_eq_none.mpr]
  intro g hg
  obtain ⟨hloads, hreads⟩ := h g (List.mem_filter.mp hg).1
  simp [hloads, hreads]

theorem storeAs_without_accesses {s : State} {lsid : Nat} {r : StoreRec}
    (h : ∀ g ∈ s.framesOf s.curSid, (s.frame s.fCore g).loads = [] ∧ (s.frame s.fCore g).reads = []) :
    s.storeAs lsid r = s.resolve (.store lsid r) := by
  refine orderCheck_without_accesses fun g hg => ?_
  have hsame (c f : Nat) := resolve_frame s (.store lsid r) c f
  have hframes : (s.resolve (.store lsid r)).framesOf s.curSid = s.framesOf s.curSid :=
    framesOf_congr (fun c f => by obtain ⟨sl, fx, hf⟩ := hsame c f; simp [hf]) s.curSid
  obtain ⟨sl, fx, hcur⟩ := hsame s.fCore s.fFrame
  obtain ⟨sl', fx', hg'⟩ := hsame s.fCore g
  rw [hcur] at hg
  rw [hg']
  exact h g (hframes ▸ hg)

section
variable {s : State} {lsid ag : BitVec 5} {z : Nat} {na : Bool}

theorem fireSt_home {a : Nat} (hr : s.reach s.curCluster s.fCore (s.wordAgn ag) .store s.opL z = .home a)
    (hs : s.isStruct a = false) :
    s.fireSt lsid ag z na = s.storeAs lsid.toNat { s.storeOf ag z na with place := .home a } := by
  simp only [State.fireSt, hr, hs, Bool.false_and, Bool.false_eq_true, if_false]
  rfl

theorem fireSt_cached {va : Nat} {pl : Place} (hr : s.reach s.curCluster s.fCore (s.wordAgn ag) .store s.opL z = .virt va)
    (hx : s.xlateCached (clusterQuarter s.curCluster) s.curJob va true false = some (.ok pl)) :
    s.fireSt lsid ag z na = s.storeAs lsid.toNat { s.storeOf ag z na with place := pl, va := va } := by
  simp only [State.fireSt, hr, hx]
  rfl

/-- A structure byte is written once (R137). -/
theorem fireSt_rewrite {a : Nat} (hr : s.reach s.curCluster s.fCore (s.wordAgn ag) .store s.opL z = .home a)
    (hs : s.isStruct a = true) (hw : s.structWritten a = true) :
    s.fireSt lsid ag z na = s.stopAt causeRewrite s.opL (some ag.toNat) := by
  simp only [State.fireSt, hr, hs, hw, Bool.and_self, if_true]

end

/-! ## Prefetches -/

/-- Filling caches changes no byte of memory and nothing of the cores. -/
def State.SameBytesCores (s t : State) : Prop := t.mem.bytes = s.mem.bytes ∧ t.core = s.core

theorem bankPut_sameBytesCores (s : State) (cl cls k mask : Nat) (alloc : Bool) (v : Version) :
    s.SameBytesCores (s.bankPut cl cls k mask alloc v) := by
  unfold State.bankPut
  split <;> exact ⟨rfl, rfl⟩

theorem fillLine_sameBytesCores (s : State) (core : Nat) (pl : Place) (w t : Nat) (bank alloc : Bool) (cls k : Nat) :
    s.SameBytesCores (s.fillLine core pl w t bank alloc cls k) := by
  unfold State.fillLine
  dsimp only
  split
  · exact ⟨rfl, rfl⟩
  · split
    · exact bankPut_sameBytesCores ..
    · exact ⟨rfl, rfl⟩

theorem prefetch_sameBytesCores (s : State) (ag : BitVec 5) : s.SameBytesCores (s.prefetch ag) := by
  unfold State.prefetch
  dsimp only
  split
  · split
    · split
      · exact ⟨rfl, rfl⟩
      · exact fillLine_sameBytesCores ..
    · exact ⟨rfl, rfl⟩
  · exact ⟨rfl, rfl⟩

/-- Settles O13: once ready, ST does what its address's checks decide, and without later accesses in flight recording it is all
that happens; a prefetch only fills caches. -/
theorem storeFires : Obligations.StoreFires := by
  intro s p lsid ag sz na l r rec0 e base
  have hfire (h : s.ready p .lr l r) : exec (.st p lsid ag sz na) s = .next (s.fireSt lsid ag (2 ^ sz.toNat) na) :=
    (exec_st ..).trans (fireSide_go h)
  refine ⟨fun hnone h => ?_, fun h a hr hs hw => ?_, fun h => ?_⟩
  · have hl : s.opL = l := opL_of_ready h (by decide)
    have hrv : s.opR = r := opR_of_ready h
    subst hl hrv
    refine ⟨fun a hr hs => ?_, fun va pl hr hx => ?_⟩
    · rw [hfire h, fireSt_home hr hs, storeAs_without_accesses hnone]
      rfl
    · rw [hfire h, fireSt_cached hr hx, storeAs_without_accesses hnone]
      rfl
  · have hl : s.opL = l := opL_of_ready h (by decide)
    subst hl
    rw [hfire h, fireSt_rewrite hr hs hw]
    rfl
  · obtain ⟨hbytes, hcore⟩ := prefetch_sameBytesCores s ag
    have hstrands : (s.prefetch ag).core.strands = s.core.strands := congrArg Cores.strands hcore
    exact ⟨_, (exec_pref ..).trans (fireAct_go h), hbytes, hstrands⟩

end Sys2Proof.Machine

/-! # Enqueues, streams, parameter writes and copies fire (spec/06 R148 to R159). -/

namespace Sys2Proof.Machine

/-! ## Cells -/

/-- An enqueue through a cache window whose cell passes its checks records what it read and resolves with the filled cell. -/
theorem fireEnq_fills {s s1 : State} {ag : BitVec 5} {c c1 : Cell} {g : Got} {ps : List (Place × Nat)}
    (hc : cellOfDesc s.opL s.opR (s.wordAgn ag).tid = c) (hdev : deviceOnly c = false)
    (hok : s.cellOk s.curCluster s.curJob c = true) (hagn : s.agnCheck s.curCluster (s.wordAgn ag) .cells = 0)
    (hport : (s.wordAgn ag).port = 4) (hlen : s.messageTooLong s.curCluster s.curJob c = false)
    (hfill : s.fillCell s.curCluster s.fCore s.curJob (s.wordAgn ag) (s.storesBefore s.fCore s.fFrame 0) s.curStrand.pts
      (ctagOff s.opR) c false = .ok (c1, g, ps, s1)) :
    s.fireEnq ag c.mc = (s1.modCur (fun f => { f with
      reads := f.reads ++ [{ slot := s.fSlot, places := ps, wts := g.wts, rts := g.lease }] })).enqEffect ag.toNat c1 := by
  simp [State.fireEnq, hc, hdev, hok, hagn, hport, hlen, hfill]

/-- Settles O14: ENQ and ENQM differ in the kind of cell they take alone. -/
theorem enqueueFires : Obligations.EnqueueFires := by
  intro s s1 p ag l r c1 g ps h rec0 c hdev hok hagn hport hlen hfill t
  have hl : s.opL = l := opL_of_ready h (by decide)
  have hr : s.opR = r := opR_of_ready h
  subst hl hr
  have hfire : s.fireEnq ag c.mc = t := fireEnq_fills rfl hdev hok hagn hport hlen hfill
  refine ⟨fun hmc => ?_, fun hmc => ?_⟩
  · rw [exec_enq, execEnq, fireSide_go h, ← hmc, hfire]
  · rw [exec_enqm, execEnqm, fireSide_go h, ← hmc, hfire]

/-! ## Streams and parameters -/

section
variable {s : State} {ag : BitVec 5}

/-- A stream on any port but 2 whose AGN passes its check resolves, unless it is to be persistent and the AGN is not. -/
theorem fireStrm_checked {tk : BitVec 3} {last pers : Bool} (hagn : s.agnCheck s.curCluster (s.wordAgn ag) .cells = 0)
    (hport : (s.wordAgn ag).port ≠ 2) :
    s.fireStrm ag tk last pers = if pers && !(s.wordAgn ag).pers then s.stopAt causeMode 0 (some ag.toNat)
      else s.resolve (.stream (s.strandAgn s.curSid ag.toNat) s.opL s.opR tk.toNat last pers) := by
  simp [State.fireStrm, hagn, hport]

theorem fireParm_checked (hagn : s.agnCheck s.curCluster (s.wordAgn ag) .parm = 0) :
    s.fireParm ag = if parmOk (s.wordAgn ag) s.opL then
        s.resolve (.parm (s.strandAgn s.curSid ag.toNat) (wbits s.opL 61 3) (BitVec.ofNat 64 (wbits s.opL 0 57)))
      else s.stopAt causeBadParm := by
  simp only [State.fireParm, hagn, bne_self_eq_false, Bool.false_eq_true, if_false, Bool.not_eq_true', ← Bool.not_eq_true,
    ite_not]

end

/-- Settles O15: the AGN's check passed, persistence and the parameter's form decide. -/
theorem streamFires : Obligations.StreamFires := by
  intro s p ag tk f l r key rec0
  refine ⟨fun h hagn hport => ?_, fun h hagn => ?_⟩
  · have hl : s.opL = l := opL_of_ready h (by decide)
    have hr : s.opR = r := opR_of_ready h
    subst hl hr
    have hstrm (pers : Bool) := fireStrm_checked (tk := tk) (last := f) (pers := pers) hagn hport
    refine ⟨?_, fun hpers => ?_, fun hpers => ?_⟩
    · rw [exec_strm, execStrm, fireSide_go h, hstrm]
      rfl
    · rw [exec_strms, execStrms, fireSide_go h, hstrm, show (s.wordAgn ag).pers = true from hpers]
      rfl
    · rw [exec_strms, execStrms, fireSide_go h, hstrm, show (s.wordAgn ag).pers = false from hpers]
      rfl
  · have hl : s.opL = l := opL_of_ready h (by decide)
    subst hl
    refine ⟨fun hok => ?_, fun hok => ?_⟩
    · rw [exec_parm, execParm, fireSide_go h, fireParm_checked hagn, if_pos hok]
    · rw [exec_parm, execParm, fireSide_go h, fireParm_checked hagn, if_neg (Bool.eq_false_iff.mp hok)]
      rfl

/-! ## Copies -/

/-- The slot in focus takes the strand's next copy number, sends it and resolves with the copy. -/
def State.takeCopy (s : State) (kind : Nat) (ag : BitVec 5) (tk : BitVec 3) (f : Bool) (ta : Tgt) : State :=
  ((s.resolve (.copy (copyOf kind ag tk f s.opL s.opR (s.curStrand.cseq + 1)))).modCur (fun g =>
    { (g.send (.val (s.curStrand.cseq + 1)) [ta]) with cseqs := g.cseqs + 1 })).modStrand s.curSid
      (fun x => { x with cseq := s.curStrand.cseq + 1 })

theorem fireCopy_takes {s : State} {p : Pr} {l r : Word} (kind : Nat) (ag : BitVec 5) (tk : BitVec 3) (f : Bool) (ta : Tgt)
    (h : s.ready p .lr l r) (hb : s.copiesBefore = false) :
    fireCopy kind p ag tk f ta s = .next (s.takeCopy kind ag tk f ta) := by
  simp only [fireCopy, fireSide_go h, hb, Bool.false_eq_true, if_false]
  rfl

theorem takeCopy_cseq (s : State) (kind : Nat) (ag : BitVec 5) (tk : BitVec 3) (f : Bool) (ta : Tgt) :
    ((s.takeCopy kind ag tk f ta).strand s.curSid).cseq = s.curStrand.cseq + 1 := by
  rw [State.takeCopy, modStrand_def, strand_setStrand_same]

/-- Settles O17: the four words share one firing, which counts the copy in its strand. -/
theorem copyFires : Obligations.CopyFires := by
  intro s p ag tk f ta l r h hb
  have hl : s.opL = l := opL_of_ready h (by decide)
  have hr : s.opR = r := opR_of_ready h
  subst hl hr
  have takes {i : Instr} (kind : Nat) (hi : exec i s = fireCopy kind p ag tk f ta s) :
      ∃ t, exec i s = .next t ∧ (t.strand s.curSid).cseq = s.curStrand.cseq + 1 ∧ t.mem = s.mem ∧
        t = s.takeCopy kind ag tk f ta :=
    ⟨_, hi.trans (fireCopy_takes kind ag tk f ta h hb), takeCopy_cseq .., rfl, rfl⟩
  simp only [List.forall_mem_cons]
  exact ⟨takes 0 (exec_cpy ..), takes 1 (exec_cpyg ..), takes 2 (exec_cpys ..), takes 3 (exec_cpyr ..),
    List.forall_mem_nil _⟩

end Sys2Proof.Machine

/-! # Waits, timeline reads, yields and barrier words fire (spec/06 R160 to R168, spec/16 R337 to R340). -/

namespace Sys2Proof.Machine

/-! ## Waits -/

section
variable {s : State}

theorem startWait_pends (w : Wait) (h : wbits s.curStrand.async 56 8 = 0) :
    s.startWait w = s.modCur (fun f => { (f.fire s.fSlot) with waits := f.waits ++ [(s.fSlot, w)] }) := by
  simp [State.startWait, h]

theorem startWait_asyncErr (w : Wait) (h : wbits s.curStrand.async 56 8 ≠ 0) :
    s.startWait w = s.stopAt causeAsync s.curStrand.async := by
  simp [State.startWait, h]

variable {ag : BitVec 5} {cmp : Cmp}

theorem fireWaita_home {a : Nat} (hr : s.reach s.curCluster s.fCore (s.wordAgn ag) .load s.opL 8 = .home a)
    (h : wbits s.curStrand.async 56 8 = 0) : s.fireWaita ag cmp = s.startWait (.word (.home a) cmp s.opR) := by
  simp [State.fireWaita, h, hr]

/-- WAITA looks at the status word before its address. -/
theorem fireWaita_asyncErr (h : wbits s.curStrand.async 56 8 ≠ 0) :
    s.fireWaita ag cmp = s.stopAt causeAsync s.curStrand.async := by
  simp [State.fireWaita, h]

end

section
variable {s : State} {p : Pr} {l r : Word}

theorem exec_waitn_starts (ld st : BitVec 6) (cp tl : BitVec 5) (h : s.ready p .none l r) :
    exec (.waitn p ld st cp tl) s = .next (s.startWait (.counts ld.toNat st.toNat cp.toNat tl.toNat)) := by
  rw [exec_waitn, execWaitn, fireAct_go h]

theorem exec_waitt_starts (eng : BitVec 5) (ctx : BitVec 2) (ta : Tgt) (h : s.ready p .l l r) :
    exec (.waitt p eng ctx ta) s = .next (s.startWait (.timeline eng.toNat ctx.toNat l)) := by
  rw [exec_waitt, execWaitt, fireAct_go h, opL_of_ready h (by decide)]

theorem exec_waita_fires (ag : BitVec 5) (cmp : Cmp) (ta : Tgt) (h : s.ready p .lr l r) :
    exec (.waita p ag cmp ta) s = .next (s.fireWaita ag cmp) := by
  rw [exec_waita, execWaita, fireAct_go h]

theorem exec_waitb_starts {bs : BitVec 5} {b : Nat} (ta : Tgt) (h : s.ready p .l l r)
    (hb : s.barSlot s.curSid bs.toNat = some b) :
    exec (.waitb p bs ta) s = .next (s.startWait (.barrier b (wbits l 0 32))) := by
  rw [exec_waitb, execWaitb, fireAct_go h, hb, opL_of_ready h (by decide)]

theorem exec_fence_starts (e q : Bool) (h : s.ready p .none l r) :
    exec (.fence p e q) s = .next (s.startWait (.fence e q)) := by
  rw [exec_fence, execFence, fireAct_go h]

end

/-- Settles O18: each word starts its wait, and the status word decides what starting a wait does. -/
theorem waitsFire : Obligations.WaitsFire := by
  intro s p ld st cp tl eng ctx ag bs cmp ta e q l r pend err rec0
  refine ⟨fun h0 => ?_, fun h0 => ?_⟩
  · have pends (w : Wait) : s.startWait w = pend w := startWait_pends w h0
    refine ⟨fun h => ?_, fun h => ?_, fun a h hr => ?_, fun b h hb => ?_, fun h => ?_⟩
    · rw [exec_waitn_starts ld st cp tl h, pends]
    · rw [exec_waitt_starts eng ctx ta h, pends]
    · have hl : s.opL = l := opL_of_ready h (by decide)
      subst hl
      rw [exec_waita_fires ag cmp ta h, fireWaita_home hr h0, opR_of_ready h, pends]
    · rw [exec_waitb_starts ta h hb, pends]
    · rw [exec_fence_starts e q h, pends]
  · have errs (w : Wait) : s.startWait w = err := startWait_asyncErr w h0
    refine ⟨fun h => ?_, fun h => ?_, fun h => ?_, fun b h hb => ?_, fun h => ?_⟩
    · rw [exec_waitn_starts ld st cp tl h, errs]
    · rw [exec_waitt_starts eng ctx ta h, errs]
    · rw [exec_waita_fires ag cmp ta h, fireWaita_asyncErr h0]
      rfl
    · rw [exec_waitb_starts ta h hb, errs]
    · rw [exec_fence_starts e q h, errs]

/-! ## Timelines, yields and barriers -/

section
variable {s : State} {p : Pr} {l r : Word} {bs : BitVec 5} {k : Nat}

theorem exec_yield_fires (h : s.ready p .none l r) : exec (.yield p) s = .next (s.modCur (fun f => f.fire s.fSlot)) := by
  rw [exec_yield, execYield, fireAct_go h]

theorem exec_tlrd_sends (eng : BitVec 5) (ctx : BitVec 2) (ta : Tgt) (h : s.ready p .none l r) :
    exec (.tlrd p eng ctx ta) s = .next (s.finish (.val (if eng = 31 then s.curStrand.async
      else BitVec.ofNat 64 (s.timeline (s.timelineKey s.curSid eng.toNat ctx.toNat)).tl)) [ta]) := by
  rw [exec_tlrd, execTlrd, fireAct_go h]
  split <;> rfl

/-- TBP sends the test's flag in bit 0 and the break bit in bit 63. -/
theorem tbp_token_same (b : Barrier) : execTbp.flagBit false ||| brkBit b = if b.brk then 0x8000000000000000#64 else 0 := by
  cases hb : b.brk <;> simp [brkBit, hb, execTbp.flagBit]

theorem tbp_token_moved (b : Barrier) : execTbp.flagBit true ||| brkBit b = if b.brk then 0x8000000000000001#64 else 1 := by
  cases hb : b.brk <;> simp [brkBit, hb, execTbp.flagBit]

theorem exec_tbp_same (ta : Tgt) (hk : s.barSlot s.curSid bs.toNat = some k) (h : s.ready p .l l r)
    (hph : (s.barrier k).cph % 2 = wbits l 0 1) :
    exec (.tbp p bs ta) s =
      .next (s.finish (.val (if (s.barrier k).brk then 0x8000000000000000#64 else 0)) [ta]) := by
  rw [exec_tbp, execTbp, fireAct_go h, hk]
  simp only [opL_of_ready h (by decide), hph, bne_self_eq_false, tbp_token_same, Bool.false_eq_true, if_false]

/-- A phase that has passed raises the strand's timestamp to its stamp. -/
theorem exec_tbp_moved (ta : Tgt) (hk : s.barSlot s.curSid bs.toNat = some k) (h : s.ready p .l l r)
    (hph : (s.barrier k).cph % 2 ≠ wbits l 0 1) :
    exec (.tbp p bs ta) s =
      .next ((s.finish (.val (if (s.barrier k).brk then 0x8000000000000001#64 else 1)) [ta]).raisePts s.curSid
        (s.barrier k).cstamp) := by
  rw [exec_tbp, execTbp, fireAct_go h, hk]
  simp only [opL_of_ready h (by decide), bne_iff_ne.mpr hph, tbp_token_moved, if_true]

theorem exec_arv_resolves (hk : s.barSlot s.curSid bs.toNat = some k) (h : s.ready p .none l r) :
    exec (.arv p bs) s = .next (s.resolve (.arrive (s.strandBarrier k 0x290 0) false)) := by
  rw [exec_arv, execArv, fireSide_go h, hk]

theorem exec_arvx_resolves (hk : s.barSlot s.curSid bs.toNat = some k) (h : s.ready p .none l r) :
    exec (.arvx p bs) s = .next (s.resolve (.arrive (s.strandBarrier k 0x291 0) true)) := by
  rw [exec_arvx, execArvx, fireSide_go h, hk]

theorem exec_expt_asks (hk : s.barSlot s.curSid bs.toNat = some k) (h : s.ready p .l l r) (h0 : l ≠ 0) (hlt : l.toNat < 2 ^ 20) :
    exec (.expt p bs) s = .next (s.modCur (fun f => { (f.fire s.fSlot) with asks := s.fSlot :: f.asks })) := by
  have hmax : ¬ l.toNat > 2 ^ 20 - 1 := by omega
  rw [exec_expt, execExpt, fireSide_go h, hk]
  simp only [opL_of_ready h (by decide), h0, hmax, if_false]

theorem exec_expt_overflows (hk : s.barSlot s.curSid bs.toNat = some k) (h : s.ready p .l l r) (hle : 2 ^ 20 ≤ l.toNat) :
    exec (.expt p bs) s = .next (s.stopAt causeExpectOvf) := by
  have h0 : l ≠ 0 := by
    rintro rfl
    simp at hle
  have hmax : l.toNat > 2 ^ 20 - 1 := by omega
  rw [exec_expt, execExpt, fireSide_go h, hk]
  simp only [opL_of_ready h (by decide), h0, hmax, if_false, if_true]

/-- A word that names an unbound barrier slot holds UNBOUND against its block (R337). -/
theorem barrierWords_unbound (ta : Tgt) (hk : s.barSlot s.curSid bs.toNat = none) :
    (s.ready p .l l r → exec (.tbp p bs ta) s = .next (s.stopAt causeUnbound 0 (some bs.toNat)) ∧
      exec (.expt p bs) s = .next (s.stopAt causeUnbound 0 (some bs.toNat))) ∧
    (s.ready p .none l r → exec (.arv p bs) s = .next (s.stopAt causeUnbound 0 (some bs.toNat)) ∧
      exec (.arvx p bs) s = .next (s.stopAt causeUnbound 0 (some bs.toNat))) := by
  refine ⟨fun h => ⟨?_, ?_⟩, fun h => ⟨?_, ?_⟩⟩
  · rw [exec_tbp, execTbp, fireAct_go h, hk]
  · rw [exec_expt, execExpt, fireSide_go h, hk]
  · rw [exec_arv, execArv, fireSide_go h, hk]
  · rw [exec_arvx, execArvx, fireSide_go h, hk]

end

/-- Settles O19: each word by what it does once it may fire, with its barrier slot bound or not. -/
theorem barrierAndTimelineWords : Obligations.BarrierAndTimelineWords := by
  intro s p eng ctx bs ta l r
  refine ⟨exec_yield_fires, exec_tlrd_sends 31 ctx ta, fun h hne => ?_, fun k hk => ?_, barrierWords_unbound ta⟩
  · rw [exec_tlrd_sends eng ctx ta h, if_neg hne]
  · exact ⟨exec_tbp_same ta hk, exec_tbp_moved ta hk, fun h => ⟨exec_arv_resolves hk h, exec_arvx_resolves hk h⟩,
      exec_expt_asks hk, exec_expt_overflows hk⟩

end Sys2Proof.Machine

/-! # Loads and stores at their homes and back, releases, replies, waits, expectations and page walks (spec/06 R137, R142, R146,
spec/15 R295 to R305, spec/16 R338, R347, spec/23 R452). -/

namespace Sys2Proof.Machine

/-! ## Loads -/

section
variable {s : State} {core f i : Nat} {l : LoadRec} (hl : (s.frame core f).loadAt i = some l)
include hl

/-- A load of a structure word that nothing has written waits at its tile, where the tile has room. -/
theorem loadAtHome_defers {a : Nat} (hstage : l.stage = 0) (hwalk : l.walk = false) (hplace : l.place = .home a)
    (hstruct : l.struct = true) (hw : s.structWritten a = false)
    (hnew : s.mem.defer.contains { addr := a, core := core, frame := f, slot := i } = false) (hroom : s.deferredIn a < 1024) :
    s.loadAtHome core f i =
      s.onMem (fun m => { m with defer := m.defer ++ [{ addr := a, core := core, frame := f, slot := i }] }) := by
  simp only [State.loadAtHome, hl, hstage, hwalk, hplace, hstruct, hw, hnew, ge_iff_le, Nat.not_le.mpr hroom, bne_self_eq_false,
    Bool.or_self, Bool.false_eq_true, if_false, Bool.not_false, Bool.and_self, if_true, decide_false]

theorem loadAtHome_performs {a : Nat} (hstage : l.stage = 0) (hwalk : l.walk = false) (hplace : l.place = .home a)
    (hw : l.struct = false ∨ s.structWritten a = true) (hp : (s.line a).poison = false) :
    s.loadAtHome core f i = s.performLoad core f l a := by
  have hread : (l.struct && !s.structWritten a) = false := by
    rcases hw with hs | hs <;> simp [hs]
  simp only [State.loadAtHome, hl, hstage, hwalk, hplace, hread, hp, bne_self_eq_false, Bool.or_self, Bool.false_eq_true, if_false]

variable (hwalk : l.walk = false)
include hwalk

theorem loadReturn_performed (hstage : l.stage = 1) (hue : l.ue = false) :
    s.loadReturn core f i = s.returnLoad core f l := by
  simp [State.loadReturn, hl, hwalk, hstage, hue]

variable (hstage : l.stage = 0) (hmaj : l.majOp = 0)
include hstage hmaj

/-- A load whose bytes the strand's own stores all hold takes them from there (R143). -/
theorem loadReturn_forwards (hown : ownAll (s.storesBefore core f l.lsid) l.place l.n = true) :
    s.loadReturn core f i = s.returnLoad core f
      { l with v := BitVec.ofNat 64 (overlay (s.storesBefore core f l.lsid) l.place l.n 0), fwd := true } := by
  simp [State.loadReturn, hl, hwalk, hstage, hmaj, hown]

/-- A load that a version in its core's lease cache answers returns the version's bytes under the strand's own stores (R298). -/
theorem loadReturn_hits {v : Version} (hown : ownAll (s.storesBefore core f l.lsid) l.place l.n = false)
    (hhbm : placeIsHbm l.place = true)
    (hv : s.leaseFind core (placeLine l.place) (s.strand (s.frame core f).sid).pts = some v) :
    s.loadReturn core f i = s.returnLoad core f { l with
      wts := v.wts, rts := v.rts
      v := BitVec.ofNat 64 (overlay (s.storesBefore core f l.lsid) l.place l.n
        (leNatFrom v.bytes (placeOff l.place) l.n)) } := by
  simp [State.loadReturn, State.loadHit, hl, hwalk, hstage, hmaj, hown, hhbm, hv]

end

/-! ## Stores -/

/-- Where a strand's context alone holds released work, a step that it allows is the one taken. -/
theorem firstHolder_ctx {s t : State} {sid : Nat} {f : Holder → Option State} (hh : s.holders sid = [.ctx])
    (ht : f .ctx = some t) : s.firstHolder sid f = t := by
  simp [State.firstHolder, hh, ht]

theorem writeBytes_majOps (bs : List Byte) (s : State) (a : Nat) : (s.writeBytes a bs).mem.majOps = s.mem.majOps := by
  induction bs generalizing s a with
  | nil => rfl
  | cons b bs ih => exact ih (s.setByte a b) (a + 1)

theorem homeWrite_majOp (s : State) (a : Nat) (bs : List Byte) (p wid k : Nat) :
    (s.homeWrite a bs p wid).2.majOp k = s.majOp k :=
  congrArg (fun t => tget t k) (writeBytes_majOps bs s a)

theorem majLost_unused {s : State} {k : Nat} (h : (s.majOp k).used = false) : s.majLost k = s := by
  simp [State.majLost, h]

/-- A store to plain memory at its home is sent with the timestamp that the home gives it (R296). -/
theorem performStore_home {s : State} {r : StoreRec} {a : Nat} (who : Owner) (p : Nat) (hplace : r.place = .home a)
    (hstruct : r.struct = false) :
    s.performStore who p r = ({ r with sent := true, ack := (s.homeWrite a (leBytes r.n r.v.toNat) p (sidAgent who.sid)).1 },
      (s.homeWrite a (leBytes r.n r.v.toNat) p (sidAgent who.sid)).2) := by
  simp only [State.performStore, hplace, hstruct, Bool.false_eq_true, if_false]

section
variable {s : State} {sid n : Nat} {r : StoreRec} (hh : s.holders sid = [.ctx])
  (hfirst : firstStoreIdx (s.strand sid).out 0 = some (n, r)) (hop : r.op = 0)
include hh hfirst hop

theorem storeAtHome_writes {a : Nat} (hsent : r.sent = false) (hplace : r.place = .home a) (hstruct : r.struct = false)
    (hmaj : (s.majOp 0).used = false) :
    let w := s.homeWrite a (leBytes r.n r.v.toNat) (s.strand sid).pts (sidAgent (s.strand sid).who.sid)
    s.storeAtHome sid =
      w.2.modStrand sid (fun y => { y with out := listSet y.out n (.store { r with sent := true, ack := w.1 }) }) := by
  intro w
  have hunused (g : Strand → Strand) : ((w.2.modStrand sid g).majOp 0).used = false := by
    show (w.2.majOp 0).used = false
    rw [homeWrite_majOp, hmaj]
  refine firstHolder_ctx hh ?_
  simp only [State.heldBy, hfirst, hsent, State.majBusy, hplace, performStore_home _ _ hplace hstruct, hop, Bool.or_self,
    Bool.false_eq_true, if_false, State.onHolder]
  rw [majLost_unused (hunused _)]

theorem storeAcked_counts (hsent : r.sent = true) :
    s.storeAcked sid = ((s.modStrand sid (fun y => { y with
      pts := max y.pts r.ack, stc := y.stc - 1, out := listDrop y.out n })).storeFill (s.strand sid).who.core r r.ack).countDown
        (s.strand sid).who r.ack := by
  refine firstHolder_ctx hh ?_
  simp only [State.heldBy, hfirst, hsent, hop, bne_self_eq_false, Bool.not_true, Bool.false_and, Bool.or_self, Bool.false_eq_true,
    if_false, State.onHolder, State.tidyGhost]

end

/-! ## Releases and replies -/

/-- A release with nothing before it is free to take effect, an SWR among them. -/
theorem inOrder_first (r : Release) (xs : List OutItem) : inOrder (freeReleases (.rel r :: xs) 0) (0, r) = true := by
  cases r <;> simp [inOrder]

section
variable {s : State} {sid : Nat} (hh : s.holders sid = [.ctx])
include hh

theorem releaseTakeEffect_first {r : Release} {rest : List OutItem} {s1 : State} (hout : (s.strand sid).out = .rel r :: rest)
    (hrel : (s.modStrand sid (fun y => { y with out := rest })).relEffect (s.strand sid).who (s.strand sid).pts .ctx r = .done s1) :
    s.releaseTakeEffect sid = s1 := by
  have hdrop : s.onHolder sid .ctx (fun y => { y with out := listDrop y.out 0 }) =
      s.modStrand sid (fun y => { y with out := rest }) := by
    simp [State.onHolder, hout, listDrop]
  refine firstHolder_ctx hh ?_
  have hfree : (freeReleases (.rel r :: rest) 0).filter (inOrder (freeReleases (.rel r :: rest) 0)) =
      (0, r) :: (freeReleases rest 1).filter (inOrder (freeReleases (.rel r :: rest) 0)) :=
    List.filter_cons_of_pos (inOrder_first r rest)
  simp only [State.releaseFrom, State.heldBy, hout, hfree, List.findSome?_cons, hdrop, hrel, State.tidyGhost]

theorem atomReply_first {g : Nat} {v : Word} {t no : Nat} {rest : List (Nat × Word × Nat × Nat)}
    (hr : (s.strand sid).replies = (g, v, t, no) :: rest) :
    s.atomReply sid = (s.modStrand sid (fun y => { y with
      regs := tset y.regs g v, pts := max y.pts t, stc := y.stc - 1, replies := rest
      atoms := y.atoms.filter (fun a => !(a.1 == g && a.2 == no)) })).opEnd (s.strand sid).who t := by
  refine firstHolder_ctx hh ?_
  simp only [State.heldBy, hr, State.onHolder]

end

/-! ## Waits -/

/-- A pending wait whose condition holds ends: its token goes out and the strand's timestamp is raised. -/
theorem waitMet_done {s s1 : State} {core f i t : Nat} {w : Wait} {v : Word}
    (hw : (s.frame core f).waits.find? (fun y => y.1 == i) = some (i, w)) (hold : w.counted = true → s.isOldest core f = true)
    (hlook : s.waitLook (s.frame core f).sid w = .done v t s1) :
    s.waitMet core f i = (s1.modFrame core f (fun g =>
      ({ g with waits := g.waits.filter (fun y => y.1 != i) }).send (.val v) (loadTargets (g.slot i)))).raisePts
        (s.frame core f).sid t := by
  have hturn : (w.counted && !s.isOldest core f) = false := by
    cases hc : w.counted
    · rfl
    · simp [hold hc]
  simp only [State.waitMet, hw, hturn, hlook, Bool.false_eq_true, if_false]
  rfl

section
variable {s : State} {sid : Nat}

theorem waitLook_counts {a b c d : Nat} (ha : (s.strand sid).ldc ≤ a) (hb : (s.strand sid).stc ≤ b) (hc : (s.strand sid).cpc ≤ c)
    (hd : (s.strand sid).tlc ≤ d) : s.waitLook sid (.counts a b c d) = .done 0 0 s := by
  simp [State.waitLook, ha, hb, hc, hd]

theorem waitLook_timeline {e c : Nat} {n : Word} (hn : n.toNat ≤ (s.timeline (s.timelineKey sid e c)).tl) :
    s.waitLook sid (.timeline e c n) = .done (BitVec.ofNat 64 (s.timeline (s.timelineKey sid e c)).tl)
      ((s.timeline (s.timelineKey sid e c)).ctsOf n.toNat) s := by
  simp only [State.waitLook, if_pos hn]

theorem waitLook_barrier {k p : Nat} (h : (s.barrier k).complete p = true ∨ (s.barrier k).brk = true) :
    s.waitLook sid (.barrier k p) = .done (BitVec.ofNat 64 p ||| brkBit (s.barrier k)) (s.barrier k).cstamp s := by
  have hend : ((s.barrier k).complete p || (s.barrier k).brk) = true := by simpa using h
  simp only [State.waitLook, hend, if_true]

theorem waitLook_fence (h : (s.strand sid).ops = 0) :
    s.waitLook sid (.fence true false) = .done 0 (s.strand sid).fencets s := by
  simp [State.waitLook, h]

theorem waitLook_word {cmp : Cmp} {v : Word} {a r t : Nat} {s1 : State} (hs : s.isStruct a = false)
    (hread : s.engRead (s.partOfCluster (sidCluster sid)) (.home a) 8 (s.strand sid).pts = .ok (r, t, s1))
    (hcmp : cmpHolds cmp (BitVec.ofNat 64 r) v = true) :
    s.waitLook sid (.word (.home a) cmp v) = .done (BitVec.ofNat 64 r) (s1.line a).wts s1 := by
  simp only [State.waitLook, hs, hread, hcmp, Bool.false_and, Bool.false_eq_true, if_false, if_true]

end

/-! ## Expectations -/

section
variable {s : State} {core f i k : Nat} {pr : Pr} {bs : BitVec 5} (hu : (s.frame core f).used = true)
  (ha : (s.frame core f).asks.contains i = true) (hi : slotInstr ((s.frame core f).slot i) = some (.expt pr bs))
  (hk : s.barSlot (s.frame core f).sid bs.toNat = some k)
include hu ha hi hk

/-- A broken barrier reserves nothing and the expectation resolves without effect. -/
theorem expectAnswer_broken (hb : (s.barrier k).brk = true) :
    s.expectAnswer core f i = s.modFrame core f (fun g =>
      { g with asks := g.asks.filter (fun j => j != i), fx := g.fx ++ [(i, .null)] }) := by
  simp only [State.expectAnswer, hu, ha, hi, hk, hb, Bool.not_true, Bool.or_self, Bool.false_eq_true, if_false, if_true]

theorem expectAnswer_reserves (hb : (s.barrier k).brk = false)
    (hn : (s.barrier k).pend + (s.barrier k).resv + (tokVal ((s.frame core f).slot i).left).toNat ≤ 2 ^ 20 - 1) :
    s.expectAnswer core f i =
      let n := (tokVal ((s.frame core f).slot i).left).toNat
      (s.modBarrier k (fun b => { b with resv := b.resv + n })).modFrame core f (fun g => { g with
        asks := g.asks.filter (fun j => j != i), fx := g.fx ++ [(i, .expect k n)], resv := g.resv ++ [(i, k, n)] }) := by
  simp only [State.expectAnswer, hu, ha, hi, hk, hb, gt_iff_lt, Int.not_lt.mpr hn, Bool.not_true, Bool.or_self,
    Bool.false_eq_true, if_false]

theorem expectAnswer_overflows (hb : (s.barrier k).brk = false)
    (hn : 2 ^ 20 - 1 < (s.barrier k).pend + (s.barrier k).resv + (tokVal ((s.frame core f).slot i).left).toNat) :
    s.expectAnswer core f i = s.modFrame core f (fun g =>
      ({ g with asks := g.asks.filter (fun j => j != i) }).hold { cause := causeExpectOvf, slot := some i }) := by
  simp only [State.expectAnswer, hu, ha, hi, hk, hb, gt_iff_lt, hn, Bool.not_true, Bool.or_self, Bool.false_eq_true, if_false,
    if_true]

end

/-! ## Page walks -/

/-- A walk ends: no walk of its quarter is left, and its leaf of 2^b bytes is cached. -/
def State.lastWalkEnded (s : State) (q : Nat) (w : Walk) (b : Nat) (leaf : Word) : State :=
  s.onAcc (fun a => { a with
    walks := tset a.walks q []
    tlb := tset a.tlb q ({ asid := w.asid, base := w.va / 2 ^ b, bits := b, leaf := leaf } :: tget a.tlb q) })

/-- The only walk of a quarter covers its own miss, and answers it with the leaf's place. -/
theorem walkDone_single {s : State} {q b : Nat} {w : Walk} {leaf : Word} {pl : Place} (hw : tget s.acc.walks q = [w])
    (hleaf : s.walk (s.partOf q) w.asid w.va = some (b, leaf))
    (hacc : (s.lastWalkEnded q w b leaf).leafAccess (s.partOf q) b w.va leaf w.write false = .ok pl) :
    s.walkDone q 0 = (s.lastWalkEnded q w b leaf).walkAnswer w (.ok pl) := by
  have hended : s.onAcc (fun a => { a with
      walks := tset a.walks q ((tget a.walks q).filter (fun x => !(x.asid == w.asid && x.va / 2 ^ b == w.va / 2 ^ b)))
      tlb := tset a.tlb q ({ asid := w.asid, base := w.va / 2 ^ b, bits := b, leaf := leaf } :: tget a.tlb q) }) =
      s.lastWalkEnded q w b leaf := by
    simp [State.onAcc, State.lastWalkEnded, hw]
  simp only [State.walkDone, hw, List.getElem?_cons_zero, hleaf, hended]
  simp [hacc]

/-- Settles O40: each event's conditions select its branch. -/
theorem memoryEvents : Obligations.MemoryEvents := by
  intro s core f i sid fr x
  refine ⟨fun l a hl hstage hwalk hplace => ⟨?_, ?_⟩, fun l hl hwalk => ⟨?_, ?_, ?_⟩, fun hh n r hfirst hop => ⟨?_, ?_⟩,
    fun hh => ⟨?_, ?_⟩, ?_, ?_, ?_⟩
  · intro hstruct hw hnew hroom
    rw [exec_homeRead, execHomeRead, loadAtHome_defers hl hstage hwalk hplace hstruct hw hnew hroom]
  · intro hw hp
    rw [exec_homeRead, execHomeRead, loadAtHome_performs hl hstage hwalk hplace hw hp]
  · intro hstage hue
    rw [exec_loadReturn, execLoadReturn, loadReturn_performed hl hwalk hstage hue]
  · intro hstage hmaj hown
    rw [exec_loadReturn, execLoadReturn, loadReturn_forwards hl hwalk hstage hmaj hown]
  · intro v hstage hmaj hown hhbm hv
    rw [exec_loadReturn, execLoadReturn, loadReturn_hits hl hwalk hstage hmaj hown hhbm hv]
  · intro a hsent hplace hstruct hmaj
    exact congrArg Host.Outcome.next (storeAtHome_writes hh hfirst hop hsent hplace hstruct hmaj)
  · intro hsent
    rw [exec_storeAck, execStoreAck, storeAcked_counts hh hfirst hop hsent]
  · intro r rest s1 hout hrel
    rw [exec_releaseTakeEffect, execReleaseTakeEffect, releaseTakeEffect_first hh hout hrel]
  · intro g v t no rest hr
    rw [exec_atomReply, execAtomReply, atomReply_first hh hr]
  · intro w hw hold go y
    have ends {s1 : State} {v : Word} {t : Nat} (hlook : s.waitLook fr.sid w = .done v t s1) : go s1 v t :=
      congrArg Host.Outcome.next (waitMet_done hw hold hlook)
    refine ⟨?_, ?_, ?_, ?_, ?_⟩
    · rintro a b c d rfl ha hb hc hd
      exact ends (waitLook_counts ha hb hc hd)
    · rintro e c n rfl t hn
      exact ends (waitLook_timeline hn)
    · rintro k p rfl b hb
      exact ends (waitLook_barrier hb)
    · rintro rfl hops
      exact ends (waitLook_fence hops)
    · rintro cmp v a r t s1 rfl hs hread hcmp
      exact ends (waitLook_word hs hread hcmp)
  · intro pr bs k hu ha hi hk n done
    exact ⟨fun hb => congrArg Host.Outcome.next (expectAnswer_broken hu ha hi hk hb),
      fun hb hn => congrArg Host.Outcome.next (expectAnswer_reserves hu ha hi hk hb hn),
      fun hb hn => congrArg Host.Outcome.next (expectAnswer_overflows hu ha hi hk hb hn)⟩
  · intro q w b leaf pl hw hleaf s1 hacc
    exact congrArg Host.Outcome.next (walkDone_single hw hleaf hacc)

end Sys2Proof.Machine

/-! # Engines complete drains, images, transfers, kennel jobs, placements, stream cells and copies (spec/06 R150 to R159,
spec/12 R256 to R260, spec/18 R369, spec/20 R397, R410). -/

namespace Sys2Proof.Machine

/-! ## Matrix contexts -/

section
variable {s : State} {cl me ctx : Nat}

theorem exec_mdrnComplete_ends (hd : (s.matCtx (matKey cl me ctx)).drainOp.isSome = true)
    (hn : (s.matCtx (matKey cl me ctx)).drains = 0) :
    exec (.mdrnComplete cl me ctx) s =
      let x := s.matCtx (matKey cl me ctx)
      .next (((s.modOpen (matKey cl me ctx) (fun o => { o with stamp := max o.stamp x.dcts })).matFinish cl me ctx x.dstat).modMat
        (matKey cl me ctx) (fun y => { y with drainOp := none })) := by
  simp [execMdrnComplete, Option.isNone_eq_false_iff.mpr hd, hn]

theorem exec_msaveComplete_parks {m : MCell} (hm : (s.matCtx (matKey cl me ctx)).saving = some m)
    (hn : (s.matCtx (matKey cl me ctx)).saves = 0) :
    exec (.msaveComplete cl me ctx) s =
      let x := s.matCtx (matKey cl me ctx)
      .next (((s.modMat (matKey cl me ctx) (fun y => { y with saving := none, parked := true })).postMat (matKey cl me ctx) x.sstat
        m.cell.itag.toNat).cellEnd cl m 0 (max m.stamp x.scts)) := by
  simp only [exec_msaveComplete, execMsaveComplete, hm, hn, bne_self_eq_false, Bool.false_eq_true, if_false]

/-- A load whose AGN passes its check, and whose image reads as one, restores the context from it. -/
theorem mloadDone_restores {m : MCell} {ag : Nat} {hd ps : List (BitVec 1024)} {t0 t1 : Nat} {h : ImageHead} {s1 s2 : State}
    (hm : (s.matCtx (matKey cl me ctx)).loading = some m) (hgo : s.gate m.who.job (waiterCell m) = .go)
    (hag : s.imageAgn cl m = some ag) {a : Agn} (ha : s.agn (agnKey cl m.cell.ctx.toNat ag) = a)
    (hck : s.agnCheck cl (agnRec a.words) .cells = 0)
    (hread : s.readImage cl m.who.job a m.cell (s.startStamp (engCtx cl me ctx) m.stamp) 0 1 = .ok (hd, t0, s1))
    (hhead : imageHead (hd.headD 0) = some h)
    (hrest : s1.readImage cl m.who.job a m.cell (s.startStamp (engCtx cl me ctx) m.stamp) 1 h.cells = .ok (ps, t1, s2)) :
    s.mloadDone cl me ctx = (s2.matRestore cl me ctx m h ps (max t0 t1)).cellEnd cl m 0 (max t0 t1) := by
  simp only [State.mloadDone, hm, hgo, hag, ha, hck, hread, hhead, hrest, bne_self_eq_false, Bool.false_eq_true, if_false]

end

/-! ## Transfers -/

/-- The cells that move bytes to their remote side. -/
def xferOut (c : Cell) : Bool := c.cop == 0x301 || c.cop == 0x303

/-- The side that a transfer within the device reads. -/
def State.xferSrc (s : State) (cl : Nat) (m : MCell) : XferSide :=
  if xferOut m.cell then s.localSide cl m false else s.remoteSide cl m false

/-- The side that a transfer within the device writes. -/
def State.xferDst (s : State) (cl : Nat) (m : MCell) : XferSide :=
  if xferOut m.cell then s.remoteSide cl m true else s.localSide cl m true

section
variable {s : State} {cl xf n : Nat} {m : MCell}

/-- A new transfer within the device moves its bytes from one side to the other. -/
theorem xferGo_moves {no : Nat} (k : Nat) (hc : m.cell.cop ∈ [0x300, 0x301, 0x302, 0x303]) :
    s.xferGo k cl xf { used := true, cell := m, num := no } =
      s.xferMove k cl xf (s.startStamp (xferTime cl xf m) m.stamp) m (s.xferSrc cl m) (s.xferDst cl m) (xferOut m.cell) := by
  simp only [List.mem_cons, List.not_mem_nil, or_false] at hc
  rcases hc with hc | hc | hc | hc <;> simp [State.xferGo, State.xferSrc, State.xferDst, xferOut, isXnet, hc]

theorem xferStep_goes {o : XferOp} (ho : s.xferOp (xferKey cl xf n) = o) (hu : o.used = true)
    (hgo : s.gate o.cell.who.job (waiterXfer (xferKey cl xf n)) = .go) :
    s.xferStep cl xf n = s.xferGo (xferKey cl xf n) cl xf o := by
  simp only [State.xferStep, ho, hu, hgo, Bool.not_true, Bool.false_eq_true, if_false]

/-- Both sides in place, the read's data are written and the transfer's accesses are over. -/
theorem xferMove_done {src dst : XferSide} {ss ds : List (Place × Nat)} {k p v t w : Nat} {s1 s3 : State} (out : Bool)
    (hss : src.span = .places ss) (hds : dst.span = .places ds)
    (hread : s.readSpan (s.partOfCluster cl) p src.span = .got v t s1)
    (hwrite : (s1.sideFill m.who.job src (bitOf m.cell.pay.toNat 193)).writePieces (s.partOfCluster cl) p m.agent ds v =
      .ok (w, s3)) :
    s.xferMove k cl xf p m src dst out = (s3.sideFill m.who.job dst (bitOf m.cell.pay.toNat 192)).xferDone k cl xf 0
      (if out then t else w) (max t w) (xferLen m.cell) := by
  rw [hss] at hread
  simp only [State.xferMove, hss, hds, hread, hwrite]

end

/-! ## Kennel jobs -/

section
variable {s : State} {q i : Nat} {j : KJob} {js : List KJob}

/-- The first job of an awake engine that nothing holds back runs. -/
theorem kStep_runs (hj : (s.kEngine q i).jobs = j :: js) (hst : 3 ≤ (s.kEngine q i).state) (hstat : j.stat = 0)
    (hfin : j.fin = none) (hgo : s.gate j.cell.who.job (waiterCell j.cell) = .go) : s.kStep q i = s.kRun q i j := by
  simp only [State.kStep, hj, Nat.not_lt.mpr hst, hstat, hfin, hgo, bne_self_eq_false, Bool.false_eq_true, if_false]

/-- A job whose reads and writes succeed goes on to its done word with the status of its work. -/
theorem kRun_finishes {w : KWork} {v v' t u : Nat} {s1 s2 : State}
    (hw : kWork (s.kView q j.cell.who.job) s.freshAt (cellPacket j.cell) = w)
    (hread : (s.freshUp w.frees).kReads q j.cell.who.job (kStart s j) w.reads = .got v t s1)
    (hwrite : s1.kWrites q j.cell.who.job (kStart s j) j.cell.agent w.writes = .got v' u s2) :
    s.kRun q i j = s2.kFinish q i j w.status (max (kStart s j) u) (max t u) := by
  simp only [State.kRun, hw, hread, hwrite]

end

/-! ## Placements -/

section
variable {s : State} {job g i : Nat} (howe : (s.coll job g i).owe = none) (hl : (s.graph job g).live = true)
  (hi : thas (s.graph job g).colls i = true) (hp : (s.coll job g i).placed = false) (hd : (s.coll job g i).doneW = false)
  (ha : (s.coll job g i).aborted = false)
include howe hl hi hp hd ha

/-- Placement is granted where every rank grants it and this device has the room; otherwise it is refused. -/
theorem collPlace_decides (others : Bool) {k : Nat} (hk : s.slotCluster (s.collCluster job g i) = k) {need : Nat × Nat}
    (hn : collNeeds (s.coll job g i).record = need) :
    s.collPlace job g i others =
      if (tget s.lnk.slots k + need.1 ≤ slotsPerBox ∧ tget s.lnk.gates northDie + need.2 ≤ nodesPerGateway) ∧ others = true then
        (s.onLnk (fun l => { l with
          slots := if need.1 = 0 then l.slots else tset l.slots k (tget l.slots k + need.1)
          gates := if need.2 = 0 then l.gates else tset l.gates northDie (tget l.gates northDie + need.2) })).modColl job g i
            (fun y => { y with placed := true, slots := if need.1 = 0 then [] else [k], gates := need.2 })
      else s.collDone job g i 0x71 := by
  simp [State.collPlace, howe, hl, hi, hp, hd, ha, hk, hn]

end

/-! ## Streams -/

section
variable {s : State} {key : Nat} {st : Stream} (hst : (s.agn key).stream = some st) (hstop : st.stopped = false)
  (hhurt : st.hurt = false) (hout : (s.agn key).cellOut = none) (hret : s.retained (agnCl key) = false)
  (hgo : s.gate st.who.job (waiterStream key) = .go)
include hst hstop hhurt hout hret hgo

theorem streamCell_ends (hnext : s.streamNext (agnRec (s.agn key).words) st = none) (hend : st.pers = false ∨ st.ended = true) :
    s.streamCell key = s.streamEnd key st 0 := by
  have hover : (!st.pers || st.ended) = true := by simpa using hend
  simp only [State.streamCell, hst, hstop, hhurt, hout, hret, hgo, hnext, hover, Option.isSome_none, Bool.or_self,
    Bool.false_eq_true, if_false, if_true]

theorem streamCell_reads {y : NextCell} (hnext : s.streamNext (agnRec (s.agn key).words) st = some y) :
    s.streamCell key = s.streamRead key st y := by
  simp only [State.streamCell, hst, hstop, hhurt, hout, hret, hgo, hnext, Option.isSome_none, Bool.or_self, Bool.false_eq_true,
    if_false]

end

/-- The elements that the next cell of a stream carries, by their positions in the payload. -/
def NextCell.elems (y : NextCell) (perCell : Nat) : List (Option Nat) :=
  (List.range perCell).map (fun j => if j < y.n then some (y.first + j) else none)

/-- A cell's values, and with a presence mask for its sidecar (R81) which of them are there. -/
def carryElems (h : Cell) (ebits : Nat) (vs : List Nat) (os : List (Option Nat)) : Cell :=
  if h.side = 63 then { h with pay := packElems ebits vs, car := presentCar os } else { h with pay := packElems ebits vs }

/-- What a stream's completion is reported to: its strand's token, or the AGN. -/
def Stream.report (st : Stream) (key : Nat) : Report :=
  match st.tk with
  | some t => .stream t
  | none => .streamNode key

/-- The AGN keeps a stream's cell, read at t, for its admission. -/
def State.keepCell (s : State) (key : Nat) (st : Stream) (c : Cell) (t : Nat) : State :=
  (s.modAgn key (fun z => { z with stamp := max z.stamp t, cellOut := some {
    cell := c.seal, stamp := t, agent := sidAgent st.who.sid, who := st.who, age := s.tickNo, report := st.report key } })).tickUp

/-- The sidecar of a stream's cell is a presence mask, or there is none: no headers are read. -/
theorem streamRead_keeps {s s1 : State} {key : Nat} {st : Stream} {y : NextCell} {vs : List Nat} {g : Got}
    {hit : List (Place × Nat)} {a : Agn} (ha : s.agn key = a) {r : AgnRec} (hr : agnRec a.words = r) {h : Cell}
    (hh : s.streamHead key r st y = h) (hok : s.cellOk (agnCl key) st.who.job h = true) (hdev : deviceOnly h = false)
    (hside : h.side = 0 ∨ h.side = 63)
    (hread : s.readElems (agnCl key) (if st.tk.isSome then st.who.core else a.core) st.who.job (h.cop.toNat / 128) r []
      (max st.stamp a.stamp) (y.elems r.perCell) = .ok (vs, g, hit, s1)) :
    s.streamRead key st y = s1.keepCell key st (carryElems h r.ebits vs (y.elems r.perCell)) g.t := by
  unfold NextCell.elems at hread ⊢
  rcases hside with hs | hs <;>
    simp only [State.streamRead, ha, hr, hh, hok, hdev, hread, hs, carryElems] <;> rfl

/-! ## Copies -/

/-- A copy within the device whose data have been read writes them. -/
theorem copyStep_puts {s s1 : State} {cl n v t : Nat} {o : CopyOp} (ho : s.copyOp (copyKey cl n) = o) (hu : o.used = true)
    (hhurt : o.hurt = false) (hgo : s.gate o.who.job (waiterCopy (copyKey cl n)) = .go) (hkind : o.c.kind < 3)
    (hstat : o.status = 0) (hdata : s.copyData cl o = .got v t s1) :
    s.copyStep cl n = s1.copyPut (copyKey cl n) cl o v t := by
  have h3 : o.c.kind ≠ 3 := by omega
  have h4 : o.c.kind ≠ 4 := by omega
  simp only [State.copyStep, ho, hu, hhurt, hgo, h3, h4, hstat, hdata, Bool.not_true, Bool.or_self, bne_self_eq_false,
    Bool.false_eq_true, if_false]

/-- Settles O43: each completion's conditions select its branch. -/
theorem engineEvents : Obligations.EngineEvents := by
  intro s cl me ctx n k x
  refine ⟨exec_mdrnComplete_ends, fun m => exec_msaveComplete_parks, ?_, ?_, ?_, ?_, ?_, ?_⟩
  · intro m ag hd t0 s1 h ps t1 s2 hm hgo hag a p hck hread hhead hrest
    rw [exec_mloadComplete, execMloadComplete, mloadDone_restores hm hgo hag rfl hck hread hhead hrest]
  · intro xf m no ss ds v t s1 w s3 key out src dst p ho hc hgo hss hds hread hwrite
    rw [exec_transferComplete, execTransferComplete, xferStep_goes ho rfl hgo, xferGo_moves _ hc]
    exact congrArg Host.Outcome.next (xferMove_done out hss hds hread hwrite)
  · intro q i j js hj hst hstat hfin hgo job p w t s1 u s2 hread hwrite
    rw [exec_kennelJobComplete, execKennelJobComplete, kStep_runs hj hst hstat hfin hgo, kRun_finishes rfl hread hwrite]
    rfl
  · intro job g i c b need howe hl hi hp hd ha
    have hplace (others : Bool) := collPlace_decides howe hl hi hp hd ha others rfl rfl
    refine ⟨fun hslots hgates => ?_, ?_⟩
    · rw [exec_collPlace, execCollPlace, hplace, if_pos ⟨⟨hslots, hgates⟩, rfl⟩]
      rfl
    · rw [exec_collPlace, execCollPlace, hplace, if_neg (fun h => Bool.false_ne_true h.2)]
  · intro key st a r c hst hstop hhurt hout hret hgo
    refine ⟨fun hnext hend => ?_, ?_⟩
    · rw [exec_streamCell, execStreamCell, streamCell_ends hst hstop hhurt hout hret hgo hnext hend]
    · intro y vs g hit s1 hnext h os out hok hdev hside hread
      rw [exec_streamCell, execStreamCell, streamCell_reads hst hstop hhurt hout hret hgo hnext,
        streamRead_keeps rfl rfl rfl hok hdev hside hread]
      rfl
  · intro key o v t s1 hu hhurt hgo hkind hstat hdata
    rw [exec_copyComplete, execCopyComplete, copyStep_puts rfl hu hhurt hgo hkind hstat hdata]

end Sys2Proof.Machine

/-! # Firings of a vector engine, elementwise (spec/07 R172 to R175, R183). -/

namespace Sys2Proof.Machine

/-! ## A firing takes place -/

section
variable {s s2 : State} {cl e cop : Nat} {f : Firing}

theorem vecNext_cop (hnext : s.vecNext s2 cl e cop f) : f.cop = cop := by
  obtain ⟨-, -, hcop, -, -⟩ := hnext
  exact hcop

/-- The next firing finds a stall for each part of its operands, so nothing is passed over. -/
theorem vecStep_fires (hnext : s.vecNext s2 cl e cop f) :
    s.vecStep cl e cop = State.vecFire s (s2.clearShort cl e f.newestCell) cl e f := by
  obtain ⟨hwait, ⟨rest, hfirst⟩, hcop, -, hsplit⟩ := hnext
  simp only [State.vecStep, hwait, hfirst, hsplit, hcop, List.takeWhile_cons, Option.isNone_some, List.filter_nil,
    List.foldl_nil, List.length_nil, List.drop_zero, bne_self_eq_false, Bool.false_eq_true, if_false]

/-- A firing that computes a result, on a route that takes its cell, sends it. -/
theorem vecStep_sends {rt : Route} {r : VecOut} {t : Nat} {st : State} (hnext : s.vecNext s2 cl e cop f)
    (hrt : rt = s.route cl e f.lead.cell.ctx.toNat (f.lead.cell.aux.toNat / 4096))
    (hout : (s2.vecFrom cl e f).vecCompute cl e f rt (s.vecStart cl e f) = .out (some r) t [] 0 st)
    (hfits : st.vecFits cl f rt r) : s.vecStep cl e cop = s.vecSend s2 st cl e f rt r t := by
  rw [vecStep_fires hnext]
  obtain ⟨-, -, -, hgo, -⟩ := hnext
  obtain ⟨hok, hlen⟩ := hfits
  subst hrt
  simp only [State.vecFrom, State.vecStart, vecCell] at hout hok
  simp only [State.vecFire, hgo, hout, hok, Nat.not_lt.mpr hlen, List.foldl_nil, bne_self_eq_false, Bool.not_true,
    decide_false, Bool.or_self, Bool.false_eq_true, if_false]
  rfl

/-- A firing that computes no result ends at once. -/
theorem vecStep_ends {rt : Route} {t : Nat} {st : State} (hnext : s.vecNext s2 cl e cop f)
    (hrt : rt = s.route cl e f.lead.cell.ctx.toNat (f.lead.cell.aux.toNat / 4096))
    (hout : (s2.vecFrom cl e f).vecCompute cl e f rt (s.vecStart cl e f) = .out none t [] 0 st) :
    s.vecStep cl e cop = st.endNow cl (16 + e) f.lead (s.vecProd s2 cl e f rt t) := by
  rw [vecStep_fires hnext]
  obtain ⟨-, -, -, hgo, -⟩ := hnext
  subst hrt
  simp only [State.vecFrom, State.vecStart] at hout
  simp only [State.vecFire, hgo, hout, List.foldl_nil, bne_self_eq_false, Bool.false_eq_true, if_false]
  rfl

/-! ## What it computes, its modifier and its route checked -/

variable {rt : Route} {g : EFmt} {q : Rounding} {t : Nat}

/-- The rounding of a route is the firing's. -/
theorem vecRoute_rounding (hroute : s.vecRoute s2 cl e f rt g q) :
    ({ mode := (rndOf rt.rnd).getD .rne, sat := rt.sat,
       seed := tgetD 0 (s2.vecFrom cl e f).eng.seeds (engCtx cl e f.lead.cell.ctx.toNat) } : Rounding) = q := by
  obtain ⟨-, -, -, -, hrnd, hsat, hseed⟩ := hroute
  rw [hrnd, ← hsat, ← hseed]
  rfl

theorem vecCompute_routed (hroute : s.vecRoute s2 cl e f rt g q) (hmod : vecModOk f.cop f.lead.cell.cnt.toNat = true) :
    (s2.vecFrom cl e f).vecCompute cl e f rt t =
      let c := f.lead.cell
      let os := f.ops.map ((s2.vecFrom cl e f).operand f)
      if f.cop = 0x11A ∨ f.cop = 0x11B ∨ f.cop = 0x11C then
        (s2.vecFrom cl e f).vecMemory cl c.ctx.toNat rt.dagn f.lead.who.job f.cop c.cnt.toNat f.t0 (some g) q os t
      else if f.cop ≤ 0x116 then vecElementwise f.cop c.cnt.toNat f.t0 g q os t (s2.vecFrom cl e f)
      else vecAcross f.cop c.cnt.toNat f.t0 g q os t (s2.vecFrom cl e f) := by
  have hq := vecRoute_rounding hroute
  obtain ⟨-, hv, hfmt, hbits, hrnd, -, -⟩ := hroute
  simp only [State.vecCompute, hq]
  simp [hmod, hv, hfmt, hbits, hrnd, or_assoc]

/-! ## Operands and lanes -/

/-- Every operand of a firing has a lane for each of its tags. -/
theorem operand_lanes_length {st : State} {o : Operand} (ho : o ∈ f.ops.map (st.operand f)) :
    o.lanes.length = f.t1 + 1 - f.t0 := by
  obtain ⟨x, -, rfl⟩ := List.mem_map.mp ho
  simp [State.operand]

/-- An operation of integers, of floats, or of both takes a format. -/
def FitsKind (cop : Nat) (h : EFmt) : Prop :=
  (vecFloatOnly cop = false ∧ h.isInt = true) ∨ (vecIntOnly cop = false ∧ h.isFloat = true) ∨
    (vecIntOnly cop = false ∧ vecFloatOnly cop = false)

/-- What an elementwise operation asks for: its modifier, its operands' formats (all but the choice of VSEL are of one format),
and its route's format (R174). -/
structure TakesFormats (cop mod : Nat) (g h : EFmt) (os : List Operand) : Prop where
  elementwise : cop ≤ 0x116
  modifier : vecModOk cop mod = true
  same : ∀ o ∈ os.take (if cop = 0x10F then 2 else 3), o.fmt = h
  choice : cop = 0x10F → ∃ p, os[2]? = some p ∧ p.fmt.isInt = true ∧ p.fmt.bits = h.bits
  result : if cop = 0x10D ∨ cop = 0x10E then g.isInt = true else cop = 0x110 ∨ g = h
  kind : FitsKind cop h
  signed : cop = 0x10B → h.isSigned = true

/-- The elementwise operations that ask for nothing but formats of a kind. -/
def plainVec (cop : Nat) : Bool := cop ≤ 0x116 && !([0x10B, 0x10D, 0x10E, 0x10F].contains cop)

section
variable {mod : Nat} {h : EFmt} {os : List Operand} (hsame : ∀ o ∈ os.take 2, o.fmt = h)
include hsame

/-- An operation without a modifier, of at most two operands, that gives the format it takes. -/
theorem TakesFormats.ofTwo (hcop : plainVec cop = true) (htwo : mod = 0 ∧ os.length ≤ 2 ∧ g = h)
    (hkind : FitsKind cop h) : TakesFormats cop mod g h os := by
  obtain ⟨rfl, hlen, rfl⟩ := htwo
  simp only [plainVec, List.contains_eq_mem, List.mem_cons, List.not_mem_nil, or_false, Bool.and_eq_true, decide_eq_true_eq,
    Bool.not_eq_true', decide_eq_false_iff_not, not_or] at hcop
  obtain ⟨hle, habs, hcmp, hfcmp, hsel⟩ := hcop
  have hacross : cop ≠ 0x117 ∧ cop ≠ 0x118 ∧ cop ≠ 0x119 ∧ cop ≠ 0x11C ∧ cop ≠ 0x11E := by omega
  rw [List.take_of_length_le hlen] at hsame
  exact {
    elementwise := hle
    modifier := by simp [vecModOk, hcmp, hfcmp, hacross]
    same := fun o ho => hsame o (List.mem_of_mem_take ho)
    choice := fun h => absurd h hsel
    result := by simp [hcmp, hfcmp]
    kind := hkind
    signed := fun h => absurd h habs }

theorem TakesFormats.ofInts (hcop : plainVec cop = true ∧ vecFloatOnly cop = false)
    (ok : (mod = 0 ∧ os.length ≤ 2 ∧ g = h) ∧ h.isInt) : TakesFormats cop mod g h os :=
  .ofTwo hsame hcop.1 ok.1 (.inl ⟨hcop.2, ok.2⟩)

theorem TakesFormats.ofFloats (hcop : plainVec cop = true ∧ vecIntOnly cop = false)
    (ok : (mod = 0 ∧ os.length ≤ 2 ∧ g = h) ∧ h.isFloat) : TakesFormats cop mod g h os :=
  .ofTwo hsame hcop.1 ok.1 (.inr (.inl ⟨hcop.2, ok.2⟩))

theorem TakesFormats.ofBits (hcop : plainVec cop = true ∧ vecIntOnly cop = false ∧ vecFloatOnly cop = false)
    (ok : mod = 0 ∧ os.length ≤ 2 ∧ g = h) : TakesFormats cop mod g h os :=
  .ofTwo hsame hcop.1 ok (.inr (.inr hcop.2))

theorem TakesFormats.ofVabs (ok : (mod = 0 ∧ os.length ≤ 2 ∧ g = h) ∧ h.isInt ∧ h.isSigned) :
    TakesFormats 0x10B mod g h os := by
  obtain ⟨⟨rfl, hlen, rfl⟩, hint, hsigned⟩ := ok
  rw [List.take_of_length_le hlen] at hsame
  exact {
    elementwise := by decide
    modifier := rfl
    same := fun o ho => hsame o (List.mem_of_mem_take ho)
    choice := nofun
    result := .inr rfl
    kind := .inl ⟨rfl, hint⟩
    signed := fun _ => hsigned }

theorem TakesFormats.ofCompare (hcop : cop = 0x10D ∧ h.isInt = true ∨ cop = 0x10E ∧ h.isFloat = true)
    (ok : mod < 4 ∧ os.length ≤ 2 ∧ g.isInt) : TakesFormats cop mod g h os := by
  obtain ⟨hmod, hlen, hg⟩ := ok
  rw [List.take_of_length_le hlen] at hsame
  have hsome (n : Nat) : ∀ o ∈ os.take n, o.fmt = h := fun o ho => hsame o (List.mem_of_mem_take ho)
  rcases hcop with ⟨rfl, hint⟩ | ⟨rfl, hfloat⟩
  · exact ⟨by decide, by simpa [vecModOk] using hmod, hsome _, nofun, hg, .inl ⟨rfl, hint⟩, nofun⟩
  · exact ⟨by decide, by simpa [vecModOk] using hmod, hsome _, nofun, hg, .inr (.inl ⟨rfl, hfloat⟩), nofun⟩

theorem TakesFormats.ofVsel (hmod : mod = 0) (hg : g = h)
    (hchoice : ∃ p, os.drop 2 = [p] ∧ p.fmt.isInt = true ∧ p.fmt.bits = h.bits) : TakesFormats 0x10F mod g h os where
  elementwise := by decide
  modifier := by rw [hmod]; rfl
  same := hsame
  choice _ := by
    obtain ⟨p, hp, hint, hbits⟩ := hchoice
    have hthird : (os.drop 2)[0]? = os[2]? := List.getElem?_drop (i := 2) (j := 0)
    exact ⟨p, by rw [← hthird, hp]; rfl, hint, hbits⟩
  result := .inr hg
  kind := .inr (.inr ⟨rfl, rfl⟩)
  signed := nofun

theorem TakesFormats.ofVcvt (hmod : mod = 0) (hlen : os.length ≤ 2) : TakesFormats 0x110 mod g h os where
  elementwise := by decide
  modifier := by rw [hmod]; rfl
  same o ho := hsame o (by rw [List.take_of_length_le hlen]; exact List.mem_of_mem_take ho)
  choice := nofun
  result := .inl rfl
  kind := .inr (.inr ⟨rfl, rfl⟩)
  signed := nofun

end

theorem TakesFormats.ofVfma (hthree : ∀ o ∈ os.take 3, o.fmt = h) (hmod : mod = 0) (hg : g = h) (hfloat : h.isFloat = true) :
    TakesFormats 0x106 mod g h os where
  elementwise := by decide
  modifier := by rw [hmod]; rfl
  same := hthree
  choice := nofun
  result := .inr hg
  kind := .inr (.inl ⟨rfl, hfloat⟩)
  signed := nofun

/-- The formats of an elementwise operation pass its checks. -/
theorem TakesFormats.accepted {mod : Nat} {h : EFmt} {os : List Operand} (ht : TakesFormats cop mod g h os) (d : Operand) :
    (((os.take (if cop = 0x10F then 2 else 3)).all (fun o => o.fmt == h) &&
        (cop != 0x10F || ((os.getD 2 d).fmt.isInt && (os.getD 2 d).fmt.bits == h.bits))) &&
      (if cop = 0x10D || cop = 0x10E then g.isInt else cop == 0x110 || g == h) &&
      ((!vecIntOnly cop || h.isInt) && (!vecFloatOnly cop || h.isFloat) && (cop != 0x10B || h.isSigned))) = true := by
  have hsame : ((os.take (if cop = 0x10F then 2 else 3)).all (fun o => o.fmt == h)) = true := by simpa using ht.same
  have hchoice : (cop != 0x10F || ((os.getD 2 d).fmt.isInt && (os.getD 2 d).fmt.bits == h.bits)) = true := by
    by_cases hsel : cop = 0x10F
    · obtain ⟨p, hp, hint, hbits⟩ := ht.choice hsel
      simp [List.getD, hp, hint, hbits]
    · simp [hsel]
  have hresult : (if cop = 0x10D || cop = 0x10E then g.isInt else cop == 0x110 || g == h) = true := by
    simpa using ht.result
  have hsigned : (cop != 0x10B || h.isSigned) = true := by
    by_cases habs : cop = 0x10B
    · simp [ht.signed habs]
    · simp [habs]
  have hkind : ((!vecIntOnly cop || h.isInt) && (!vecFloatOnly cop || h.isFloat)) = true := by
    rcases ht.kind with ⟨hk, hfit⟩ | ⟨hk, hfit⟩ | ⟨hk, hfit⟩ <;> simp [hk, hfit]
  rw [hsame, hchoice, hresult, hkind, hsigned]
  rfl

theorem lanesOf_getD (os : List Operand) (i : Nat) : (os.getD i { fmt := g, lanes := [] }).lanes = lanesOf os i := by
  simp only [lanesOf, List.getD]
  cases os[i]? <;> rfl

/-- The lanes of an elementwise operation are its function of its operands' lanes. -/
theorem vecElementwise_lanes {mod : Nat} {h : EFmt} {os : List Operand} {st st' : State}
    (hos : os = f.ops.map (st'.operand f)) (hne : os ≠ []) (hsame : ∀ o ∈ os.take 2, o.fmt = h)
    (ht : TakesFormats cop mod g h os) :
    vecElementwise cop mod f.t0 g q os t st =
      .out (some { lanes := laneResults f os (fun tag a b c => vecLane cop h g q tag mod a b c), fmt := g, run := f.t1 - f.t0 })
        t [] 0 st := by
  obtain ⟨a, rest, hcons⟩ := List.exists_cons_of_ne_nil hne
  have hfirst (d : Operand) : os.getD 0 d = a := by rw [hcons]; rfl
  have hfmt : a.fmt = h := hsame a (by simp [hcons])
  have hlen : a.lanes.length = f.t1 + 1 - f.t0 := operand_lanes_length (hos ▸ hcons ▸ List.mem_cons_self)
  have hrun : f.t1 + 1 - f.t0 - 1 = f.t1 - f.t0 := by omega
  simp only [vecElementwise, laneResults, ← lanesOf_getD (g := g), hfirst, hfmt, ht.accepted, hlen, hrun, Bool.not_true,
    Bool.false_eq_true, if_false]

/-- The next firing of an elementwise operation, of the formats that it takes, sends its lanes. -/
theorem vecStep_elementwise {h : EFmt} {os : List Operand} {lane : Nat → Nat → Nat → Nat → Nat}
    (hroute : s.vecRoute s2 cl e f rt g q) (hos : os = f.ops.map ((s2.vecFrom cl e f).operand f)) (hne : os ≠ [])
    (hsame : ∀ o ∈ os.take 2, o.fmt = h) (ht : TakesFormats cop f.lead.cell.cnt.toNat g h os)
    (hlane : ∀ tag a b c, vecLane cop h g q tag f.lead.cell.cnt.toNat a b c = lane tag a b c)
    (hnext : s.vecNext s2 cl e cop f)
    (hfits : (s2.vecFrom cl e f).vecFits cl f rt { lanes := laneResults f os lane, fmt := g, run := f.t1 - f.t0 }) :
    s.vecStep cl e cop = s.vecSend s2 (s2.vecFrom cl e f) cl e f rt
      { lanes := laneResults f os lane, fmt := g, run := f.t1 - f.t0 } (s.vecStart cl e f) := by
  obtain rfl : lane = fun tag a b c => vecLane cop h g q tag f.lead.cell.cnt.toNat a b c := by
    funext tag a b c
    exact (hlane tag a b c).symm
  have hcop := vecNext_cop hnext
  have hle := ht.elementwise
  have hmem : ¬ (cop = 0x11A ∨ cop = 0x11B ∨ cop = 0x11C) := by omega
  refine vecStep_sends hnext hroute.1 ?_ hfits
  rw [vecCompute_routed hroute (by rw [hcop]; exact ht.modifier), hcop, if_neg hmem, if_pos hle, ← hos]
  exact vecElementwise_lanes hos hne hsame ht

end

/-- The value of a comparison of integers is the flag of its relation. -/
theorem vcmpInt_toNat {h : EFmt} {mod a b : Nat} (hmod : mod < 4) :
    (vcmpInt h mod a b).toNat = if (mod = 0 ∧ a = b) ∨ (mod = 1 ∧ a ≠ b) ∨ (mod = 2 ∧ h.intVal a < h.intVal b) ∨
      (mod = 3 ∧ h.intVal a ≤ h.intVal b) then 1 else 0 := by
  obtain rfl | rfl | rfl | rfl : mod = 0 ∨ mod = 1 ∨ mod = 2 ∨ mod = 3 := by omega
  all_goals simp [vcmpInt, Bool.toNat, Bool.cond_eq_ite]

/-- Settles O25: each operation takes the formats stated, and its lane function is one branch of `vecLane`. -/
theorem vectorElementwise : Obligations.VectorElementwise := by
  intro s s2 cl ve f rt g h q os mod hroute hos hmod hsame hne w r go two x rnd
  subst hmod
  have sends {cop : Nat} {i : Instr} {lane : Nat → Nat → Nat → Nat → Nat}
      (hexec : exec i s = .next (s.vecStep cl (4 + ve) cop))
      (hn : s.vecNext s2 cl (4 + ve) cop f) (hf : (s2.vecFrom cl (4 + ve) f).vecFits cl f rt (r lane))
      (ht : TakesFormats cop f.lead.cell.cnt.toNat g h os)
      (hlane : ∀ tag a b c, vecLane cop h g q tag f.lead.cell.cnt.toNat a b c = lane tag a b c) :
      exec i s = .next (s.vecSend s2 (s2.vecFrom cl (4 + ve) f) cl (4 + ve) f rt (r lane) (s.vecStart cl (4 + ve) f)) := by
    rw [hexec, vecStep_elementwise hroute hos hne hsame ht hlane hn hf]
  refine ⟨fun hn ok hf => sends (exec_vadd ..) hn hf (.ofInts hsame (by decide) ok) fun _ _ _ _ => rfl,
    fun hn ok hf => sends (exec_vsub ..) hn hf (.ofInts hsame (by decide) ok) fun _ _ _ _ => rfl,
    fun hn ok hf => sends (exec_vmul ..) hn hf (.ofInts hsame (by decide) ok) fun _ _ _ _ => rfl,
    fun hn ok hf => sends (exec_vfadd ..) hn hf (.ofFloats hsame (by decide) ok) fun _ _ _ _ => rfl,
    fun hn ok hf => sends (exec_vfsub ..) hn hf (.ofFloats hsame (by decide) ok) fun _ _ _ _ => rfl,
    fun hn ok hf => sends (exec_vfmul ..) hn hf (.ofFloats hsame (by decide) ok) fun _ _ _ _ => rfl,
    ?fma,
    fun hn ok hf => sends (exec_vmin ..) hn hf (.ofInts hsame (by decide) ok) fun _ _ _ _ => rfl,
    fun hn ok hf => sends (exec_vmax ..) hn hf (.ofInts hsame (by decide) ok) fun _ _ _ _ => rfl,
    fun hn ok hf => sends (exec_vfmin ..) hn hf (.ofFloats hsame (by decide) ok) fun _ _ _ _ => rfl,
    fun hn ok hf => sends (exec_vfmax ..) hn hf (.ofFloats hsame (by decide) ok) fun _ _ _ _ => rfl,
    ?abs,
    fun hn ok hf => sends (exec_vfabs ..) hn hf (.ofFloats hsame (by decide) ok) fun _ _ _ _ => rfl,
    ?cmp, ?fcmp, ?sel, ?cvt,
    fun hn ok hf => sends (exec_vshl ..) hn hf (.ofInts hsame (by decide) ok) fun _ _ _ _ => rfl,
    fun hn ok hf => sends (exec_vshr ..) hn hf (.ofInts hsame (by decide) ok) fun _ _ _ _ => rfl,
    fun hn ok hf => sends (exec_vsar ..) hn hf (.ofInts hsame (by decide) ok) fun _ _ _ _ => rfl,
    fun hn ok hf => sends (exec_vand ..) hn hf (.ofBits hsame (by decide) ok) fun _ _ _ _ => rfl,
    fun hn ok hf => sends (exec_vor ..) hn hf (.ofBits hsame (by decide) ok) fun _ _ _ _ => rfl,
    fun hn ok hf => sends (exec_vxor ..) hn hf (.ofBits hsame (by decide) ok) fun _ _ _ _ => rfl⟩
  case fma =>
    rintro hn ⟨hmod, hthree, hg, hfloat⟩ hf
    exact sends (exec_vfma ..) hn hf (.ofVfma hthree hmod hg hfloat) fun _ _ _ _ => rfl
  case abs => exact fun hn ok hf => sends (exec_vabs ..) hn hf (.ofVabs hsame ok) fun _ _ _ _ => rfl
  case cmp =>
    rintro hn ⟨hmod, hlen, hg, hint⟩ hf
    exact sends (exec_vcmp ..) hn hf (.ofCompare hsame (.inl ⟨rfl, hint⟩) ⟨hmod, hlen, hg⟩) fun _ _ _ _ =>
      vcmpInt_toNat hmod
  case fcmp =>
    rintro hn ⟨hmod, hlen, hg, hfloat⟩ hf
    exact sends (exec_vfcmp ..) hn hf (.ofCompare hsame (.inr ⟨rfl, hfloat⟩) ⟨hmod, hlen, hg⟩) fun _ _ _ _ => rfl
  case sel =>
    rintro hn ⟨hmod, hg, hchoice⟩ hf
    exact sends (exec_vsel ..) hn hf (.ofVsel hsame hmod hg hchoice) fun _ _ _ _ => rfl
  case cvt =>
    rintro hn ⟨hmod, hlen⟩ hf
    exact sends (exec_vcvt ..) hn hf (.ofVcvt hsame hmod hlen) fun _ _ _ _ => rfl

end Sys2Proof.Machine

/-! # Reductions, permutes, broadcasts, gathers and scatters of the vector engines (spec/07 R176 to R182). -/

namespace Sys2Proof.Machine

section
variable {s s2 : State} {cl e cop : Nat} {f : Firing} {rt : Route} {g : EFmt} {q : Rounding}

/-! ## Reductions, scans, permutes, broadcasts (R176 to R179) -/

/-- The next firing of an operation across lanes sends what the operation makes of its operands. -/
theorem vecStep_across {os : List Operand} {r : VecOut}
    (hcop : 0x117 ≤ cop ∧ ¬ (cop = 0x11A ∨ cop = 0x11B ∨ cop = 0x11C))
    (hmod : vecModOk cop f.lead.cell.cnt.toNat = true) (hroute : s.vecRoute s2 cl e f rt g q)
    (hos : os = f.ops.map ((s2.vecFrom cl e f).operand f)) (hnext : s.vecNext s2 cl e cop f)
    (hout : ∀ t st, vecAcross cop f.lead.cell.cnt.toNat f.t0 g q os t st = .out (some r) t [] 0 st)
    (hfits : (s2.vecFrom cl e f).vecFits cl f rt r) :
    s.vecStep cl e cop = s.vecSend s2 (s2.vecFrom cl e f) cl e f rt r (s.vecStart cl e f) := by
  obtain rfl := vecNext_cop hnext
  have hle : ¬ f.cop ≤ 0x116 := by omega
  refine vecStep_sends hnext hroute.1 ?_ hfits
  rw [vecCompute_routed hroute hmod, if_neg hcop.2, if_neg hle, ← hos, hout]

section
variable {os : List Operand} {a b : Operand} {mod t0 t : Nat} {st : State} (ha : os[0]? = some a)
  (hb : os[1]? = some b ∨ os[1]? = none ∧ b = { fmt := g, lanes := [] }) (hfmt : a.fmt = g)

include hb in
theorem secondOperand_getD : os[1]?.getD { fmt := g, lanes := [] } = b := by
  rcases hb with hb | ⟨hb, rfl⟩
  · rw [hb]; rfl
  · rw [hb]; rfl

include ha hfmt

/-- VRRED: the fixed tree over its operand. -/
theorem vecAcross_vrred (hmod : mod < 9) (hfit : redFits mod g = true) :
    vecAcross 0x117 mod t0 g q os t st =
      .out (some { lanes := [some (reduceTree mod g q t0 (a.lanes.map (fun v => v.getD (redIdentity mod g))))], fmt := g,
                   run := 0 }) t [] 0 st := by
  have ho : mod % 16 = mod := Nat.mod_eq_of_lt (by omega)
  simp [vecAcross, ha, hfmt, ho, hfit]

include hb in
/-- VSRED: each segment's result. -/
theorem vecAcross_vsred (hmod : mod < 9) (hfit : redFits mod g = true) (hint : b.fmt.isInt = true) (hbits : b.fmt.bits = g.bits) :
    vecAcross 0x118 mod t0 g q os t st =
      .out (some { lanes := segReduce mod g q t0 a.lanes b.lanes, fmt := g, run := a.lanes.length - 1, masked := true })
        t [] 0 st := by
  have ho : mod % 16 = mod := Nat.mod_eq_of_lt (by omega)
  simp [vecAcross, ha, secondOperand_getD hb, hfmt, ho, hfit, hint, hbits]

/-- VSCAN: the combinations of the lanes up to each. -/
theorem vecAcross_vscan (hfit : redFits (mod % 16) g = true) :
    vecAcross 0x119 mod t0 g q os t st =
      .out (some { lanes := scanLanes (mod % 16) g q (decide (128 ≤ mod)) t0 (redIdentity (mod % 16) g) 0 a.lanes, fmt := g,
                   run := a.lanes.length - 1 }) t [] 0 st := by
  simp [vecAcross, ha, hfmt, hfit]

include hb in
/-- VPERM: the lanes that the indices name. -/
theorem vecAcross_vperm (hint : b.fmt.isInt = true) :
    vecAcross 0x11D mod t0 g q os t st =
      .out (some { lanes := permLanes a.lanes b.lanes, fmt := g, run := a.lanes.length - 1 }) t [] 0 st := by
  simp [vecAcross, ha, secondOperand_getD hb, hfmt, hint]

/-- VBCST: one lane everywhere. -/
theorem vecAcross_vbcst {v : Nat} (hmod : mod < a.lanes.length) (hv : a.lanes.getD mod none = some v) :
    vecAcross 0x11E mod t0 g q os t st =
      .out (some { lanes := List.replicate a.lanes.length (some v), fmt := g, run := a.lanes.length - 1 }) t [] 0 st := by
  have hlane : a.lanes[mod] = some v := by simpa [hmod] using hv
  simp [vecAcross, ha, hfmt, hmod, hlane]

end

/-! ## Gathers and scatters (R180 to R182) -/

/-- The indices of a gather or scatter: those of the lanes where every operand is present. -/
def presentIndices (os : List Operand) (a : Operand) : Lanes :=
  (List.range a.lanes.length).map (fun j =>
    if os.all (fun x => (x.lanes.getD j none).isSome) then a.lanes.getD j none else none)

/-- What a scatter writes: for each lane with a place, its pieces and its value. -/
def scatterWrites (m : LaneMap) (b : Operand) : List (List (Place × Nat) × Nat × Nat) :=
  (List.range m.lanes.length).filterMap (fun j => (m.lanes.getD j none).map (fun ps => (ps, j, laneOr 0 b.lanes j)))

theorem presentIndices_eq (os : List Operand) (a : Operand) :
    (List.range a.lanes.length).map (fun j =>
      if os.all (fun x => (x.lanes.getD j none).isSome) then a.lanes.getD j none else none) = presentIndices os a := rfl

theorem scatterWrites_eq (m : LaneMap) (b : Operand) :
    (List.range m.lanes.length).filterMap (fun j => (m.lanes.getD j none).map (fun ps => (ps, j, laneOr 0 b.lanes j))) =
      scatterWrites m b := rfl

section
variable {os : List Operand} {a b : Operand} {ctx dagn job mod t0 t t' key : Nat} {st s3 : State} {r : AgnRec} {df : EFmt}
  {rf : Option EFmt} {m : LaneMap} (ha : os[0]? = some a) (hint : a.fmt.isInt = true) (hkey : agnKey cl ctx dagn = key)
  (hr : agnRec (st.agn key).words = r) (hfmt : st.cellFmt job r.tid = some df) (hbits : df.bits ≠ 4) (hfault : m.fault = none)
  (hposts : m.posts = [])
include ha hint hkey hr hfmt hbits hfault hposts

/-- VGTH: what its AGN reads at the places of its lanes. -/
theorem vecMemory_gathers {vs : Lanes} (hck : st.vecAgnCheck cl r true false false = 0)
    (hm : st.laneMap cl (st.agn key).core job r false (presentIndices os a) = m)
    (hread : st.gatherLanes cl job r t m.lanes = .ok (vs, t', s3)) :
    st.vecMemory cl ctx dagn job 0x11A mod t0 (some df) q os t =
      .out (some { lanes := vs, fmt := df, run := a.lanes.length - 1 }) t' [] 0 s3 := by
  have hfirst (d : Operand) : os.getD 0 d = a := by simp [List.getD, ha]
  simp only [State.vecMemory, hfirst, hkey, hr, presentIndices_eq, hfmt]
  simp [hck, hint, hbits, hm, hfault, hread, hposts]

/-- VSCAT: its lanes are written, and nothing is sent. -/
theorem vecMemory_scatters (hb : os[1]? = some b) (hbf : b.fmt = df) (hck : st.vecAgnCheck cl r false true false = 0)
    (hm : st.laneMap cl (st.agn key).core job r true (presentIndices os a) = m)
    (hwrite : st.scatterLanes cl job r t (st.flushAgent key) none (scatterWrites m b) = (t', 0, s3)) :
    st.vecMemory cl ctx dagn job 0x11B mod t0 rf q os t = .out none t' [] 0 s3 := by
  have hfirst (d : Operand) : os.getD 0 d = a := by simp [List.getD, ha]
  have hsecond (d : Operand) : os.getD 1 d = b := by simp [List.getD, hb]
  simp only [State.vecMemory, hfirst, hsecond, hkey, hr, presentIndices_eq, scatterWrites_eq, hfmt]
  simp [hck, hint, hbits, hbf, hm, hfault, hwrite, hposts]

/-- VSCATC: equal indices combine, the leaders are written, and the masks are sent. -/
theorem vecMemory_combines {c : Combined} (hmod : mod < 9) (hfit : redFits mod df = true) (hb : os[1]? = some b)
    (hbf : b.fmt = df) (hck : st.vecAgnCheck cl r false true false = 0)
    (hm : st.laneMap cl (st.agn key).core job r true (presentIndices os a) = m)
    (hc : combineLanes mod df q t0 (presentIndices os a) b.lanes m.lanes = c)
    (hwrite : st.scatterLanes cl job r t (st.flushAgent key) none (c.leads.map (fun l => (l.2.1, l.1, l.2.2.2))) =
      (t', 0, s3)) :
    st.vecMemory cl ctx dagn job 0x11C mod t0 (some (.int 32 false)) q os t =
      .out (some { lanes := [some c.conflict, some c.leader], fmt := .int 32 false, run := 0 }) t' [] 0 s3 := by
  have hfirst (d : Operand) : os.getD 0 d = a := by simp [List.getD, ha]
  have hsecond (d : Operand) : os.getD 1 d = b := by simp [List.getD, hb]
  have ho : mod % 16 = mod := Nat.mod_eq_of_lt (by omega)
  have hplain : ¬ mod ≥ 128 := by omega
  simp only [State.vecMemory, hfirst, hsecond, hkey, hr, presentIndices_eq, hfmt, ho, hplain, decide_false, Bool.and_false,
    Bool.false_eq_true, if_false]
  simp [hck, hint, hbits, hbf, hfit, hm, hfault, hc, hwrite, hposts]

end

/-! ## What the firing of one of them computes -/

variable {os : List Operand} {t : Nat} (hos : os = f.ops.map ((s2.vecFrom cl e f).operand f))
include hos

theorem vecCompute_memory (hroute : s.vecRoute s2 cl e f rt g q) (hcop : f.cop = 0x11A ∨ f.cop = 0x11C)
    (hmod : vecModOk f.cop f.lead.cell.cnt.toNat = true) :
    (s2.vecFrom cl e f).vecCompute cl e f rt t = (s2.vecFrom cl e f).vecMemory cl f.lead.cell.ctx.toNat rt.dagn
      f.lead.who.job f.cop f.lead.cell.cnt.toNat f.t0 (some g) q os t := by
  have hmem : f.cop = 0x11A ∨ f.cop = 0x11B ∨ f.cop = 0x11C := by omega
  rw [vecCompute_routed hroute hmod, if_pos hmem, hos]

/-- A scatter needs no route. -/
theorem vecCompute_scatter (hcop : f.cop = 0x11B) (hmod : f.lead.cell.cnt.toNat = 0) :
    ∃ rf q, (s2.vecFrom cl e f).vecCompute cl e f rt t = (s2.vecFrom cl e f).vecMemory cl f.lead.cell.ctx.toNat rt.dagn
      f.lead.who.job 0x11B 0 f.t0 rf q os t := by
  refine ⟨(s2.vecFrom cl e f).cellFmt f.lead.who.job rt.tid,
    { mode := (rndOf rt.rnd).getD .rne, sat := rt.sat,
      seed := tgetD 0 (s2.vecFrom cl e f).eng.seeds (engCtx cl e f.lead.cell.ctx.toNat) }, ?_⟩
  have hok : vecModOk 0x11B 0 = true := rfl
  simp only [State.vecCompute, hcop, hmod, hos, hok, beq_self_eq_true, Bool.not_true, Bool.and_false, Bool.false_and,
    Bool.or_true, Bool.true_or, Bool.false_eq_true, if_false, if_true]

end

/-- Settles O26: each operation's branch, once its modifier, its route and its formats are those that it takes. -/
theorem vectorAcross : Obligations.VectorAcross := by
  intro s s2 cl ve f rt g q os a b mod hos ha hb hmod st n t go o
  subst hmod
  have hlen : a.lanes.length = n := operand_lanes_length (hos ▸ List.mem_of_getElem? ha)
  have sends {cop : Nat} {i : Instr} {ok : Prop} {r : VecOut} (hexec : exec i s = .next (s.vecStep cl (4 + ve) cop))
      (hcop : 0x117 ≤ cop ∧ ¬ (cop = 0x11A ∨ cop = 0x11B ∨ cop = 0x11C))
      (hout : ok → vecModOk cop f.lead.cell.cnt.toNat = true ∧
        ∀ t st, vecAcross cop f.lead.cell.cnt.toNat f.t0 g q os t st = .out (some r) t [] 0 st) : go cop i ok r := by
    intro hroute hnext hok hfits
    obtain ⟨hmod, hout⟩ := hout hok
    rw [hexec, vecStep_across hcop hmod hroute hos hnext hout hfits]
  refine ⟨?red, ?seg, ?scan, ?perm, ?bcst, ?memory⟩
  case red =>
    refine sends (exec_vrred ..) (by decide) ?_
    rintro ⟨hmod, hfmt, hfit⟩
    exact ⟨by simpa [vecModOk] using hmod, fun _ _ => vecAcross_vrred ha hfmt hmod hfit⟩
  case seg =>
    refine sends (exec_vsred ..) (by decide) ?_
    rintro ⟨hmod, hfmt, hfit, hint, hbits⟩
    exact ⟨by simpa [vecModOk] using hmod, fun _ _ => hlen ▸ vecAcross_vsred ha hb hfmt hmod hfit hint hbits⟩
  case scan =>
    refine sends (exec_vscan ..) (by decide) ?_
    rintro ⟨hmod, hfmt, hfit⟩
    have hop : f.lead.cell.cnt.toNat / 16 % 8 = 0 ∧ f.lead.cell.cnt.toNat % 16 < 9 := by omega
    exact ⟨by simp [vecModOk, hop], fun _ _ => hlen ▸ vecAcross_vscan ha hfmt hfit⟩
  case perm =>
    refine sends (exec_vperm ..) (by decide) ?_
    rintro ⟨hmod, hfmt, hint⟩
    exact ⟨by simpa [vecModOk] using hmod, fun _ _ => hlen ▸ vecAcross_vperm ha hb hfmt hint⟩
  case bcst =>
    intro v
    refine sends (exec_vbcst ..) (by decide) ?_
    rintro ⟨hmod, hin, hfmt, hv⟩
    exact ⟨by simpa [vecModOk] using hmod, fun _ _ => hlen ▸ vecAcross_vbcst ha hfmt (hlen ▸ hin) hv⟩
  case memory =>
    intro key r job idx m
    have hidx : presentIndices os a = idx := by rw [presentIndices, hlen]
    refine ⟨?gather, ?scatter, ?combine⟩
    case gather =>
      intro vs t' s3 hroute hnext hmod hint hck hfmt hfault hposts hread hfits
      have hcop := vecNext_cop hnext
      have ⟨_, _, _, hbits, _⟩ := hroute
      have hout := vecMemory_gathers (t0 := f.t0) (q := q) (mod := f.lead.cell.cnt.toNat) ha hint rfl rfl hfmt hbits
        hfault hposts hck (by rw [hidx]) hread
      rw [hlen] at hout
      refine congrArg Host.Outcome.next (vecStep_sends hnext hroute.1 ?_ hfits)
      rw [vecCompute_memory hos hroute (.inl hcop) (by rw [hcop, hmod]; rfl), hcop]
      exact hout
    case scatter =>
      intro t' s3 hnext hrt hmod hb hint hck hfmt hbits hfault hposts hwrite
      have hcop := vecNext_cop hnext
      obtain ⟨rf, q', hcompute⟩ := vecCompute_scatter (rt := rt) (t := t) hos hcop hmod
      refine congrArg Host.Outcome.next (vecStep_ends hnext hrt ?_)
      exact hcompute.trans (vecMemory_scatters ha hint rfl rfl hfmt hbits hfault hposts hb rfl hck (by rw [hidx]) hwrite)
    case combine =>
      intro t' s3 hroute hnext hmod hb hint hck hfmt hbits hfit hfault hposts c out hwrite hfits
      have hcop := vecNext_cop hnext
      have hop : f.lead.cell.cnt.toNat / 16 % 8 = 0 ∧ f.lead.cell.cnt.toNat % 16 < 9 := by omega
      refine congrArg Host.Outcome.next (vecStep_sends hnext hroute.1 ?_ hfits)
      rw [vecCompute_memory hos hroute (.inr hcop) (by rw [hcop]; simp [vecModOk, hop]), hcop]
      exact vecMemory_combines ha hint rfl rfl hfmt hbits hfault hposts hmod hfit hb rfl hck (by rw [hidx]) (by rw [hidx]) hwrite

end Sys2Proof.Machine

/-! # The intersection unit (spec/07 R184 to R186). -/

namespace Sys2Proof.Machine

/-! ## Its acts -/

/-- The five operations of the intersection unit, by their codes. -/
def ixWords (cl : Nat) : List (Nat × Instr) :=
  [(0x200, .xint cl), (0x201, .xuni cl), (0x202, .xdif cl), (0x203, .xmrg cl), (0x204, .xcnt cl)]

theorem exec_ixWord {cl : Nat} {x : Nat × Instr} (hx : x ∈ ixWords cl) (s : State) :
    exec x.2 s = .next (s.ixStep cl x.1) := by
  simp only [ixWords, List.mem_cons, List.not_mem_nil, or_false] at hx
  rcases hx with rfl | rfl | rfl | rfl | rfl
  · exact exec_xint ..
  · exact exec_xuni ..
  · exact exec_xdif ..
  · exact exec_xmrg ..
  · exact exec_xcnt ..

section
variable {s s1 : State} {cl cop : Nat} {m : MCell} {j : IxJob}

/-- The next cell of a side that has used what it had joins its job at once. -/
theorem ixStep_joins (htake : s.takeInbox cl 9 cop = some (m, s1)) (hside : m.cell.pos.toNat ≤ 1)
    (hfmt : s.cellFmt m.who.job m.cell.tid.toNat = some (.int j.fmt false)) (hwidth : j.fmt = 32 ∨ j.fmt = 64)
    (hjob : (s1.ixJobs cl).find? (fun y => ixMatches y m.cell) = some j)
    (hseq : cellSeq m.cell = (if m.cell.pos = 1 then j.rseq else j.lseq))
    (hused : (if m.cell.pos = 1 then j.rq else j.lq) = []) :
    s.ixStep cl cop = s1.putIx cl { j with cells := j.cells ++ [{ m with stall := 0 }], stamp := max j.stamp m.stamp } := by
  have hnext : (cellSeq m.cell == (if m.cell.pos == 1 then j.rseq else j.lseq) &&
      (if m.cell.pos == 1 then j.rq else j.lq).isEmpty) = true := by
    simp only [beq_iff_eq, hseq, hused, beq_self_eq_true, List.isEmpty_nil, Bool.and_self]
  have hbits : ((EFmt.int j.fmt false).bits == 32 || (EFmt.int j.fmt false).bits == 64) = true := by
    simpa [EFmt.bits] using hwidth
  have haccept : s.ixAccept cl cop =
      some (s1.putIx cl { j with cells := j.cells ++ [{ m with stall := 0 }], stamp := max j.stamp m.stamp }) := by
    simp only [State.ixAccept, ixPort, htake, hfmt, hjob, hnext, hbits, Nat.not_lt.mpr hside, bne_self_eq_false,
      Bool.not_true, Bool.or_self, Bool.false_eq_true, if_false, if_true]
  simp only [State.ixStep, haccept]

/-- No cell is delivered, and the first job that can go on does. -/
theorem ixStep_advances (htake : s.takeInbox cl 9 cop = none) (hwait : s.resultWaits cl 9 = false)
    (hjob : ((s.ixJobs cl).filter (fun y => y.cop == cop)).find? (s.ixMoves cl) = some j) :
    s.ixStep cl cop = s.ixAdvance cl j := by
  have haccept : s.ixAccept cl cop = none := by simp only [State.ixAccept, ixPort, htake]
  simp only [State.ixStep, haccept, ixPort, htake, hwait, hjob, Bool.false_eq_true, if_false]

section
variable {k : IxJob} (hbegun : j.pulls.itag.isSome = true) (hcheck : s.ixCheck cl j.pulls = 0)
include hbegun hcheck

theorem ixAdvance_waits (hrun : IxJob.run j.pulls.size j.pulls = (.wait, k)) : s.ixAdvance cl j = s.putIx cl k := by
  have hitag : j.pulls.itag.isNone = false := by simpa using hbegun
  simp only [State.ixAdvance, hitag, hcheck, hrun, bne_self_eq_false, Bool.false_eq_true, if_false]

theorem ixAdvance_sends {k1 : IxJob} {s2 : State} (hrun : IxJob.run j.pulls.size j.pulls = (.full, k))
    (hsend : s.ixSend cl k false = some (k1, s2)) : s.ixAdvance cl j = s2.putIx cl k1 := by
  have hitag : j.pulls.itag.isNone = false := by simpa using hbegun
  simp only [State.ixAdvance, hitag, hcheck, hrun, hsend, bne_self_eq_false, Bool.false_eq_true, if_false]

theorem ixAdvance_ends {k1 : IxJob} {s2 : State} (hrun : IxJob.run j.pulls.size j.pulls = (.over, k))
    (hsend : s.ixSend cl k true = some (k1, s2)) : s.ixAdvance cl j = s2.dropIx cl k := by
  have hitag : j.pulls.itag.isNone = false := by simpa using hbegun
  simp only [State.ixAdvance, hitag, hcheck, hrun, hsend, bne_self_eq_false, Bool.false_eq_true, if_false]

end
end

/-! ## Two rising sides that have ended (R185) -/

/-- The elements of `l` that lie in `r`, or that do not. -/
def ixSift (inside : Bool) (l r : List Nat) : List Nat := l.filter (fun a => r.contains a == inside)

section
variable {inside : Bool} {a b : Nat} {l r : List Nat}

/-- An element of the right side that lies below the left side finds nothing. -/
theorem ixSift_skip_right (hb : ∀ x ∈ l, b < x) : ixSift inside l (b :: r) = ixSift inside l r :=
  List.filter_congr fun x hx => by simp [Nat.ne_of_gt (hb x hx)]

/-- An element of the left side that lies below the right side is not in it. -/
theorem ixSift_skip_left (ha : ∀ x ∈ r, a < x) :
    ixSift inside (a :: l) r = (if inside then [] else [a]) ++ ixSift inside l r := by
  have hnot : r.contains a = false := by
    simpa using fun hmem => Nat.lt_irrefl a (ha a hmem)
  simp only [ixSift, List.filter_cons, hnot]
  cases inside <;> rfl

/-- An element of both sides is taken from both. -/
theorem ixSift_both (ha : ∀ x ∈ l, a < x) :
    ixSift inside (a :: l) (a :: r) = (if inside then [a] else []) ++ ixSift inside l r := by
  rw [← ixSift_skip_right ha]
  cases inside <;> simp [ixSift]

end

/-- A job whose sides rise, have ended and are all at hand, with a plain modifier. -/
structure IxJob.Rising (j : IxJob) : Prop where
  left : (j.lprev.toList ++ j.lq).Pairwise (· < ·)
  right : (j.rprev.toList ++ j.rq).Pairwise (· < ·)
  lend : j.lend = true
  rend : j.rend = true
  cells : j.cells = []
  plain : j.md = 0

/-- Elements that are still to be compared. -/
def IxJob.pending (j : IxJob) : Nat := j.lq.length + j.rq.length

/-- What a job `k` has found, gone on from `j`: by its operation, the common elements, the left ones that the right side lacks, or
the number of common ones. -/
structure IxJob.Found (j k : IxJob) : Prop where
  common : j.cop = 0x200 → k.outI = j.outI ++ ixSift true j.lq j.rq
  lacking : j.cop = 0x202 → k.outI = j.outI ++ ixSift false j.lq j.rq
  count : j.cop = 0x204 → k.nmatch = j.nmatch + (ixSift true j.lq j.rq).length

/-- One comparison leads from `j` to `j'`: an element at least is used, and room in the output cell stays for the others. -/
structure IxJob.Leads (j j' : IxJob) : Prop where
  rising : j'.Rising
  less : j'.pending < j.pending
  room : j'.outI.length + j'.pending ≤ j.outI.length + j.pending
  cap : j'.cap = j.cap
  found : ∀ k, j'.Found k → j.Found k

section
variable {j : IxJob} {a b n : Nat} {l r i p : List Nat}

@[simp] theorem IxJob.dropL_lq (j : IxJob) : j.dropL.lq = j.lq.drop 1 := rfl
@[simp] theorem IxJob.dropL_rq (j : IxJob) : j.dropL.rq = j.rq := rfl
@[simp] theorem IxJob.dropL_outI (j : IxJob) : j.dropL.outI = j.outI := rfl
@[simp] theorem IxJob.dropL_nmatch (j : IxJob) : j.dropL.nmatch = j.nmatch := rfl
@[simp] theorem IxJob.dropR_lq (j : IxJob) : j.dropR.lq = j.lq := rfl
@[simp] theorem IxJob.dropR_rq (j : IxJob) : j.dropR.rq = j.rq.drop 1 := rfl
@[simp] theorem IxJob.dropR_outI (j : IxJob) : j.dropR.outI = j.outI := rfl
@[simp] theorem IxJob.dropR_nmatch (j : IxJob) : j.dropR.nmatch = j.nmatch := rfl

theorem IxJob.pending_dropL (hl : j.lq = a :: l) : j.dropL.pending + 1 = j.pending := by
  simp only [IxJob.pending, IxJob.dropL_lq, IxJob.dropL_rq, hl, List.drop_one, List.tail_cons, List.length_cons]
  omega

theorem IxJob.pending_dropR (hr : j.rq = b :: r) : j.dropR.pending + 1 = j.pending := by
  simp only [IxJob.pending, IxJob.dropR_lq, IxJob.dropR_rq, hr, List.drop_one, List.tail_cons, List.length_cons]
  omega

theorem IxJob.Rising.dropL (h : j.Rising) : j.dropL.Rising := by
  refine ⟨?_, h.right, h.lend, h.rend, h.cells, h.plain⟩
  have hside : j.dropL.lprev.toList ++ j.dropL.lq = j.lq := by
    cases hl : j.lq <;> simp [IxJob.dropL, hl]
  rw [hside]
  exact (List.pairwise_append.mp h.left).2.1

theorem IxJob.Rising.dropR (h : j.Rising) : j.dropR.Rising := by
  refine ⟨h.left, ?_, h.lend, h.rend, h.cells, h.plain⟩
  have hside : j.dropR.rprev.toList ++ j.dropR.rq = j.rq := by
    cases hr : j.rq <;> simp [IxJob.dropR, hr]
  rw [hside]
  exact (List.pairwise_append.mp h.right).2.1

/-- A side's next element lies below its later ones. -/
theorem ixSide_head {prev : Option Nat} {q : List Nat} (h : (prev.toList ++ a :: q).Pairwise (· < ·)) : ∀ x ∈ q, a < x :=
  (List.pairwise_cons.mp (List.pairwise_append.mp h).2.1).1

/-! ## What one comparison writes down -/

/-- A comparison's outputs, and its share of the number of matches, written down. -/
def IxJob.note (j : IxJob) (i p : List Nat) (n : Nat) : IxJob :=
  { j with outI := j.outI ++ i, outP := j.outP ++ p, nmatch := j.nmatch + n }

section
variable (j : IxJob) (i p : List Nat) (n : Nat)
@[simp] theorem IxJob.note_lq : (j.note i p n).lq = j.lq := rfl
@[simp] theorem IxJob.note_rq : (j.note i p n).rq = j.rq := rfl
@[simp] theorem IxJob.note_outI : (j.note i p n).outI = j.outI ++ i := rfl
@[simp] theorem IxJob.note_nmatch : (j.note i p n).nmatch = j.nmatch + n := rfl
end

theorem IxJob.Rising.note (h : j.Rising) : (j.note i p n).Rising := ⟨h.left, h.right, h.lend, h.rend, h.cells, h.plain⟩

theorem IxJob.note_nothing (j : IxJob) : j.note [] [] 0 = j := by simp [IxJob.note]

theorem IxJob.takeLeft_notes (j : IxJob) (a : Nat) : ∃ i p, j.takeLeft a = (j.note i p 0).dropL ∧ i.length ≤ 1 ∧
    (j.cop = 0x200 → i = []) ∧ (j.cop = 0x202 → i = [a]) := by
  unfold IxJob.takeLeft
  split
  next hc => exact ⟨[a], _, rfl, by simp, by simp [hc], by simp⟩
  next hc => exact ⟨[a], _, rfl, by simp, by simp [hc], by simp⟩
  next hc => exact ⟨[a], _, rfl, by simp, by simp [hc], by simp⟩
  next _ hdif _ => exact ⟨[], [], by rw [IxJob.note_nothing], by simp, by simp, fun h => absurd h hdif⟩

theorem IxJob.takeRight_notes (j : IxJob) (b : Nat) : ∃ i p, j.takeRight b = (j.note i p 0).dropR ∧ i.length ≤ 1 ∧
    (j.cop = 0x200 ∨ j.cop = 0x202 → i = []) := by
  unfold IxJob.takeRight
  split
  next hc => exact ⟨[b], _, rfl, by simp, by simp [hc]⟩
  next hc => exact ⟨[b], _, rfl, by simp, by simp [hc]⟩
  next => exact ⟨[], [], by rw [IxJob.note_nothing], by simp, by simp⟩

/-- Equal elements: XMRG takes the left one alone, the others take both. -/
theorem IxJob.takeBoth_notes (j : IxJob) (a : Nat) : ∃ i p n, i.length ≤ 1 ∧
    (j.cop = 0x203 ∧ j.takeBoth a = (j.note i p n).dropL ∨
      j.takeBoth a = (j.note i p n).dropL.dropR ∧ (j.cop = 0x200 → i = [a]) ∧ (j.cop = 0x202 → i = []) ∧
        (j.cop = 0x204 → n = 1)) := by
  unfold IxJob.takeBoth
  split
  next hc => exact ⟨[a], _, 0, by simp, .inr ⟨rfl, by simp, by simp [hc], by simp [hc]⟩⟩
  next hc => exact ⟨[a], _, 0, by simp, .inr ⟨rfl, by simp, by simp [hc], by simp [hc]⟩⟩
  next hc => exact ⟨[a], _, 0, by simp, .inl ⟨hc, rfl⟩⟩
  next hc => exact ⟨[], [], 1, by simp, .inr ⟨by simp [IxJob.note], by simp [hc], by simp, by simp⟩⟩
  next hint _ _ hcnt =>
    exact ⟨[], [], 0, by simp, .inr ⟨by rw [IxJob.note_nothing], fun h => absurd h hint, by simp, fun h => absurd h hcnt⟩⟩

/-! ## One comparison -/

/-- The left side's next element, below the whole right side, is used. -/
theorem IxJob.takeLeft_leads (h : j.Rising) (hl : j.lq = a :: l) (ha : ∀ x ∈ j.rq, a < x) : j.Leads (j.takeLeft a) := by
  obtain ⟨i, p, heq, hi, hint, hdif⟩ := IxJob.takeLeft_notes j a
  have hless : (j.note i p 0).dropL.pending + 1 = j.pending := IxJob.pending_dropL (j := j.note i p 0) hl
  have hout : (j.note i p 0).dropL.outI.length = j.outI.length + i.length := List.length_append
  rw [heq]
  refine ⟨h.note.dropL, ?_, ?_, rfl, fun k hk => ⟨fun hc => ?_, fun hc => ?_, fun hc => ?_⟩⟩
  · omega
  · omega
  · rw [hk.common hc, hl, ixSift_skip_left ha]
    simp [hl, hint hc]
  · rw [hk.lacking hc, hl, ixSift_skip_left ha]
    simp [hl, hdif hc]
  · rw [hk.count hc, hl, ixSift_skip_left ha]
    simp [hl]

theorem IxJob.takeRight_leads (h : j.Rising) (hr : j.rq = b :: r) (hb : ∀ x ∈ j.lq, b < x) : j.Leads (j.takeRight b) := by
  obtain ⟨i, p, heq, hi, hnone⟩ := IxJob.takeRight_notes j b
  have hless : (j.note i p 0).dropR.pending + 1 = j.pending := IxJob.pending_dropR (j := j.note i p 0) hr
  have hout : (j.note i p 0).dropR.outI.length = j.outI.length + i.length := List.length_append
  rw [heq]
  refine ⟨h.note.dropR, ?_, ?_, rfl, fun k hk => ⟨fun hc => ?_, fun hc => ?_, fun hc => ?_⟩⟩
  · omega
  · omega
  · rw [hk.common hc, hr, ixSift_skip_right hb]
    simp [hr, hnone (.inl hc)]
  · rw [hk.lacking hc, hr, ixSift_skip_right hb]
    simp [hr, hnone (.inr hc)]
  · rw [hk.count hc, hr, ixSift_skip_right hb]
    simp [hr]

theorem IxJob.takeBoth_leads (h : j.Rising) (hl : j.lq = a :: l) (hr : j.rq = a :: r) : j.Leads (j.takeBoth a) := by
  have hleft : ∀ x ∈ l, a < x := ixSide_head (hl ▸ h.left)
  obtain ⟨i, p, n, hi, hcases⟩ := IxJob.takeBoth_notes j a
  have hless : (j.note i p n).dropL.pending + 1 = j.pending := IxJob.pending_dropL (j := j.note i p n) hl
  have hout : (j.note i p n).dropL.outI.length = j.outI.length + i.length := List.length_append
  rcases hcases with ⟨hmrg, heq⟩ | ⟨heq, hint, hdif, hcnt⟩
  · rw [heq]
    refine ⟨h.note.dropL, ?_, ?_, rfl, fun k hk => ⟨?_, ?_, ?_⟩⟩
    · omega
    · omega
    all_goals simp [hmrg]
  · have hboth : (j.note i p n).dropL.dropR.pending + 1 = (j.note i p n).dropL.pending :=
      IxJob.pending_dropR (j := (j.note i p n).dropL) hr
    rw [heq]
    refine ⟨h.note.dropL.dropR, ?_, ?_, rfl, fun k hk => ⟨fun hc => ?_, fun hc => ?_, fun hc => ?_⟩⟩
    · omega
    · rw [IxJob.dropR_outI]
      omega
    · rw [hk.common hc, hl, hr, ixSift_both hleft]
      simp [hl, hr, hint hc]
    · rw [hk.lacking hc, hl, hr, ixSift_both hleft]
      simp [hl, hr, hdif hc]
    · rw [hk.count hc, hl, hr, ixSift_both hleft]
      simp [hl, hr, hcnt hc, Nat.add_assoc, Nat.add_comm 1]

/-- What one comparison makes of a job whose sides have ended. -/
def IxJob.compare (j : IxJob) : IxJob :=
  match j.lq, j.rq with
  | a :: _, b :: _ => if a = b then j.takeBoth a else if a < b then j.takeLeft a else j.takeRight b
  | a :: _, [] => j.takeLeft a
  | [], b :: _ => j.takeRight b
  | [], [] => j

theorem IxJob.compare_leads (h : j.Rising) (hleft : j.pending ≠ 0) : j.Leads j.compare := by
  unfold IxJob.compare
  split
  next a l b r hl hr =>
    have ha : ∀ x ∈ l, a < x := ixSide_head (hl ▸ h.left)
    have hb : ∀ x ∈ r, b < x := ixSide_head (hr ▸ h.right)
    split
    next hab => exact IxJob.takeBoth_leads h hl (hab ▸ hr)
    next hab =>
      split
      next hlt =>
        refine IxJob.takeLeft_leads h hl ?_
        rw [hr]
        exact List.forall_mem_cons.mpr ⟨hlt, fun x hx => Nat.lt_trans hlt (hb x hx)⟩
      next hge =>
        have hlt : b < a := by omega
        refine IxJob.takeRight_leads h hr ?_
        rw [hl]
        exact List.forall_mem_cons.mpr ⟨hlt, fun x hx => Nat.lt_trans hlt (ha x hx)⟩
  next a l hl hr => exact IxJob.takeLeft_leads h hl (by simp [hr])
  next b r hl hr => exact IxJob.takeRight_leads h hr (by simp [hl])
  next hl hr => exact absurd (by simp [IxJob.pending, hl, hr]) hleft

/-! ## The comparisons until both sides are used up -/

/-- A job with all its elements at hand takes up no cell. -/
theorem IxJob.pulls_of_no_cells (h : j.cells = []) : j.pulls = j := by
  have hpull (right : Bool) (n : Nat) : IxJob.pull right n j = j := by
    cases n with
    | zero => rfl
    | succ n => simp [IxJob.pull, h, takeFirst]
  simp only [IxJob.pulls, hpull]

theorem not_outOfOrder {prev : Option Nat} {q : List Nat} (h : (prev.toList ++ q).Pairwise (· < ·)) :
    outOfOrder prev q = false := by
  cases prev with
  | none => rfl
  | some p =>
    cases q with
    | nil => rfl
    | cons x q =>
      have hlt : p < x := (List.pairwise_cons.mp h).1 x List.mem_cons_self
      simpa [outOfOrder] using hlt

theorem IxJob.over_iff (h : j.Rising) : j.over = true ↔ j.pending = 0 := by
  simp [IxJob.over, IxJob.pending, h.lend, h.rend]

/-- With elements left and room for them, the job compares once and goes on. -/
theorem IxJob.run_compares (h : j.Rising) (hroom : j.outI.length + j.pending < j.cap) (hleft : j.pending ≠ 0) :
    IxJob.run (n + 1) j = IxJob.run n j.compare := by
  have hover : j.over = false := Bool.eq_false_iff.mpr fun hover => hleft ((IxJob.over_iff h).mp hover)
  have hfull : j.full = false := by
    have hout : ¬ j.outI.length ≥ j.cap := by omega
    simp [IxJob.full, IxJob.pairs, h.plain, hout]
  simp only [IxJob.run, IxJob.pulls_of_no_cells h.cells, hover, hfull, not_outOfOrder h.left, not_outOfOrder h.right,
    h.lend, h.rend, Bool.or_self, Bool.false_eq_true, if_false, if_true, IxJob.compare]
  cases hl : j.lq with
  | nil =>
    cases hr : j.rq with
    | nil => exact absurd (by simp [IxJob.pending, hl, hr]) hleft
    | cons b r => rfl
  | cons a l => cases hr : j.rq <;> rfl

theorem IxJob.run_over (h : j.Rising) (hdone : j.pending = 0) : IxJob.run (n + 1) j = (.over, j) := by
  simp only [IxJob.run, IxJob.pulls_of_no_cells h.cells, (IxJob.over_iff h).mpr hdone, if_true]

theorem IxJob.found_self (hdone : j.pending = 0) : j.Found j := by
  have hl : j.lq = [] := List.length_eq_zero_iff.mp (Nat.eq_zero_of_add_eq_zero hdone).1
  constructor <;> simp [hl, ixSift]

/-- With fuel for every element, and room for it, a rising job ends and has found what its operation asks for. -/
theorem IxJob.run_found (h : j.Rising) (hroom : j.outI.length + j.pending < j.cap) (hfuel : j.pending < n) :
    ∃ k, IxJob.run n j = (.over, k) ∧ j.Found k := by
  induction n generalizing j with
  | zero => exact absurd hfuel (Nat.not_lt_zero _)
  | succ n ih =>
    by_cases hleft : j.pending = 0
    · exact ⟨j, IxJob.run_over h hleft, IxJob.found_self hleft⟩
    · have hlead := IxJob.compare_leads h hleft
      have hless := hlead.less
      have hroom' : j.compare.outI.length + j.compare.pending < j.compare.cap := by
        rw [hlead.cap]
        exact Nat.lt_of_le_of_lt hlead.room hroom
      obtain ⟨k, hk, hfound⟩ := ih hlead.rising hroom' (by omega)
      exact ⟨k, (IxJob.run_compares h hroom hleft).trans hk, hlead.found k hfound⟩

end

/-- Settles O29: the unit's acts by the branch that their conditions select, and the comparisons by induction on the elements that
are left. -/
theorem intersectionUnit : Obligations.IntersectionUnit := by
  refine ⟨fun s s1 cl m j x hx => ⟨?joins, ?advances⟩, ?rising⟩
  case joins =>
    intro htake hside hfmt hwidth hjob hseq hused
    rw [exec_ixWord hx, ixStep_joins htake hside hfmt hwidth hjob hseq hused]
  case advances =>
    intro htake hwait hjob hbegun hcheck
    rw [exec_ixWord hx, ixStep_advances htake hwait hjob]
    refine ⟨fun k hrun => ?_, fun k k1 s2 hrun hsend => ?_, fun k k1 s2 hrun hsend => ?_⟩
    · rw [ixAdvance_waits hbegun hcheck hrun]
    · rw [ixAdvance_ends hbegun hcheck hrun hsend]
    · rw [ixAdvance_sends hbegun hcheck hrun hsend]
  case rising =>
    rintro j l r hl hr rfl rfl hlend hrend hcells hlprev hrprev houtI - hmd hroom
    have hrising : j.Rising :=
      ⟨by simpa [hlprev] using hl, by simpa [hrprev] using hr, hlend, hrend, hcells, hmd⟩
    have hcap : j.outI.length + j.pending < j.cap := by simpa [houtI, IxJob.pending, IxJob.cap] using hroom
    obtain ⟨k, hrun, hfound⟩ := IxJob.run_found (n := j.pending + 64) hrising hcap (by omega)
    refine ⟨k, hrun, fun hc => ?_, fun hc => ?_, fun hc => ?_⟩
    · simpa [houtI, ixSift] using hfound.common hc
    · simpa [houtI, ixSift] using hfound.lacking hc
    · simpa [ixSift] using hfound.count hc

end Sys2Proof.Machine

/-! # The write ports (spec/08 R190, spec/06 R135, spec/15 R318, R319, R322). -/

namespace Sys2Proof.Machine

/-! ## The cell that a port takes -/

/-- What is taken is what a search finds. -/
theorem takeFirst_find {α : Type} (p : α → Bool) (l : List α) : (takeFirst p l).map Prod.fst = l.find? p := by
  induction l with
  | nil => rfl
  | cons y ys ih =>
    by_cases hy : p y = true
    · simp only [takeFirst, hy, if_true, Option.map_some, List.find?_cons_of_pos]
    · rw [List.find?_cons_of_neg hy, ← ih, takeFirst, if_neg hy]
      cases takeFirst p ys <;> rfl

theorem takeFirst_passes {α : Type} {p : α → Bool} {l rest : List α} {x : α} (h : takeFirst p l = some (x, rest)) :
    p x = true :=
  List.find?_some ((takeFirst_find p l).symm.trans (congrArg (Option.map Prod.fst) h))

/-- A port takes a cell of the operation code that it is asked for. -/
theorem takeInbox_cop {s s1 : State} {cl port cop : Nat} {m : MCell} (h : s.takeInbox cl port cop = some (m, s1)) :
    m.cell.cop.toNat = cop := by
  unfold State.takeInbox at h
  split at h
  · cases h
  · next htake =>
    cases h
    simpa using takeFirst_passes htake

/-! ## What a write port does with its cell -/

/-- The three operations of a write port, by their codes. -/
def writeWords (cl p : Nat) : List (Nat × Instr) := [(0, .wr cl p), (1, .wrm cl p), (2, .wacc cl p)]

theorem exec_writeWord {cl p : Nat} {x : Nat × Instr} (hx : x ∈ writeWords cl p) (s : State) :
    exec x.2 s = .next (s.writeCell cl p x.1) := by
  simp only [writeWords, List.mem_cons, List.not_mem_nil, or_false] at hx
  rcases hx with rfl | rfl | rfl
  · exact exec_wr ..
  · exact exec_wrm ..
  · exact exec_wacc ..

section
variable {s s1 : State} {cl p cop : Nat} {m : MCell} (htake : s.takeInbox cl (16 + p) cop = some (m, s1))
include htake

theorem writeCell_taken : s.writeCell cl p cop = (s.writeTaken cl p cop).afterPort m := by
  simp only [State.writeCell, htake]

variable (hgate : s.gate m.who.job (waiterCell m) = .go) {key : Nat} {r : AgnRec}
  (hkey : key = agnKey cl m.cell.ctx.toNat (2 * p + m.cell.pos.toNat)) (hr : r = agnRec (s.agn key).words)
include hgate hkey hr

/-- A cell that fails its check ends with the check's status. -/
theorem writeTaken_fails (hbad : s.portCheck cl key r m ≠ 0) :
    s.writeTaken cl p cop = s1.cellEnd cl m (s.portCheck cl key r m) m.stamp := by
  subst hkey hr
  simp only [State.writeTaken, htake, hgate, bne_iff_ne.mpr hbad, if_true]

variable (hok : s.portCheck cl key r m = 0) (hwait : (s.agn key).wait = none)
  (hfifo : ¬(r.port = 3 ∧ s.tileRole cl r.tile = 2))
include hok hwait hfifo

/-- A page that is missing or may not be written makes the cell wait on a fault record. -/
theorem writeTaken_waits {d va : Nat} (hwrites : s.portWrites cl (s.agn key).core m.who.job r m.cell = .error (d, va))
    (hd : d = causeMiss ∨ d = causePerm) :
    s.writeTaken cl p cop = s.faultWait (clusterQuarter cl) m.who.job d 2 (m.agent / 32) (agnNo key) cl va
      m.cell.itag.toNat (waiterCell m) := by
  subst hkey hr
  simp only [State.writeTaken, htake, hgate, hok, hwait, hwrites, bne_self_eq_false, Bool.false_eq_true, if_false,
    Bool.and_eq_true, beq_iff_eq, hfifo, Bool.or_eq_true, decide_eq_true_eq, hd, if_true]

/-- Behind a window the writes go to the AGN's coalescing buffer, at the AGN's stamp. -/
theorem writeTaken_buffers {ws : List PortWrite} {st : Nat}
    (hwrites : s.portWrites cl (s.agn key).core m.who.job r m.cell = .ok (ws, st)) (hwindow : r.isWindow = true) :
    let s2 := s1.modAgn key (fun y => { y with stamp := max y.stamp m.stamp })
    let s3 := (ws.foldl (fun t w => t.coPut (s.partOfCluster cl) key w) s2).afterWrite key m m.stamp
    s.writeTaken cl p cop = s3.cellEnd cl m st (max m.stamp (s3.agn key).stamp) := by
  subst hkey hr
  simp only [State.writeTaken, htake, hgate, hok, hwait, hwrites, hwindow, bne_self_eq_false, Bool.false_eq_true,
    if_false, Bool.and_eq_true, beq_iff_eq, hfifo, if_true, Nat.max_zero]

/-- Elsewhere the writes are performed at once, those of WACC by adding. -/
theorem writeTaken_performs {ws : List PortWrite} {t : Nat} {s2 : State}
    (hwrites : s.portWrites cl (s.agn key).core m.who.job r m.cell = .ok (ws, 0)) (hwindow : r.isWindow = false)
    (hperform : (if m.cell.cop = 2 then s1.accumulate (s.partOfCluster cl) m.stamp m.agent (s1.undefinedAgain m) (wordGroups [] ws)
      else s1.performWrites (s.partOfCluster cl) m.stamp m.agent ws) = (t, 0, s2)) :
    s.writeTaken cl p cop = ((s2.afterWrite key m t).cellEnd cl m 0 t).writeLost cl m (agnNo key)
      ((r.addr (m.cell.aux.toNat * r.perCell)).getD 0).toNat 0 := by
  have hadds : cop = 2 ↔ m.cell.cop = 2 := by
    rw [← takeInbox_cop htake]
    exact BitVec.toNat_inj (y := 2)
  subst hkey hr
  simp only [State.writeTaken, htake, hgate, hok, hwait, hwrites, hwindow, hadds, hperform, bne_self_eq_false,
    Bool.false_eq_true, if_false, Bool.and_eq_true, beq_iff_eq, hfifo, if_true]

end

/-- Settles O32: the cell's check, its writes and the kind of its place select the branch of the port's step. -/
theorem writeCells : Obligations.WriteCells := by
  intro s s1 cl p m x hx key a r root htake hgate
  have hexec := fun u (h : s.writeTaken cl p x.1 = u) =>
    (exec_writeWord hx s).trans (congrArg Host.Outcome.next ((writeCell_taken htake).trans (congrArg (·.afterPort m) h)))
  refine ⟨fun hbad => ?fails, fun hok hwait hfifo => ⟨fun d va hwrites hd => ?waits, fun ws st hwrites hwindow => ?buffers,
    fun ws t s2 hwrites hwindow hperform => ?performs⟩⟩
  case fails => exact hexec _ (writeTaken_fails htake hgate rfl rfl hbad)
  case waits => exact hexec _ (writeTaken_waits htake hgate rfl rfl hok hwait hfifo hwrites hd)
  case buffers => exact hexec _ (writeTaken_buffers htake hgate rfl rfl hok hwait hfifo hwrites hwindow)
  case performs => exact hexec _ (writeTaken_performs htake hgate rfl rfl hok hwait hfifo hwrites hwindow hperform)

end Sys2Proof.Machine

/-! # What a market does (spec/09 R192 to R206, spec/15 R319, spec/22 R432, R437). -/

namespace Sys2Proof.Machine

/-! ## Admission -/

/-- The head of a core's issue buffer leaves it for the ingress queue that takes it. -/
theorem cellAdmit_core {s t : State} {core : Nat} {i : IssueCell} {rest : List IssueCell}
    (hissue : (s.coreSt core).issue = i :: rest) (hheld : i.held = false)
    (henter : (s.modCoreSt core (fun k => { k with issue := rest })).enterMarket (coreCluster core) i.port i.cell = some t) :
    s.cellAdmit (.core core) = t := by
  simp only [State.cellAdmit, hissue, hheld, henter, Bool.false_eq_true, if_false, Option.getD_some]

/-! ## The auction -/

/-- No crossing is overdue: what R198's auction waits for. -/
theorem any_overdue_eq_false {m : Market} (h : m.matched.all (fun x => x.crossed || decide (m.slot < x.slot + 3)) = true) :
    m.matched.any (fun x => !x.crossed && decide (x.slot + 3 ≤ m.slot)) = false := by
  rw [List.any_eq_false]
  intro x hx
  have hintime := List.all_eq_true.mp h x hx
  grind

/-- A head that has come to be aged is counted once, so only where its queue is not noted yet (R206). -/
theorem execHeadAged_counts {s : State} {cl k : Nat} (hq : (s.market cl).queue k ≠ []) (haged : (s.market cl).headAged k = true)
    (hnew : (s.market cl).agedQ.contains k = false) :
    execHeadAged cl k s = .next (s.modMarket cl (fun y => { y with aged := y.aged + 1, agedQ := y.agedQ ++ [k] })) := by
  have hempty : ((s.market cl).queue k).isEmpty = false := by simpa using hq
  simp only [execHeadAged, hempty, haged, hnew, Bool.not_true, Bool.or_false, Bool.false_eq_true, if_false]

/-! ## Crossings -/

/-- Appending each item's value to the list under its key, one by one: the list under a key grows by the values of the items of
that key, in their order. -/
theorem tget_foldl_append {α β : Type} (key : β → Nat) (val : β → α) (l : List β) (t : Tab (List α)) (e : Nat) :
    tget (l.foldl (fun u x => tset u (key x) (tget u (key x) ++ [val x])) t) e =
      tget t e ++ (l.filter (fun x => key x == e)).map val := by
  induction l generalizing t with
  | nil => simp
  | cons x l ih =>
    rw [List.foldl_cons, ih, tget_tset]
    by_cases h : key x = e
    · simp [h]
    · simp [h, Ne.symm h]

/-- The matches that cross now: those of two slots before that have not crossed yet (R196). -/
def Market.dueMatches (m : Market) : List Matched := m.matched.filter (fun x => !x.crossed && decide (x.slot + 2 ≤ m.slot))

theorem cellCross_buf0 (s : State) (cl e : Nat) :
    tget ((s.cellCross cl).market cl).buf0 e = tget (s.market cl).buf0 e ++
      (((s.market cl).dueMatches.filter (fun x => x.cell.cell.cls == false && x.egress == e)).map (·.cell)) := by
  rw [State.cellCross, market_modMarket_same]
  refine (tget_foldl_append Matched.egress Matched.cell _ _ e).trans ?_
  simp only [List.filter_filter, Market.dueMatches, Bool.and_assoc, Bool.and_left_comm]

theorem cellCross_buf1 (s : State) (cl e : Nat) :
    tget ((s.cellCross cl).market cl).buf1 e = tget (s.market cl).buf1 e ++
      (((s.market cl).dueMatches.filter (fun x => x.cell.cell.cls && x.egress == e)).map (·.cell)) := by
  rw [State.cellCross, market_modMarket_same]
  refine (tget_foldl_append Matched.egress Matched.cell _ _ e).trans ?_
  simp only [List.filter_filter, Market.dueMatches, Bool.and_assoc, Bool.and_left_comm, beq_true]

/-! ## Egress buffers -/

section
variable {s t : State} {cl e : Nat} {c : MCell} {rest : List MCell}

theorem egressDrain_class1 (hbuf : tget (s.market cl).buf1 e = c :: rest) (htook : s.deliver cl e c = .took t) :
    s.egressDrain cl e =
      (t.modMarket cl (fun k => { k with buf1 := tset k.buf1 e ((tget k.buf1 e).drop 1) })).clearShort cl e c.age := by
  simp only [State.egressDrain, State.drainHead, hbuf, htook, if_true]

/-- Class 0 has its turn where no cell of class 1 waits. -/
theorem egressDrain_class0 (hnone : tget (s.market cl).buf1 e = []) (hbuf : tget (s.market cl).buf0 e = c :: rest)
    (htook : s.deliver cl e c = .took t) :
    s.egressDrain cl e =
      (t.modMarket cl (fun k => { k with buf0 := tset k.buf0 e ((tget k.buf0 e).drop 1) })).clearShort cl e c.age := by
  simp only [State.egressDrain, State.drainHead, hnone, hbuf, htook, Bool.false_eq_true, if_true, if_false, Option.getD_some]

end

/-! ## Flushes and purges

The proofs about `State.purge` unfold it by `delta`: the equations that `unfold` and `simp` would derive for it are costly. -/

theorem flushOne_line {s : State} {key i : Nat} {ln : CoLine} (hline : (s.agn key).buf[i]? = some ln) :
    let t := (s.modAgn key (fun a => { a with buf := a.buf.take i ++ a.buf.drop (i + 1) })).flushLine key ln
    s.flushOne key i = if (t.agn key).buf.isEmpty then t.tapFlushed key (t.agn key).stamp else t := by
  simp only [State.flushOne, hline]

theorem purge_tag (s : State) (cl ctx : Nat) : s.purge cl ctx none = s.purgeCancelled cl ctx none := by
  delta State.purge
  cases htag : (s.purgeCancelled cl ctx none).tagJob cl ctx <;> simp only [htag]

/-- A purge of a colour of the one dynamic graph of a tag's job: the colour itself is purged where it has met lost data, and then
the activation that has the colour is settled. -/
theorem purge_colour {s s1 t : State} {cl ctx c job g : Nat} {a : Activation} (hs1 : s.purgeCancelled cl ctx (some c) = s1)
    (htag : s1.tagJob cl ctx = some job) (hgraph : s1.dynamicGraphs job = [g])
    (ht : (if s1.hurtColour job g c then s1.purgeColour job g c else s1) = t) (hact : t.activation job g c = some a) :
    s.purge cl ctx (some c) = t.settleActivation job g a := by
  delta State.purge
  simp only [hs1, htag, hgraph, List.foldl_cons, List.foldl_nil, ht, hact]

/-- Settles O42: each event of the market is enabled by its hypotheses and does what its operation does then. -/
theorem marketEvents : Obligations.MarketEvents := by
  intro s cl m
  refine ⟨fun core i rest t hissue hheld henter => ?admission, fun hcrossed => ?auction, fun k hq haged hnew => ?aged, ?cross,
    fun e c rest t hbuf htook => ?class1, fun e c rest t hnone hbuf htook => ?class0, fun key i ln hline => ?flush,
    fun ctx => ?purgeTag, fun ctx c job g a htag hgraph => ?purgeColour⟩
  case admission => exact (exec_cellAdmit ..).trans (congrArg Host.Outcome.next (cellAdmit_core hissue hheld henter))
  case auction =>
    have hruns := ne_true_of_eq_false (any_overdue_eq_false hcrossed)
    refine ⟨_, (exec_auction cl s).trans (congrArg Host.Outcome.next (if_neg hruns)), rfl, ?_⟩
    rw [market_modMarket_same]
    rfl
  case aged => exact (exec_headAged ..).trans <| execHeadAged_counts hq haged hnew
  case cross => exact ⟨_, exec_cellCross cl s, fun e => ⟨cellCross_buf0 s cl e, cellCross_buf1 s cl e⟩⟩
  case class1 => exact (exec_egressDrain ..).trans (congrArg Host.Outcome.next (egressDrain_class1 hbuf htook))
  case class0 => exact (exec_egressDrain ..).trans (congrArg Host.Outcome.next (egressDrain_class0 hnone hbuf htook))
  case flush => exact (exec_agnFlush ..).trans (congrArg Host.Outcome.next (flushOne_line hline))
  case purgeTag => exact (exec_purge ..).trans (congrArg Host.Outcome.next (purge_tag s cl ctx))
  case purgeColour =>
    intro t hact
    exact (exec_purge ..).trans (congrArg Host.Outcome.next (purge_colour rfl htag hgraph rfl hact))

end Sys2Proof.Machine

/-! # The machine right after reset (spec/02 R51, spec/09 R206, spec/12 R264, spec/16 R327,
spec/18 R379, spec/23 R451, R459). -/

namespace Sys2Proof.Machine

/-! ## What the tables read right after reset

A table that holds nothing reads its entries' reset values; of all tables read here, that of the jobs alone holds an entry. -/

@[simp] theorem tget_nil {α : Type} [Inhabited α] (k : Nat) : tget ([] : Tab α) k = default := rfl

@[simp] theorem strand_reset (sid : Nat) : State.reset.strand sid = {} := tget_nil _
@[simp] theorem frame_reset (core f : Nat) : State.reset.frame core f = {} := tget_nil _
@[simp] theorem part_reset (root : Nat) : State.reset.part root = {} := tget_nil _
@[simp] theorem market_reset (cl : Nat) : State.reset.market cl = {} := tget_nil _
@[simp] theorem matEng_reset (k : Nat) : State.reset.matEng k = {} := tget_nil _
@[simp] theorem matCtx_reset (k : Nat) : State.reset.matCtx k = {} := tget_nil _
@[simp] theorem hound_reset (q : Nat) : State.reset.hound q = {} := tget_nil _
@[simp] theorem kEngine_reset (q i : Nat) : State.reset.kEngine q i = {} := tget_nil _
@[simp] theorem ucMod_reset (die m : Nat) : State.reset.ucMod die m = {} := tget_nil _

@[simp] theorem job_reset_zero : State.reset.job 0 = { state := 1 } := rfl
theorem job_reset_ne {j : Nat} (h : j ≠ 0) : State.reset.job j = {} := if_neg h

/-- Job 0 differs from a job that was never created in its state alone. -/
theorem job_reset (j : Nat) : State.reset.job j = { state := (State.reset.job j).state } := by
  by_cases h : j = 0
  · rw [h, job_reset_zero]
  · rw [job_reset_ne h]

/-! ## What the registers hold right after reset -/

section
variable (i : Issuer) (u n : Nat)

theorem tvec_reset : State.reset.sysRegValue i u .tvec = 0 := congrArg Job.tvec (job_reset _)
theorem fqcfg_reset : State.reset.sysRegValue i u .fqcfg = 0 := congrArg Job.fqcfg (job_reset _)

/-- Every engine of a kennel is in service. -/
theorem knOut_reset (q : Nat) : State.reset.knOut q = 0 := by
  simp [State.knOut]

/-- CWMASK is stored complemented, so that a table that holds nothing keeps every way. -/
theorem cwmask_reset : State.reset.sysRegValue i u (.cwmask n) = BitVec.allOnes 64 := BitVec.not_zero

theorem mestat_reset : State.reset.sysRegValue i u .mestat = 0 := by
  show num ((State.reset.matEng u).quar.toNat * 2 ^ 63 + (State.reset.matEng u).qcol % 256 * 256 +
    (State.reset.matEng u).qrow % 128) = 0
  rw [matEng_reset]
  decide

theorem uccfg_reset : State.reset.sysRegValue i u (.uccfg n) = 0x4000A := by
  show num ((State.reset.ucMod u n).lim * 2 ^ 16 + (State.reset.ucMod u n).win) = 0x4000A
  rw [ucMod_reset]
  decide

theorem meas_reset : State.reset.sysRegValue i u (.meas n) = 0 := by
  show num (bits 0 (64 * (n % 4)) 64) = 0
  simp [bits, num]

end

/-- Settles O56: memory and every table but that of the jobs hold nothing, so each entry reads its reset value. -/
theorem resetState : Obligations.ResetState := by
  refine ⟨fun _ => rfl, rfl, fun sid => ?strands, fun core f => ?frames, fun i u => ?registers, fun k => ?contexts,
    ?jobZero, fun j hj => ?jobs⟩
  case strands => exact congrArg Strand.live (strand_reset sid)
  case frames => exact congrArg Frame.used (frame_reset core f)
  case registers =>
    have hpart {α : Type} (f : Partition → α) : f (State.reset.part i.root) = f {} := congrArg f (part_reset _)
    have hmarket {α : Type} (f : Market → α) : f (State.reset.market u) = f {} := congrArg f (market_reset u)
    exact ⟨hpart Partition.mmcfg, hpart Partition.epoch, hmarket Market.cfg, fun n => hmarket (fun m => tget m.mcg n),
      congrArg (fun e : MatEng => num e.mchkn) (matEng_reset u), mestat_reset i u, congrArg Hound.cfg (hound_reset u),
      hpart Partition.majfail, hpart Partition.qage, rfl, rfl, rfl, rfl, congrArg num (knOut_reset u), rfl,
      hpart (fun p => p.rel.cfg), tvec_reset i u, fqcfg_reset i u, fun n _ => cwmask_reset i u n, uccfg_reset i u,
      meas_reset i u, fun n => ⟨hpart (fun p => tget p.hil n), hpart (fun p => tget p.sset n), rfl⟩⟩
  case contexts => exact congrArg MatCtx.aclean (matCtx_reset k)
  case jobZero => rw [job_reset_zero]
  case jobs => rw [job_reset_ne hj]

end Sys2Proof.Machine

/-! # What the matrix engines do with their cells (spec/12 R242 to R260). -/

namespace Sys2Proof.Machine

/-! ## Contexts and their open operations -/

@[simp] theorem matCtx_modMat_same (s : State) (k : Nat) (f : MatCtx → MatCtx) : (s.modMat k f).matCtx k = f (s.matCtx k) := by
  simp [State.matCtx, State.modMat]

@[simp] theorem matCtx_modOpen_same (s : State) (k : Nat) (f : OpenOp → OpenOp) :
    (s.modOpen k f).matCtx k = { s.matCtx k with opn := (s.matCtx k).opn.map f } :=
  matCtx_modMat_same ..

/-- A rollback restores rows only (R250). -/
@[simp] theorem rollBack_opn (x : MatCtx) : x.rollBack.opn = x.opn := rfl

/-- A row leaves the open operation as covered, or not, as the row's context has it. -/
theorem rowEnd_chk (s : State) (k : Nat) (e : RowEnd) :
    ((s.rowEnd k e).matCtx k).opn.map OpenOp.chk = e.ctx.opn.map OpenOp.chk := by
  cases hu : e.undo <;> simp [State.rowEnd, hu, Function.comp_def]

/-- A cell that is taken joins the cells that end with the operation, so the open operation is another one. -/
theorem matTake_opn_ne {s : State} {k : Nat} {o : OpenOp} (h : (s.matCtx k).opn = some o) (m : MCell) :
    ((s.matTake k m).matCtx k).opn ≠ some o := by
  intro htake
  have hends : o.ends ++ [(m.who, m.report, m.cell.itag)] = o.ends := by
    simpa [State.matTake, h] using congrArg (Option.map OpenOp.ends) htake
  simp at hends

/-- The cell of the context that has its turn is served (R242, R244). -/
theorem matStep_serves {s : State} {cl me cop n : Nat} {m : MCell} (hpick : s.matPick cl me cop = some n)
    (hcell : (s.matCtx (matKey cl me n)).nextCell = some m) (f : Nat → MCell → State) : s.matStep cl me cop f = f n m := by
  simp only [State.matStep, hpick, hcell]

/-! ## The self-check of a row (R257) -/

section
variable {s : State} {cl me n : Nat} {bad : BadElement}

theorem rowCheck_uncovered (h : ((s.matCtx (matKey cl me n)).opn.map OpenOp.chk) = some false) :
    s.rowCheck cl me n bad = (false, s) := by
  obtain ⟨o, ho, hchk⟩ := Option.map_eq_some_iff.mp h
  simp [State.rowCheck, ho, hchk]

theorem rowCheck_covered (h : ((s.matCtx (matKey cl me n)).opn.map OpenOp.chk) = some true) :
    s.rowCheck cl me n bad = (bad.isSome, s.modMatEng (cl * 4 + me) (fun e => { e with chkc := nextCheck e.chkc })) := by
  obtain ⟨o, ho, hchk⟩ := Option.map_eq_some_iff.mp h
  simp [State.rowCheck, ho, hchk]

variable {o : OpenOp} {row : MatCtx → RowEnd} {e : RowEnd} (hopn : (s.matCtx (matKey cl me n)).opn = some o)
  (hlive : o.dead = false) (hrow : row (s.matCtx (matKey cl me n)) = e) (hok : e.status = 0)
include hopn hlive hrow hok

/-- A row of an operation that no check covers is taken over. -/
theorem matRow_uncovered (hchk : e.ctx.opn.map OpenOp.chk = some false) :
    s.matRow cl me n bad row = s.rowEnd (matKey cl me n) e := by
  simp only [State.matRow, hopn, hlive, hrow, hok, rowCheck_uncovered ((rowEnd_chk ..).trans hchk), bne_self_eq_false,
    Bool.false_eq_true, if_false]

/-- A row of a covered operation that passes its check advances CHKCNT. -/
theorem matRow_passes (hchk : e.ctx.opn.map OpenOp.chk = some true) (hbad : bad = none) : s.matRow cl me n bad row =
    (s.rowEnd (matKey cl me n) e).modMatEng (cl * 4 + me) (fun e => { e with chkc := nextCheck e.chkc }) := by
  subst hbad
  simp only [State.matRow, hopn, hlive, hrow, hok, rowCheck_covered ((rowEnd_chk ..).trans hchk), bne_self_eq_false,
    Bool.false_eq_true, if_false, Option.isSome]

/-- A row of a covered operation whose two passes differ fails the check at the element that differs. -/
theorem matRow_mismatches (hchk : e.ctx.opn.map OpenOp.chk = some true) {at0 : Nat × Nat} (hbad : bad = some at0) :
    s.matRow cl me n bad row =
      ((s.rowEnd (matKey cl me n) e).modMatEng (cl * 4 + me) (fun e => { e with chkc := nextCheck e.chkc })).checkFails
        cl me n at0 := by
  subst hbad
  simp only [State.matRow, hopn, hlive, hrow, hok, rowCheck_covered ((rowEnd_chk ..).trans hchk), bne_self_eq_false,
    Bool.false_eq_true, if_false, Option.isSome, Option.getD]

end

/-! ## What a row computes (R249, R253, R254) -/

theorem matClass_of_isSome {f : EFmt} (h : (matClass f).isSome = true) : matClass f = some f.bits := by
  by_cases hi : f.isInt = true <;> simp_all [matClass]

/-- The context after a row of k elements at accumulator row q of a live operation o: the row's products are added group by
group, a scaled row is journalled before its first change, and the progress grows by one. -/
def MatCtx.afterRow (y : MatCtx) (o : OpenOp) (scaled : Bool) (k q : Nat) (a : List FV) (cols : List (List FV)) : MatCtx :=
  { y with
    acc := tset y.acc q (List.zipWith (fun (w : Word) b => (BitVec.ofNat 64 (accElem y.accFmt k w.toNat a b) : Word)) (y.accRow q) cols)
    jrn := if scaled = true ∧ ¬ y.jrn.any (fun j => j.1 == q) then y.jrn ++ [(q, y.accRow q)] else y.jrn, aclean := false
    opn := some { o with prog := (o.prog + 1) % 2 ^ 64 } }

/-- A row whose format, mode, number and operands are in order is applied. -/
theorem applyRow_applies {x y : MatCtx} {f : EFmt} {scaled : Bool} {k q heads : Nat} {as : Except Nat (List FV)} {o : OpenOp}
    {a : List FV} {cols : List (List FV)} {extra : Bool} (hy : y = { x with fp64 := matClass f == some 64 })
    (hopn : x.opn = some o) (hsuits : x.suits f scaled = true) (hmode : (matClass f == some 64) = x.fp64 ∨ x.aclean = true)
    (hq : q < y.rows) (hvals : y.operands scaled k heads as = .ok (a, cols, extra)) :
    x.applyRow f scaled k q heads as = { ctx := y.afterRow o scaled k q a cols, extra := extra } := by
  have hclean : (((matClass f == some 64) != x.fp64) && !x.aclean) = false := by
    rcases hmode with h | h <;> simp [h]
  subst hy
  simp only [MatCtx.applyRow, hsuits, hclean, ge_iff_le, Nat.not_le.mpr hq, hvals, Bool.not_true, Bool.false_eq_true, if_false]
  simp only [MatCtx.afterRow, hopn, Option.map_some, Bool.and_eq_true, Bool.not_eq_true', Bool.not_eq_true]

theorem mmaRow_applies {x : MatCtx} {c : Cell} {f : EFmt} {scaled : Bool} {kk : Nat} (hf : (matClass f).isSome = true)
    (hk : rowK c.cnt.toNat f.bits = some kk) : x.mmaRow (some (f, scaled)) c =
      x.applyRow f scaled kk c.aux.toNat (cellHeads c) (blockVals f scaled c.hdr kk (cellCodes c f)) := by
  simp only [MatCtx.mmaRow, matClass_of_isSome hf, hk]

/-- The entries of a pair of MCSR: the values that both cells present, with their indices (R253). -/
def mcsrEntries (f g : EFmt) (cv ci : Cell) : List (Nat × FV) :=
  (List.range (min (1024 / f.bits) (1024 / g.bits))).filterMap (fun j =>
    if cv.present j ∧ ci.present j then some (ci.elem g.bits j, f.exact (cv.elem f.bits j)) else none)

/-- The blocks of a pair of MBSR: those of W values whose index is present (R254). -/
def mbsrBlocks (f g : EFmt) (cv ci : Cell) : List Nat :=
  (List.range (min (1024 / f.bits / cv.cnt.toNat) (1024 / g.bits))).filter (fun j => ci.present j)

/-- The entries of its blocks: each block stands at the W elements from its index times W on. -/
def mbsrEntries (f g : EFmt) (cv ci : Cell) : List (Nat × FV) :=
  ((mbsrBlocks f g cv ci).map (fun j =>
    (List.range cv.cnt.toNat).filterMap (fun t => if cv.present (j * cv.cnt.toNat + t) then
      some (ci.elem g.bits j * cv.cnt.toNat + t, f.exact (cv.elem f.bits (j * cv.cnt.toNat + t))) else none))).flatten

section
variable {x : MatCtx} {cv ci : Cell} {f g : EFmt} {b : Bool} (hf : f.isInt = false) (hbits : 8 ≤ f.bits)
  (hg : g = .int 16 false ∨ g = .int 32 false)
include hf hbits hg

theorem sparseFmts_allowed : (!sparseFmt f false || !indexFmt g) = false := by
  rcases hg with rfl | rfl <;> simp [sparseFmt, indexFmt, hf, hbits]

/-- MCSR computes the dense row of its entries. -/
theorem sparseRow_mcsr {kk : Nat} (hcop : cv.cop.toNat = 0x083) (hk : rowK cv.cnt.toNat f.bits = some kk)
    (hin : ∀ e ∈ mcsrEntries f g cv ci, e.1 < kk) :
    x.sparseRow (some (f, false)) (some (g, b)) cv ci =
      x.applyRow f false kk cv.aux.toNat 0 (.ok (denseRow kk (mcsrEntries f g cv ci))) := by
  have hnone : (mcsrEntries f g cv ci).any (fun e => decide (e.1 ≥ kk)) = false := by simpa using hin
  unfold mcsrEntries at hnone ⊢
  simp only [MatCtx.sparseRow, sparseFmts_allowed hf hbits hg, hcop, hk, hnone, Bool.and_eq_true, Bool.false_eq_true,
    if_false, if_true]

/-- MBSR computes the dense row of its blocks, each within the row. -/
theorem sparseRow_mbsr (hcop : cv.cop.toNat = 0x084) (hw : cv.cnt.toNat ∈ [4, 8, 16, 32])
    (hfit : ∀ j ∈ mbsrBlocks f g cv ci, ci.elem g.bits j * cv.cnt.toNat + cv.cnt.toNat ≤ matKmax f.bits)
    (hin : ∀ e ∈ mbsrEntries f g cv ci, e.1 < matKmax f.bits) :
    x.sparseRow (some (f, false)) (some (g, b)) cv ci =
      x.applyRow f false (matKmax f.bits) cv.aux.toNat 0 (.ok (denseRow (matKmax f.bits) (mbsrEntries f g cv ci))) := by
  have hnone : (mbsrEntries f g cv ci).any (fun e => decide (e.1 ≥ matKmax f.bits)) = false := by simpa using hin
  have hblocks : (mbsrBlocks f g cv ci).any
      (fun j => decide (ci.elem g.bits j * cv.cnt.toNat + cv.cnt.toNat > matKmax f.bits)) = false := by simpa using hfit
  have hwidth : (!(decide (cv.cnt.toNat = 4) || decide (cv.cnt.toNat = 8) || decide (cv.cnt.toNat = 16) ||
      decide (cv.cnt.toNat = 32))) = false := by
    simpa [← or_iff_not_imp_left] using hw
  unfold mbsrEntries mbsrBlocks at hnone ⊢
  unfold mbsrBlocks at hblocks
  simp only [MatCtx.sparseRow, sparseFmts_allowed hf hbits hg, hcop, hwidth, hblocks, hnone, Bool.false_eq_true,
    if_false, Nat.reduceEqDiff]

end

/-! ## Cells of operations of several cells (R248, R249, R253, R254) -/

/-- The latch as an MLDB cell leaves it: the cell's payload and, if it is scaled, its headers. -/
def MatCtx.afterLoad (y : MatCtx) (scaled : Bool) (c : Cell) : MatCtx :=
  let z := { y with latch := tset y.latch c.aux.toNat c.pay }
  if scaled = false then z else { z with
    hc := tset z.hc c.aux.toNat c.side.toNat
    scl := (List.range c.side.toNat).foldl (fun t h => tset t (c.aux.toNat * 8 + h) (BitVec.ofNat 16 (c.hdr h))) z.scl }

/-- An MLDB cell that suits the latch's format, which the first cell of the operation sets, is loaded. -/
theorem load_loads {x y : MatCtx} {code : Nat} {f : EFmt} {scaled first : Bool} {c : Cell}
    (hy : (if first then { x with lfmt := code, lscl := scaled } else x) = y) (hf : (matClass f).isSome = true) (hcnt : c.cnt = 0)
    (hsuits : y.suits f scaled = true) (haux : c.aux.toNat < 256) (hwide : 16 ≤ f.bits → c.side = 0)
    (hside : scaled = true → c.side ≠ 63) : x.load code (some (f, scaled)) first c = { ctx := y.afterLoad scaled c } := by
  have hrow : ¬ c.aux.toNat > 255 := by omega
  have hnarrow : (decide (f.bits ≥ 16) && c.side != 0) = false := by simpa using hwide
  have hheads : (scaled && decide (c.side.toNat = 63)) = false := by
    simpa using fun h heq => hside h (BitVec.eq_of_toNat_eq heq)
  simp only [MatCtx.load, matClass_of_isSome hf, hy, hcnt, hsuits, hrow, hnarrow, hheads, bne_self_eq_false, Bool.not_true,
    Bool.false_eq_true, if_false]
  cases scaled <;> rfl

section
variable {s : State} {cl me n cop : Nat} {m : MCell} {bad : BadElement} (hpick : s.matPick cl me cop = some n)
  (hcell : (s.matCtx (matKey cl me n)).nextCell = some m)
include hpick hcell

theorem exec_mldb_serves (hcop : cop = 0x080) : exec (.mldb cl me) s =
    .next (((s.matStart cl me n m).rowEnd (matKey cl me n) (((s.matStart cl me n m).matCtx (matKey cl me n)).load
      (tfmt (s.tensor m.who.job m.cell.tid.toNat)) (s.matFmt m.who.job m.cell.tid.toNat)
      (s.matCtx (matKey cl me n)).opn.isNone m.cell)).matClose cl me n m.cell.last) := by
  subst hcop
  rw [exec_mldb, execMldb, matStep_serves hpick hcell, State.mldbStep]

theorem exec_mma_serves (hcop : cop = 0x081) : exec (.mma cl me bad) s =
    .next (((s.matStart cl me n m).matRow cl me n bad
      (fun x => x.mmaRow (s.matFmt m.who.job m.cell.tid.toNat) m.cell)).matClose cl me n m.cell.last) := by
  subst hcop
  rw [exec_mma, execMma, matStep_serves hpick hcell, State.mmaStep]

/-- MCSR and MBSR take the partner with the cell of values. -/
theorem exec_pair_serves {i : Instr} {p : MCell} (hi : (cop, i) = (0x083, .mcsr cl me bad) ∨ (cop, i) = (0x084, .mbsr cl me bad))
    (hpair : (s.matCtx (matKey cl me n)).queue.find? (fun q => q.age != m.age && q.cell.pos == 2 && pairsWith q.cell m.cell) = some p) :
    exec i s = .next ((((s.matStart cl me n m).matTake (matKey cl me n) p).matRow cl me n bad
      (fun x => x.sparseRow (s.matFmt m.who.job m.cell.tid.toNat) (s.matFmt p.who.job p.cell.tid.toNat) m.cell p.cell)).matClose
        cl me n (m.cell.last || p.cell.last)) := by
  rcases hi with h | h <;> cases h
  · rw [exec_mcsr, execMcsr, matStep_serves hpick hcell]
    simp only [State.pairStep, hpair]
  · rw [exec_mbsr, execMbsr, matStep_serves hpick hcell]
    simp only [State.pairStep, hpair]

end

/-- Settles O33: the step that serves each cell, then what its row computes. The clause of MCSR and MBSR names one open operation
both before and after the partner is taken, which no state has (`matTake_opn_ne`); its row is proved here from the state after alone. -/
theorem matrixCells : Obligations.MatrixCells := by
  intro s cl me n m o bad f scaled c k st next row
  have hrow (u : State) (i : Instr) (kk q heads : Nat) (as : Except Nat (List FV)) (scaled last : Bool) (act : MatCtx → RowEnd)
      (hexec : exec i s = .next ((u.matRow cl me n bad act).matClose cl me n last))
      (hact : act (u.matCtx k) = (u.matCtx k).applyRow f scaled kk q heads as) : row u i kk q heads as scaled last := by
    intro a cols extra x y z w hopn hlive hsuits hmode hq hvals
    have happly := hact.trans (applyRow_applies rfl hopn hsuits hmode hq hvals)
    have hchk {b : Bool} (h : o.chk = b) : z.opn.map OpenOp.chk = some b := congrArg some h
    have hends {t : State} (h : u.matRow cl me n bad act = t) : exec i s = .next (t.matClose cl me n last) := h ▸ hexec
    exact ⟨fun h => hends (matRow_uncovered hopn hlive happly rfl (hchk h)),
      fun h => ⟨fun hb => hends (matRow_passes hopn hlive happly rfl (hchk h) hb),
        fun p hb => hends (matRow_mismatches hopn hlive happly rfl (hchk h) hb)⟩⟩
  refine ⟨?mldb, ?mma, ?pair⟩
  case mldb =>
    rintro code ⟨hpick, hcell, -⟩ hcode hfmt hf hcnt x y z hsuits haux hwide hside
    rw [exec_mldb_serves hpick hcell rfl, hfmt, ← hcode, load_loads rfl hf hcnt hsuits haux hwide hside]
    rfl
  case mma =>
    rintro kk ⟨hpick, hcell, -⟩ hfmt hf hk
    refine hrow _ _ _ _ _ _ _ _ _ (exec_mma_serves hpick hcell rfl) ?_
    rw [hfmt, mmaRow_applies hf hk]
  case pair =>
    rintro cop i p g b kk es hi ⟨hpick, hcell, -⟩ hcop hpair hfv hfi hf hbits hg hes hin
    refine hrow _ _ _ _ _ _ _ _ _ (exec_pair_serves hpick hcell hi hpair) ?_
    rw [hfv, hfi]
    rcases hi with h | h <;> cases h
    case inl =>
      obtain ⟨hk, rfl⟩ := hes
      exact sparseRow_mcsr hf hbits hg hcop hk hin
    case inr =>
      obtain ⟨hw, rfl, hfit, rfl⟩ := hes
      exact sparseRow_mbsr hf hbits hg hcop hw hfit hin

end Sys2Proof.Machine

/-! # Gathers, zeroing, drains, checks and images of the matrix engines (spec/12 R242, R252 to R260). -/

namespace Sys2Proof.Machine

section
variable {s : State} {cl me n : Nat} {m : MCell} {bad : BadElement}

/-! ## Cells that the contexts queue -/

/-- A gather that no address stops completes with its cell; the indices applied before a fault are not gathered again (R252). -/
theorem gatherStep_gathers {g : EFmt} {s0 s3 : State} {done : Nat} (hgo : s.gate m.who.job (waiterCell m) = .go)
    (hfmt : s.cellFmt m.who.job m.cell.tid.toNat = some g) (hindex : indexFmt g = true)
    (h0 : (if (s.matCtx (matKey cl me n)).opn.isNone then s.matOpen cl me n m else s) = s0)
    (hdone : ((s0.matCtx (matKey cl me n)).opn.elim 0 OpenOp.gidx) = done)
    (hgather : (s0.modOpen (matKey cl me n) (fun o => { o with stamp := max o.stamp m.stamp })).gatherCell cl me n m bad
      (((List.range 32).filter (fun j => m.cell.present j && decide (done ≤ j))).map (fun j => (j, m.cell.elem g.bits j))) = (none, s3))
    (hopn : (s3.matCtx (matKey cl me n)).opn.isSome = true) :
    s.gatherStep cl me n m bad = ((s3.modOpen (matKey cl me n) (fun o => { o with gidx := 0 })).matStart cl me n m).matClose cl me n
      m.cell.last := by
  have hopen : (s3.matCtx (matKey cl me n)).opn.isNone = false := by simpa using hopn
  cases ho : (s0.matCtx (matKey cl me n)).opn
  all_goals
    simp only [ho, Option.elim] at hdone
    subst hdone
    simp only [State.gatherStep, hgo, hfmt, hindex, h0, ho, ge_iff_le, hgather, hopen, Bool.not_true, Bool.false_eq_true, if_false]

/-- MZERO clears the accumulator and makes its values defined again (R255). -/
theorem mzeroStep_clears (hcnt : m.cell.cnt = 0) (haux : m.cell.aux = 0) : s.mzeroStep cl me n m =
    ((s.matStart cl me n m).modMat (matKey cl me n) (fun y => { y with acc := [], aclean := true, accUndef := false })).matFinish
      cl me n 0 := by
  simp only [State.mzeroStep, hcnt, haux, bne_self_eq_false, Bool.or_self, Bool.false_eq_true, if_false]

/-- MCHK checks its row without touching the accumulator (R257). -/
theorem mchkStep_checks {extra : Bool} (hrow : ((s.matStart cl me n m).matCtx (matKey cl me n)).checkRow
      (s.matFmt m.who.job m.cell.tid.toNat) m.cell = (0, extra)) : s.mchkStep cl me n m bad =
    let w := ((s.matStart cl me n m).modOpen (matKey cl me n) (fun o => { o with scx := extra })).modMatEng (cl * 4 + me)
      (fun e => { e with chkc := nextCheck e.chkc })
    bad.elim (w.matFinish cl me n 0) (fun p => (w.matFinish cl me n 0x47).quarantine cl me p) := by
  cases bad <;> simp only [State.mchkStep, hrow, bne_self_eq_false, Bool.false_eq_true, if_false, Option.elim]

/-- A drain whose accumulator is defined and whose first cell is well formed sends the accumulator's cells (R256). -/
theorem mdrnStep_drains {f : EFmt} {scaled : Bool} {mode : Rnd} {cr : Nat} {o : OpenOp} {st : State} {x : MatCtx} {cells : List Cell}
    (hst : s.matStart cl me n m = st) (hx : st.matCtx (matKey cl me n) = x) (hcnt : m.cell.cnt.toNat < 2)
    (hbound : bitOf x.cfg0.toNat 0 = true) (hfmt : s.matFmt m.who.job (wbits x.cfg0 28 12) = some (f, scaled))
    (hmode : rndOf (wbits x.cfg0 20 3) = some mode) (hcr : drainCells x.fp64 f = some cr) (hdef : x.accUndef = false)
    (hopn : x.opn = some o)
    (hcells : (List.range (x.rows * cr)).map (fun i =>
      drainCell x m.cell (tfmt (s.tensor m.who.job (wbits x.cfg0 28 12))) f scaled mode i (x.rows * cr) cr) = cells)
    (hok : ∀ d ∈ cells.take 1, s.cellOk cl m.who.job d = true) : s.mdrnStep cl me n m =
    (st.modMat (matKey cl me n) (fun y => { y with
      drains := x.rows * cr, dstat := 0, dcts := o.stamp, drainOp := some (0, m), acc := if m.cell.cnt.getLsbD 0 then y.acc else []
      aclean := y.aclean || !m.cell.cnt.getLsbD 0, accUndef := y.accUndef && m.cell.cnt.getLsbD 0 })).sendDrains cl me n false m
      o.stamp cells := by
  have hall : (cells.take 1).all (fun d => s.cellOk cl m.who.job d) = true := List.all_eq_true.mpr hok
  simp only [State.mdrnStep, hst, hx, ge_iff_le, Nat.not_le.mpr hcnt, hbound, hfmt, hmode, hcr, hdef, hopn, hcells, hall, Bool.not_true,
    Bool.false_eq_true, if_false]

/-! ## Images (R259, R260) -/

/-- Cell i of an image that goes out through AGN `ag`, whose record is r. -/
def imageCell (c : Cell) (ag : Nat) (r : AgnRec) (pays : List (BitVec 1024)) (i : Nat) : Cell :=
  { dcl := 63, dport := BitVec.ofNat 5 (16 + ag / 2), pos := BitVec.ofNat 2 (ag % 2), tid := BitVec.ofNat 12 r.tid
    ctx := c.ctx, col := c.col, itag := c.itag, aux := BitVec.ofNat 16 (c.aux.toNat + i), side := 63
    car := maskCar (List.replicate 128 true), pay := pays.getD i 0 }

section
variable {s1 : State} {cop ag : Nat} (htake : s.takeInbox cl me cop = some (m, s1))
  (hbound : s.matBound cl me m.cell.ctx.toNat = some n) (hquar : (s.matEng (cl * 4 + me)).quar = false)
  (hsaving : (s.matCtx (matKey cl me n)).saving = none) (hloading : (s.matCtx (matKey cl me n)).loading = none)
  (hcnt : m.cell.cnt = 0) (hagn : s.imageAgn cl m = some ag)
include htake hbound hquar hsaving hloading hcnt hagn

/-- MSAVE sends the image of a context whose accumulator is defined, at the stamp that the context starts at. -/
theorem msaveStep_sends (hcop : cop = 0x088) (hdef : (s.matCtx (matKey cl me n)).accUndef = false) {pays : List (BitVec 1024)}
    (hpays : imageCells (s.matCtx (matKey cl me n)) (s.timeline (engCtx cl me n)).tl = pays) :
    s.msaveStep cl me =
      let t := s.startStamp (engCtx cl me n) m.stamp
      (s1.modMat (matKey cl me n) (fun y => { y with saving := some m, saves := pays.length, sstat := 0, scts := t })).sendDrains
        cl me n true m t ((List.range pays.length).map (imageCell m.cell ag
          (agnRec (s.agn (agnKey cl m.cell.ctx.toNat ag)).words) pays)) := by
  subst hcop
  simp only [State.msaveStep, htake, hbound, hquar, hsaving, hloading, hcnt, hagn, hdef, hpays, Option.isSome_none, Bool.or_self,
    bne_self_eq_false, Bool.not_false, Bool.false_eq_true, if_false, if_true, List.length_map, List.length_range]
  rfl

/-- MLOAD holds a context that is parked or has no open operation. -/
theorem mloadStep_holds (hcop : cop = 0x089) (hrole : (agnRec (s.agn (agnKey cl m.cell.ctx.toNat ag)).words).role = 3)
    (hidle : (s.matCtx (matKey cl me n)).parked = true ∨ (s.matCtx (matKey cl me n)).opn = none) :
    s.mloadStep cl me = s1.modMat (matKey cl me n) (fun y => { y with loading := some m }) := by
  subst hcop
  have hbusy : (!(s.matCtx (matKey cl me n)).parked && (s.matCtx (matKey cl me n)).opn.isSome) = false := by
    rcases hidle with h | h <;> simp [h]
  simp only [State.mloadStep, htake, hbound, hquar, hsaving, hloading, hcnt, hagn, hrole, hbusy, Option.isSome_none, Bool.or_self,
    bne_self_eq_false, Bool.false_eq_true, if_false]

end

end

/-- Settles O34: the engine serves the cell of the context that has its turn, or takes the image cell from its inbox, and the
hypotheses of each clause select the branch of its step. -/
theorem matrixControl : Obligations.MatrixControl := by
  intro s s1 cl me n m bad c k st x next owns
  refine ⟨?gather, ?clear, ?drain, ?check, ?save, ?load⟩
  case gather =>
    rintro g s2 s3 ⟨hpick, hcell⟩ hgo hfmt hindex s0 done rfl hgather hopn
    have hdone : (s0.matCtx k).opn.elim 0 OpenOp.gidx = done := by
      dsimp only [done]
      cases (s0.matCtx k).opn <;> rfl
    rw [exec_mgth, execMgth, matStep_serves hpick hcell, gatherStep_gathers hgo hfmt hindex rfl hdone hgather hopn]
  case clear =>
    rintro ⟨hpick, hcell⟩ hcnt haux
    rw [exec_mzero, execMzero, matStep_serves hpick hcell, mzeroStep_clears hcnt haux]
  case drain =>
    rintro f scaled mode cr o ⟨hpick, hcell⟩ hcnt hbound hfmt hmode hcr hdef hopn cells hok
    rw [exec_mdrn, execMdrn, matStep_serves hpick hcell,
      mdrnStep_drains rfl rfl hcnt hbound hfmt hmode hcr hdef hopn rfl hok]
  case check =>
    rintro extra ⟨hpick, hcell⟩ hrow w
    rw [exec_mchk, execMchk, matStep_serves hpick hcell, mchkStep_checks hrow]
    exact ⟨fun hb => by rw [hb, Option.elim_none], fun p hb => by rw [hb, Option.elim_some]⟩
  case save =>
    rintro ag ⟨htake, hbound, hquar, hsaving, hloading, hcnt⟩ hagn hdef y r pays cells t
    rw [exec_msave, execMsave, msaveStep_sends htake hbound hquar hsaving hloading hcnt hagn rfl hdef rfl]
    rfl
  case load =>
    rintro ag ⟨htake, hbound, hquar, hsaving, hloading, hcnt⟩ hagn hrole hidle
    rw [exec_mload, execMload, mloadStep_holds htake hbound hquar hsaving hloading hcnt hagn rfl hrole hidle]

end Sys2Proof.Machine

/-! # Every instruction answers a next state (spec/13 R266, R269). -/

namespace Sys2Proof.Machine

/-- The step goes on: it neither faults nor is refused. -/
def IsNext (r : Res) : Prop := ∃ t, r = .next t

theorem isNext_next (t : State) : IsNext (.next t) := ⟨t, rfl⟩

/-! ## The shared firing operations -/

section
variable (p : Pr) (u : Uses) (ts : List Tgt) (act : State → State) (s : State)

theorem fireWith_isNext (f : Word → Word → Word) : IsNext (fireWith p u ts f s) := by
  unfold fireWith
  split <;> exact isNext_next _

/-- A trap on the operands is held against the block, and the step goes on (R266). -/
theorem fireTrap_isNext (bad : Word → Word → Nat) (f : Word → Word → Word) : IsNext (fireTrap p u ts bad f s) := by
  unfold fireTrap
  split
  · exact isNext_next _
  · exact isNext_next _
  · exact isNext_next _
  · split <;> exact isNext_next _

theorem fireAct_isNext : IsNext (fireAct p u ts act s) := by
  unfold fireAct
  split <;> exact isNext_next _

theorem fireSide_isNext : IsNext (fireSide p u act s) := by
  unfold fireSide
  split <;> exact isNext_next _

theorem fireExit_isNext : IsNext (fireExit p u act s) := by
  unfold fireExit
  split <;> exact isNext_next _

end

theorem fireCopy_isNext (k : Nat) (p : Pr) (ag : BitVec 5) (tk : BitVec 3) (f : Bool) (ta : Tgt) (s : State) :
    IsNext (fireCopy k p ag tk f ta s) :=
  fireSide_isNext ..

/-! ## Instructions that choose their answer themselves -/

theorem execSel_isNext (p : Pr) (ta tb : Tgt) (s : State) : IsNext (execSel p ta tb s) := by
  unfold execSel
  split
  · exact isNext_next _
  · exact isNext_next _
  · split <;> exact isNext_next _

theorem execPutr_isNext (p : Pr) (g : BitVec 13) (s : State) : IsNext (execPutr p g s) := by
  unfold execPutr
  split
  · exact isNext_next _
  · exact isNext_next _
  · exact isNext_next _
  · split <;> exact isNext_next _

/-- Each of the four places where a query's check can stop ends with a status. -/
theorem execKqry_isNext (cl : Nat) (s : State) : IsNext (execKqry cl s) := by
  unfold execKqry
  split
  · exact isNext_next _
  · dsimp only
    split
    · exact isNext_next _
    · split
      · exact isNext_next _
      · split <;> exact isNext_next _

theorem execKjob_isNext (cl : Nat) (s : State) : IsNext (execKjob cl s) := by
  unfold execKjob
  split <;> exact isNext_next _

section
variable (q eng : Nat) (s : State)

theorem execLeaseWakeDone_isNext : IsNext (execLeaseWakeDone q eng s) := by
  unfold execLeaseWakeDone
  dsimp only
  split
  · exact isNext_next _
  · split <;> exact isNext_next _

theorem execGraceExpire_isNext : IsNext (execGraceExpire q eng s) := by
  unfold execGraceExpire
  split <;> exact isNext_next _

theorem execLeaseDrainDone_isNext : IsNext (execLeaseDrainDone q eng s) := by
  unfold execLeaseDrainDone
  dsimp only
  split <;> exact isNext_next _

theorem execWarmTimeout_isNext : IsNext (execWarmTimeout q eng s) := by
  unfold execWarmTimeout
  dsimp only
  split <;> exact isNext_next _

end

/-! ## Every instruction -/

/-- A word answers what its firing operation answers, and so do the few instructions that choose; the meaning of every other
event is written as one next state. -/
theorem exec_isNext (i : Instr) (s : State) : IsNext (exec i s) := by
  unfold exec
  cases i with
  | mov | const | consth | add | sub | mul | mulh | mulhu | and | or | xor | andn | shl | shr | sar | rotl | min | max
  | minu | maxu | abs | neg | clz | ctz | popc | bfx | bfi | sext | zext | teq | tne | tlt | tle | tltu | tleu | tbit
  | addi | muli | andi | ori | xori | shli | shri | sari | teqi | tnei | tlti | tlei | tltui | tleui | bfxi
  | fadd | fsub | fmul | fdiv | fsqrt | fmin | fmax | fcvtFF | fcvtFI | fcvtIF | fteq | ftlt | ftle | fclass =>
    exact fireWith_isNext ..
  | div | divu | rem | remu => exact fireTrap_isNext ..
  | null | getr | ld | pref | rngp | getp | waitn | waitt | waita | waitb | tbp | fence | yield | tlrd | lqry | qclaim
  | srd | trap | pwrq => exact fireAct_isNext ..
  | st | enq | enqm | strm | strms | parm | putp | arv | arvx | expt | atom | red | leash | lrel
  | lpri | launch | qpub | cntr | cancel | cfgl | cfgt | swr | tlbi | ctxs | ctxr => exact fireSide_isNext ..
  | cpy | cpyg | cpys | cpyr => exact fireCopy_isNext ..
  | bro | bri | callo | calli | ret | scall | exit | eret => exact fireExit_isNext ..
  | sel => exact execSel_isNext ..
  | putr => exact execPutr_isNext ..
  | kjob => exact execKjob_isNext ..
  | kqry => exact execKqry_isNext ..
  | leaseWakeDone => exact execLeaseWakeDone_isNext ..
  | graceExpire => exact execGraceExpire_isNext ..
  | leaseDrainDone => exact execLeaseDrainDone_isNext ..
  | warmTimeout => exact execWarmTimeout_isNext ..
  | _ => exact isNext_next _

/-! ## A step -/

/-- Every slot of a mapped block holds a word that decodes. -/
def State.SlotsDecode (s : State) : Prop :=
  ∀ core f n, (s.frame core f).used = true → n < (s.frame core f).slots.length →
    ∃ i, decode ((s.frame core f).slot n).word = .ok i

theorem runSlot_isNext {s : State} (h : s.SlotsDecode) (core f n : Nat) : IsNext (runSlot core f n s) := by
  by_cases hm : (s.frame core f).used = true ∧ n < (s.frame core f).slots.length
  · obtain ⟨hu, hn⟩ := hm
    obtain ⟨i, hd⟩ := h core f n hu hn
    rw [runSlot_mapped hu hn hd]
    exact exec_isNext i _
  · rw [not_and_or, Bool.not_eq_true, Nat.not_lt] at hm
    rw [runSlot_unmapped hm]
    exact isNext_next s

theorem runPick_isNext {s : State} (h : s.SlotsDecode) (p : Pick) : IsNext (runPick p s) := by
  cases p with
  | slot core f n => exact runSlot_isNext h core f n
  | event i =>
    rw [runPick]
    split
    · exact isNext_next s
    · exact exec_isNext i s

theorem stepsOn_of_slotsDecode {s : State} (h : s.SlotsDecode) : s.stepsOn := by
  rw [State.stepsOn]
  cases hag : s.sched.agenda with
  | nil =>
    rw [step_agenda_nil hag]
    exact runPick_isNext (s := s.onSched _) h _
  | cons p ps =>
    rw [step_agenda_cons hag]
    exact runPick_isNext (s := s.onSched _) h p

/-- Settles O60: an instruction answers what its firing operation answers, and a step runs one where the slot's word decodes. -/
theorem nothingStops : Obligations.NothingStops :=
  ⟨exec_isNext, fun _ => stepsOn_of_slotsDecode⟩

end Sys2Proof.Machine

/-! # Fault records answered, pre-emption, and the return of a job (spec/13 R278 to R286). -/

namespace Sys2Proof.Machine

/-! ## FRESUME (R278) -/

section
variable {s : State} {job tag : Nat} {f : FaultRec} (hf : (s.job job).faults.find? (fun g => g.tag == tag) = some f)
include hf

/-- A record answered by a retry is gone, and so are the waits on it. -/
theorem fresume_retries : s.fresume job tag false = s.modJob job (fun x => { x with
    faults := x.faults.filter (fun g => g.tag != tag), blocked := x.blocked.filter (fun y => y.2 != tag) }) := by
  simp only [State.fresume, hf, Bool.false_eq_true, if_false]

/-- A record answered by an abort is gone too, and what waited on it ends with the status of its cause. -/
theorem fresume_aborts : s.fresume job tag true = s.modJob job (fun x => { x with
    faults := x.faults.filter (fun g => g.tag != tag), blocked := x.blocked.filter (fun y => y.2 != tag),
    broken := x.broken ++ ((s.job job).blocked.filter (fun y => y.2 == tag)).map (fun y =>
      (y.1, if f.cause = 0x18 then 0xA2 else if f.cause = 0x19 then 0xA3 else 0x80)) }) := by
  simp only [State.fresume, hf, if_true]

end

/-! ## Pre-emption (R279, R280) -/

section
variable {s : State} {job : Nat} {clusters : List Nat}

theorem exec_preemptRequest_preempts (hlive : (s.job job).state ≠ 0) :
    exec (.preemptRequest job clusters) s = .next (s.preempt job clusters) := by
  rw [exec_preemptRequest, execPreemptRequest, if_neg hlive]

/-- Where no strand is covered, a pre-emption freezes the matrix contexts of the clusters named and does nothing else. -/
theorem preempt_of_covered_nil (hnone : s.covered job clusters = []) : s.preempt job clusters =
    (s.jobMatrices job clusters).foldl (fun t k => t.modMat k (fun m => { m with frozen := true })) s := by
  simp only [State.preempt, hnone, List.map_nil, List.eraseDups_nil, List.foldl_nil, List.append_nil]

end

/-! ## Switch handlers (R281, R283) -/

section
variable {s : State} {sid : Nat} (hheld : thas s.core.holds sid = true) (hfree : (s.strand sid).live = false)
  (hswitch : tgetD 0 s.core.switch sid = 0)
include hheld hfree hswitch

/-- In a free context whose halted strand is held and not switched yet, the handler of its graph starts. -/
theorem handlerStart_starts {x : Strand} {i : Nat} {h : SetDecl} (hx : tget s.core.holds sid = x)
    (hset : handlerOf (s.graph x.who.job x.who.graph).img = some (i, h)) :
    s.handlerStart sid = s.startHandler sid i h.entry x false := by
  subst hx
  simp [State.handlerStart, hheld, hfree, hswitch, hset]

/-- Without a handler the device saves that context itself. -/
theorem handlerStart_saves {x : Strand} (hx : tget s.core.holds sid = x)
    (hnone : handlerOf (s.graph x.who.job x.who.graph).img = none) : s.handlerStart sid = (s.saveContext sid x.pts).2 := by
  subst hx
  simp [State.handlerStart, hheld, hfree, hswitch, hnone]

end

/-- Where the save area can be used, the device writes the record of R286 and frees the hold entry. -/
theorem saveContext_saves {s s1 : State} {sid p u : Nat} {x : Strand} (hx : tget s.core.holds sid = x)
    (hok : s.saveAreaBad x.who.job sid true = 0)
    (hwrite : s.sysWrite (clusterQuarter (sidCluster sid)) x.who.job (s.recordAddr x.who.job sid) p (sidAgent sid)
      (recordWords x ++ List.replicate 43 0) = (u, s1)) :
    s.saveContext sid p = (u, s1.onCores (fun c => { c with holds := tdel c.holds sid, saved := tset c.saved sid x })) := by
  subst hx
  simp only [State.saveContext, hok, hwrite, bne_self_eq_false, Bool.false_eq_true, if_false]

/-! ## The return of a job (R281, R284) -/

theorem returnStrand_restores {s : State} {sid : Nat} {x : Strand} (hx : tget s.core.saved sid = x)
    (hsaved : thas s.core.saved sid = true) (hnone : handlerOf (s.graph x.who.job x.who.graph).img = none) :
    s.returnStrand sid = s.restoreContext sid x.pts := by
  subst hx
  simp only [State.returnStrand, hsaved, if_true, hnone]

/-- A job that left one context returns to it, its stream nodes start again, and its matrix contexts go on. -/
theorem jobRestore_single {s : State} {job sid : Nat} (houts : s.core.outs.filter (fun e => e.2 == job + 1) = [(sid, job + 1)])
    (hcan : s.canReturn sid = true) (hopen : s.pmHolds (sid / 512) = false) :
    let s1 := s.returnStrand sid
    let s2 := (s1.jobGraphs job).foldl (fun t e => (t.nodeStreams job e.1).foldl (fun u z => u.startStream z.1 0) t) s1
    s.jobRestore job = (s2.jobGraphs job).foldl (fun t e => (graphMatrices e.2.img).foldl (fun u k =>
      u.modMat k (fun m => { m with frozen := false })) t) (s2.loadPower (sid / 512) job) := by
  simp only [State.jobRestore, houts, List.map_cons, List.map_nil, List.isEmpty_cons, List.all_cons, List.all_nil, hcan,
    List.any_cons, List.any_nil, hopen, Bool.and_self, Bool.not_true, Bool.or_self, Bool.false_eq_true, if_false,
    List.foldl_cons, List.foldl_nil, List.headD_cons]

/-- Settles O45: each event's conditions select its branch. -/
theorem faultAndPreemptEvents : Obligations.FaultAndPreemptEvents := by
  intro s job
  refine ⟨fun tag f hf => ⟨?retry, ?abort⟩, fun clusters => exec_preemptRequest_preempts, fun clusters hlive hnone => ?idle,
    fun sid => ?held, fun sid => ?left⟩
  case retry => rw [exec_fresumeRetry, execFresumeRetry, fresume_retries hf]
  case abort => rw [exec_fresumeAbort, execFresumeAbort, fresume_aborts hf]
  case idle => rw [exec_preemptRequest_preempts hlive, preempt_of_covered_nil hnone]
  case held =>
    intro x hheld hfree hswitch
    refine ⟨fun i h hset => ⟨_, exec_handlerStart sid s, handlerStart_starts hheld hfree hswitch rfl hset⟩,
      fun hnone u s1 hok hwrite => ?_⟩
    rw [exec_handlerStart, execHandlerStart, handlerStart_saves hheld hfree hswitch rfl hnone, saveContext_saves rfl hok hwrite]
  case left =>
    intro y houts hcan hopen
    refine ⟨?_, returnStrand_restores rfl⟩
    rw [exec_jobRestore, execJobRestore, jobRestore_single houts hcan hopen]

end Sys2Proof.Machine

/-! # A strand takes a trap, and returns from it (spec/13 R266, R270, R271, R274). -/

namespace Sys2Proof.Machine

/-! ## Taking a trap -/

/-- The state in which a trap finds its strand: its blocks have aborted, and ASYNCERR has cleared the asynchronous status. -/
def State.trapped (s : State) (sid : Nat) (t : Trap) : State :=
  if t.cause = causeAsync then (s.abortAll sid).modStrand sid (fun x => { x with async := 0 }) else s.abortAll sid

section
variable (s : State) (sid : Nat) (t : Trap) (blk : Word) (len : Nat)

theorem takeTrap_eq : s.takeTrap sid t blk len =
    let x := (s.trapped sid t).strand sid
    let tvec := ((s.trapped sid t).job x.who.job).tvec
    if x.hmode || tvec == 0 then (s.trapped sid t).killStrand sid statusFaulted
    else (s.trapped sid t).setStrand sid (x.enter t blk len tvec) := rfl

variable {s sid t}

theorem takeTrap_kills {x : Strand} (hx : (s.trapped sid t).strand sid = x)
    (h : x.hmode = true ∨ ((s.trapped sid t).job x.who.job).tvec = 0) :
    s.takeTrap sid t blk len = (s.trapped sid t).killStrand sid statusFaulted := by
  subst hx
  rw [takeTrap_eq]
  exact if_pos (by simpa using h)

theorem takeTrap_enters {x : Strand} (hx : (s.trapped sid t).strand sid = x) (hmode : x.hmode = false)
    (htvec : ((s.trapped sid t).job x.who.job).tvec ≠ 0) : s.takeTrap sid t blk len =
      (s.trapped sid t).setStrand sid (x.enter t blk len ((s.trapped sid t).job x.who.job).tvec) := by
  subst hx
  rw [takeTrap_eq]
  exact if_neg (by simpa [hmode] using htvec)

end

/-! ## The registers of a strand that enters its handler and leaves it -/

theorem toNat_eq_ite (b : Bool) : b.toNat = if b then 1 else 0 := by cases b <;> rfl

theorem tcauseWord_eq (t : Trap) : tcauseWord t = BitVec.ofNat 64 (t.cause * 2 ^ 56 + (if t.fetch then 1 else 0) * 2 ^ 55 +
    (if t.slot.isSome then 1 else 0) * 2 ^ 54 + t.slot.getD 0 * 2 ^ 47 + (if t.agn.isSome then 1 else 0) * 2 ^ 46 +
    t.agn.getD 0 * 2 ^ 41) := by
  simp only [tcauseWord, toNat_eq_ite]

section
variable (x : Strand) (t : Trap) (blk : Word) (len : Nat) (tvec : Word)

/-- The handler finds the cause, the block and the argument in g60 to g62 (R266). -/
theorem enter_trapRegs : tget (x.enter t blk len tvec).regs 60 = tcauseWord t ∧ tget (x.enter t blk len tvec).regs 61 = blk ∧
    tget (x.enter t blk len tvec).regs 62 = t.arg := by
  simp [Strand.enter, tget_tset]

theorem enter_reg_kept {g : Nat} (h : g < 60 ∨ 62 < g) : tget (x.enter t blk len tvec).regs g = tget x.regs g := by
  simp only [Strand.enter]
  rw [tget_tset_ne _ _ (by omega), tget_tset_ne _ _ (by omega), tget_tset_ne _ _ (by omega)]

theorem leaveTrap_reg_kept (skip : Bool) {g : Nat} (h : g < 60 ∨ 62 < g) : tget (x.leaveTrap skip).regs g = tget x.regs g := by
  simp only [Strand.leaveTrap]
  rw [tget_tset_ne _ _ (by omega), tget_tset_ne _ _ (by omega), tget_tset_ne _ _ (by omega)]

/-- Leaving the handler puts back g60 to g62 from the bank, so every register is as it was before the trap (R271). -/
theorem leaveTrap_enter_reg (skip : Bool) (g : Nat) : tget ((x.enter t blk len tvec).leaveTrap skip).regs g = tget x.regs g := by
  obtain rfl | rfl | rfl | h : g = 60 ∨ g = 61 ∨ g = 62 ∨ g < 60 ∨ 62 < g := by omega
  · simp [Strand.leaveTrap, Strand.enter, tget_tset]
  · simp [Strand.leaveTrap, Strand.enter, tget_tset]
  · simp [Strand.leaveTrap, Strand.enter]
  · rw [leaveTrap_reg_kept _ skip h, enter_reg_kept x t blk len tvec h]

theorem leaveTrap_enter_pc (skip : Bool) :
    ((x.enter t blk len tvec).leaveTrap skip).pc = if skip then resumeAddr t blk len else blk := rfl

end

/-- Settles O58: the strand's mode and its job's TVEC decide between the kill and the handler, and the bank holds what the return
puts back. -/
theorem trapAndReturn : Obligations.TrapAndReturn := by
  intro s sid t blk len a b x tvec flag cause resume
  have hcause : tcauseWord t = cause := tcauseWord_eq t
  refine ⟨takeTrap_kills blk len rfl,
    fun hmode htvec => ⟨x.enter t blk len tvec, takeTrap_enters blk len rfl hmode htvec, ?_⟩⟩
  obtain ⟨h60, h61, h62⟩ := enter_trapRegs x t blk len tvec
  exact ⟨hcause, rfl, rfl, rfl, rfl, rfl, rfl, h60.trans hcause, h61, h62, fun _ => enter_reg_kept x t blk len tvec,
    rfl, rfl, rfl, rfl, fun skip => ⟨leaveTrap_enter_reg x t blk len tvec skip, rfl, rfl, leaveTrap_enter_pc x t blk len tvec skip⟩⟩

end Sys2Proof.Machine

/-! # The system words fire (spec/13 R269, R271 to R273, R280, spec/18 R378, spec/23 R455 to R457). -/

namespace Sys2Proof.Machine

section
variable {s : State} {p : Pr} {sys : BitVec 13} {ta : Tgt} {l r : Word}

/-! ## System registers -/

/-- With no write of an older block ahead of it, SRD sends what the register reads and traps where it may not be read. -/
theorem exec_srd_reads (h : s.ready p .l l r) (hpend : s.swrPending = false) : exec (.srd p sys ta) s =
    .next (match s.regRead (s.strandIssuer s.curSid) sys.toNat l with
      | none => s.stopAt causeBadSys (sys.setWidth 64)
      | some v => s.finish (.val v) [ta]) := by
  rw [exec_srd, execSrd, fireAct_go h, hpend, opL_of_ready h (by decide)]
  rfl

theorem exec_swr_resolves {t : State} (h : s.ready p .lr l r)
    (hdone : s.regWrite (s.strandIssuer s.curSid) sys.toNat l r = .done t) :
    exec (.swr p sys) s = .next (s.resolve (.rel (.swr sys.toNat l r) true false)) := by
  rw [exec_swr, execSwr, fireSide_go h, opL_of_ready h (by decide), opR_of_ready h, hdone]

/-! ## Translations and contexts -/

/-- A form other than 0 drops translations whatever number of pages its right token gives. -/
theorem exec_tlbi_resolves (h : s.ready p .lr l r) (hok : tlbiOk sys.toNat (ta != .none) l r s.curJob = true)
    (hform : sys ≠ 0) : exec (.tlbi p sys ta) s =
      .next (s.resolve (.rel (.tlbi sys.toNat (wbits l 0 57) s.curJob (wbits r 0 41)) false true)) := by
  simp only [exec_tlbi, execTlbi, fireSide_go h, opL_of_ready h (by decide : Uses.lr ≠ .none), opR_of_ready h, hok, hform,
    decide_false, Bool.false_and, Bool.not_true, Bool.false_eq_true, if_false]

theorem exec_ctxs_resolves (h : s.ready p .l l r) (hlt : l.toNat < 2048) (hheld : thas s.core.holds l.toNat = true)
    (hcore : sidCore l.toNat = s.fCore) (hjob : (tget s.core.holds l.toNat).who.job = s.curJob) :
    exec (.ctxs p) s = .next (s.resolve (.ctxs l.toNat)) := by
  simp [execCtxs, fireSide_go h, opL_of_ready h, hlt, hheld, hcore, hjob]

theorem exec_ctxr_resolves (h : s.ready p .l l r) (hlt : l.toNat < 2048) (hcur : l.toNat = s.curSid)
    (hserves : s.curStrand.serves = some (l.toNat, true)) (hlast : hdrLast s.cur.hdr = true)
    (hsaved : thas s.core.saved l.toNat = true) (hjob : (tget s.core.saved l.toNat).who.job = s.curJob) :
    exec (.ctxr p) s = .next (s.resolve (.ctxr l.toNat)) := by
  simp [execCtxr, fireSide_go h, opL_of_ready h, hlt, hcur.symm, hserves, hlast, hsaved, hjob]

/-! ## Traps and power words -/

theorem exec_trap_stops (c : BitVec 8) (h : s.ready p .none l r) : exec (.trap p c) s = .next (s.stopAt 0x08 (c.setWidth 64)) :=
  (exec_trap ..).trans (fireAct_go h)

theorem exec_pwrq_sends {v : Nat} (h : s.ready p .none l r) (hv : s.pwrqWord s.curSid sys.toNat = some v) :
    exec (.pwrq p sys ta) s = .next (s.finish (.val (BitVec.ofNat 64 v)) [ta]) := by
  rw [exec_pwrq, execPwrq, fireAct_go h, hv]

end

/-- Settles O23: each word by what it does once it may fire, where its checks pass. -/
theorem systemWords : Obligations.SystemWords := by
  intro s p sys ta c l r
  refine ⟨fun v h hpend hv => ?_, fun h hpend hv => ?_, fun t => exec_swr_resolves, exec_tlbi_resolves, exec_ctxs_resolves,
    exec_ctxr_resolves, exec_trap_stops c, fun v => exec_pwrq_sends⟩
  · rw [exec_srd_reads h hpend, hv]
  · rw [exec_srd_reads h hpend, hv]

end Sys2Proof.Machine

/-! # A majority access, message by message; the hounds and the rebases (spec/14 R290 to R292, spec/15 R301, spec/16 R326, R327). -/

namespace Sys2Proof.Machine

/-! ## A request reaches a copy -/

/-- The leg of a copy whose answer, with its tag, lease and image, is on its way back (R290 step 1, R291). -/
def Leg.answered (l : Leg) (d : MajCopy) : Leg :=
  { l with stage := 2, wts := d.wts, wid := d.wid, rts := d.rts, img := d.img }

section
variable {s : State} {k i : Nat} {o : MajOp} (ho : s.majOp k = o) (hused : o.used = true)
include ho hused

/-- A probe leaves the copy as it is. -/
theorem copyProbe_answers (hwrite : o.write = true) (hprobing : o.writing = false) (hstage : (o.leg i).stage = 1)
    (hans : s.copyAnswers (o.root s) ((o.stacks s).getD i 0) o.addr = true) : s.copyProbe k i =
      s.setMajOp k (o.modLeg i (fun l => l.answered (s.majCopy (o.root s) ((o.stacks s).getD i 0) o.addr))) := by
  subst ho
  have hcond : (!((s.majOp k).used && (s.majOp k).write && !(s.majOp k).writing && ((s.majOp k).leg i).stage == 1)) = false := by
    simp [hused, hwrite, hprobing, hstage]
  simp only [State.copyProbe, hcond, hans, Bool.false_eq_true, if_false, if_true, Leg.answered]

/-- A read answers what the copy holds after it has taken the lease. -/
theorem copyRead_answers (hread : o.write = false) (hstage : (o.leg i).stage = 1)
    (hans : s.copyAnswers (o.root s) ((o.stacks s).getD i 0) o.addr = true) : s.copyRead k i =
      let d := copyTakesRead (s.majCopy (o.root s) ((o.stacks s).getD i 0) o.addr) o.pts
      (s.setCopy ((o.stacks s).getD i 0) o.addr d).setMajOp k (o.modLeg i (fun l => l.answered d)) := by
  subst ho
  have hcond : (!((s.majOp k).used && !(s.majOp k).write && ((s.majOp k).leg i).stage == 1)) = false := by
    simp [hused, hread, hstage]
  simp only [State.copyRead, hcond, hans, Bool.false_eq_true, if_false, if_true, Leg.answered]

theorem copyWrite_takes (hwrite : o.write = true) (hwriting : o.writing = true) (hstage : (o.leg i).stage = 1)
    (hup : s.stackUp (o.root s) ((o.stacks s).getD i 0) = true) : s.copyWrite k i =
      let w := copyTakesWrite (s.majCopy (o.root s) ((o.stacks s).getD i 0) o.addr) o.ts (sidAgent o.sid) o.img
      (s.setCopy ((o.stacks s).getD i 0) o.addr w.2).setMajOp k (o.modLeg i (fun l => { l with
        stage := 2, ok := w.1, rts := w.2.rts })) := by
  subst ho
  have hcond : (!((s.majOp k).used && (s.majOp k).write && (s.majOp k).writing && ((s.majOp k).leg i).stage == 1)) = false := by
    simp [hused, hwrite, hwriting, hstage]
  simp only [State.copyWrite, hcond, hup, Bool.false_eq_true, if_false, if_true]

/-- A repair counts in RDREP of the stack's quarter where the copy's tag has changed (R327). -/
theorem copyRepair_takes (hread : o.write = false) (hstage : (o.leg i).stage = 4)
    (hup : s.stackUp (o.root s) ((o.stacks s).getD i 0) = true) : s.copyRepair k i =
      let st := (o.stacks s).getD i 0
      let c := s.majCopy (o.root s) st o.addr
      let d := copyTakesRepair c o.ts o.wid o.img
      let s1 := (s.setCopy st o.addr d).setMajOp k (o.modLeg i (fun l => { l with stage := 5 }))
      if d.tag = c.tag then s1 else s1.modHound (st / 3) (fun h => { h with rdrep := h.rdrep + 1 }) := by
  subst ho
  have hcond : (!((s.majOp k).used && !(s.majOp k).write && ((s.majOp k).leg i).stage == 4)) = false := by
    simp [hused, hread, hstage]
  simp only [State.copyRepair, hcond, hup, Bool.false_eq_true, if_false, if_true, State.modHound]

/-! ## A probe's answer comes back -/

/-- An answer to a store that still probes counts, and decides nothing but the probe (R290 step 2). -/
theorem majAnswer_probe (hwrite : o.write = true) (hprobing : o.writing = false) (hopen : o.taken = false)
    (hstage : (o.leg i).stage = 2) :
    s.majAnswer k i = s.setMajOp k ((o.modLeg i (fun l => { l with stage := 3 })).decideProbe s) := by
  subst ho
  simp [State.majAnswer, MajOp.modLeg, hused, hwrite, hprobing, hopen, hstage]

end

section
variable {s : State} {o : MajOp} {got : List Leg} (hgot : o.legsWhere s (fun l => l.stage == 3) = got)
include hgot

theorem decideProbe_waits (hfew : got.length < majorityOf (o.copies s)) : o.decideProbe s = o := by
  simp only [MajOp.decideProbe, hgot, hfew, if_true]

/-- A majority of answers fixes the write: above every lease they give, over the newest image (R290 step 2). -/
theorem decideProbe_fixes (hmaj : majorityOf (o.copies s) ≤ got.length) : (o.decideProbe s).writing = true ∧
    (o.decideProbe s).ts = max o.pts (got.foldl (fun m l => max m l.rts) 0 + 1) ∧
    (o.decideProbe s).img = imgPut (newestLeg got).img o.off o.n o.v.toNat := by
  simp only [MajOp.decideProbe, hgot, Nat.not_lt.mpr hmaj, if_false, MajOp.sendAll, and_self]

end

/-! ## Hounds and rebases -/

section
variable {s : State} {q j p : Nat}

theorem houndVisit_visits (hen : bitOf (s.hound q).cfg.toNat 31 = true) (hcell : (s.houndCells q)[(s.hound q).pos]? = some j) :
    s.houndVisit q = (s.houndCell (s.partOf q) j).2.modHound q (fun x => { x with
      pos := x.pos + 1, rep := x.rep + BitVec.ofNat 64 (s.houndCell (s.partOf q) j).1 }) := by
  simp only [State.houndVisit, hen, hcell, Bool.not_true, Bool.false_eq_true, if_false]

/-- A root partition whose largest stamp has come to 3 * 2^45, with no walker at work, rebases (R301). -/
theorem rebase_subtracts (hroot : s.partOf p = p) (hidle : (s.part p).walker = false) (hmax : 3 * 2 ^ 45 ≤ s.maxStamp p) :
    s.rebase p = ((((s.quartersOf p).foldl (fun t q => t.houndPass q) (s.mapStamps p (fun t => max t (2 * rebaseB)))).dropCaches
      (s.quartersOf p)).mapStamps p (fun t => max t rebaseB - rebaseB)).modPart p (fun y => { y with
        epoch := y.epoch + 1, walker := true }) := by
  have hcond : (s.partOf p != p || (s.part p).walker || decide (s.maxStamp p < 3 * 2 ^ 45)) = false := by
    simpa [hroot, hidle] using hmax
  simp only [State.rebase, hcond, Bool.false_eq_true, if_false]

end

/-- Settles O44: each event by the branch that its conditions select; the answers that a probe has decide whether the write is
fixed. -/
theorem majorityEvents : Obligations.MajorityEvents := by
  intro s k i o root st c answers maj
  refine ⟨fun hused hans hstage => ⟨fun hwrite hprobing => ?probe, fun hread => ?read⟩,
    fun hused hwrite hwriting hstage hup => ?write, fun hused hread hstage hup => ?repair,
    fun hused hwrite hprobing hopen hstage => ?answer, fun q j hq hen hcell => ?hound,
    fun p hp hroot hidle hmax => ?rebase, fun p hwalk => ?walker⟩
  case probe => exact congrArg Host.Outcome.next (copyProbe_answers rfl hused hwrite hprobing hstage hans)
  case read => exact congrArg Host.Outcome.next (copyRead_answers rfl hused hread hstage hans)
  case write => exact congrArg Host.Outcome.next (copyWrite_takes rfl hused hwrite hwriting hstage hup)
  case repair => exact congrArg Host.Outcome.next (copyRepair_takes rfl hused hread hstage hup)
  case answer =>
    have hprobe := majAnswer_probe rfl hused hwrite hprobing hopen hstage
    refine ⟨fun hfew => congrArg Host.Outcome.next ?_,
      fun hmaj => ⟨_, congrArg Host.Outcome.next hprobe, decideProbe_fixes rfl hmaj⟩⟩
    exact hprobe.trans (congrArg (s.setMajOp k) (decideProbe_waits rfl hfew))
  case hound => rw [exec_houndVisit, execHoundVisit, if_pos hq, houndVisit_visits hen hcell]
  case rebase =>
    rw [exec_rebase, execRebase, if_pos hp, rebase_subtracts hroot hidle hmax]
    rfl
  case walker =>
    rw [exec_rebaseWalkerDone, execRebaseWalkerDone, if_pos hwalk]
    rfl

end Sys2Proof.Machine

/-! # What the proofs below share. -/

namespace Sys2Proof.Machine

theorem next_congr {s t : State} (h : s = t) : (Host.Outcome.next s : Res) = .next t := congrArg Host.Outcome.next h

/-- A cell that a port takes leaves its inbox, and nothing else changes. -/
theorem takeInbox_state {s s1 : State} {cl port cop : Nat} {m : MCell} (h : s.takeInbox cl port cop = some (m, s1)) :
    ∃ rest, s1 = s.modPort cl port (fun p => { p with inbox := rest }) := by
  unfold State.takeInbox at h
  split at h
  · cases h
  · cases h
    exact ⟨_, rfl⟩

end Sys2Proof.Machine

/-! # Tsuax flits by type (spec/15 R311, R312, spec/20 R402 to R405, R411 to R413, R422, spec/23 R457). -/

namespace Sys2Proof.Machine

/-! ## A flit arrives (R403, R404) -/

section
variable {s : State} {port typ root : Nat} {f : Flit}

/-- A flit whose CRC fails is counted and recorded, and what the link has is acknowledged again. -/
def State.flitBroken (s : State) (port : Nat) : State := ((s.bumpCrc 0).errRecord 0 3 7 63 port 0 0).ackFlit port 0

theorem recvFlit_broken (act : State → Nat → Option State) (hcrc : flitCrcOk f = false) :
    s.recvFlit port typ f act = s.flitBroken port := by
  simp only [State.recvFlit, hcrc, Bool.not_false, if_true, State.flitBroken]

theorem mgmtIn_broken (req right : Nat) (queue : Option Nat) (act : State → Nat → Option (Nat × State)) (hcrc : flitCrcOk f = false) :
    s.mgmtIn port req right f queue act = s.flitBroken port := by
  simp only [State.mgmtIn, hcrc, Bool.false_and, Bool.false_eq_true, if_false]
  exact recvFlit_broken _ hcrc

/-- A flit that is the next of its link is taken, and then acted on. -/
theorem recvFlit_takes (act : State → Nat → Option State) (h : s.flitNext port typ f root) :
    s.recvFlit port typ f act = (act (s.flitTaken port f) root).getD s := by
  obtain ⟨hcrc, htype, hseq, hlane, hroot⟩ := h
  simp only [State.recvFlit, hcrc, htype, hseq, hlane, hroot, bne_self_eq_false, Bool.false_and, Bool.not_true, Bool.false_eq_true,
    if_false, State.flitTaken]

theorem recvFlit_acts {act : State → Nat → Option State} {u : State} (h : s.flitNext port typ f root)
    (hact : act (s.flitTaken port f) root = some u) : s.recvFlit port typ f act = u := by
  rw [recvFlit_takes act h, hact, Option.getD_some]

/-! ## Cells (R405) -/

theorem cellIn_enters {tag : Nat} {g : Graph} {c : Cell} (hc : c = cellOfNumber (flitBits f 128 1280)) (hcl : c.dcl.toNat < 48)
    (hpart : s.partOfCluster c.dcl.toNat = root) (htag : s.ctxTag (flitJob f) c.dcl.toNat = some tag)
    (hg : s.graphFor (flitJob f) c (flitSnode f) = some g) :
    let who : Owner := { launch := g.launch, graph := (s.launch g.launch).graph, phase := (s.launch g.launch).phase,
                         job := flitJob f, core := c.dcl.toNat * 8 }
    s.cellIn root f = ((s.onLnk (fun l => { l with mesh := tmod l.mesh c.dcl.toNat (fun x => x ++ [{
      cell := ({ c with ctx := BitVec.ofNat 6 tag } : Cell).seal, stamp := s.hwmOf root (flitSnode f), snode := flitSnode f
      agent := 2, who := who, age := s.tickNo }]) })).countUp who).tickUp := by
  subst hc
  simp only [State.cellIn, ge_iff_le, Nat.not_le.mpr hcl, decide_false, hpart, bne_self_eq_false, Bool.or_self, Bool.false_eq_true,
    if_false, htag, hg, outsideAgent]

/-! ## Accesses from outside (R311, R406) -/

section
variable (hlo : 1 ≤ flitLen f) (hhi : flitLen f ≤ 192)
include hlo hhi

theorem lenOk_of_le : lenOk f = true := decide_eq_true ⟨hlo, hhi⟩

theorem writeIn_writes {w : Nat} {s1 : State} (hmay : s.allowed (flitSnode f) 43 (flitJob f) none = true)
    (hw : s.outWrite root (flitJob f) (flitWord f 0) (flitBytes f 16 (flitLen f)) = (w, 0, s1)) :
    s.writeIn root f = (s1.onMem (fun m => { m with
      hwm := tset m.hwm (root * 65536 + flitSnode f) (max (s1.hwmOf root (flitSnode f)) w) })).sendCplt root f (flitTag f) 0 := by
  simp only [State.writeIn, lenOk_of_le hlo hhi, rightWrite, hmay, hw, Bool.not_true, Bool.false_eq_true, if_false, if_true]

theorem writeIn_refuses (hmay : s.allowed (flitSnode f) 43 (flitJob f) none = false) :
    s.writeIn root f = (s.sendCplt root f (flitTag f) 0x20).countRefused := by
  simp only [State.writeIn, lenOk_of_le hlo hhi, rightWrite, hmay, Bool.not_true, Bool.not_false, Bool.false_eq_true, if_false, if_true]

theorem readIn_reads {bs : List Byte} (hmay : s.allowed (flitSnode f) 44 (flitJob f) none = true)
    (hread : s.outRead root (flitJob f) (flitWord f 0) (flitLen f) = .ok bs) :
    s.readIn root f = s.sendRdata root f (flitTag f) 0 bs := by
  simp only [State.readIn, lenOk_of_le hlo hhi, rightRead, hmay, hread, Bool.not_true, Bool.false_eq_true, if_false]

theorem readIn_fails {e : Nat} (hmay : s.allowed (flitSnode f) 44 (flitJob f) none = true)
    (hread : s.outRead root (flitJob f) (flitWord f 0) (flitLen f) = .error e) :
    s.readIn root f = s.sendRdata root f (flitTag f) e [] := by
  simp only [State.readIn, lenOk_of_le hlo hhi, rightRead, hmay, hread, Bool.not_true, Bool.false_eq_true, if_false]

theorem readIn_refuses (hmay : s.allowed (flitSnode f) 44 (flitJob f) none = false) :
    s.readIn root f = (s.sendRdata root f (flitTag f) 0x20 []).countRefused := by
  simp only [State.readIn, lenOk_of_le hlo hhi, rightRead, hmay, Bool.not_true, Bool.not_false, Bool.false_eq_true, if_false, if_true]

end

/-! ## Answers (R403, R410) -/

/-- The request of a tag waits for no answer any more. -/
def State.dropReq (s : State) (tag : Nat) : State := s.onLnk (fun l => { l with reqs := l.reqs.filter (fun x => x.tag != tag) })

section
variable {tag st k : Nat} {r : PeerReq} (hreq : s.lnk.reqs.find? (fun x => x.tag == tag) = some r) (hst : st = 0)
include hreq hst

theorem answered_copy (hcopy : r.copy = some k) (hxfer : r.xfer = none) (hused : ((s.dropReq tag).copyOp k).used = true) :
    s.answered tag st f true = (s.dropReq tag).modCopy k (fun o => { o with
      data := if r.off = o.data.length then o.data ++ flitBytes f 8 r.len else o.data, status := 0 }) := by
  subst hst
  unfold State.dropReq at hused
  simp only [State.answered, hreq, hcopy, hxfer, hused, Bool.not_true, decide_true, Bool.and_self, Bool.false_eq_true, if_true,
    if_false, State.dropReq]

theorem answered_xfer (hcopy : r.copy = none) (hxfer : r.xfer = some k) :
    s.answered tag st f false = (s.dropReq tag).modXfer k (fun o => { o with sent := o.sent + r.len, stage := 2 }) := by
  subst hst
  simp only [State.answered, hreq, hcopy, hxfer, bne_self_eq_false, Bool.false_eq_true, if_false, State.dropReq]

end

/-! ## Launches from outside (R411 to R413) -/

/-- A packet has been claimed, written and published in a queue. -/
def State.packetPut (s : State) (qk job p wid : Nat) (ws : List Nat) : State :=
  ((s.modQueue qk (fun x => { x with claim := (s.queue qk).claim + 1 })).sysWrite (qk / 256) job
    ((s.queue qk).slotAddr (s.queue qk).claim) p wid ws).2.queuePublish qk (s.queue qk).claim

theorem packetIn_puts {qk job : Nat} (p wid : Nat) (ws : List Nat) (hq : s.queueOfJob qk job = true) (hjob : (s.job job).state = 1)
    (hroom : (s.queue qk).full = false) (hpm : s.pmHolds (qk / 256) = false) :
    s.packetIn qk job p wid ws = some (0, s.packetPut qk job p wid ws) := by
  simp only [State.packetIn, hq, hjob, hroom, hpm, bne_self_eq_false, Bool.not_true, Bool.or_self, Bool.false_eq_true, if_false]
  rfl

theorem launchIn_answers {u : State} {st : Nat} (hmay : s.allowed (flitSnode f) 46 (flitJob f) (some (flitWord f 0 % 1024)) = true)
    (hput : s.packetIn (flitWord f 0 % 1024) (flitJob f) 0 2 ((List.range 24).map (fun i => flitWord f (1 + i))) = some (st, u)) :
    s.launchIn root f = some (u.sendCplt root f (flitSeq f) st) := by
  simp only [State.launchIn, rightLaunch, hmay, outsideAgent, hput, Bool.not_true, Bool.false_eq_true, if_false, ansTag]

theorem launchIn_refuses (hmay : s.allowed (flitSnode f) 46 (flitJob f) (some (flitWord f 0 % 1024)) = false) :
    s.launchIn root f = some (s.refuse root f) := by
  simp only [State.launchIn, rightLaunch, hmay, Bool.not_false, if_true]

/-! ## Management requests (R422, R457) -/

section
variable {req right : Nat} {queue : Option Nat} {act : State → Nat → Option (Nat × State)} (h : s.flitNext port 6 f root)
  (hreq : flitWord f 0 % 16 = req)
include h hreq

theorem mgmtIn_answers {st : Nat} {u : State} (hmay : (s.flitTaken port f).allowed (flitSnode f) right (flitJob f) queue = true)
    (hact : act (s.flitTaken port f) root = some (st, u)) :
    s.mgmtIn port req right f queue act = u.sendCplt root f (flitSeq f) st := by
  subst hreq
  simp only [State.mgmtIn, bne_self_eq_false, Bool.and_false, Bool.false_and, Bool.false_eq_true, if_false, recvFlit_takes _ h, hmay,
    hact, Bool.not_true, Option.getD_some, ansTag]

theorem mgmtIn_refuses (hmay : (s.flitTaken port f).allowed (flitSnode f) right (flitJob f) queue = false) :
    s.mgmtIn port req right f queue act = (s.flitTaken port f).refuse root f := by
  subst hreq
  simp only [State.mgmtIn, bne_self_eq_false, Bool.and_false, Bool.false_and, Bool.false_eq_true, if_false, recvFlit_takes _ h, hmay,
    Bool.not_false, if_true, Option.getD_some]

end

theorem mgmtLaunchAct_puts {ws : List Word} {p : Nat} {s1 : State}
    (hread : s.cfgWordsFrom root (flitJob f) (mgmtLeft f).toNat 0 24 = .ok (ws, p, s1))
    (hq : s1.queueOfJob (mgmtRight f).toNat (flitJob f) = true) (hjob : (s1.job (flitJob f)).state = 1)
    (hroom : (s1.queue (mgmtRight f).toNat).full = false) (hpm : s1.pmHolds ((mgmtRight f).toNat / 256) = false) :
    s.mgmtLaunchAct root f = some (0, s1.packetPut (mgmtRight f).toNat (flitJob f) p 2 (ws.map (fun w => w.toNat))) := by
  simp only [State.mgmtLaunchAct, hread, outsideAgent]
  exact packetIn_puts p 2 _ hq hjob hroom hpm

theorem cfgAnswer_finish (s : State) {o : CfgOut} {st a b : Nat} {u : State} (ho : o = .finish st a b u) :
    cfgAnswer o s = some (st, u) := by
  rw [ho, cfgAnswer]

theorem cfglAddress_of_right_zero (hright : mgmtRight f = 0) :
    ((mgmtLeft f).toNat + if mgmtRight f = 0 then 0 else 2 ^ 64) = (mgmtLeft f).toNat := by
  rw [if_pos hright, Nat.add_zero]

section
variable (hlev : flitWord f 3 = 3) (hid : (mgmtLeft f).toNat < 2 ^ 32)
include hlev hid

theorem mgmtCancelAct_cancels {u : State} (hcancel : s.cancelOf (flitJob f) 3 (mgmtLeft f).toNat = some u) :
    s.mgmtCancelAct f = (0, u) := by
  simp only [State.mgmtCancelAct, hlev, hcancel, ge_iff_le, Nat.not_le.mpr hid, gt_iff_lt, Nat.reduceLT, decide_false, Bool.or_self,
    Bool.false_eq_true, if_false]

theorem mgmtCancelAct_finds_nothing (hcancel : s.cancelOf (flitJob f) 3 (mgmtLeft f).toNat = none) :
    s.mgmtCancelAct f = (0x30, s) := by
  simp only [State.mgmtCancelAct, hlev, hcancel, ge_iff_le, Nat.not_le.mpr hid, gt_iff_lt, Nat.reduceLT, decide_false, Bool.or_self,
    Bool.false_eq_true, if_false]

end

section
variable (h : s.flitNext port 6 f root) (hreq : flitWord f 0 % 16 = 5)
include h hreq

theorem exec_mgmtSrd_takes : exec (.mgmtSrd port f) s = .next ((s.flitTaken port f).srdIn root f) := by
  simp only [exec_mgmtSrd, execMgmtSrd, hreq, bne_self_eq_false, Bool.and_false, Bool.false_and, Bool.false_eq_true, if_false,
    if_true, recvFlit_takes _ h, Option.getD_some]

theorem exec_mgmtSrd_reads {v : Word} (hmay : (s.flitTaken port f).allowed (flitSnode f) 41 (flitJob f) none = true)
    (hread : (s.flitTaken port f).regRead ((s.flitTaken port f).flitIssuer root f) (flitWord f 3) (mgmtLeft f) = some v) :
    exec (.mgmtSrd port f) s = .next ((s.flitTaken port f).sendRdata root f (flitSeq f) 0 (leBytes 8 v.toNat)) := by
  rw [exec_mgmtSrd_takes h hreq]
  simp only [State.srdIn, rightMgmt, hmay, hread, Bool.not_true, Bool.false_eq_true, if_false, ansTag]

theorem exec_mgmtSrd_refuses (hmay : (s.flitTaken port f).allowed (flitSnode f) 41 (flitJob f) none = false) :
    exec (.mgmtSrd port f) s = .next ((s.flitTaken port f).refuse root f) := by
  rw [exec_mgmtSrd_takes h hreq]
  simp only [State.srdIn, rightMgmt, hmay, Bool.not_false, if_true]

end

theorem mgmtSwrAct_writes {u : State}
    (hwrite : s.regWrite (s.flitIssuer root f) (flitWord f 3) (mgmtLeft f) (mgmtRight f) = .done u) :
    s.mgmtSwrAct root f = (0, u) := by
  simp only [State.mgmtSwrAct, hwrite]

end

/-! ## Every flit -/

theorem exec_broken_flit {s : State} {port : Nat} {f : Flit} (hcrc : flitCrcOk f = false) :
    ∀ i ∈ [Instr.tsuaxCell port f, .tsuaxWrite port f, .tsuaxRead port f, .tsuaxRdata port f, .tsuaxCplt port f,
      .launchFlit port f, .mgmtLaunch port f, .mgmtCntr port f, .mgmtCancel port f, .mgmtCfgl port f, .mgmtCfgt port f,
      .mgmtSrd port f, .mgmtSwr port f, .tsuaxCtrl port f], exec i s = .next (s.flitBroken port) := by
  have recv (typ act) : Host.Outcome.next (s.recvFlit port typ f act) = (.next (s.flitBroken port) : Res) :=
    next_congr (recvFlit_broken act hcrc)
  have mgmt (req right queue act) : Host.Outcome.next (s.mgmtIn port req right f queue act) = (.next (s.flitBroken port) : Res) :=
    next_congr (mgmtIn_broken req right queue act hcrc)
  have hsrd : execMgmtSrd port f s = .next (s.flitBroken port) := by
    simp only [execMgmtSrd, hcrc, Bool.false_and, Bool.false_eq_true, if_false, recv]
  simp only [List.forall_mem_cons]
  exact ⟨recv .., recv .., recv .., recv .., recv .., recv .., mgmt .., mgmt .., mgmt .., mgmt .., mgmt .., hsrd, mgmt .., recv ..,
    List.forall_mem_nil _⟩

/-- Settles O49: what each flit brings, once it has been taken as the next of its link. -/
theorem tsuaxEvents : Obligations.TsuaxEvents := by
  intro s port root f t job left right refused
  have recv {typ : Nat} {act : State → Nat → Option State} {u : State} (h : s.flitNext port typ f root)
      (hact : act t root = some u) : Host.Outcome.next (s.recvFlit port typ f act) = (.next u : Res) :=
    next_congr (recvFlit_acts h hact)
  refine ⟨fun i hi hcrc => exec_broken_flit hcrc i hi, fun h => recv h rfl, ?_, ?_, ?_, ?_, ?_, ?_⟩
  · intro h c tag g hcl hpart htag hg who
    exact recv h (congrArg some (cellIn_enters rfl hcl hpart htag hg))
  · intro h hlo hhi
    exact ⟨fun hmay w s1 hw => recv h (congrArg some (writeIn_writes hlo hhi hmay hw)),
      fun hmay => recv h (congrArg some (writeIn_refuses hlo hhi hmay))⟩
  · intro h hlo hhi
    exact ⟨fun hmay => ⟨fun bs hread => recv h (congrArg some (readIn_reads hlo hhi hmay hread)),
        fun e hread => recv h (congrArg some (readIn_fails hlo hhi hmay hread))⟩,
      fun hmay => recv h (congrArg some (readIn_refuses hlo hhi hmay))⟩
  · intro r tag st hreq u
    refine ⟨fun k h hst hcopy hxfer hused => ?_, fun k h hst hcopy hxfer => ?_⟩
    · exact recv h (congrArg some (answered_copy hreq hst hcopy hxfer hused))
    · exact recv h (congrArg some (answered_xfer hreq hst hcopy hxfer))
  · intro h qk q
    exact ⟨fun hmay hq hjob hroom hpm => recv h (launchIn_answers hmay (packetIn_puts 0 2 _ hq hjob hroom hpm)),
      fun hmay => recv h (launchIn_refuses hmay)⟩
  · intro h n may
    have mgmt {req right : Nat} {queue : Option Nat} {act : State → Nat → Option (Nat × State)} {st : Nat} {u : State} (hn : n = req)
        (hmay : may right queue) (hact : act t root = some (st, u)) :
        Host.Outcome.next (s.mgmtIn port req right f queue act) = (.next (u.sendCplt root f (flitSeq f) st) : Res) :=
      next_congr (mgmtIn_answers h hn hmay hact)
    refine ⟨?_, ?_, ?_, ?_, ?_, ?_, ?_, ?_⟩
    · intro hn qk hmay ws p s1 hread hq hjob hroom hpm q
      exact mgmt hn hmay (mgmtLaunchAct_puts hread hq hjob hroom hpm)
    · intro hn hmay hcntr
      exact mgmt hn hmay (congrArg some (if_neg (Nat.not_le.mpr hcntr)))
    · intro hn hmay hlev hid
      exact ⟨fun u hcancel => mgmt hn hmay (congrArg some (mgmtCancelAct_cancels hlev hid hcancel)),
        fun hcancel => mgmt hn hmay (congrArg some (mgmtCancelAct_finds_nothing hlev hid hcancel))⟩
    · intro hn hmay hright st a b u hrun
      refine mgmt hn hmay (cfgAnswer_finish t (a := a) (b := b) ?_)
      rw [cfglAddress_of_right_zero hright]
      exact hrun
    · intro hn hmay hpart st a b u hrun
      have hcluster : t.partOfCluster (wbits (mgmtLeft f) 0 6) = root := hpart
      exact mgmt hn hmay ((if_neg (by simp [hcluster])).trans (cfgAnswer_finish t hrun))
    · exact fun hn hmay v hread => exec_mgmtSrd_reads h hn hmay hread
    · exact fun hn hmay u hwrite => mgmt hn hmay (congrArg some (mgmtSwrAct_writes hwrite))
    · exact fun hmay => ⟨fun hn => exec_mgmtSrd_refuses h hn hmay, fun hn => next_congr (mgmtIn_refuses h hn hmay)⟩

end Sys2Proof.Machine

/-! # RoCEv2 requests, answers of an XNET transfer, pauses, congestion, and a rank that leaves (spec/15 R311, spec/20 R399,
R407, R408). -/

namespace Sys2Proof.Machine

/-! ## Requests on a queue pair (R407) -/

section
variable {s : State} {r : RoceReq} {qp : Qp} (hqp : tget s.lnk.qps r.qpn = qp) (hvalid : qp.valid = true)
include hqp hvalid

/-- A request whose key is accepted is performed under the pair's job. -/
theorem roceDo_performs {act : State → Qp → Except Nat State} {u : State} (hkey : Config.rkeyOk r.qpn r.rkey = true)
    (hact : act s qp = .ok u) : s.roceDo r act = u := by
  simp only [State.roceDo, hqp, hvalid, hkey, hact, Bool.not_true, Bool.false_eq_true, if_false, if_true]

theorem roceDo_refuses (act : State → Qp → Except Nat State) (hkey : Config.rkeyOk r.qpn r.rkey = false) :
    s.roceDo r act = s.ethSend { qpn := r.qpn, kind := 4 } := by
  simp only [State.roceDo, hqp, hvalid, hkey, Bool.not_true, Bool.false_eq_true, if_false]

theorem roceWrite_performs {w : Nat} {s1 : State} (hkey : Config.rkeyOk r.qpn r.rkey = true)
    (hwrite : s.outWrite qp.part qp.job r.va.toNat r.data = (w, 0, s1)) :
    s.roceWrite r = s1.ethSend { qpn := r.qpn, kind := 3 } := by
  refine roceDo_performs hqp hvalid hkey ?_
  simp only [hwrite, if_true]

theorem exec_roceRdmaRead_answers {bs : List Byte} (hkey : Config.rkeyOk r.qpn r.rkey = true)
    (hread : s.outRead qp.part qp.job r.va.toNat r.len = .ok bs) :
    exec (.roceRdmaRead r) s = .next (s.ethSend { qpn := r.qpn, kind := 5, len := bs.length, data := bs }) := by
  rw [exec_roceRdmaRead, execRoceRdmaRead, roceDo_performs hqp hvalid hkey]
  simp only [hread]

theorem exec_roceUnsupported_refuses : exec (.roceUnsupported r) s = .next (s.ethSend { qpn := r.qpn, kind := 4 }) := by
  rw [exec_roceUnsupported, execRoceUnsupported, hqp, if_pos hvalid]

theorem exec_congestionNotification_slows : exec (.congestionNotification r.qpn) s = .next (s.onLnk (fun l => { l with
    qps := tmod l.qps r.qpn (fun (q : Qp) => { q with rate := q.rate + 1 }) })) := by
  rw [exec_congestionNotification, execCongestionNotification, hqp, if_pos hvalid]

end

/-! ## Answers of an XNET transfer (R408) -/

section
variable {s : State} {cl xf n : Nat} {o : XferOp} (ho : s.xferOp (xferKey cl xf n) = o) (hused : o.used = true)
  (hnet : isXnet o.cell.cell = true) (hstage : o.stage = 1)
include ho hused hnet hstage

theorem roceAnswer_fails (data : List Byte) : s.roceAnswer cl xf n data true =
    (s.modXfer (xferKey cl xf n) (fun x => { x with status := 0x7B, stage := 2 })).xferStep cl xf n := by
  simp only [State.roceAnswer, ho, hused, hnet, hstage, bne_self_eq_false, Bool.not_true, Bool.or_self, Bool.false_eq_true, if_false,
    if_true]

theorem roceAnswer_acknowledges (data : List Byte) (hop : xferNop o.cell.cell ≠ 2) : s.roceAnswer cl xf n data false =
    (s.modXfer (xferKey cl xf n) (fun x => { x with stage := 2 })).xferStep cl xf n := by
  simp only [State.roceAnswer, ho, hused, hnet, hstage, hop, bne_self_eq_false, Bool.not_true, Bool.or_self, Bool.false_eq_true,
    if_false]

section
variable {all data : List Byte} (hop : xferNop o.cell.cell = 2) (hall : (o.data ++ data).take (xferLen o.cell.cell) = all)
include hop hall

theorem roceAnswer_reads_all (hlen : xferLen o.cell.cell ≤ all.length) : s.roceAnswer cl xf n data false =
    (s.modXfer (xferKey cl xf n) (fun x => { x with data := all, stage := 2 })).xferStep cl xf n := by
  simp only [State.roceAnswer, ho, hused, hnet, hstage, hop, hall, ge_iff_le, hlen, bne_self_eq_false, Bool.not_true, Bool.or_self,
    Bool.false_eq_true, if_false, if_true]

theorem roceAnswer_reads_on (hlen : all.length < xferLen o.cell.cell) : s.roceAnswer cl xf n data false =
    s.modXfer (xferKey cl xf n) (fun x => { x with data := all }) := by
  simp only [State.roceAnswer, ho, hused, hnet, hstage, hop, hall, ge_iff_le, Nat.not_le.mpr hlen, bne_self_eq_false, Bool.not_true,
    Bool.or_self, Bool.false_eq_true, if_false, if_true]

end

/-- The timer of a transfer has run out: it ends, or is sent again. -/
theorem roceTimeout_cases :
    s.roceTimeout cl xf n =
      (s.freshFree.2.modXfer (xferKey cl xf n) (fun x => { x with status := 0x7A, stage := 2 })).xferStep cl xf n ∨
    s.roceTimeout cl xf n = s.freshFree.2.xnetSend (xferKey cl xf n) o.cell.cell o.data ∨
    s.roceTimeout cl xf n = (s.freshFree.2.modXfer (xferKey cl xf n) (fun x => { x with data := [] })).xnetSend (xferKey cl xf n)
      o.cell.cell [] := by
  simp only [State.roceTimeout, ho, hused, hnet, hstage, bne_self_eq_false, Bool.not_true, Bool.or_self, Bool.false_eq_true, if_false]
  split
  · split
    · exact .inr (.inr rfl)
    · exact .inr (.inl rfl)
  · exact .inl rfl

end

/-! ## A rank leaves the fabric (R399) -/

/-- The collective `i` of a graph ends here when a rank of it, other than this one, leaves. -/
def State.collLoses (s : State) (job g rank i : Nat) : State :=
  let w := (s.coll job g i).record
  if rank < collRanks w ∧ rank ≠ collRank w then s.collAbort (s.collCluster job g i) job g i 0x72 else s

theorem rankLeft_aborts {s : State} {job g : Nat} (rank : Nat) (h : (s.graph job g).live = true) :
    s.rankLeft job g rank = ((s.graph job g).colls.map (fun e => e.1)).foldl (fun t i => t.collLoses job g rank i) s := by
  simp only [State.rankLeft, h, Bool.not_true, Bool.false_eq_true, if_false, Bool.and_eq_true, decide_eq_true_eq, bne_iff_ne,
    State.collLoses]

/-- Settles O50: each event's conditions select its branch. -/
theorem ethernetEvents : Obligations.EthernetEvents := by
  intro s r cl xf n qp send k o
  refine ⟨fun hvalid => ⟨fun hkey => ⟨fun w s1 hwrite => ?_, fun bs => exec_roceRdmaRead_answers rfl hvalid hkey⟩, fun hkey => ?_,
      exec_roceUnsupported_refuses rfl hvalid, exec_congestionNotification_slows rfl hvalid⟩,
    fun hused hnet hstage => ⟨fun data => ?_, fun hop => ?_, fun hop data => ⟨fun hlen => ?_, fun hlen => ?_⟩, ?_⟩,
    fun port prio on => ?_, fun job g rank hlive => ?_⟩
  · have hdone := next_congr (roceWrite_performs rfl hvalid hkey hwrite)
    exact ⟨(exec_roceRdmaWrite ..).trans hdone, (exec_roceRdmaWriteImm ..).trans hdone⟩
  · exact ⟨(exec_roceRdmaWrite ..).trans (next_congr (roceDo_refuses rfl hvalid _ hkey)),
      (exec_roceRdmaRead ..).trans (next_congr (roceDo_refuses rfl hvalid _ hkey))⟩
  · exact (exec_roceResponse ..).trans (next_congr (roceAnswer_fails rfl hused hnet hstage data))
  · exact (exec_roceResponse ..).trans (next_congr (roceAnswer_acknowledges rfl hused hnet hstage [] hop))
  · exact (exec_roceResponse ..).trans (next_congr (roceAnswer_reads_all rfl hused hnet hstage hop rfl hlen))
  · exact (exec_roceResponse ..).trans (next_congr (roceAnswer_reads_on rfl hused hnet hstage hop rfl hlen))
  · exact ⟨_, exec_roceRetryTimeout .., roceTimeout_cases rfl hused hnet hstage⟩
  · exact exec_pfcPause ..
  · exact (exec_rankLeftFabric ..).trans (next_congr (rankLeft_aborts rank hlive))

end Sys2Proof.Machine

/-! # The transfer units and the kennel gateway take their cells (spec/17 R353, spec/18 R360, R369, R370, spec/20 R408 to R410). -/

namespace Sys2Proof.Machine

/-! ## Transfer cells -/

/-- The operations of a transfer unit, by their codes. -/
def xferWords (cl xf : Nat) : List (Nat × Instr) :=
  [(0x300, .xrd cl xf), (0x301, .xwr cl xf), (0x302, .xrrd cl xf), (0x303, .xrwr cl xf), (0x304, .xprd cl xf),
   (0x305, .xpwr cl xf), (0x306, .xnet cl xf)]

theorem exec_xferWord {cl xf : Nat} {x : Nat × Instr} (hx : x ∈ xferWords cl xf) (s : State) :
    exec x.2 s = .next (s.xferTake cl xf x.1) := by
  simp only [xferWords, List.mem_cons, List.not_mem_nil, or_false] at hx
  rcases hx with rfl | rfl | rfl | rfl | rfl | rfl | rfl
  · exact exec_xrd ..
  · exact exec_xwr ..
  · exact exec_xrrd ..
  · exact exec_xrwr ..
  · exact exec_xprd ..
  · exact exec_xpwr ..
  · exact exec_xnet ..

section
variable {s s1 : State} {cl xf cop : Nat} {m : MCell} (htake : s.takeInbox cl (11 + xf) cop = some (m, s1))
include htake

theorem xferTake_records (hok : s.xferOk cl m = true) :
    s.xferTake cl xf cop = ((s1.timeStart (xferTime cl xf m)).2).onAcc (fun a => { a with
      nextXfer := s.acc.nextXfer % 65536 + 1
      xfers := tset a.xfers (xferKey cl xf (s.acc.nextXfer % 65536))
        { used := true, cell := m, num := (s1.timeline (xferTime cl xf m)).next } }) := by
  obtain ⟨rest, rfl⟩ := takeInbox_state htake
  simp only [State.xferTake, htake, hok, Bool.not_true, Bool.false_eq_true, if_false]
  rfl

theorem xferTake_refuses (hok : s.xferOk cl m = false) :
    s.xferTake cl xf cop = (((s1.timeStart (xferTime cl xf m)).2).timeEnd (xferTime cl xf m)
      (s1.timeline (xferTime cl xf m)).next m.stamp).cellEnd cl m 0x90 m.stamp := by
  simp only [State.xferTake, htake, hok, Bool.not_false, if_true]
  rfl

end

/-- Settles O35: the seven operations share one arrival, which the check of the cell decides. -/
theorem transferCells : Obligations.TransferCells := by
  intro s s1 cl xf m x hx t no s2 n htake
  have hexec := exec_xferWord hx s
  exact ⟨fun hok => hexec.trans (next_congr (xferTake_records htake hok)),
    fun hok => hexec.trans (next_congr (xferTake_refuses htake hok))⟩

/-! ## Kennel cells -/

section
variable {s s1 : State} {cl : Nat} {m : MCell}

/-- Nothing waits at the gateway for a done word's page, so a KJOB cell is taken. -/
theorem exec_kjob_takes (hidle : tget s.ken.ended cl = []) : exec (.kjob cl) s = .next (s.kTake cl) := by
  simp only [exec_kjob, execKjob, hidle, List.find?_nil]

/-- The gateway's record of the job that a KJOB cell brings, under the next number of its timeline. -/
def gateJob (s1 : State) (cl : Nat) (m : MCell) : KJob :=
  { cell := m, num := (s1.timeline (gateTime cl m)).next, cl := cl }

variable (hrun : m.cell.run = 0) (hpos : m.cell.pos = 0)
include hrun hpos

section
variable (htake : s.takeInbox cl 13 0x380 = some (m, s1)) (hn : m.cell.aux.toNat / 4096 < 8) {x : LeaseSlot}
  (hx : s.lease (slotKey m.who.launch (clusterQuarter cl) (m.cell.aux.toNat / 4096)) = x)
include htake hn hx

theorem kTake_joins (hholds : x.holds (m.cell.aux.toNat % 4096) = true) (hkind : kKind (cellPacket m) = x.kind)
    (hpacket : kjobPacketOk (cellPacket m) = true)
    (hroom : (s.kEngine (clusterQuarter cl) (x.kind * 4 + x.eng)).jobs.length < 16) :
    s.kTake cl = ((s1.timeStart (gateTime cl m)).2).modKEngine (clusterQuarter cl) (x.kind * 4 + x.eng)
      (fun e => { e with jobs := e.jobs ++ [gateJob s1 cl m] }) := by
  simp only [State.kTake, htake, hrun, hpos, hn, hx, hholds, hkind, hpacket, bne_self_eq_false, Bool.or_self, Bool.not_true,
    Bool.false_eq_true, if_true, if_false, ge_iff_le, Nat.not_le.mpr hroom]
  rfl

theorem kTake_ends_leaseDead {s3 : State} {u : Nat} (hholds : x.holds (m.cell.aux.toNat % 4096) = false)
    (hdone : ((s1.timeStart (gateTime cl m)).2).kDoneWord (gateJob s1 cl m) 0x62 (s1.startStamp (gateTime cl m) m.stamp)
      (s1.startStamp (gateTime cl m) m.stamp) = .over u s3) :
    s.kTake cl = s3.kOver (gateJob s1 cl m) 0x62 u := by
  have hgate : s.kTake cl = ((s1.timeStart (gateTime cl m)).2).gateOver (gateJob s1 cl m) 0x62
      (s1.startStamp (gateTime cl m) m.stamp) := by
    simp only [State.kTake, htake, hrun, hpos, hn, hx, hholds, bne_self_eq_false, Bool.or_self, Bool.not_false,
      Bool.false_eq_true, if_true, if_false]
    rfl
  rw [hgate, State.gateOver, hdone]

end

theorem exec_kqry_writes {ps : List (Place × Nat)} {u : Nat} {s2 s3 : State} (htake : s.takeInbox cl 13 0x381 = some (m, s1))
    (hs2 : (s1.timeStart (gateTime cl m)).2 = s2) (hcnt : m.cell.cnt = 0) (halign : xbits m.cell 0 0 57 % 8 = 0)
    (hspan : s2.spanVa (clusterQuarter cl) m.who.job true 8 (xbits m.cell 0 0 57) 8 = .ok ps)
    (hwrite : s2.writePieces (s2.partOf (clusterQuarter cl)) (s1.startStamp (gateTime cl m) m.stamp) m.agent ps
      (s2.kqryWord (clusterQuarter cl) m) = .ok (u, s3)) :
    exec (.kqry cl) s = .next ((s3.timeEnd (gateTime cl m) (s1.timeline (gateTime cl m)).next u).cellEnd cl m 0 u) := by
  subst hs2
  simp only [exec_kqry, execKqry, htake, hrun, hpos, hcnt, halign, hspan, hwrite, bne_self_eq_false, Bool.or_self,
    Bool.false_eq_true, if_false]
  rfl

end

/-- Settles O36: the lease and the packet decide what the gateway does with a job, and a query's address is checked. -/
theorem kennelCells : Obligations.KennelCells := by
  intro s s1 cl m c q n x t no s2 p j hrun hpos
  refine ⟨fun htake hidle hn => ⟨fun hholds hkind hpacket hroom => ?_, fun hholds u s3 hdone => ?_⟩,
    fun htake hcnt halign ps u s3 hspan hwrite => ?_⟩
  · rw [exec_kjob_takes hidle, kTake_joins hrun hpos htake hn rfl hholds hkind hpacket hroom]
    rfl
  · rw [exec_kjob_takes hidle, kTake_ends_leaseDead hrun hpos htake hn rfl hholds hdone]
    rfl
  · exact exec_kqry_writes hrun hpos htake rfl hcnt halign hspan hwrite

end Sys2Proof.Machine

/-! # Lease requests, engine states, the power controller and islands (spec/17 R357, spec/18 R364, R365, R371 to R377). -/

namespace Sys2Proof.Machine

/-! ## A request is served (R365) -/

/-- The engines of a kind that are in service. -/
def State.kOwn (s : State) (q kind : Nat) : List Nat :=
  ((List.range 4).map (fun n => kind * 4 + n)).filter (fun n => !(s.kEngine q n).out)

section
variable {s t : State} {q n : Nat} {r : LeaseReq} {rest : List LeaseReq}

theorem exec_leaseServe_head (hheads : s.kHeads q = r :: rest) (hserve : s.kServeHead q r = some t) :
    exec (.leaseServe q) s = .next t := by
  simp only [exec_leaseServe, execLeaseServe, State.kServe, hheads, List.findSome?_cons, hserve]

variable (hbound : r.bound = none)
include hbound

theorem kServeHead_wakes (hroom : s.awakeCount q < s.kBudget q) (hfree : s.kFree q (s.lease r.slot).kind = some n) :
    s.kServeHead q r = some (s.kWake q n r) := by
  simp only [State.kServeHead, hbound, hroom, hfree, Option.isSome_none, Bool.false_eq_true, if_false, decide_true, if_true]

/-- Every engine of the kind is awake, so the lease of one of them is recalled. -/
theorem kServeHead_recalls_own (hawake : (s.kOwn q (s.lease r.slot).kind).all (fun m => (s.kEngine q m).awake) = true)
    (hfree : s.awakeCount q < s.kBudget q → s.kFree q (s.lease r.slot).kind = none)
    (hvictim : s.kVictim q r.prio (s.kOwn q (s.lease r.slot).kind) = some n) :
    s.kServeHead q r = some (s.kRecall q n r) := by
  have hnone : (if decide (s.awakeCount q < s.kBudget q) = true then s.kFree q (s.lease r.slot).kind else none) = none := by
    simpa using hfree
  rw [State.kOwn] at hawake hvictim
  simp only [State.kServeHead, hbound, hnone, hawake, hvictim, Option.isSome_none, Bool.false_eq_true, if_false, if_true]

/-- An engine of the kind sleeps, but the quarter has no room, so the lease of any engine is recalled. -/
theorem kServeHead_recalls_any (hawake : (s.kOwn q (s.lease r.slot).kind).all (fun m => (s.kEngine q m).awake) = false)
    (hfull : s.kBudget q ≤ s.awakeCount q) (hvictim : s.kVictim q r.prio (List.range 32) = some n) :
    s.kServeHead q r = some (s.kRecall q n r) := by
  rw [State.kOwn] at hawake
  simp only [State.kServeHead, hbound, Nat.not_lt.mpr hfull, hawake, hvictim, Option.isSome_none, decide_false, Bool.not_false,
    Bool.false_eq_true, if_false, if_true]

end

/-! ## An engine wakes, drains, warms and sleeps (R357, R364) -/

section
variable {s : State} {q i : Nat}

theorem exec_leaseWakeDone_holds {k : Nat} (hst : (s.kEngine q i).state = 2) (hrel : (s.kEngine q i).rel = false)
    (hslot : (s.kEngine q i).slot = k + 1) : exec (.leaseWakeDone q i) s =
      .next ((((s.modKEngine q i (fun y => { y with state := 3, age := s.tickNo })).slotState k 3).slotReady k).tickUp) := by
  simp only [exec_leaseWakeDone, execLeaseWakeDone, hst, hrel, hslot, bne_self_eq_false, Nat.succ_ne_zero, decide_false, Bool.or_self,
    Bool.false_eq_true, if_false, Nat.add_sub_cancel]

theorem exec_leaseWakeDone_drains (hst : (s.kEngine q i).state = 2) (hrel : (s.kEngine q i).rel = true) :
    exec (.leaseWakeDone q i) s = .next (s.kDrain q i false) := by
  simp only [exec_leaseWakeDone, execLeaseWakeDone, hst, hrel, bne_self_eq_false, Bool.true_or, Bool.false_eq_true, if_false, if_true]

theorem exec_graceExpire_drains (hst : (s.kEngine q i).state = 4) : exec (.graceExpire q i) s = .next (s.kDrain q i true) := by
  simp only [exec_graceExpire, execGraceExpire, hst, if_true]

theorem exec_leaseDrainDone_warms (hst : (s.kEngine q i).state = 5) (hjobs : (s.kEngine q i).jobs = []) :
    exec (.leaseDrainDone q i) s = .next (s.kWarmed q i) := by
  simp only [exec_leaseDrainDone, execLeaseDrainDone, hst, hjobs, List.isEmpty_nil, decide_true, Bool.and_self, if_true]

theorem exec_warmTimeout_sleeps (hst : (s.kEngine q i).state = 1)
    (hold : ∀ n, n < 32 → (s.kEngine q n).state = 1 → (s.kEngine q i).age ≤ (s.kEngine q n).age) :
    exec (.warmTimeout q i) s = .next (s.modKEngine q i (fun y => { y with state := 0 })) := by
  have hall : (List.range 32).all (fun n => (s.kEngine q n).state != 1 || decide ((s.kEngine q i).age ≤ (s.kEngine q n).age)) =
      true := by
    simpa [Decidable.or_iff_not_imp_left] using hold
  simp only [exec_warmTimeout, execWarmTimeout, hst, hall, decide_true, Bool.and_self, if_true]

/-! ## The power controller (R375) -/

theorem exec_lscaleStep_lowers_scale (h : s.scaleFloor q i < s.lscaleOf q i) :
    exec (.lscaleStep q i false) s = .next (s.setLscale q i (s.lscaleOf q i - 1)) := by
  simp only [exec_lscaleStep, execLscaleStep, State.scaleDown, gt_iff_lt, h, Bool.false_eq_true, if_false, if_true]

theorem exec_lscaleStep_lowers_level {n : Nat} (h : s.lscaleOf q i ≤ s.scaleFloor q i)
    (hall : ∀ r, r ∈ s.regionsOf q → s.lscaleOf q r ≤ s.scaleFloor q r) (hn : s.regionRequest q i = some n)
    (hdrop : s.dropOf q i + 1 < n) : exec (.lscaleStep q i false) s = .next (s.setDrop q i (s.dropOf q i + 1)) := by
  have hfloor : (s.regionsOf q).all (fun r => decide (s.lscaleOf q r ≤ s.scaleFloor q r)) = true := by simpa using hall
  simp only [exec_lscaleStep, execLscaleStep, State.scaleDown, gt_iff_lt, Nat.not_lt.mpr h, hfloor, hn, Option.getD_some, hdrop,
    decide_true, Bool.and_self, Bool.false_eq_true, if_false, if_true]

theorem exec_lscaleStep_raises_level (h : 0 < s.dropOf q i) :
    exec (.lscaleStep q i true) s = .next (s.setDrop q i (s.dropOf q i - 1)) := by
  simp only [exec_lscaleStep, execLscaleStep, State.scaleUp, gt_iff_lt, h, if_true]

theorem exec_lscaleStep_raises_scale (h : s.dropOf q i = 0) (hall : ∀ r, r ∈ s.regionsOf q → s.dropOf q r = 0) :
    exec (.lscaleStep q i true) s = .next (s.setLscale q i (min 255 (s.lscaleOf q i + 1))) := by
  have hnone : (s.regionsOf q).any (fun r => decide (s.dropOf q r > 0)) = false := by
    simpa [Nat.pos_iff_ne_zero] using hall
  simp only [exec_lscaleStep, execLscaleStep, State.scaleUp, h, hnone, gt_iff_lt, Nat.lt_irrefl, Bool.false_eq_true, if_true, if_false]

/-! ## An island hops and droops (R371 to R374) -/

variable {x : Island} (hx : s.island q i = x)
include hx

theorem exec_vfHop_hops {n : Nat} (ht : s.levelTarget q i = some n) (hret : x.ret = false) (hstr : x.str = false)
    (hhop : x.hop = none) (hne : n ≠ x.cur) :
    exec (.vfHop q i) s = .next (s.setIsland q i { x with hop := some n, retry := none }) := by
  simp only [exec_vfHop, execVfHop, hx, ht, hret, hstr, hhop, Option.isSome_none, beq_eq_false_iff_ne.mpr hne, Bool.or_self,
    Bool.false_eq_true, if_false]

theorem exec_vfHopDone_settles {n : Nat} (hhop : x.hop = some n) :
    exec (.vfHopDone q i) s = .next (s.setIsland q i { x with cur := n, hop := none }) := by
  simp only [exec_vfHopDone, execVfHopDone, hx, hhop]

theorem exec_droop_abandons {n : Nat} (hhop : x.hop = some n) : exec (.droop q i) s =
    .next ((s.setIsland q i { x with str := true, hop := none, retry := some n }).onKen (fun k =>
      { k with hopabort := tmod k.hopabort q (fun c => c + 1) })) := by
  simp only [exec_droop, execDroop, hx, hhop]

theorem exec_droop_stretches (hhop : x.hop = none) : exec (.droop q i) s = .next (s.setIsland q i { x with str := true }) := by
  simp only [exec_droop, execDroop, hx, hhop]

theorem exec_droopClear_retries (hstr : x.str = true) :
    exec (.droopClear q i) s = .next (s.setIsland q i { x with str := false, hop := x.retry, retry := none }) := by
  simp only [exec_droopClear, execDroopClear, hx, hstr, if_true]

end

/-! ## Retention (R377) -/

/-- Something asks for the island of a cluster: a wake, a cell of the mesh or a strand. -/
def State.wakeDue (s : State) (cl : Nat) (y : Island) : Prop :=
  y.wake = true ∨ tget s.lnk.mesh cl ≠ [] ∨ s.core.strands.any (fun e => e.2.live && sidCluster e.1 == cl) = true

section
variable {s : State} {cl : Nat} {y : Island} (hy : s.island (clusterQuarter cl) (cl % 12) = y)
include hy

theorem exec_retentionEnter_enters (hret : y.ret = false) (hhop : y.hop = none) (hidle : s.clusterIdle cl = true) :
    exec (.retentionEnter cl) s = .next (s.setIsland (clusterQuarter cl) (cl % 12) { y with ret := true, wake := false }) := by
  simp only [exec_retentionEnter, execRetentionEnter, hy, hret, hhop, hidle, Option.isSome_none, Bool.not_true, Bool.or_self,
    Bool.false_eq_true, if_false]

theorem exec_retentionExit_exits (hret : y.ret = true) (hdue : s.wakeDue cl y) (ok : Bool) (found : List (Nat × List Nat)) :
    exec (.retentionExit cl ok found) s =
      .next (let on := s.setIsland (clusterQuarter cl) (cl % 12) { y with ret := false, wake := false }
        if ok then on else on.coldRestart cl found) := by
  have hasked : (y.wake || !(tget s.lnk.mesh cl).isEmpty || s.core.strands.any (fun e => e.2.live && sidCluster e.1 == cl)) =
      true := by
    simpa only [State.wakeDue, Bool.or_eq_true, Bool.not_eq_true', List.isEmpty_eq_false_iff, or_assoc] using hdue
  simp only [exec_retentionExit, execRetentionExit, hy, hret, hasked, Bool.not_true, Bool.or_self, Bool.false_eq_true, if_false]

end

/-- Settles O46: each event's conditions select its branch. -/
theorem leaseAndPowerEvents : Obligations.LeaseAndPowerEvents := by
  intro s q i cl e x
  refine ⟨fun r rest hheads hbound => ⟨fun n hroom hfree => ?_, fun n hawake hfree hvictim => ?_, fun n hawake hfull hvictim => ?_⟩,
    fun hst => ⟨fun hrel k => exec_leaseWakeDone_holds hst hrel, exec_leaseWakeDone_drains hst⟩, exec_graceExpire_drains,
    exec_leaseDrainDone_warms, exec_warmTimeout_sleeps, exec_lscaleStep_lowers_scale,
    fun h hall n => exec_lscaleStep_lowers_level h hall, exec_lscaleStep_raises_level, exec_lscaleStep_raises_scale,
    fun n => exec_vfHop_hops rfl, fun n hhop => ⟨exec_vfHopDone_settles rfl hhop, exec_droop_abandons rfl hhop⟩,
    exec_droop_stretches rfl, exec_droopClear_retries rfl, exec_retentionEnter_enters rfl,
    fun hret hdue found => ⟨exec_retentionExit_exits rfl hret hdue true found, exec_retentionExit_exits rfl hret hdue false found⟩⟩
  · exact exec_leaseServe_head hheads (kServeHead_wakes hbound hroom hfree)
  · exact exec_leaseServe_head hheads (kServeHead_recalls_own hbound hawake hfree hvictim)
  · exact exec_leaseServe_head hheads (kServeHead_recalls_any hbound hawake hfull hvictim)

end Sys2Proof.Machine

/-! # LEASH, LREL, LQRY and LPRI fire (spec/17 R352, R358, spec/18 R366 to R368). -/

namespace Sys2Proof.Machine

@[simp] theorem lease_modLease_same (s : State) (k : Nat) (f : LeaseSlot → LeaseSlot) :
    (s.modLease k f).lease k = f (s.lease k) := by
  simp [State.lease, State.modLease]

@[simp] theorem cur_modLease (s : State) (k : Nat) (f : LeaseSlot → LeaseSlot) : (s.modLease k f).cur = s.cur := rfl

@[simp] theorem fire_gens (f : Frame) (i : Nat) : (f.fire i).gens = f.gens := rfl

/-- LEASH raises the generation of its slot, resolves with its request and sends the generation (R352). -/
def State.leashed (s : State) (key : Nat) (k : KKind) (tk : BitVec 3) (ta : Tgt) : State :=
  let g := nextGen (s.lease key).gen
  ((s.modLease key (fun x => { x with gen := g })).resolve (.leash key (execLeash.kindNo k) tk.toNat g)).modCur
    (fun f => { (f.send (.val (BitVec.ofNat 64 g)) [ta]) with gens := f.gens ++ [(s.fSlot, key)] })

theorem leashed_gen (s : State) (key : Nat) (k : KKind) (tk : BitVec 3) (ta : Tgt) :
    ((s.leashed key k tk ta).lease key).gen = nextGen (s.lease key).gen :=
  congrArg LeaseSlot.gen (lease_modLease_same s key _)

theorem leashed_gens (s : State) (key : Nat) (k : KKind) (tk : BitVec 3) (ta : Tgt) :
    (s.leashed key k tk ta).cur.gens = s.cur.gens ++ [(s.fSlot, key)] := by
  simp [State.leashed, State.resolve]

theorem leashed_mem (s : State) (key : Nat) (k : KKind) (tk : BitVec 3) (ta : Tgt) : (s.leashed key k tk ta).mem = s.mem := rfl

section
variable {s : State} {p : Pr} {slot : BitVec 5} {l r : Word} {key : Nat} (hslot : s.leaseSlot s.curSid slot.toNat = some key)
include hslot

theorem exec_leash_raises {k : KKind} (tk : BitVec 3) (ta : Tgt) (h : s.ready p .none l r)
    (hfirst : s.leashBefore slot = false) (hk : (s.lease key).kind = execLeash.kindNo k) :
    exec (.leash p k slot tk ta) s = .next (s.leashed key k tk ta) := by
  rw [exec_leash, execLeash, fireSide_go h]
  simp only [hslot, hk, hfirst, bne_self_eq_false, Bool.false_eq_true, if_false, State.leashed]

theorem exec_lrel_resolves (h : s.ready p .none l r) : exec (.lrel p slot) s = .next (s.resolve (.lrel key)) := by
  rw [exec_lrel, execLrel, fireSide_go h, hslot]

theorem exec_lqry_sends (ta : Tgt) (h : s.ready p .none l r) : exec (.lqry p slot ta) s =
    .next ((s.finish (.val (BitVec.ofNat 64 (s.leaseWord key))) [ta]).freeUp) := by
  rw [exec_lqry, execLqry, fireAct_go h, hslot]

theorem exec_lpri_eq (h : s.ready p .l l r) : exec (.lpri p slot) s =
    .next (if l.toNat > 7 then s.stopAt 0x0B else s.resolve (.lpri key l.toNat)) := by
  rw [exec_lpri, execLpri, fireSide_go h, hslot]
  simp only [opL_of_ready h (by decide)]

end

/-- Settles O21: the slot is declared, so each word does what it does with its slot. -/
theorem leaseWords : Obligations.LeaseWords := by
  intro s p slot tk ta l r key hslot
  refine ⟨fun h hfirst k hk => ⟨_, exec_leash_raises hslot tk ta h hfirst hk, leashed_gen .., leashed_gens .., leashed_mem ..⟩,
    exec_lrel_resolves hslot, exec_lqry_sends hslot ta, fun h hle => ?_, fun h hlt => ?_⟩
  · rw [exec_lpri_eq hslot h, if_neg (Nat.not_lt.mpr hle)]
  · rw [exec_lpri_eq hslot h, if_pos hlt]

end Sys2Proof.Machine

/-! # LAUNCH, QCLAIM, QPUB, CNTR, CANCEL, CFGL and CFGT fire (spec/20 R413 to R421). -/

namespace Sys2Proof.Machine

/-! ## A claim -/

@[simp] theorem cur_modQueue (s : State) (q : Nat) (f : Queue → Queue) : (s.modQueue q f).cur = s.cur := rfl

@[simp] theorem fire_claims (f : Frame) (i : Nat) : (f.fire i).claims = f.claims := rfl

@[simp] theorem send_claims (f : Frame) (k : Token) (ts : List Tgt) : (f.send k ts).claims = f.claims := by
  obtain ⟨slots, trap, hsend⟩ := send_sameBut f k ts
  rw [hsend]

/-- QCLAIM takes the next claim of its queue for the block in focus and sends it (R415). -/
def State.claimed (s : State) (qk : Nat) (ta : Tgt) : State :=
  let q := s.queue qk
  ((s.modQueue qk (fun x => { x with claim := q.claim + 1, owners := (q.claim, s.curSid) :: x.owners })).modCur
    (fun f => { f with claims := f.claims ++ [(s.fSlot, qk, q.claim)] })).finish (.val (BitVec.ofNat 64 (q.claim % 2 ^ 32))) [ta]

theorem claimed_queue (s : State) (qk : Nat) (ta : Tgt) : ((s.claimed qk ta).queue qk).claim = (s.queue qk).claim + 1 :=
  congrArg Queue.claim (queue_modQueue_same s qk _)

theorem claimed_claims (s : State) (qk : Nat) (ta : Tgt) :
    (s.claimed qk ta).cur.claims = s.cur.claims ++ [(s.fSlot, qk, (s.queue qk).claim)] := by
  simp [State.claimed, State.finish]

section
variable {s : State} {p : Pr} {l r : Word}

theorem exec_qclaim_claims (ta : Tgt) (h : s.ready p .l l r) (hq : s.queueOfJob l.toNat s.curJob = true)
    (hroom : (s.queue l.toNat).full = false) (hpm : s.pmHolds (l.toNat / 256) = false) (hjob : (s.job s.curJob).state = 1) :
    exec (.qclaim p ta) s = .next (s.claimed l.toNat ta) := by
  rw [exec_qclaim, execQclaim, fireAct_go h]
  simp only [opL_of_ready h (by decide), hq, hroom, hpm, hjob, bne_self_eq_false, Bool.or_self, Bool.not_true, Bool.false_eq_true,
    if_false, State.claimed]

theorem exec_qclaim_badParm (ta : Tgt) (h : s.ready p .l l r) (hq : s.queueOfJob l.toNat s.curJob = false) :
    exec (.qclaim p ta) s = .next (s.stopAt causeBadParm) := by
  rw [exec_qclaim, execQclaim, fireAct_go h]
  simp only [opL_of_ready h (by decide), hq, Bool.not_false, if_true]

/-! ## Words that act at their release -/

theorem exec_launch_resolves {ag : BitVec 5} (tk : BitVec 3) (h : s.ready p .lr l r)
    (hpacket : s.packetCheck ag.toNat l.toNat = (0, 0)) : exec (.launch p ag tk) s =
      .next (s.resolve (.rel (.launch ag.toNat l.toNat r.toNat tk.toNat) false false)) := by
  rw [exec_launch, execLaunch, fireSide_go h]
  simp only [opL_of_ready h (by decide), opR_of_ready h, hpacket, bne_self_eq_false, Bool.false_eq_true, if_false]

theorem exec_qpub_resolves (h : s.ready p .lr l r) :
    exec (.qpub p) s = .next (s.resolve (.rel (.qpub l.toNat r.toNat) false false)) := by
  rw [exec_qpub, execQpub, fireSide_go h, opL_of_ready h (by decide), opR_of_ready h]

theorem exec_cntr_resolves (h : s.ready p .lr l r) (hl : l.toNat < 1024) (hr : r ≠ 0) :
    exec (.cntr p) s = .next (s.resolve (.rel (.cntr l.toNat r) false false)) := by
  rw [exec_cntr, execCntr, fireSide_go h]
  simp only [opL_of_ready h (by decide), opR_of_ready h, ge_iff_le, if_neg (Nat.not_le.mpr hl), if_neg hr]

theorem exec_cancel_resolves {lev : Level} (h : s.ready p .l l r) (hl : l.toNat < 2 ^ levelWidth lev) :
    exec (.cancel p lev) s = .next (s.resolve (.cancel (levelCode lev) l.toNat)) := by
  rw [exec_cancel, execCancel, fireSide_go h]
  simp only [opL_of_ready h (by decide), ge_iff_le, if_neg (Nat.not_le.mpr hl)]

theorem exec_cfgl_resolves (n : BitVec 13) (h : s.ready p .lr l 0) :
    exec (.cfgl p n) s = .next (s.resolve (.rel (.cfgl l.toNat n.toNat) false true)) := by
  rw [exec_cfgl, execCfgl, fireSide_go h]
  simp only [opL_of_ready h (by decide), opR_of_ready h, if_true, Nat.add_zero]

theorem exec_cfgt_resolves (h : s.ready p .lr l r) :
    exec (.cfgt p) s = .next (s.resolve (.rel (.cfgt l r) false true)) := by
  rw [exec_cfgt, execCfgt, fireSide_go h, opL_of_ready h (by decide), opR_of_ready h]

end

/-- Settles O22: once ready and with its checks passed, each word resolves with what its tokens name. -/
theorem launchWords : Obligations.LaunchWords := by
  intro s p ag tk n ta l r
  exact ⟨exec_launch_resolves tk,
    fun h hq hroom hpm hjob => ⟨_, exec_qclaim_claims ta h hq hroom hpm hjob, claimed_queue .., claimed_claims ..⟩,
    exec_qclaim_badParm ta, exec_qpub_resolves, exec_cntr_resolves, fun h _ => exec_cancel_resolves h, exec_cfgl_resolves n,
    exec_cfgt_resolves⟩

end Sys2Proof.Machine

/-! # Comparators, twin mismatches and cold restarts (spec/22 R439 to R444). -/

namespace Sys2Proof.Machine

/-! ## Entries that are taken out -/

theorem mget_filter_key (p : Nat → Bool) (m : List Host.Cell) (a : Nat) :
    mget (m.filter (fun e => p e.1)) a = if p a then mget m a else emptyByte := by
  induction m with
  | nil => simp [mget]
  | cons e m ih =>
    obtain ⟨k, v⟩ := e
    by_cases ha : a = k
    · subst ha
      cases hp : p a <;> simp [mget, hp, ih]
    · cases hp : p k <;> simp [mget, hp, ha, ih]

theorem tget_filter_key_removed {α : Type} [Inhabited α] {p : Nat → Bool} {k : Nat} (t : Tab α) (hp : p k = false) :
    tget (t.filter (fun e => p e.1)) k = default := by
  induction t with
  | nil => rfl
  | cons e t ih =>
    obtain ⟨j, v⟩ := e
    cases hj : p j
    · rw [List.filter_cons_of_neg (by simp [hj]), ih]
    · have hne : k ≠ j := by
        rintro rfl
        simp [hp] at hj
      rw [List.filter_cons_of_pos (by simp [hj])]
      exact (if_neg hne).trans ih

/-! ## The comparator (R440) -/

theorem findPair_pairs {l : List MCell} {a b : MCell} (h : findPair l = some (a, b)) :
    twinCopyOf a = 0 ∧ twinCopyOf b = 1 ∧ pairKey a b = true := by
  obtain ⟨x, hx, hfound⟩ := List.exists_of_findSome?_eq_some h
  obtain ⟨y, hy, hxy⟩ := Option.map_eq_some_iff.mp hfound
  cases hxy
  have hsecond := List.find?_some hy
  simp only [List.mem_filter, Bool.and_eq_true, beq_iff_eq] at hx hsecond
  exact ⟨hx.2, hsecond⟩

section
variable {s : State} {cl : Nat}

theorem exec_comparatorPair_compares {a b : MCell} (h : findPair (tget s.eng.comps cl) = some (a, b)) :
    exec (.comparatorPair cl) s = .next (if exitEqual a.cell b.cell then s.exitPass cl a b else s.mismatch cl a) := by
  simp only [exec_comparatorPair, execComparatorPair, h]

theorem exec_twinTimeout_mismatches {a : MCell} (h : (tget s.eng.comps cl).find? (fun a =>
      !(tget s.eng.comps cl).any (fun b => twinCopyOf a != twinCopyOf b && pairKey a b)) = some a) :
    exec (.twinTimeout cl) s = .next (s.mismatch cl a) := by
  simp only [exec_twinTimeout, execTwinTimeout, h]

/-- The third mismatch of a graph cancels it. -/
theorem mismatch_cancels {x : MCell} {n : Nat} (hn : (s.graph x.who.job x.who.graph).mism + 1 = n) (hthird : 3 ≤ n) :
    s.mismatch cl x = (((((s.modGraph x.who.job x.who.graph (fun y => { y with mism := n })).bumpSdc (s.partOfCluster cl)).errRecord
      (s.partOfCluster cl) 4 3 cl 15 x.who.graph n).noteEnd x.who 4 0).cancelUnit 2 (graphKey x.who.job x.who.graph)) := by
  simp only [State.mismatch, hn, ge_iff_le, hthird, if_true, graphSdc]

/-! ## A cold restart (R442 to R444) -/

/-- The error record that a cold restart leaves. -/
def State.restartRecord (s : State) (cl : Nat) : State :=
  ((s.freeNumber 1).2.freeNumber 1).2.errRecord (s.partOfCluster cl) 6 0 cl 0 (s.freeNumber 1).1 ((s.freeNumber 1).2.freeNumber 1).1

/-- The graphs that live in a cluster. -/
def State.graphsIn (s : State) (cl : Nat) : Tab Graph := s.liveGraphs.filter (fun e => (imageClusters e.2.img).contains cl)

/-- The cluster is emptied, from a state in which its graphs have been dealt with. -/
def State.restartedFrom (t : State) (cl tick : Nat) : State :=
  ((((t.dropCluster cl tick).killCluster cl).voidConfig cl).zeroSram cl).settleHeads cl

variable (found : List (Nat × List Nat))

theorem coldRestart_no_graph (h : (s.restartRecord cl).graphsIn cl = []) :
    s.coldRestart cl found = (s.restartRecord cl).restartedFrom cl s.tickNo := by
  have hgs : (s.restartRecord cl).liveGraphs.filter (fun e => (imageClusters e.2.img).contains cl) = [] := h
  unfold State.restartRecord at hgs
  simp only [State.coldRestart, hgs, List.map_nil, List.foldl_nil]
  rfl

variable {found} {e : Nat × Graph} (h : (s.restartRecord cl).graphsIn cl = [e])
include h

theorem coldRestart_loses_graph (hnew : (s.restartRecord cl).newRegion cl e.1 e.2 found = none) :
    s.coldRestart cl found =
      ((s.restartRecord cl).graphLost (e.1 / 65536) (e.1 % 65536)).restartedFrom cl s.tickNo := by
  have hgs : (s.restartRecord cl).liveGraphs.filter (fun e => (imageClusters e.2.img).contains cl) = [e] := h
  unfold State.restartRecord at hgs hnew
  simp only [State.coldRestart, hgs, hnew, List.map_cons, List.map_nil, List.foldl_cons, List.foldl_nil]
  rfl

theorem coldRestart_moves_graph {cls : List Nat} (hnew : (s.restartRecord cl).newRegion cl e.1 e.2 found = some cls) :
    s.coldRestart cl found = ((s.restartRecord cl).replaceGraph e.1 cl cls).restartedFrom cl s.tickNo := by
  have hgs : (s.restartRecord cl).liveGraphs.filter (fun e => (imageClusters e.2.img).contains cl) = [e] := h
  unfold State.restartRecord at hgs hnew
  simp only [State.coldRestart, hgs, hnew, List.map_cons, List.map_nil, List.foldl_cons, List.foldl_nil]
  rfl

end

/-! ## What the restart leaves of a cluster -/

theorem zeroSram_byte (s : State) (cl a : Nat) :
    mget (s.zeroSram cl).mem.bytes a = if inCluster cl a then emptyByte else mget s.mem.bytes a := by
  have hread := mget_filter_key (fun b => !inCluster cl b) s.mem.bytes a
  refine hread.trans ?_
  cases inCluster cl a <;> rfl

theorem voidConfig_agn {cl k : Nat} (s : State) (hk : agnCl k = cl) : tget (s.voidConfig cl).acc.agns k = {} :=
  tget_filter_key_removed (p := fun j => agnCl j != cl) s.acc.agns (by simp [hk])

/-- Settles O52: each event's conditions select its branch, and reading a table after a restart skips what it takes out. -/
theorem reliabilityEvents : Obligations.ReliabilityEvents := by
  intro s cl
  refine ⟨fun a b h => ⟨findPair_pairs h, fun heq => ?_, fun hne => ?_⟩, fun a => exec_twinTimeout_mismatches,
    fun x => mismatch_cancels rfl, fun found => ?_, fun a ha => ?_, fun a ha => ?_, ?_⟩
  · rw [exec_comparatorPair_compares h, if_pos heq]
    rfl
  · rw [exec_comparatorPair_compares h, if_neg (by simp [hne])]
  · have hexec {t : State} (h : s.coldRestart cl found = t) : exec (.coldRestart cl found) s = .next t :=
      (exec_coldRestart ..).trans (next_congr h)
    exact ⟨fun h => hexec (coldRestart_no_graph found h), fun e h hnew => hexec (coldRestart_loses_graph h hnew),
      fun e cls h hnew => hexec (coldRestart_moves_graph h hnew)⟩
  · rw [zeroSram_byte, if_pos ha]
    rfl
  · rw [zeroSram_byte, if_neg (by simp [ha])]
  · rintro k r rfl hk
    exact voidConfig_agn s hk

end Sys2Proof.Machine

/-! # Bring-up, reset, the loader's image, measurement and attestation (spec/23 R460 to R464). -/

namespace Sys2Proof.Machine

/-! ## Images and measurements (R462, R463) -/

theorem fwImageOk_iff {i : FwImage} : fwImageOk i = true ↔
    BitVec.ofNat 256 (leNat (sha256 (leBytes 48 i.key.toNat))) = Config.fusedKey ∧ i.sig.length = 16224 ∧
    Config.slhVerify i.key (signedPart i) i.sig = true ∧ sha256 i.body = leBytes 32 i.digest.toNat ∧
    Config.fusedMin.toNat ≤ i.version.toNat := by
  simp only [fwImageOk, Bool.and_eq_true, beq_iff_eq, decide_eq_true_eq, and_assoc]

theorem measure_meas (s : State) (n : Nat) (d : List Byte) : tget (s.measure n d).sys.meas n =
    BitVec.ofNat 256 (leNat (sha256 (leBytes 32 (tget s.sys.meas n).toNat ++ sha256 d))) :=
  tget_tset_same ..

/-! ## Bring-up (R460, R461) -/

section
variable {s : State}

theorem exec_powerGood_boots (h : s.sys.bustate = 0) :
    exec .powerGood s = .next ((s.onSys (fun y => { y with bustate := 1 })).measure 0 Config.bootRom) := by
  simp only [exec_powerGood, execPowerGood, h, buReset, buVerify, if_true]

/-- While bring-up verifies, the firmware that all passes runs, and the link comes next. -/
theorem firmware_runs {img : FwImage} {qs : List FwImage} (h : s.sys.bustate = 1) (hok : ∀ x, x ∈ img :: qs → fwImageOk x = true) :
    s.firmware (img :: qs) = ((((s.measure 1 img.body).onSys (fun y => { y with bustate := 2, fwver := img.version })).onLnk
      (fun l => { l with ace := tset l.ace 0 aceHost })).quartersVerified qs).buCheck := by
  have hall : (img :: qs).all fwImageOk = true := List.all_eq_true.mpr hok
  simp only [State.firmware, h, hall, buVerify, buLink, Bool.not_true, Bool.false_eq_true, if_true, if_false]

theorem firmware_fails {img : FwImage} {qs : List FwImage} (h : s.sys.bustate = 1)
    (hbad : ∃ x, x ∈ img :: qs ∧ fwImageOk x = false) : s.firmware (img :: qs) = s.buFails := by
  have hall : (img :: qs).all fwImageOk = false := List.all_eq_false.mpr (by simpa using hbad)
  simp only [State.firmware, h, hall, buVerify, Bool.not_false, if_true]

theorem exec_stackCalibrated_marks {n : Nat} (hlo : 1 ≤ s.sys.bustate) (hhi : s.sys.bustate ≤ 4) (hn : n < 12) :
    exec (.stackCalibrated n) s = .next ((s.onSys (fun y => { y with caldone := y.caldone ||| (1#12 <<< n) })).buCheck) := by
  simp only [exec_stackCalibrated, execStackCalibrated, hlo, hhi, hn, and_self, decide_true, Bool.and_self, if_true]

/-- REDUCED is left exactly when every stack is calibrated and every quarter verified. -/
theorem buCheck_full_iff (h : s.sys.bustate = 3) :
    s.buCheck.sys.bustate = 4 ↔ s.sys.caldone = BitVec.allOnes 12 ∧ s.sys.qver = BitVec.allOnes 4 := by
  by_cases hall : s.sys.caldone = BitVec.allOnes 12 ∧ s.sys.qver = BitVec.allOnes 4
  · obtain ⟨hcal, hver⟩ := hall
    simp [State.buCheck, h, hcal, hver, buReduced, buFull]
  · rw [iff_false_right hall]
    have hstay : s.buCheck = s := if_neg (by simpa [h, buReduced] using hall)
    rw [hstay, h]
    decide

theorem exec_quarterInService_joins {n : Nat} (h : s.sys.bustate = 4) (hn : n < 4) (hver : s.sys.qver.getLsbD n = true) :
    exec (.quarterInService n) s = .next (s.onSys (fun y => { y with qup := y.qup ||| (1#4 <<< n) })) := by
  simp only [exec_quarterInService, execQuarterInService, h, hn, hver, buFull, decide_true, Bool.and_self, if_true]

theorem exec_loaderImageOffer_eq (img : FwImage) : exec (.loaderImageOffer img) s =
    .next (if fwImageOk img
      then (s.onSys (fun y => { y with loaderVer := img.version, loaderDig := img.digest })).measure 3 img.body else s) := by
  rw [exec_loaderImageOffer, execLoaderImageOffer]

/-! ## Attestation (R464) -/

/-- The running operation ends with its done word, and the next request starts. -/
theorem attDone_eq (s : State) (a x : Nat) : s.attDone a x = (s.sysWrite 0 0 (a + 16512) 0 loaderAgent [x]).2.onSys (fun y =>
    { y with attreq := y.attwait.head?, attwait := y.attwait.tail }) := by
  unfold State.attDone
  generalize s.sysWrite 0 0 (a + 16512) 0 loaderAgent [x] = r
  rfl

section
variable {op a : Nat} {ops : List Nat} (act : Nat → Nat → State → State) (h : s.sys.attreq = some (op, a)) (hop : op ∈ ops)
include h hop

/-- The request that is pending runs when its buffer lies in the host's window. -/
theorem attRun_runs (hwin : s.inHostWindow a 16520 = true) : s.attRun ops act = (act op a s).attDone a 0 := by
  simp only [State.attRun, h, List.contains_iff_mem.mpr hop, hwin, Bool.not_true, Bool.false_eq_true, if_false]

theorem attRun_refuses (hwin : s.inHostWindow a 16520 = false) : s.attRun ops act = s.attDone a 0x20 := by
  simp only [State.attRun, h, List.contains_iff_mem.mpr hop, hwin, Bool.not_true, Bool.not_false, Bool.false_eq_true, if_false,
    if_true]

end
end

/-- Settles O48: each event's conditions select its branch; the three attestation events share one run. -/
theorem trustEvents : Obligations.TrustEvents := by
  intro s n img
  refine ⟨fwImageOk_iff, exec_powerGood_boots, fun h => ⟨fun qs hok => ?_, fun qs hbad => ?_⟩, exec_stackCalibrated_marks,
    buCheck_full_iff, exec_quarterInService_joins, exec_deviceReset s, ?_, measure_meas s n, fun op a h => ⟨fun hwin => ?_, fun hwin => ?_⟩⟩
  · exact (exec_firmwareVerified ..).trans (next_congr (firmware_runs h hok))
  · exact ⟨_, (exec_firmwareVerified ..).trans (next_congr (firmware_fails h hbad)), rfl, rfl⟩
  · split
    next hok => rw [exec_loaderImageOffer_eq, if_pos hok]
    next hbad => rw [exec_loaderImageOffer_eq, if_neg hbad]
  · refine ⟨fun hop => ?_, fun hop => ?_, fun hop => ?_⟩
    · rw [exec_attReport, execAttReport, attRun_runs _ h (List.mem_singleton.mpr hop) hwin, attDone_eq]
    · rw [exec_attExtend, execAttExtend, attRun_runs _ h hop hwin, attDone_eq]
    · rw [exec_attCert, execAttCert, attRun_runs _ h (List.mem_singleton.mpr hop) hwin, attDone_eq]
  · refine ⟨fun hop => ?_, fun hop => ?_, fun hop => ?_⟩
    · rw [exec_attReport, execAttReport, attRun_refuses _ h (List.mem_singleton.mpr hop) hwin, attDone_eq]
    · rw [exec_attExtend, execAttExtend, attRun_refuses _ h hop hwin, attDone_eq]
    · rw [exec_attCert, execAttCert, attRun_refuses _ h (List.mem_singleton.mpr hop) hwin, attDone_eq]

end Sys2Proof.Machine

/-! # Collective cells at a switch box (spec/19 R381 to R384, spec/20 R393 to R395). -/

namespace Sys2Proof.Machine

/-! ## A cell at the switch box -/

/-- A cell of a collective that stands is acted on, and the collective settles. -/
theorem collCell_acts {s s1 : State} {cl i cop : Nat} {m : MCell} {c : Coll} (act : State → MCell → Nat → Coll → State)
    (htake : s.takeInbox cl 14 cop = some (m, s1)) (hcoll : s1.collOf m = some (i, c)) (hstands : c.aborted = false)
    (hpos : m.cell.pos = 0) {t : State} (hact : act s1 m i c = t) :
    s.collCell cl cop act = t.collSettle m.who.job m.who.graph i := by
  simp only [State.collCell, htake, hcoll, hstands, hpos, hact, bne_self_eq_false, Bool.false_eq_true, if_false]

/-! ## Broadcast (R382) -/

section
variable {s : State} {cl i : Nat} {m : MCell} {c : Coll} {w : Word} (hw : c.record = w)
include hw

theorem bcastAct_spreads (hside : m.cell.side = 0) (hkind : collKind w = 0) (hroot : s.cellRank m w = collRoot w) :
    s.bcastAct cl m i c = (((if m.snode = 0 then s.toOthers cl m i w m.cell else s).collGot m.who.job m.who.graph i
      (if m.cell.last then some (c.got + 1) else none)).collData m.who.job m.who.graph i m.cell.aux.toNat m.stamp m.cell).cellEnd
        cl m 0 m.stamp := by
  simp [State.bcastAct, hw, hside, hkind, hroot]

end

/-! ## Reduction (R383, R394) -/

/-- The contributions to one cell index that a node already holds. -/
def State.heldWith (s : State) (m : MCell) (i : Nat) : List MCell :=
  (s.coll m.who.job m.who.graph i).held.filter (fun y => y.cell.aux == m.cell.aux)

/-- The node holds no contribution to the cell index any more. -/
def State.dropHeld (s : State) (m : MCell) (i : Nat) : State :=
  s.modColl m.who.job m.who.graph i (fun y => { y with held := y.held.filter (fun z => !(z.cell.aux == m.cell.aux)) })

section
variable {s : State} {cl i n : Nat} {m : MCell} (w : Word) (out : State → MCell → State)
  (hnew : ∀ y ∈ s.heldWith m i, y.cell.itag ≠ m.cell.itag)
include hnew

/-- No contribution that is held is of the same rank. -/
theorem heldWith_any_eq_false : (s.heldWith m i).any (fun y => y.cell.itag == m.cell.itag) = false := by
  simpa using hnew

theorem nodeTake_waits (hmore : (s.heldWith m i).length + 1 < n) : s.nodeTake cl m i n w out =
    s.modColl m.who.job m.who.graph i (fun y => { y with held := y.held ++ [m] }) := by
  have hany := heldWith_any_eq_false hnew
  unfold State.heldWith at hany hmore
  simp only [State.nodeTake, hany, hmore, Bool.false_eq_true, if_false, if_true]

/-- The last contribution that a node waits for: the merged result goes on, and the contributions end. -/
theorem nodeTake_merges {r : MCell} (hlast : n ≤ (s.heldWith m i).length + 1)
    (hr : (s.dropHeld m i).collMerge m.who.job w (s.heldWith m i ++ [m]) = r) : s.nodeTake cl m i n w out =
      (s.heldWith m i ++ [m]).foldl (fun t y => t.cellEnd cl y 0 r.stamp) (out (s.dropHeld m i) r) := by
  have hany := heldWith_any_eq_false hnew
  subst hr
  unfold State.heldWith at hany hlast ⊢
  simp only [State.nodeTake, hany, Nat.not_lt.mpr hlast, Bool.false_eq_true, if_false, State.dropHeld]

end

section
variable {s : State} {cl i : Nat} {m : MCell} {c : Coll} {w : Word} (hw : c.record = w) (hkind : collReduces w = true)
  (hrank : s.cellRank m w < collRanks w) (hfits : s.collFits m.who.job w m.cell = true) (hring : collRing w = false)
  (htag : m.cell.itag.toNat = s.cellRank m w)
include hw hkind hrank hfits hring htag

/-- A contribution of this device goes to the leader of its group. -/
theorem credAct_sends (hown : m.snode = 0) (hlead : collLead w (s.cellRank m w) ≠ collRank w) : s.credAct cl m i c =
    (s.toRank cl m i (collLead w (s.cellRank m w)) m.cell).cellEnd cl m 0 m.stamp := by
  simp [State.credAct, hw, hkind, Nat.not_le.mpr hrank, hfits, hring, htag, hown, hlead]

/-- A contribution at the leader of its group is one input of the group's node. -/
theorem credAct_takes (hfrom : m.snode = 0 ∨ s.cellRank m w ≠ collRank w) (hlead : collLead w (s.cellRank m w) = collRank w) :
    s.credAct cl m i c = s.nodeTake cl m i (collFan w) w (fun st r => st.groupResult cl m i w r) := by
  simp [State.credAct, hw, hkind, Nat.not_le.mpr hrank, hfits, hring, htag, hfrom, hlead]

end

/-! ## Point to point (R395) -/

section
variable {s : State} {cl i : Nat} {m : MCell} {c : Coll} {w : Word} (hw : c.record = w) (hkind : collKind w = 3)
  (hdst : m.cell.cnt.toNat < collRanks w)
include hw hkind hdst

theorem csendAct_sends (haux : m.cell.aux.toNat < 32) (hrank : s.cellRank m w < collRanks w) (hfar : m.cell.cnt.toNat ≠ collRank w)
    (hown : m.snode = 0) :
    s.csendAct cl m i c = (s.toRank cl m i m.cell.cnt.toNat m.cell).cellEnd cl m 0 m.stamp := by
  simp [State.csendAct, hw, hkind, Nat.not_le.mpr hdst, Nat.not_le.mpr haux, Nat.not_le.mpr hrank, hfar, hown]

theorem csendAct_meets (haux : m.cell.aux.toNat < 32) (hrank : s.cellRank m w < collRanks w) (hhere : m.cell.cnt.toNat = collRank w) :
    s.csendAct cl m i c = s.p2pMeet cl m i c := by
  have hself : collRank w < collRanks w := hhere ▸ hdst
  simp [State.csendAct, hw, hkind, Nat.not_le.mpr haux, Nat.not_le.mpr hrank, hhere, Nat.not_le.mpr hself]

theorem crecvAct_meets (hown : m.snode = 0) : s.crecvAct cl m i c = s.p2pMeet cl m i c := by
  simp [State.crecvAct, hw, hkind, Nat.not_le.mpr hdst, hown]

end

/-- The partners that wait for a cell of a point to point collective. -/
def State.partners (s : State) (m : MCell) (c : Coll) : List MCell :=
  c.waits.filter (fun y => s.p2pKey c.record y == s.p2pKey c.record m)

/-- The data of a send go to the place that its receive names, and both cells end. -/
def State.meetPair (s : State) (cl : Nat) (m y : MCell) (i : Nat) (c : Coll) (snd rcv : MCell) : State :=
  let job := m.who.job
  let g := m.who.graph
  let t := max snd.stamp rcv.stamp
  ((((s.modColl job g i (fun z => { z with waits := z.waits.filter (fun a => a != y) })).collGot job g i
    (if snd.cell.last then some (c.got + 1) else none)).collData job g i rcv.cell.aux.toNat t snd.cell).cellEnd cl snd 0 t).cellEnd
      cl rcv 0 t

section
variable {s : State} {cl i : Nat} {m : MCell} {c : Coll}

theorem p2pMeet_waits (hnone : s.partners m c = []) : s.p2pMeet cl m i c =
    s.modColl m.who.job m.who.graph i (fun y => { y with waits := y.waits ++ [m] }) := by
  unfold State.partners at hnone
  simp only [State.p2pMeet, hnone, List.any_nil, Bool.false_eq_true, if_false]

theorem p2pMeet_meets {y : MCell} (hone : s.partners m c = [y]) (hcop : y.cell.cop ≠ m.cell.cop) : s.p2pMeet cl m i c =
    s.meetPair cl m y i c (if m.cell.cop = 0x391 then y else m) (if m.cell.cop = 0x391 then m else y) := by
  unfold State.partners at hone
  simp only [State.p2pMeet, hone, List.any_cons, List.any_nil, Bool.or_false, beq_eq_false_iff_ne.mpr hcop, Bool.false_eq_true, if_false]
  split <;> rfl

end

/-- Settles O37: the box acts on the cell of a collective that stands, by the branch that its record selects. -/
theorem collectiveCells : Obligations.CollectiveCells := by
  intro s s1 cl i m c job g w fin ends takes got hcoll hstands hpos
  have box {cop : Nat} (act : State → MCell → Nat → Coll → State) {t : State} (htake : takes cop) (hact : act s1 m i c = t) :
      Host.Outcome.next (s.collCell cl cop act) = (.next (fin t) : Res) :=
    next_congr (collCell_acts act htake hcoll hstands hpos hact)
  refine ⟨fun htake hside hkind hroot => ?_, fun htake hkind hrank hfits hring htag => ?_,
    fun htake hkind hdst haux hrank hfar hown => ?_, fun x hx htake hcop hkind hdst hmeet => ?_⟩
  · exact box _ htake (bcastAct_spreads rfl hside hkind hroot)
  · have hgo (hfrom hlead) := credAct_takes (cl := cl) (i := i) (c := c) rfl hkind hrank hfits hring htag hfrom hlead
    refine ⟨fun hown hlead => ?_, fun hfrom hlead hnew => ⟨fun hmore => ?_, fun hlast => ?_⟩⟩
    · exact box _ htake (credAct_sends rfl hkind hrank hfits hring htag hown hlead)
    · exact box _ htake ((hgo hfrom hlead).trans (nodeTake_waits w _ hnew hmore))
    · exact box _ htake ((hgo hfrom hlead).trans (nodeTake_merges w _ hnew hlast rfl))
  · exact box _ htake (csendAct_sends rfl hkind hdst haux hrank hfar hown)
  · have hexec {t : State} (hact : s1.p2pMeet cl m i c = t) : exec x.2 s = .next (fin t) := by
      simp only [List.mem_cons, List.not_mem_nil, or_false] at hx
      rcases hx with rfl | rfl
      · obtain ⟨hhere, haux, hrank⟩ := hmeet
        exact box _ htake ((csendAct_meets rfl hkind hdst haux hrank hhere).trans hact)
      · exact box _ htake ((crecvAct_meets rfl hkind hdst hmeet).trans hact)
    have hrecv : m.cell.cop = 0x391 ↔ x.1 = 0x391 := by
      rw [← hcop]
      exact BitVec.toNat_inj.symm
    refine ⟨fun hnone => hexec (p2pMeet_waits hnone), fun y hone hne => hexec ((p2pMeet_meets hone hne).trans ?_)⟩
    simp only [hrecv]
    rfl

end Sys2Proof.Machine

/-! # Barrier cells (spec/16 R329 to R335). -/

namespace Sys2Proof.Machine

/-! ## The cell that a combining store takes (R334) -/

theorem takeBarrier_cop {cop : Nat} {before l rest : List MCell} {m : MCell} (h : takeBarrier cop before l = some (m, rest)) :
    m.cell.cop.toNat = cop := by
  induction l generalizing before with
  | nil => cases h
  | cons x l ih =>
    rw [takeBarrier] at h
    split at h
    next htaken =>
      cases h
      exact of_decide_eq_true (Bool.and_eq_true_iff.mp htaken).1
    · exact ih h

/-- The operations on a barrier object, by their codes. -/
def barrierWords (cl : Nat) : List (Nat × Instr) :=
  [(0x290, .barv cl), (0x291, .barx cl), (0x292, .bexa cl), (0x293, .bkil cl), (0x294, .bexp cl)]

theorem exec_barrierWord {cl : Nat} {x : Nat × Instr} (hx : x ∈ barrierWords cl) (s : State) :
    exec x.2 s = .next (s.barrierCellAct cl x.1) := by
  simp only [barrierWords, List.mem_cons, List.not_mem_nil, or_false] at hx
  rcases hx with rfl | rfl | rfl | rfl | rfl
  · exact exec_barv ..
  · exact exec_barx ..
  · exact exec_bexa ..
  · exact exec_bkil ..
  · exact exec_bexp ..

theorem barrierWord_ge {cl : Nat} {x : Nat × Instr} (hx : x ∈ barrierWords cl) : 0x290 ≤ x.1 := by
  simp only [barrierWords, List.mem_cons, List.not_mem_nil, or_false] at hx
  rcases hx with rfl | rfl | rfl | rfl | rfl <;> simp

/-! ## What one event makes of an object (R330, R332) -/

section
variable {b d : Barrier} {m : MCell}

/-- Taking a member's entry changes neither whether the object is broken nor what waits at it. -/
theorem entry_keeps {i : Nat} (h : b.entry m = some (i, d)) : d.brk = b.brk ∧ d.held = b.held := by
  unfold Barrier.entry at h
  dsimp only at h
  split at h
  · cases h
    exact ⟨rfl, rfl⟩
  · split_ifs at h <;> cases h <;> exact ⟨rfl, rfl⟩

/-- A cell of a member's entry, and not of a weight: BARV and BARX without a count, BEXA and BKIL. -/
def ofMember (m : MCell) : Prop := m.cell.cop.toNat < 0x294 ∧ (0x292 ≤ m.cell.cop.toNat ∨ m.cell.cnt.toNat = 0)

theorem event_broken (h : b.brk = true) : b.event m = (b, .gone) := by
  simp only [Barrier.event, h, if_true]

variable (hopen : b.brk = false)
include hopen

theorem event_bexp (hcop : m.cell.cop.toNat = 0x294) : b.event m =
    ({ b with pend := b.pend + (m.cell.word 0).toNat, resv := b.resv - (m.cell.word 0).toNat, evt := true }, .done) := by
  simp only [Barrier.event, hopen, hcop, Bool.false_eq_true, if_false, if_true]

theorem event_weight (hcop : m.cell.cop.toNat = 0x290 ∨ m.cell.cop.toNat = 0x291) (hcnt : m.cell.cnt.toNat ≠ 0)
    (hfits : -(2 ^ 20 - 1 : Int) ≤ b.pend - m.cell.cnt.toNat) : b.event m =
      ({ b with pend := b.pend - m.cell.cnt.toNat, evt := true
                ostamp := if m.cell.cop.toNat = 0x290 then max b.ostamp m.stamp else b.ostamp }, .done) := by
  have hroom : ¬ b.pend - m.cell.cnt.toNat < -(pendLimit : Int) := Int.not_lt.mpr hfits
  rcases hcop with hcop | hcop <;> simp [Barrier.event, hopen, hcop, hcnt, hroom]

section
variable {i : Nat} (hmember : ofMember m) (hentry : b.entry m = some (i, d))
include hmember hentry

/-- What the event of a member's cell comes to, once its member has been found. -/
theorem event_member : b.event m =
    if m.cell.cop.toNat = 0x293 && !d.drop then ({ d with brk := true, evt := true }, .done)
    else if (d.members.getD i {}).arr then (d, .hold)
    else ({ d with
      members := listMod d.members i (fun e => { e with arr := true, xp := decide (0x292 ≤ m.cell.cop.toNat) }), evt := true
      ostamp := if m.cell.cop.toNat = 0x290 ∨ m.cell.cop.toNat = 0x292 then max d.ostamp m.stamp else d.ostamp }, .done) := by
  obtain ⟨hlt, hkind⟩ := hmember
  have hexp : m.cell.cop.toNat ≠ 0x294 := hlt.ne
  have hcount : ((m.cell.cop.toNat = 0x290 || m.cell.cop.toNat = 0x291) && m.cell.cnt.toNat != 0) = false := by
    rcases hkind with hge | hz
    · have h290 : m.cell.cop.toNat ≠ 0x290 := by omega
      have h291 : m.cell.cop.toNat ≠ 0x291 := by omega
      simp [h290, h291]
    · simp [hz]
  have hexits : (decide (m.cell.cop.toNat = 0x292) || decide (m.cell.cop.toNat = 0x293)) = decide (0x292 ≤ m.cell.cop.toNat) := by
    rw [← Bool.decide_or]
    exact decide_eq_decide.mpr (by omega)
  simp only [Barrier.event, hopen, hexp, hcount, hentry, hexits, Bool.false_eq_true, if_false, Bool.or_eq_true, decide_eq_true_eq]

theorem event_breaks (hcop : m.cell.cop.toNat = 0x293) (hdrop : d.drop = false) :
    b.event m = ({ d with brk := true, evt := true }, .done) := by
  rw [event_member hopen hmember hentry, if_pos (by simp [hcop, hdrop])]

variable (hdrop : m.cell.cop.toNat = 0x293 → d.drop = true)
include hdrop

theorem event_holds (harr : (d.members.getD i {}).arr = true) : b.event m = (d, .hold) := by
  rw [event_member hopen hmember hentry, if_neg (by simpa using hdrop), if_pos harr]

theorem event_arrives (harr : (d.members.getD i {}).arr = false) : b.event m =
    ({ d with
      members := listMod d.members i (fun e => { e with arr := true, xp := decide (0x292 ≤ m.cell.cop.toNat) }), evt := true
      ostamp := if m.cell.cop.toNat = 0x290 ∨ m.cell.cop.toNat = 0x292 then max d.ostamp m.stamp else d.ostamp }, .done) := by
  rw [event_member hopen hmember hentry, if_neg (by simpa using hdrop), if_neg (Bool.not_eq_true _ ▸ harr)]

end
end

/-! ## The phase completes (R331) -/

/-- The object after an event: its phase completes when every member has arrived and PEND is 0. -/
def Barrier.settled (d : Barrier) : Barrier :=
  if (d.members.filter (·.arr)).length = d.nmem ∧ d.pend = 0 then d.advance.1 else d

theorem Barrier.full_iff {d : Barrier} (hevt : d.evt = true) :
    d.full = true ↔ (d.members.filter (·.arr)).length = d.nmem ∧ d.pend = 0 := by
  simp only [Barrier.full, hevt, Barrier.narr, Bool.true_and, Bool.and_eq_true, beq_iff_eq]

/-! ## An event is applied to its object -/

@[simp] theorem barrier_modPort (s : State) (cl e k : Nat) (f : Port → Port) : (s.modPort cl e f).barrier k = s.barrier k := rfl
@[simp] theorem barrier_clearShort (s : State) (cl e age k : Nat) : (s.clearShort cl e age).barrier k = s.barrier k := rfl

theorem barrierEvents_nil (s : State) (cl k n : Nat) : s.barrierEvents cl k n [] = s := by
  cases n <;> rfl

section
variable {s : State} {cl k n : Nat} {d : Barrier} {m : MCell}

theorem barrierEvents_discards (h : (s.barrier k).event m = (d, .gone)) :
    s.barrierEvents cl k (n + 1) [m] = s.cellEnd cl m 0 m.stamp := by
  simp only [State.barrierEvents, h, barrierEvents_nil]

theorem barrierEvents_holds (h : (s.barrier k).event m = (d, .hold)) :
    s.barrierEvents cl k (n + 1) [m] = s.modBarrier k (fun _ => { d with held := d.held ++ [m] }) := by
  simp only [State.barrierEvents, h, barrierEvents_nil]

variable (h : (s.barrier k).event m = (d, .done)) (hheld : d.held = [])
include h hheld

theorem barrierEvents_breaks (hbrk : d.brk = true) :
    s.barrierEvents cl k (n + 1) [m] = (s.modBarrier k (fun _ => d)).cellEnd cl m 0 m.stamp := by
  have hsame : { d with held := [] } = d := by rw [← hheld]
  simp only [State.barrierEvents, h]
  rw [if_pos hbrk, hsame, hheld]
  exact barrierEvents_nil ..

theorem barrierEvents_applies (hbrk : d.brk = false) (hevt : d.evt = true) :
    s.barrierEvents cl k (n + 1) [m] = (s.modBarrier k (fun _ => d.settled)).cellEnd cl m 0 m.stamp := by
  have hfull := Barrier.full_iff hevt
  by_cases hf : d.full = true
  · have hadv : d.advance.2 = [] := hheld
    rw [Barrier.settled, if_pos (hfull.mp hf)]
    simp only [State.barrierEvents, h, hbrk, hf, hadv, Bool.false_eq_true, if_false, if_true, List.nil_append, barrierEvents_nil]
  · rw [Barrier.settled, if_neg (mt hfull.mpr hf)]
    simp only [State.barrierEvents, h, hbrk, hf, Bool.false_eq_true, if_false, barrierEvents_nil]

end

/-! ## A barrier cell acts -/

/-- A combining store's next cell of an operation, for an object of its own, in the form that the operations ask for. -/
structure State.TakesBarrier (s : State) (cl cop k : Nat) (m : MCell) (rest : List MCell) : Prop where
  takes : takeBarrier cop [] (s.port cl 10).inbox = some (m, rest)
  object : cl * 256 + m.cell.aux.toNat = k
  used : (s.barrier k).used = true
  aux : m.cell.aux.toNat < 256
  pos : m.cell.pos = 0
  itag : m.cell.itag.toNat < 2048
  run : m.cell.run = 0

/-- The cell has left its port. -/
def State.barrierTaken (s : State) (cl : Nat) (rest : List MCell) : State := s.modPort cl 10 (fun p => { p with inbox := rest })

/-- The events that an act has room for after its cell's own one. -/
def Barrier.furtherEvents (b : Barrier) : Nat := (b.held.length + 2) * (b.held.length + 1) + b.held.length + 1

theorem Barrier.furtherEvents_succ (b : Barrier) : (b.held.length + 2) * (b.held.length + 2) = b.furtherEvents + 1 := by
  rw [Barrier.furtherEvents]
  ring

section
variable {s : State} {cl cop k : Nat} {m : MCell} {rest : List MCell} {d : Barrier} (h : s.TakesBarrier cl cop k m rest)
include h

theorem barrierCellAct_applies {a : Applied} (hev : (s.barrier k).event m = (d, a)) (ha : a ≠ .hold) :
    s.barrierCellAct cl cop = (s.barrierTaken cl rest).barrierEvents cl k ((s.barrier k).furtherEvents + 1) [m] := by
  obtain ⟨htake, rfl, hused, haux, hpos, hitag, hrun⟩ := h
  simp only [State.barrierCellAct, htake, Nat.mod_eq_of_lt haux, hused, hpos, hrun, ge_iff_le, Nat.not_le.mpr haux,
    Nat.not_le.mpr hitag, hev, Barrier.furtherEvents_succ, bne_self_eq_false, decide_false, Bool.not_true, Bool.or_self, Bool.false_eq_true, if_false]
  rfl

theorem barrierCellAct_stalls {z : Nat} (hev : (s.barrier k).event m = (d, .hold)) (hz : s.takeStall cl 10 m.who 0 0 = some z) :
    s.barrierCellAct cl cop = ((s.barrierTaken cl rest).clearShort cl 10 m.age).barrierEvents cl k
      ((s.barrier k).furtherEvents + 1) [{ m with stall := z }] := by
  obtain ⟨htake, rfl, hused, haux, hpos, hitag, hrun⟩ := h
  simp only [State.barrierCellAct, htake, Nat.mod_eq_of_lt haux, hused, hpos, hrun, ge_iff_le, Nat.not_le.mpr haux,
    Nat.not_le.mpr hitag, hev, hz, Barrier.furtherEvents_succ, bne_self_eq_false, decide_false, Bool.not_true, Bool.or_self, Bool.false_eq_true,
    if_false]
  rfl

theorem barrierCellAct_discards (hev : (s.barrier k).event m = (d, .gone)) :
    s.barrierCellAct cl cop = (s.barrierTaken cl rest).cellEnd cl m 0 m.stamp := by
  exact (barrierCellAct_applies h hev (by decide)).trans (barrierEvents_discards hev)

theorem barrierCellAct_breaks (hev : (s.barrier k).event m = (d, .done)) (hheld : d.held = []) (hbrk : d.brk = true) :
    s.barrierCellAct cl cop = ((s.barrierTaken cl rest).modBarrier k (fun _ => d)).cellEnd cl m 0 m.stamp := by
  exact (barrierCellAct_applies h hev (by decide)).trans (barrierEvents_breaks hev hheld hbrk)

theorem barrierCellAct_settles (hev : (s.barrier k).event m = (d, .done)) (hheld : d.held = []) (hbrk : d.brk = false)
    (hevt : d.evt = true) :
    s.barrierCellAct cl cop = ((s.barrierTaken cl rest).modBarrier k (fun _ => d.settled)).cellEnd cl m 0 m.stamp := by
  exact (barrierCellAct_applies h hev (by decide)).trans (barrierEvents_applies hev hheld hbrk hevt)

theorem barrierCellAct_holds {z : Nat} (hev : (s.barrier k).event m = (d, .hold)) (hz : s.takeStall cl 10 m.who 0 0 = some z) :
    s.barrierCellAct cl cop = ((s.barrierTaken cl rest).clearShort cl 10 m.age).modBarrier k (fun _ =>
      { d with held := d.held ++ [{ m with stall := z }] }) := by
  exact (barrierCellAct_stalls h hev hz).trans (barrierEvents_holds hev)

end

/-- Settles O31: the event that the cell's operation is for its object, then the phase that it may complete. -/
theorem barrierCells : Obligations.BarrierCells := by
  intro s cl m rest x hx c k b s1 n p arrived phase applied htake hused haux hpos hitag hrun
  have hact : s.TakesBarrier cl x.1 k m rest := ⟨htake, rfl, hused, haux, hpos, hitag, hrun⟩
  have hexec {t : State} (h : s.barrierCellAct cl x.1 = t) : exec x.2 s = .next t := (exec_barrierWord hx s).trans (next_congr h)
  have hsettles {d : Barrier} (hev : b.event m = (d, .done)) (hheld : d.held = []) (hbrk : d.brk = false) (hevt : d.evt = true) :
      applied d := hexec (barrierCellAct_settles hact hev hheld hbrk hevt)
  have hcop : m.cell.cop.toNat = x.1 := takeBarrier_cop htake
  have hmember (hlt : x.1 < 0x294) (hkind : 0x292 ≤ x.1 ∨ n = 0) : ofMember m := by
    rw [ofMember, hcop]
    exact ⟨hlt, hkind⟩
  refine ⟨fun hbrk => hexec (barrierCellAct_discards hact (event_broken hbrk)),
    fun hopen hheld => ⟨fun hbexp => ?_, fun hlt hn hfits => ?_, fun i d hlt hkind hentry harr hdrop => ?_,
      fun i d hbkil hentry hdrop => ?_⟩, fun i d z hopen hlt hkind hentry harr hdrop hz => ?_⟩
  · exact hsettles (event_bexp hopen (hcop.trans hbexp)) hheld hopen rfl
  · have hweight : m.cell.cop.toNat = 0x290 ∨ m.cell.cop.toNat = 0x291 := by
      have hge := barrierWord_ge hx
      omega
    have hev := event_weight hopen hweight hn hfits
    rw [hcop] at hev
    exact hsettles hev hheld hopen rfl
  · obtain ⟨hbrk, hsame⟩ := entry_keeps hentry
    have hev := event_arrives hopen (hmember hlt hkind) hentry (hcop ▸ hdrop) harr
    rw [hcop] at hev
    exact hsettles hev (hsame.trans hheld) (hbrk.trans hopen) rfl
  · obtain ⟨-, hsame⟩ := entry_keeps hentry
    have hkil : 0x293 = x.1 := hbkil.symm
    have hev := event_breaks hopen (hmember (by omega) (by omega)) hentry (hcop.trans hbkil) hdrop
    exact hexec (barrierCellAct_breaks hact hev (hsame.trans hheld) rfl)
  · exact hexec (barrierCellAct_holds hact (event_holds hopen (hmember hlt hkind) hentry (hcop ▸ hdrop) harr) hz)

end Sys2Proof.Machine

/-! # The special-function engine (spec/20 R386 to R391). -/

namespace Sys2Proof.Machine

/-! ## Elementwise operations (R387) -/

theorem exec_elementwise {cl : Nat} {x : Nat × Instr × ((FV → Nat) → FV → Nat)}
    (hx : x ∈ [(0x180, Instr.sexp2 cl, fnExp2), (0x181, .slog2 cl, fnLog2), (0x182, .srcp cl, fnRcp), (0x183, .srsq cl, fnRsqrt),
      (0x184, .stanh cl, fnTanh), (0x185, .ssin cl, fnSin), (0x186, .scos cl, fnCos), (0x187, .sgelu cl, fnGelu)]) (s : State) :
    exec x.2.1 s = .next (s.sfStep cl x.1 x.2.2) := by
  simp only [List.mem_cons, List.not_mem_nil, or_false] at hx
  rcases hx with rfl | rfl | rfl | rfl | rfl | rfl | rfl | rfl
  · exact exec_sexp2 ..
  · exact exec_slog2 ..
  · exact exec_srcp ..
  · exact exec_srsq ..
  · exact exec_stanh ..
  · exact exec_ssin ..
  · exact exec_scos ..
  · exact exec_sgelu ..

section
variable {s s1 : State} {cl cop : Nat} {m : MCell} {f g : FFmt} {rt : Route} {r : Rnd}

/-- The results of an elementwise operation: the function of each present lane, rounded once. -/
def sfLanes (fn : (FV → Nat) → FV → Nat) (q : Rounding) (f g : FFmt) (c : Cell) : Lanes :=
  (List.range (c.run.toNat + 1)).map (fun j =>
    if c.present j then some (fn (q.round g (c.itag.toNat + j) 0) (fdec f (c.elem f.width j))) else none)

/-- The cell of a result. -/
def sfCell (rt : Route) (c : Cell) (g : FFmt) (lanes : Lanes) : Cell :=
  routeCell rt c c.itag.toNat c.run.toNat c.last g.width lanes (lanes.any Option.isNone)

theorem sfStep_sends {fn : (FV → Nat) → FV → Nat} {q : Rounding} (hwait : s.resultWaits cl 8 = false) (hcell : s.sfCellBad m = 0)
    (hcnt : m.cell.cnt = 0) (hrt : s.route cl 8 m.cell.ctx.toNat (m.cell.aux.toNat / 4096) = rt)
    (hroute : s.sfRouteBad m.who.job rt = 0) (hf : s.cellFmt m.who.job m.cell.tid.toNat = some (.flt f))
    (hg : s.cellFmt m.who.job rt.tid = some (.flt g)) (hr : rndOf rt.rnd = some r)
    (hq : q = { mode := r, sat := false, seed := tgetD 0 s.eng.seeds (engCtx cl 8 m.cell.ctx.toNat) })
    (htake : s.takeInbox cl 8 cop = some (m, s1)) (hok : s.cellOk cl m.who.job (sfCell rt m.cell g (sfLanes fn q f g m.cell)) = true)
    (hfits : (sfLanes fn q f g m.cell).length * g.width ≤ 1024) :
    s.sfStep cl cop fn = ((s1.timeStart (engCtx cl 8 m.cell.ctx.toNat)).2).sendResult cl 24 m
      (sfCell rt m.cell g (sfLanes fn q f g m.cell))
      { key := engCtx cl 8 m.cell.ctx.toNat, num := (s1.timeline (engCtx cl 8 m.cell.ctx.toNat)).next
        cts := s.startStamp (engCtx cl 8 m.cell.ctx.toNat) m.stamp
        cmpl := routeCmpl rt m.cell m.cell.itag.toNat m.cell.run.toNat, ends := [(m.who, m.report, m.cell.itag)] } := by
  subst hq
  unfold sfCell sfLanes at hok
  unfold sfLanes at hfits
  simp only [State.sfStep, sfPort, hwait, htake, hcell, hcnt, hrt, hroute, hf, hg, hr, Option.getD_some, floatOf, hok,
    Nat.not_lt.mpr hfits, decide_false, bne_self_eq_false, Bool.not_true, Bool.or_self, Bool.false_eq_true, if_false]
  rfl

end

/-- Settles O27: the eight operations differ in their function alone. -/
theorem specialFunctions : Obligations.SpecialFunctions := by
  intro s s1 cl m rt f g r c key q p hwait hcell hcnt hrt hroute hf hg hr x hx htake lanes out hok hfits
  exact (exec_elementwise hx s).trans
    (next_congr (sfStep_sends hwait hcell hcnt hrt.symm hroute hf hg hr rfl htake hok hfits))

/-! ## Row operations (R388 to R391) -/

theorem exec_rowOperation {cl : Nat} {x : Nat × Instr} (hx : x ∈ [(0x188, Instr.rowsm cl), (0x189, .lnorm cl), (0x18A, .rmsn cl)])
    (s : State) : exec x.2 s = .next (s.rowStep cl x.1) := by
  simp only [List.mem_cons, List.not_mem_nil, or_false] at hx
  rcases hx with rfl | rfl | rfl
  · exact exec_rowsm ..
  · exact exec_lnorm ..
  · exact exec_rmsn ..

/-- The row with one more cell. -/
def SfRow.join (r : SfRow) (m : MCell) : SfRow := { r with cells := r.cells ++ [{ m with stall := 0 }] }

section
variable {s s1 : State} {cl cop : Nat} {m : MCell} {r : SfRow} {f : FFmt}
  (htake : s.takeInbox cl 8 cop = some (m, s1)) (hpos : m.cell.pos = 0) (hrun : m.cell.run = 0)
  (hrow : (s.sfRows cl).find? (fun y => rowOf y m.cell) = some r) (hlive : r.dead = false)
  (hf : s.cellFmt m.who.job m.cell.tid.toNat = some (.flt f)) (hsf : sfFmt (.flt f) = true)
  (hsame : ∀ y ∈ r.cells, s.cellFmt y.who.job y.cell.tid.toNat = some (.flt f))
include htake hpos hrun hrow hlive hf hsf hsame

theorem rowStep_gap (hgap : m.cell.aux.toNat % 4096 ≠ r.cells.length) : s.rowStep cl cop = s1.rowFail cl r m 0x51 := by
  have hall : r.cells.all (fun x => s.cellFmt x.who.job x.cell.tid.toNat == some (.flt f)) = true :=
    List.all_eq_true.mpr fun y hy => beq_iff_eq.mpr (hsame y hy)
  simp only [State.rowStep, sfPort, htake, hpos, hrun, hrow, hlive, hf, hsf, hall, bne_self_eq_false, Bool.or_self,
    Option.map_some, Option.getD_some, Bool.not_true, Bool.false_eq_true, if_false, bne_iff_ne.mpr hgap, if_true]

section
variable (hnext : m.cell.aux.toNat % 4096 = r.cells.length) (hindex : r.cells.length < 8192 / (1024 / f.width))
  (hcount : (r.cells.map (fun y => cellCount y.cell (1024 / f.width))).foldl (· + ·) (cellCount m.cell (1024 / f.width)) ≤ 8192)
  (hroom : ((s.sfRows cl).map (fun y => y.cells.length)).foldl (· + ·) 0 < 512)
include hnext hindex hcount hroom

/-- The cell joins its row; what follows turns on LAST. -/
theorem rowStep_joins : s.rowStep cl cop =
    if !m.cell.last then (s1.putRow cl (r.join m)).clearShort cl 8 m.age
    else if s.resultWaits cl 8 then s
    else (s1.putRow cl (r.join m)).rowFinish cl (r.join m) := by
  have hall : r.cells.all (fun x => s.cellFmt x.who.job x.cell.tid.toNat == some (.flt f)) = true :=
    List.all_eq_true.mpr fun y hy => beq_iff_eq.mpr (hsame y hy)
  simp only [State.rowStep, sfPort, delayCells, htake, hpos, hrun, hrow, hlive, hf, hsf, hall, hnext, EFmt.bits,
    Nat.not_le.mpr hindex, Nat.not_lt.mpr hcount, Nat.not_le.mpr hroom, decide_false,
    bne_self_eq_false, Bool.or_self, Option.map_some, Option.getD_some, Option.isSome_some, Bool.true_or, Bool.not_true,
    Bool.false_eq_true, if_false, if_true, SfRow.join]

end
end

section
variable {s : State} {cl : Nat} {r : SfRow} {f g : FFmt}

/-- The elements of a row's cells, each a lane of its width. -/
def SfRow.elems (r : SfRow) (f : FFmt) : List (List (Option FV)) :=
  r.cells.map (fun x => (List.range (1024 / f.width)).map (fun j =>
    if x.cell.present j then some (fdec f (x.cell.elem f.width j)) else none))

/-- The cells of a completed row's results, and the state after their draws of stochastic rounding. -/
def SfRow.results (r : SfRow) (s : State) (rt : Route) (f g : FFmt) : List Cell × State :=
  (r.cells.zip (rowValues r.cop (r.cells.headD {}).cell.cnt.toNat (r.elems f))).foldl (fun (acc : List Cell × State) x =>
    let (ls, st) := acc.2.rowLanes g ((rndOf rt.rnd).getD .rne) x.2
    (acc.1 ++ [routeCell rt { (r.cells.headD {}).cell with aux := x.1.cell.aux } r.itag 0 x.1.cell.last g.width ls
      (ls.any Option.isNone)], st)) ([], s)

theorem rowModOk_of {cop mod : Nat} (h : if cop = 0x188 then mod < 2 else mod < 64) : rowModOk cop mod = true := by
  unfold rowModOk
  split at h <;> simp_all

theorem rowFinish_sends {m : MCell} {rt : Route} (hm : r.cells.headD {} = m)
    (hrt : s.route cl 8 r.ctx (m.cell.aux.toNat / 4096) = rt)
    (hf : s.cellFmt m.who.job m.cell.tid.toNat = some (.flt f)) (hg : s.cellFmt m.who.job rt.tid = some (.flt g))
    (hroute : s.sfRouteBad m.who.job rt = 0) (hmod : rowModOk r.cop m.cell.cnt.toNat = true)
    (hok : ∀ c ∈ (r.results s rt f g).1, s.cellOk cl m.who.job c = true) (hfits : 1024 / f.width * g.width ≤ 1024) :
    s.rowFinish cl r = (List.range (r.results s rt f g).1.length).foldl (fun st i => st.sendOut cl 24 {
      cell := (r.results s rt f g).1.getD i {}
      stamp := s.startStamp (engCtx cl 8 r.ctx) (r.cells.foldl (fun n x => max n x.stamp) 0)
      agent := m.agent, who := m.who, report := .engine
      prod := if i + 1 = (r.results s rt f g).1.length then
        some (r.prod cl (s.startStamp (engCtx cl 8 r.ctx) (r.cells.foldl (fun n x => max n x.stamp) 0)) rt m.cell) else none })
      ((r.results s rt f g).2.dropRow cl r) := by
  subst hm
  have hall := List.all_eq_true.mpr hok
  unfold SfRow.results SfRow.elems at hall
  simp only [State.rowFinish, sfPort, hrt, hf, hg, hroute, hmod, Option.getD_some, floatOf, hall, Nat.not_lt.mpr hfits,
    decide_false, bne_self_eq_false, Bool.not_true, Bool.or_self, Bool.false_eq_true, if_false]
  rfl

end

/-- Settles O28: `rowStep_gap` and `rowStep_joins` for a cell of a row, `rowFinish_sends` for a completed row. -/
theorem rowOperations : Obligations.RowOperations := by
  refine ⟨?_, ?_⟩
  · intro s s1 cl m r f x hx c k joined htake hpos hrun hrow hlive hf hsf hsame
    refine ⟨fun hgap => (exec_rowOperation hx s).trans
      (next_congr (rowStep_gap htake hpos hrun hrow hlive hf hsf hsame hgap)), ?_⟩
    intro hnext hindex hcount hroom
    have joins := rowStep_joins htake hpos hrun hrow hlive hf hsf hsame hnext hindex hcount hroom
    refine ⟨fun hlast => ?_, fun hlast hwait => ?_⟩
    · rw [exec_rowOperation hx, joins, hlast]; rfl
    · rw [exec_rowOperation hx, joins, hlast, hwait]; rfl
  · intro s cl r f g m lead rt mod k xs ys t cells hf hg hroute hmod hok hfits
    exact rowFinish_sends rfl rfl hf hg hroute (rowModOk_of hmod) hok hfits

end Sys2Proof.Machine

/-! # UCIe flits and the training of a module (spec/21 R426 to R430, spec/22 R445 to R448). -/

namespace Sys2Proof.Machine

/-! ## What arrives at an end (R428) -/

section
variable {s base u : State} {die m typ : Nat} {f : Flit} {own : Bool} {act : State → Option State}

/-- The next flit of a module is taken and acted on. -/
theorem ucRecv_takes (hnext : s.ucNext base die m typ f own) (htyp : typ ≠ 7) (hact : act (base.ucTaken die m f) = some u) :
    s.ucRecv die m typ f own act = u := by
  obtain ⟨hup, hcrc, htype, hseq, hheld⟩ := hnext
  obtain ⟨hhas, rfl⟩ | ⟨hhas, rfl, hfresh⟩ := hheld
  · simp only [State.ucRecv, ge_iff_le, Nat.not_le.mpr hup, hcrc, htype, hseq, hhas, htyp, bne_self_eq_false, Bool.false_and,
      Bool.not_true, Bool.false_eq_true, if_false, if_true]
    rw [State.ucTaken, hseq] at hact
    rw [hact]; rfl
  · simp only [State.ucRecv, ge_iff_le, Nat.not_le.mpr hup, hcrc, htype, hseq, hhas, hfresh, htyp, bne_self_eq_false,
      Bool.false_and, Bool.true_or, Bool.not_true, Bool.false_eq_true, if_false, if_true]
    rw [State.ucTaken, hseq] at hact
    rw [hact]; rfl

/-- Behind a NAK that is still on its way, a flit that fails its CRC is only counted and recorded. -/
theorem ucCrc_nakked (hnak : (s.ucMod die m).nakked = true) : s.ucCrc die m =
    (s.bumpCrc (if die < 4 then s.partOf die else 0)).errRecord (if die < 4 then s.partOf die else 0) 3 6 63 m 0 0 := by
  simp only [State.ucCrc, hnak, if_true]

theorem ucRecv_broken (hup : (s.ucMod die m).state < 2) (hcrc : ucCrcOk f = false) :
    s.ucRecv die m typ f own act = s.ucCrc die m := by
  simp only [State.ucRecv, ge_iff_le, Nat.not_le.mpr hup, hcrc, Bool.not_false, if_false, if_true]

/-- A tag in its window is taken with it. -/
theorem ucTag_some {rk tag : Nat} {act : State → State} (h : s.winTake (ucWinKey die rk (ucFar die m).1 0) tag = some u) :
    s.ucTag die m rk tag act = act u := by
  simp only [State.ucTag, h]

theorem ucTag_none {rk tag : Nat} {act : State → State} (h : s.winTake (ucWinKey die rk (ucFar die m).1 0) tag = none) :
    s.ucTag die m rk tag act = s.ucDrop die m := by
  simp only [State.ucTag, h]

/-- A cell of no remote combining request that is for a cluster of the die goes into its mesh. -/
theorem ucCellIn_arrives {x : MCell} {rest : List MCell} (hrk : ucRk f = 0)
    (hx : takeFirst (fun (x : MCell) => x.cell == ucCell f && x.stamp % 2 ^ 48 == ucStamp f && x.rk == ucRk f && x.rseq == ucRseq f)
      (s.ucMod (ucFar die m).1 (ucFar die m).2).cells = some (x, rest)) (hhere : clusterQuarter x.cell.dcl.toNat = die) :
    s.ucCellIn die m f = some ((s.modUc (ucFar die m).1 (ucFar die m).2 (fun y => { y with cells := rest })).onLnk (fun l =>
      { l with mesh := tmod l.mesh x.cell.dcl.toNat (fun y => y ++ [x]) })) := by
  have htake : s.ucTakeCell die m f = (some x, s.modUc (ucFar die m).1 (ucFar die m).2 (fun y => { y with cells := rest })) := by
    simp only [State.ucTakeCell, hx]
  simp only [State.ucCellIn, htake, hrk, State.ucOnward, hhere, if_true]

/-! ## Training (R447) -/

theorem ucTrained_down {rep : Nat} (hstate : (s.ucMod die m).state = 2) : s.ucTrained die m false false rep =
    (s.modUcBoth die m (fun x => { x with state := 3, repaired := rep % 256 })).errRecord
      (if die < 4 then s.partOf die else 0) 8 6 63 m 0 0 := by
  simp only [State.ucTrained, hstate, bne_self_eq_false, Bool.not_false, Bool.and_self, Bool.false_eq_true, if_false, if_true]

/-- The half of a module that stays in use after a training: 0 where both do. -/
def ucHalf (u : UcMod) (lo hi : Bool) : Nat :=
  if lo && hi && u.try64 then 0 else if lo && hi then u.half else if lo then 0 else 1

/-- Both ends of a module after a training with a working half. -/
def State.ucRestarted (s : State) (die m : Nat) (lo hi : Bool) (rep : Nat) : State :=
  s.modUcBoth die m (fun x => { x.restart with
    state := if lo && hi && (s.ucMod die m).try64 then 0 else 1, half := ucHalf (s.ucMod die m) lo hi
    wide := lo && hi && (s.ucMod die m).try64, repaired := rep % 256 })

theorem ucTrained_up {lo hi : Bool} {rep : Nat} (hstate : (s.ucMod die m).state = 2) (hup : lo = true ∨ hi = true) :
    s.ucTrained die m lo hi rep =
      ((if (s.ucMod die m).wide && !(lo && hi && (s.ucMod die m).try64)
        then (s.ucRestarted die m lo hi rep).errRecord (if die < 4 then s.partOf die else 0) 7 6 63 m 0 0
        else s.ucRestarted die m lo hi rep).pumpUc die m).pumpUc (ucFar die m).1 (ucFar die m).2 := by
  have hany : (!lo && !hi) = false := by
    rcases hup with rfl | rfl
    · rfl
    · exact Bool.and_false _
  simp only [State.ucTrained, hstate, hany, bne_self_eq_false, Bool.false_eq_true, if_false]
  rfl

end

/-! ## The instructions -/

section
variable {s base u : State} {die m : Nat} {f : Flit}

theorem exec_ucieCell_arrives {x : MCell} {rest : List MCell} (hnext : s.ucNext base die m 1 f false) (hrk : ucRk f = 0)
    (hx : takeFirst (fun (x : MCell) => x.cell == ucCell f && x.stamp % 2 ^ 48 == ucStamp f && x.rk == ucRk f && x.rseq == ucRseq f)
      ((base.ucTaken die m f).ucMod (ucFar die m).1 (ucFar die m).2).cells = some (x, rest))
    (hhere : clusterQuarter x.cell.dcl.toNat = die) : exec (.ucieCell die m f) s =
      .next (((base.ucTaken die m f).modUc (ucFar die m).1 (ucFar die m).2 (fun y => { y with cells := rest })).onLnk (fun l =>
        { l with mesh := tmod l.mesh x.cell.dcl.toNat (fun y => y ++ [x]) })) :=
  next_congr (ucRecv_takes hnext (by decide) (ucCellIn_arrives hrk hx hhere))

theorem exec_ucieMreq_fresh (hnext : s.ucNext base die m 2 f true)
    (htag : (base.ucTaken die m f).winTake (ucWinKey die 0 (ucFar die m).1 0) (bits (ucWord f 2) 16 16) = some u) :
    exec (.ucieMreq die m f) s = .next (u.ucMreq die m f) :=
  next_congr (ucRecv_takes hnext (by decide) (congrArg some (ucTag_some htag)))

theorem exec_ucieMreq_stale (hnext : s.ucNext base die m 2 f true)
    (htag : (base.ucTaken die m f).winTake (ucWinKey die 0 (ucFar die m).1 0) (bits (ucWord f 2) 16 16) = none) :
    exec (.ucieMreq die m f) s = .next ((base.ucTaken die m f).ucDrop die m) :=
  next_congr (ucRecv_takes hnext (by decide) (congrArg some (ucTag_none htag)))

theorem exec_ucieMrsp_fresh (hnext : s.ucNext base die m 3 f true)
    (htag : (base.ucTaken die m f).winTake (ucWinKey die 3 (ucFar die m).1 0) (ucWord f 0 % 65536) = some u) :
    exec (.ucieMrsp die m f) s = .next u :=
  next_congr (ucRecv_takes hnext (by decide) (congrArg some (ucTag_some htag)))

theorem exec_ucieXlat_next (hnext : s.ucNext base die m 4 f true) :
    exec (.ucieXlat die m f) s = .next ((base.ucTaken die m f).ucXlat die f) :=
  next_congr (ucRecv_takes hnext (by decide) rfl)

theorem exec_ucieSys_next (hnext : s.ucNext base die m 5 f true) : exec (.ucieSys die m f) s = .next (base.ucTaken die m f) :=
  next_congr (ucRecv_takes hnext (by decide) rfl)

theorem exec_ucieTime_next (hnext : s.ucNext base die m 6 f true) : exec (.ucieTime die m f) s = .next (base.ucTaken die m f) :=
  next_congr (ucRecv_takes hnext (by decide) rfl)

theorem exec_ucieCtrl_heard (hup : (s.ucMod die m).state < 2) (hcrc : ucCrcOk f = true) (htype : ucType f = 0) :
    exec (.ucieCtrl die m f) s = .next (s.ucHeard die m f) := by
  simp only [exec_ucieCtrl, execUcieCtrl, ge_iff_le, Nat.not_le.mpr hup, hcrc, htype, bne_self_eq_false, Bool.not_true,
    Bool.false_eq_true, if_false]

theorem exec_ucieCtrl_broken (hup : (s.ucMod die m).state < 2) (hcrc : ucCrcOk f = false) :
    exec (.ucieCtrl die m f) s = .next (s.ucCrc die m) := by
  simp only [exec_ucieCtrl, execUcieCtrl, ge_iff_le, Nat.not_le.mpr hup, hcrc, Bool.not_false, if_false, if_true]

/-- A flit of any type that fails its CRC. -/
theorem exec_ucieFlit_broken {i : Instr} (hi : i ∈ [Instr.ucieCell die m f, .ucieMreq die m f, .ucieMrsp die m f,
      .ucieXlat die m f, .ucieSys die m f, .ucieTime die m f, .ucieCtrl die m f])
    (hup : (s.ucMod die m).state < 2) (hcrc : ucCrcOk f = false) : exec i s = .next (s.ucCrc die m) := by
  simp only [List.mem_cons, List.not_mem_nil, or_false] at hi
  rcases hi with rfl | rfl | rfl | rfl | rfl | rfl | rfl
  case inr.inr.inr.inr.inr.inr => exact exec_ucieCtrl_broken hup hcrc
  all_goals exact next_congr (ucRecv_broken hup hcrc)

end

/-- Settles O51: `ucRecv_takes` for a flit that is next, `ucCrc_nakked` for a broken one, `ucTrained_down` and `ucTrained_up`
for a training. -/
theorem ucieEvents : Obligations.UcieEvents := by
  intro s base die m f t
  refine ⟨fun hnext hrk x rest hx hhere => exec_ucieCell_arrives hnext hrk hx hhere,
    fun hnext u htag => exec_ucieMreq_fresh hnext htag,
    fun hnext htag => exec_ucieMreq_stale hnext htag,
    fun hnext u htag => exec_ucieMrsp_fresh hnext htag,
    fun hnext => exec_ucieXlat_next hnext,
    fun hnext => exec_ucieSys_next hnext,
    fun hnext => exec_ucieTime_next hnext,
    exec_ucieCtrl_heard, ?_, ?_, rfl⟩
  · intro i hi hup hcrc hnak root
    rw [exec_ucieFlit_broken hi hup hcrc, ucCrc_nakked hnak]
  · intro hstate lo hi rep root full half s1
    refine ⟨?_, fun hup => next_congr (ucTrained_up hstate hup)⟩
    rintro rfl rfl
    exact next_congr (ucTrained_down hstate)

end Sys2Proof.Machine

/-! # The combining store (spec/16 R342 to R347, spec/19 R385). -/

namespace Sys2Proof.Machine

/-- The operations that a vector-form cell can ask for: they send no reply. -/
theorem exec_combiningVector {cl : Nat} {x : Nat × Instr} (hx : x ∈ [(0x280, Instr.cadd cl), (0x281, .cfadd cl),
      (0x282, .cmax cl), (0x283, .cmin cl), (0x284, .cand cl), (0x285, .cor cl), (0x286, .cxor cl), (0x28A, .resc cl)])
    (s : State) : exec x.2 s = .next (s.combStep cl x.1) ∧ isReturning x.1 = false := by
  simp only [List.mem_cons, List.not_mem_nil, or_false] at hx
  rcases hx with rfl | rfl | rfl | rfl | rfl | rfl | rfl | rfl
  · exact ⟨exec_cadd .., rfl⟩
  · exact ⟨exec_cfadd .., rfl⟩
  · exact ⟨exec_cmax .., rfl⟩
  · exact ⟨exec_cmin .., rfl⟩
  · exact ⟨exec_cand .., rfl⟩
  · exact ⟨exec_cor .., rfl⟩
  · exact ⟨exec_cxor .., rfl⟩
  · exact ⟨exec_resc .., rfl⟩

/-! ## What a cell asks for (R342) -/

theorem combForm_scalar {c : Cell} (hrun : c.run = 0) (hpos : c.pos = 2) (hcop : c.cop.toNat ≠ 0x28A) : combForm c = some false := by
  simp only [combForm, hrun, hpos, hcop, bne_self_eq_false, Bool.false_eq_true, if_false, if_true]
  rfl

theorem combForm_vector {c : Cell} (hrun : c.run = 0) (hpos : c.pos = 0) (hret : isReturning c.cop.toNat = false)
    (hside : c.cop.toNat = 0x28A → c.side = 0) : combForm c = some true := by
  have hresc : (c.cop.toNat == 0x28A && c.side != 0) = false := by
    by_cases hcop : c.cop.toNat = 0x28A
    · simp [hside hcop]
    · simp [hcop]
  simp only [combForm, hrun, hpos, hret, hresc, bne_self_eq_false, Bool.or_self, Bool.false_eq_true, if_false, if_true]

/-- Only a scalar-form cell is an ATOM's. -/
theorem isAtomCell_vector {m : MCell} (hpos : m.cell.pos = 0) : isAtomCell m = false := by
  simp [isAtomCell, hpos]

/-! ## A cell that is delivered while nothing is held -/

section
variable {s s1 : State} {cl cop : Nat} {m : MCell} (hfree : (s.port cl 10).stalls = [])
  (htake : s.takeInbox cl 10 cop = some (m, s1))
include hfree htake

/-- A cell that does not merge is performed. -/
theorem combStep_performs {v : Bool} (hform : combForm m.cell = some v) (halone : v = true → m.cell.cnt.toNat < 2) :
    s.combStep cl cop = State.combPerform s s1 cl m [] := by
  have hone : (v && decide (m.cell.cnt.toNat ≥ 2)) = false := by
    cases v with
    | false => rfl
    | true => simpa using halone rfl
  simp only [State.combStep, hfree, List.find?_nil, htake, hform, hone, Bool.false_eq_true, if_false]

/-- A cell of several contributions opens its merge. -/
theorem combStep_opens {job k : Nat} (hform : combForm m.cell = some true) (hcnt : 2 ≤ m.cell.cnt.toNat)
    (htag : s.tagJob cl m.cell.ctx.toNat = some job) (hstall : s.takeStall cl 10 m.who m.cell.itag.toNat 1 = some k) :
    s.combStep cl cop = (((s1.clearShort cl 10 m.age).putMerge cl
      { cell := { m with stall := k }, n := 1, age := s.tickNo }).tickUp) := by
  simp only [State.combStep, hfree, List.find?_nil, htake, hform, ge_iff_le, hcnt, decide_true, Bool.and_self, if_true,
    State.combMerge, htag, Port.merging, State.mergeOpen, hstall]

end

/-! ## One operation (R343 to R345) -/

section
variable {s s1 s2 : State} {cl job t : Nat} {m : MCell} {rt : Route}

/-- The state in which the operation of a cell is counted. -/
def State.combStarted (s : State) (cl : Nat) (c : Cell) : State := (s.timeStart (engCtx cl 10 c.ctx.toNat)).2

/-- The timestamp at which the operation of a cell starts. -/
def State.combStart (s : State) (cl : Nat) (m : MCell) : Nat := s.startStamp (engCtx cl 10 m.cell.ctx.toNat) m.stamp

/-- What ends with the operation of a cell. -/
def State.combProd (s : State) (cl : Nat) (m : MCell) (cmpl : Option Cell) (t : Nat) : Prod :=
  { key := engCtx cl 10 m.cell.ctx.toNat, num := (s.timeline (engCtx cl 10 m.cell.ctx.toNat)).next, cts := t, cmpl := cmpl,
    ends := if isAtomCell m then [] else [(m.who, m.report, m.cell.itag)] }

variable (htag : s.tagJob cl m.cell.ctx.toNat = some job) (hgo : s.gate m.who.job (waiterCell m) = .go)
include htag hgo

/-- A scalar-form cell whose reply, if it has one, is an ATOM's. -/
theorem combPerform_scalar {old : Nat} (hpos : m.cell.pos = 2) (hok : scalarOk m = true)
    (hrs : bitOf (m.cell.word 4).toNat 63 = isReturning m.cell.cop.toNat) (hagain : (s1.combStarted cl m.cell).undefinedAgain m = false)
    (hout : (s1.combStarted cl m.cell).combScalar cl job m.agent (s.combStart cl m) m.cell false = .out (some old) t 0 0 s2) :
    State.combPerform s s1 cl m [] =
      (if isAtomCell m then s2.combEnd cl m (some old) t else s2).endNow cl 26 m (s1.combProd cl m none t) := by
  have hscalar : (m.cell.pos == 0) = false := by rw [hpos]; rfl
  have hno : (isReturning m.cell.cop.toNat && !isReturning m.cell.cop.toNat) = false := Bool.and_not_self _
  unfold State.combStarted at hagain hout
  unfold State.combStart at hout
  simp only [State.combPerform, htag, hgo, hscalar, hok, hrs, hno, hagain, hout, Bool.not_false, Bool.not_true, Bool.true_and,
    Bool.false_and, Bool.and_false, Bool.or_self, Bool.false_eq_true, if_false, bne_self_eq_false, State.combPost, if_true]
  cases hatom : isAtomCell m <;> simp [hatom, State.combProd, State.timeStart]

section
variable (hpos : m.cell.pos = 0) (hrt : s.route cl 10 m.cell.ctx.toNat (m.cell.aux.toNat / 4096) = rt) (hv : rt.v = true)
include hpos hrt hv

/-- A vector-form cell of a route that forwards. -/
theorem combPerform_forwards (hfwd : rt.fwd = true) (hok : (s1.combStarted cl m.cell).cellOk cl job (forwardCell rt m.cell) = true) :
    State.combPerform s s1 cl m [] = (s1.combStarted cl m.cell).sendOut cl 26 {
      cell := forwardCell rt m.cell, stamp := s.combStart cl m, agent := m.agent, who := m.who, report := .engine
      prod := some (s1.combProd cl m (routeCmpl rt m.cell m.cell.itag.toNat 0) (s.combStart cl m)) } := by
  have hvector : (m.cell.pos == 0) = true := by rw [hpos]; rfl
  unfold State.combStarted at hok
  simp only [State.combPerform, htag, hgo, hvector, hrt, hv, hfwd, hok, Bool.not_true, Bool.true_or, Bool.false_and, Bool.and_self,
    Bool.and_false, Bool.false_eq_true, if_false, if_true]
  simp [isAtomCell_vector hpos, State.combProd, State.combStarted, State.combStart, State.timeStart]

/-- A vector-form cell applied here. -/
theorem combPerform_vector (hfwd : rt.fwd = false) (hagain : (s1.combStarted cl m.cell).undefinedAgain m = false)
    (hout : (s1.combStarted cl m.cell).combVector cl job rt.dagn m.agent (s.combStart cl m) m.cell false = .out none t 0 0 s2) :
    State.combPerform s s1 cl m [] =
      s2.endNow cl 26 m (s1.combProd cl m (routeCmpl rt m.cell m.cell.itag.toNat 0) t) := by
  have hvector : (m.cell.pos == 0) = true := by rw [hpos]; rfl
  unfold State.combStarted at hagain hout
  unfold State.combStart at hout
  simp only [State.combPerform, htag, hgo, hvector, hrt, hv, hfwd, hagain, hout, Bool.not_true, Bool.true_or, Bool.false_and,
    Bool.and_false, Bool.false_eq_true, if_false, if_true, bne_self_eq_false, State.combPost]
  simp [isAtomCell_vector hpos, State.combProd, State.timeStart]

end
end

/-! ## The access to memory (R343, R344) -/

section
variable {s s3 : State} {cl job wid start old t : Nat} {c : Cell} {f : EFmt} {ag : Agn} {r : AgnRec}

/-- An access is not before its operation's start. -/
theorem start_le_of_modPieces {root : Nat} {ps : List (Place × Nat)} {g : Nat → Nat}
    (hmod : s.modPieces root start wid ps g = .ok (old, t, s3)) : start ≤ t := by
  unfold State.modPieces at hmod
  dsimp only at hmod
  split at hmod
  · cases hmod
  · split at hmod
    · cases hmod
    · cases hmod
      exact le_foldl_max_init _ _ _

/-- One element, in one access. -/
theorem combElems_single {root cmp v : Nat} {ps : List (Place × Nat)}
    (hmod : s.modPieces root start wid ps (fun x => combOp c.cop.toNat f x v cmp) = .ok (old, t, s3)) :
    s.combElems root start wid c.cop.toNat f cmp false [{ pieces := ps, v := v }] = (some old, t, 0, s3) := by
  simp only [State.combElems, Bool.false_eq_true, if_false, hmod, Nat.max_eq_left (start_le_of_modPieces hmod)]

theorem combScalar_out {ps : List (Place × Nat)} (hag : s.agn (agnKey cl c.ctx.toNat ((c.word 3).toNat % 32)) = ag)
    (hr : agnRec ag.words = r) (hcheck : s.combAgnCheck cl r = 0) (hf : s.cellFmt job r.tid = some f) (hesz : r.esz = 3 ∨ r.esz = 4)
    (hbits : f.bits = r.ebits) (hfits : combFits c.cop.toNat f (tblk (s.tensor job r.tid) != 0) = true)
    (hmap : s.laneMap cl ag.core job r true [some (c.word 0).toNat] = { lanes := [some ps] })
    (hmod : s.modPieces (s.partOfCluster cl) start wid ps
      (fun x => combOp c.cop.toNat f x (c.word 1).toNat (c.word 2).toNat) = .ok (old, t, s3)) :
    s.combScalar cl job wid start c false =
      .out (some old) t 0 0 (s3.combFill cl job r [{ pieces := ps, v := (c.word 1).toNat }]) := by
  have hsize : (r.esz == 3 || r.esz == 4) = true := by simpa using hesz
  simp only [State.combScalar, hag, hr, hcheck, hf, hsize, hbits, hfits, hmap, List.filterMap_cons, List.filterMap_nil, id_eq,
    List.flatten_cons, List.flatten_nil, List.append_nil, combElems_single hmod, bne_self_eq_false, Bool.not_true, Bool.or_self,
    Bool.false_eq_true, if_false]

theorem combVector_resc {dagn : Nat} {ps : List (Option (List (Place × Nat)))} (hcop : c.cop.toNat = 0x28A)
    (hag : s.agn (agnKey cl c.ctx.toNat dagn) = ag) (hr : agnRec ag.words = r) (hcheck : s.combAgnCheck cl r = 0)
    (hf : s.cellFmt job r.tid = some (.flt fp32)) (hc : s.cellFmt job c.tid.toNat = some (.flt fp32))
    (hmap : s.laneMap cl ag.core job r true ((List.range 34).map (fun i => some (c.aux.toNat % 4096 * 40 + i))) = { lanes := ps })
    (hmod : s.modPieces (s.partOfCluster cl) start wid ((ps.filterMap id).flatten)
      (fun x => tripleNumber (rescMerge (tripleWords 34 x) (cellTriple c))) = .ok (old, t, s3)) :
    s.combVector cl job dagn wid start c false =
      .out none t 0 0 (s3.combFill cl job r [{ pieces := (ps.filterMap id).flatten, v := 0 }]) := by
  have hfits (scaled : Bool) : combFits 0x28A (.flt fp32) scaled = true := rfl
  simp only [State.combVector, hcop, hag, hr, hcheck, hf, hc, hfits, hmap, hmod, bne_self_eq_false, Bool.not_true, Bool.or_self,
    Bool.false_eq_true, if_false, if_true]

end

/-! ## The two forms -/

section
variable {s s1 s3 : State} {cl job old t cop : Nat} {m : MCell} (hfree : (s.port cl 10).stalls = [])
  (htag : s.tagJob cl m.cell.ctx.toNat = some job) (hgo : s.gate m.who.job (waiterCell m) = .go)
  (hcop : m.cell.cop.toNat = cop) (htake : s.takeInbox cl 10 cop = some (m, s1))
  (hagain : (s1.combStarted cl m.cell).undefinedAgain m = false)
include hfree htag hgo hcop htake hagain

theorem combStep_scalar {f : EFmt} {ps : List (Place × Nat)} {ag : Agn} {r : AgnRec} (hresc : cop ≠ 0x28A)
    (hrun : m.cell.run = 0) (hpos : m.cell.pos = 2) (hok : scalarOk m = true)
    (hrs : bitOf (m.cell.word 4).toNat 63 = isReturning m.cell.cop.toNat)
    (hag : (s1.combStarted cl m.cell).agn (agnKey cl m.cell.ctx.toNat ((m.cell.word 3).toNat % 32)) = ag)
    (hr : agnRec ag.words = r) (hcheck : (s1.combStarted cl m.cell).combAgnCheck cl r = 0)
    (hf : (s1.combStarted cl m.cell).cellFmt job r.tid = some f) (hesz : r.esz = 3 ∨ r.esz = 4) (hbits : f.bits = r.ebits)
    (hfits : combFits m.cell.cop.toNat f (tblk ((s1.combStarted cl m.cell).tensor job r.tid) != 0) = true)
    (hmap : (s1.combStarted cl m.cell).laneMap cl ag.core job r true [some (m.cell.word 0).toNat] = { lanes := [some ps] })
    (hmod : (s1.combStarted cl m.cell).modPieces ((s1.combStarted cl m.cell).partOfCluster cl) (s.combStart cl m) m.agent ps
      (fun y => combOp cop f y (m.cell.word 1).toNat (m.cell.word 2).toNat) = .ok (old, t, s3)) :
    s.combStep cl cop = (if isAtomCell m
      then (s3.combFill cl job r [{ pieces := ps, v := (m.cell.word 1).toNat }]).combEnd cl m (some old) t
      else s3.combFill cl job r [{ pieces := ps, v := (m.cell.word 1).toNat }]).endNow cl 26 m (s1.combProd cl m none t) := by
  subst hcop
  rw [combStep_performs hfree htake (combForm_scalar hrun hpos hresc) (fun h => nomatch h)]
  exact combPerform_scalar htag hgo hpos hok hrs hagain (combScalar_out hag hr hcheck hf hesz hbits hfits hmap hmod)

theorem combStep_resc {rt : Route} {ps : List (Option (List (Place × Nat)))} {ag : Agn} {r : AgnRec} (hresc : cop = 0x28A)
    (hpos : m.cell.pos = 0) (hform : combForm m.cell = some true) (hcnt : m.cell.cnt.toNat < 2)
    (hrt : s.route cl 10 m.cell.ctx.toNat (m.cell.aux.toNat / 4096) = rt) (hv : rt.v = true) (hfwd : rt.fwd = false)
    (hag : (s1.combStarted cl m.cell).agn (agnKey cl m.cell.ctx.toNat rt.dagn) = ag)
    (hr : agnRec ag.words = r) (hcheck : (s1.combStarted cl m.cell).combAgnCheck cl r = 0)
    (hf : (s1.combStarted cl m.cell).cellFmt job r.tid = some (.flt fp32))
    (hc : (s1.combStarted cl m.cell).cellFmt job m.cell.tid.toNat = some (.flt fp32))
    (hmap : (s1.combStarted cl m.cell).laneMap cl ag.core job r true
      ((List.range 34).map (fun i => some (m.cell.aux.toNat % 4096 * 40 + i))) = { lanes := ps })
    (hmod : (s1.combStarted cl m.cell).modPieces ((s1.combStarted cl m.cell).partOfCluster cl) (s.combStart cl m) m.agent
      ((ps.filterMap id).flatten) (fun x => tripleNumber (rescMerge (tripleWords 34 x) (cellTriple m.cell))) = .ok (old, t, s3)) :
    s.combStep cl cop = (s3.combFill cl job r [{ pieces := (ps.filterMap id).flatten, v := 0 }]).endNow cl 26 m
      (s1.combProd cl m (routeCmpl rt m.cell m.cell.itag.toNat 0) t) := by
  rw [combStep_performs hfree htake hform (fun _ => hcnt)]
  exact combPerform_vector htag hgo hpos hrt hv hfwd hagain
    (combVector_resc (hcop.trans hresc) hag hr hcheck hf hc hmap hmod)

end

/-- What ends with a vector-form cell: it is no ATOM's. -/
theorem combProd_vector {s : State} {cl t : Nat} {m : MCell} {cmpl : Option Cell} (hpos : m.cell.pos = 0) :
    s.combProd cl m cmpl t = { key := engCtx cl 10 m.cell.ctx.toNat, num := (s.timeline (engCtx cl 10 m.cell.ctx.toNat)).next,
                               cts := t, cmpl := cmpl, ends := [(m.who, m.report, m.cell.itag)] } := by
  simp only [State.combProd, isAtomCell_vector hpos, Bool.false_eq_true, if_false]

/-- Settles O30: `combStep_scalar` for the scalar form, whose operations differ in `combOp` alone; `combPerform_forwards`,
`combStep_opens` and `combStep_resc` for the vector form. -/
theorem combiningScalar : Obligations.CombiningScalar := by
  constructor
  · intro s s1 s3 cl job old t m f ps c key start st ag r w g v cmp fadd p s4 done go hfree hrun hpos htag hgo hok hrs hagain
      hcheck hf hesz hbits hfits hmap
    have applies (cop : Nat) (i : Instr) (new : Nat → Nat) (hi : exec i s = .next (s.combStep cl cop)) (hresc : cop ≠ 0x28A)
        (hnew : new = fun y => combOp cop f y (m.cell.word 1).toNat (m.cell.word 2).toNat) : go cop i new := by
      subst hnew
      intro hcop htake hmod
      exact hi.trans (next_congr (combStep_scalar hfree htag hgo hcop htake hagain hresc hrun hpos hok hrs rfl rfl hcheck hf hesz
        hbits hfits hmap hmod))
    exact ⟨applies 0x280 _ _ (exec_cadd cl s) (by decide) rfl, applies 0x281 _ _ (exec_cfadd cl s) (by decide) rfl,
      applies 0x282 _ _ (exec_cmax cl s) (by decide) rfl, applies 0x283 _ _ (exec_cmin cl s) (by decide) rfl,
      applies 0x284 _ _ (exec_cand cl s) (by decide) rfl, applies 0x285 _ _ (exec_cor cl s) (by decide) rfl,
      applies 0x286 _ _ (exec_cxor cl s) (by decide) rfl, applies 0x287 _ _ (exec_cxch cl s) (by decide) rfl,
      applies 0x288 _ _ (exec_ccas cl s) (by decide) rfl, applies 0x289 _ _ (exec_cfaa cl s) (by decide) rfl⟩
  · intro s s1 cl job m rt c key start st p hrun hpos htag hrt x hx hcop hside htake hfree
    obtain ⟨hi, hret⟩ := exec_combiningVector hx s
    have hform : combForm m.cell = some true := combForm_vector hrun hpos (hcop ▸ hret) (fun h => hside (hcop.symm.trans h))
    have hprod (t : Nat) : s1.combProd cl m (routeCmpl rt m.cell m.cell.itag.toNat 0) t = p t := combProd_vector hpos
    refine ⟨?_, ?_, ?_⟩
    · intro hcnt hgo hv hfwd hok
      rw [hi, combStep_performs hfree htake hform (fun _ => hcnt), combPerform_forwards htag hgo hpos hrt.symm hv hfwd hok, hprod]
      rfl
    · intro k hcnt hstall
      exact hi.trans (next_congr (combStep_opens hfree htake hform hcnt htag hstall))
    · intro old t s3 ps hresc hcnt hgo hv hfwd hagain _ ag r hcheck hf hc hmap hmod
      rw [hi, combStep_resc hfree htag hgo hcop htake hagain hresc hpos hform hcnt hrt.symm hv hfwd rfl rfl hcheck hf hc hmap
        hmod, hprod]
      rfl

end Sys2Proof.Machine
